-- ==== Sys2Proof/Word.lean ====
section
/-!
DEFINITION. The word types of the TZA3 architecture and their plainest arithmetic (R3: bit 0 is the
least significant bit, memory is little-endian).
-/

namespace Sys2Proof

abbrev Byte := BitVec 8
abbrev W16 := BitVec 16
abbrev W32 := BitVec 32
abbrev W64 := BitVec 64
/-- A lane instruction word or a clause header (R3, R316). -/
abbrev W96 := BitVec 96
/-- Bits of a scalar register number, s0 to s63 (R6). -/
abbrev SReg := BitVec 6

end Sys2Proof
end

