-- ==== Sys2Proof/Syntax.lean ====
section
/-!
DEFINITION. The syntax of the machine: one inductive `Instr` with one constructor for each row of the table of
operations and events. A row is one of three kinds: a scalar instruction (its operand fields, R310), a lane
instruction (its 96-bit word's fields, R316), or an event (what the outside world, or another unit of the device,
contributes to that whole and indivisible step). The payload types of the events stand before it.
-/

namespace Sys2Proof

/-! ### Lane words -/

/-- The fields of a lane instruction besides LOP (R316), under the manual's own names. -/
structure LaneWord where
  dst  : BitVec 8
  sa   : BitVec 8
  sb   : BitVec 8
  sc   : BitVec 8
  ka   : BitVec 2
  kb   : BitVec 2
  kc   : BitVec 2
  la   : Bool
  kpa  : Bool
  lb   : Bool
  kpb  : Bool
  lc   : Bool
  kpc  : Bool
  msk  : BitVec 3
  mnot : Bool
  ty   : BitVec 4
  rm   : BitVec 3
  fs   : BitVec 3
  cw   : Bool
  cnd  : BitVec 4
  mod  : BitVec 9
  imm  : BitVec 16
deriving DecidableEq, Repr

/-- Word 1 of DRAY, less its zero bits 19:16 (R425). -/
structure DrayWord where
  bar    : BitVec 4
  cnt    : Bool
  flag   : BitVec 4
  fv     : Bool
  cls    : BitVec 2
  rowoff : BitVec 16
deriving DecidableEq, Repr

/-! ### Time, power and management -/

/-- The four time states (R16). -/
inductive TimeState where
  | free | locked | holdover | degraded
deriving DecidableEq, Repr

/-- A PTP message as the time servo sees it (R15): its domain, whether its master offers only peer delay, whether it says
instead that the master is lost (no announcement in time, R18), and the offset to TAI and the bound it yields, in ns. -/
structure PtpMsg where
  domain    : Nat
  peerDelay : Bool
  lost      : Bool
  offset    : Int
  bound     : Nat
deriving DecidableEq, Repr

/-- A TIMEX flit (R18): the device time at which it left the peer, the peer's time state and its U. -/
structure TimexMsg where
  stamp  : W64
  tstate : TimeState
  u      : Nat
deriving DecidableEq, Repr

/-- What may cause a trip (R20, R22): a die junction or an HBM stack at a temperature in °C, or a main input at a voltage in mV for
so many ns. -/
inductive TripCause where
  | junction (die : BitVec 4) (t : Nat)
  | hbm (stack : BitVec 4) (t : Nat)
  | mainInput (mv ns : Nat)
deriving DecidableEq, Repr

/-- A temperature reading crossing a limit of R20, in °C. -/
inductive ThermalReading where
  | junction (die : BitVec 4) (t : Nat)
  | hbm (stack : BitVec 4) (t : Nat)
deriving DecidableEq, Repr

/-- The sensors that the controller reads every millisecond (R270); the error counters are the machine's own. -/
structure Sensors where
  mainW    : Nat               -- power and current of the main input
  mainA    : Nat
  auxW     : Nat               -- and of the auxiliary input
  auxA     : Nat
  junction : List Nat          -- per die, in °C
  hbm      : List Nat          -- per HBM stack, in °C
  droop    : List Nat          -- per die: droop events in the last millisecond
  bias     : List Nat          -- per laser of ELS0 to ELS3: bias current, in % of its end-of-life limit
deriving DecidableEq, Repr

/-- The five firmware components (R274). -/
inductive FwComponent where
  | mc | cp | sec | emul | hbmb
deriving DecidableEq, Repr

/-- A firmware update by PLDM type 5 (R274): whether its signature verifies, its security version, its digest. -/
structure FwUpdate where
  comp     : FwComponent
  sigOk    : Bool
  secVer   : Nat
  digest   : W64
deriving DecidableEq, Repr

/-- An SPDM request to the responder (R275, R276). -/
inductive SpdmReq where
  | getMeasurement (index : Nat)
  | getCertificate (slot : Nat)
  | challenge (slot : Nat)
  | keyExchange (slot : Nat)
  | keyUpdate
  | ideKeySet (stream : Nat) (enable : Bool)
deriving DecidableEq, Repr

/-- A PLDM type 2 request (R263, R269, R270, R271, R274). -/
inductive PldmReq where
  | writeRascfg (v : W32)
  | writeThreshold (input level value : Nat)
  | raiseMinVersion (comp : FwComponent) (v : Nat)
  | readLog (index : Nat)
  | readSensor (index : Nat)
deriving DecidableEq, Repr

/-! ### Storage faults -/

/-- A place that can hold poisoned data (R264, R266). -/
inductive PoisonLoc where
  | sector (pa : Nat)                                   -- a 32-byte sector of local memory, by its PA
  | vreg (group reg lane : Nat)                         -- a lane of a vector register
  | tile (team handle element : Nat)                    -- an element of a tile
  | acc (group handle element : Nat)                    -- an element of an accumulator tile
  | sreg (group reg : Nat)                              -- a scalar register
  | l1 (die site line : Nat)                            -- a line of a core's L1
  | icache (die site line : Nat)                        -- a line of a core's instruction caches
  | msc (line sector : Nat)                             -- a sector of a line that the MSC holds: a dirty one, or a peer's
  | tileEntry (team handle : Nat)                       -- an entry of a tile table
  | berth (bd slot : Nat)                               -- an entry of a berth table
  | retry (link seq : Nat)                              -- a flit in a retry buffer, by its SEQ
  | pool (die holder : Nat)                             -- a message in a receive pool
deriving DecidableEq, Repr

/-- What scrub finds at a place (R262, R264): nothing, a correctable fault, or one that it cannot correct. -/
inductive ScrubFinding where
  | clean | corrected | uncorrectable
deriving DecidableEq, Repr

/-! ### Remote access (R238 to R258) -/

/-- The operation that a remote request asks of its target (R241). -/
inductive ReqKind where
  | load (n : Nat) (acquire prefetch : Bool)
  | store (data : List Byte) (full : Bool)
  | sector (data : List Byte) (mask : W32)     -- a copy's bytes of one sector, by place: one event (R234)
  | atomic (op : Nat) (ty : BitVec 4) (operand : W64)
  | cas (n : Nat) (cmp new : W64)
deriving DecidableEq, Repr

/-- A remote request message (R240, R241). `rope = none` is a peer PA, where `key` is the leaf's KEYID. -/
structure RemoteReq where
  id     : Nat                -- the requester's request slot
  src    : BitVec 7           -- requester's slot
  dst    : BitVec 7           -- target's slot
  part   : BitVec 3
  sub    : BitVec 3
  pgen   : Byte
  rope   : Option W32
  addr   : W64                -- of the line or sector for a load that fetches one
  skip   : Nat := 0           -- bytes of it before the access itself
  key    : BitVec 10
  lease  : Option Nat         -- the requester's LEASE in µs when it may take a lease (R226)
  notime : Bool               -- R231
  kind   : ReqKind
  cls    : BitVec 2 := 1      -- the class it travels in (R40)
  pois   : Bool := false      -- a flit of a store's message carries POIS (R266)
  op     : Nat × Nat := (0, 0) -- the lane instruction, or the copy and its chunk plus 1, that it serves (R199); (0, 0): neither
deriving DecidableEq, Repr

/-- The result that a response carries: data with the GWCT of a write or the expiry E of a lease, a remote fault of
R245, or NACK. -/
inductive RspResult where
  | ok (data : List Byte) (gwct : W64) (lease : Option W64)
  | fault (reason : Byte)
  | nack
deriving DecidableEq, Repr

/-- A response message (R50): it copies PART, SUB and PGEN of its request. -/
structure RemoteRsp where
  id     : Nat
  src    : BitVec 7
  part   : BitVec 3
  sub    : BitVec 3
  pgen   : Byte
  result : RspResult
  cls    : BitVec 2 := 1      -- that of its request
deriving DecidableEq, Repr

/-- A delivery to a berth: a BPUT (with its request slot) or a stage result with its status (R249). -/
structure Delivery where
  name   : W64
  src    : BitVec 7
  part   : BitVec 3
  sub    : BitVec 3
  pgen   : Byte
  stage  : Bool
  status : Byte               -- BWAIT status: 0 for a BPUT
  data   : List Byte          -- 8, 16 or 32 bytes
  id     : Nat
deriving DecidableEq, Repr

/-- PART, SUB and PGEN of a request, which its answer copies (R50). -/
structure Origin where
  part : BitVec 3
  sub  : BitVec 3
  pgen : Byte
deriving DecidableEq, Repr

/-- A berth resolution that a home forwards to the owner's device (R250). -/
structure Resolution where
  name   : W64
  src    : BitVec 7
  origin : Origin
  status : Byte
  data   : List Byte
deriving DecidableEq, Repr

/-- The loader's registration of a context's new location at a berth's home (R138). -/
structure Registration where
  name : W64
  slot : BitVec 7             -- the owner's new device
deriving DecidableEq, Repr

/-- A stage descriptor (R254). -/
structure StageDesc where
  mode   : Byte
  steps  : Byte
  hops   : Byte
  rbytes : Byte
  off    : List W16           -- eight values
  pmask  : W64
  key    : W64
  nullv  : W64
  cls    : BitVec 2
deriving DecidableEq, Repr

/-- A stage packet (R255): the descriptor, the pointer, the hop index, the rope and the berth name. -/
structure StagePkt where
  desc : StageDesc
  p    : W64
  h    : Nat
  rope : W32
  name : W64
  src  : BitVec 7
  part : BitVec 3
  sub  : BitVec 3
  pgen : Byte
  id   : Nat
deriving DecidableEq, Repr

/-- A rope ARM message (R109). -/
structure ArmMsg where
  rope   : W32
  rank   : Byte
  digest : W64
  tstate : TimeState
  u      : Nat
deriving DecidableEq, Repr

/-! ### The fabric -/

/-- The stripes that carry light when a link is trained, in each direction (R27). -/
structure LightMasks where
  ingress : W16
  egress  : W16
deriving DecidableEq, Repr

/-- A stripe of one direction of a link (R39). -/
structure StripeRef where
  egress : Bool
  stripe : BitVec 4
deriving DecidableEq, Repr

/-- The end of a rekey of one direction of a link (R49): whether a key was agreed. -/
structure RekeyEnd where
  egress : Bool
  agreed : Bool
deriving DecidableEq, Repr

/-- RECALL of a line (R232). -/
structure RecallMsg where
  line   : W64
  origin : Origin
deriving DecidableEq, Repr

/-- A KEYCTL payload (R48): a bank is installed, or is retired. -/
inductive KeyCtl where
  | installed (bank : Bool)
  | retire (bank : Bool)
deriving DecidableEq, Repr

/-- A member's contribution to a rope reduce (R258): the rope, its rank, the sequence number, its reduction type and shape, which 512 bytes
of its source it is, these bytes, and whether they are poisoned; of a copy that failed, no bytes. -/
structure RedPart where
  rope  : W32
  rank  : Byte
  seq   : Nat
  shape : List Nat
  unit  : Nat
  data  : List Byte
  pois  : Bool
  bad   : Bool
  bads  : List Bool := []     -- per element: a poisoned sector of the source covers it (R431)
deriving DecidableEq, Repr

/-- The contents of a sequenced message on a link. -/
inductive FabMsg where
  | request (r : RemoteReq)
  | requests (rs : List RemoteReq)   -- of one instruction, to one target (R241)
  | response (r : RemoteRsp)
  | delivery (d : Delivery)
  | resolution (r : Resolution)
  | resolutionAck (name : W64) (alive : Bool)
  | release (name : W64)
  | registration (r : Registration)
  | stage (p : StagePkt)
  | stageAccept (id : Nat)
  | arm (m : ArmMsg)
  | abandon (rope : W32) (rank : Byte)
  | mode (rope : W32) (timed : Bool)
  | ready (rope : W32) (rank : Byte)
  | go (rope : W32)
  | stopped (rope : W32) (rank : Byte)
  | sealNow (rope : W32)
  | recallLine (x : RecallMsg)
  | recallAck (line : W64)
  | contribution (m : RedPart)
  | keyctl (m : KeyCtl)
  | nack                       -- the NACK of a REQ that takes no request slot (R50)
deriving DecidableEq, Repr

/-- The flit header (R29). -/
structure FlitHdr where
  rsv   : BitVec 22
  ackv  : Bool
  pois  : Bool
  pri   : W32
  ack   : W16
  seq   : W16
  pgen  : Byte
  last  : Bool
  dst   : BitVec 7
  src   : BitVec 7
  sub   : BitVec 3
  part  : BitVec 3
  cls   : BitVec 2
  kg    : Bool
  type  : Byte
deriving DecidableEq, Repr

/-- The payload of a link-local flit (R30). A NAK asks for replay from the SEQ in its ACK field (R34). -/
inductive LocalMsg where
  | idle
  | nak
  | restripe (mask next : W16)
  | restripeAck (mask : W16)
  | timex (m : TimexMsg)
  | loss (mask : W16)
deriving DecidableEq, Repr

/-- A flit as it arrives: its header, whether its GCM tag verifies, and the message it begins (`none` for a flit that
begins none). -/
structure Flit where
  hdr   : FlitHdr
  tagOk : Bool
  msg   : Option FabMsg
deriving DecidableEq, Repr

/-! ### Host and memory events -/

/-- What a write of a reset control page's RCTL with GO set asks for (R85), beside the rung. -/
structure ResetReq where
  queue  : W16
  pent   : Byte
  index  : W32
  replay : Bool
  allctx : Bool
  rsv    : Bool               -- a reserved bit was set
deriving DecidableEq, Repr

/-- The AtomicOps of PCI Express (R52). -/
inductive PcieAtomic where
  | fetchAdd | swap
  | cas (cmp : List Byte)
deriving DecidableEq, Repr

/-- A host access through the PF0 BAR2 window (R54, R230). -/
inductive HostAccess where
  | read (n : Nat)
  | write (data : List Byte)
  | atomic (op : PcieAtomic) (data : List Byte)     -- on 4 or 8 bytes
deriving DecidableEq, Repr

/-- Where a register write of the host or of system software lands: at an offset of BAR0, or in one of the settings that the manual
gives to system software without a place in a BAR (R15, R20, R43, R54, R65, R90). -/
inductive RegPlace where
  | bar0 (off : BitVec 25)
  | ptpDomain                  -- the PTP domain number
  | powerLimit                 -- the power limit in W
  | poolHigh (v : BitVec 5)    -- HIGH and LOW of a virtual priority
  | poolLow (v : BitVec 5)
  | numVfs                     -- NumVFs with VF Enable; 0 clears VF Enable
  | bar2Size                   -- the size of the BAR2 window in GiB
  | atomicReq                  -- AtomicOp Requester Enable of PF0's Device Control 2
  | atomicErr                  -- no register: whether the host completes AtomicOps with an error status from now on (R469)
  | cplTimeout                 -- the PCIe completion timeout in ns
deriving DecidableEq, Repr

/-- What a following page's origin returned (R141): the page's bytes by offset (unlisted ones zero), or a reason. -/
inductive FetchResult where
  | page (bytes : List (Nat × Byte))
  | failed (reason : Byte)
deriving DecidableEq, Repr

/-- What an engine does with a chunk of a copy (R234, R241, R258): it asks peers for the chunk's source bytes, or sends its part of
a rope reduce to the other members; or the chunk lands. -/
inductive ChunkStep where
  | ask | land
deriving DecidableEq, Repr

/-! ### Instructions and events -/

/-- One constructor for each row of the table; the comment gives the row and its rule. Those without fields stand last:
an event of theirs acts on what `State.sel` selects (a link, a queue, a context, an operation, by number). -/
inductive Instr where
  | powerOn (slot : Option (BitVec 7))  -- POWER_ON, R23
  | ptpMessage (m : PtpMsg)  -- PTP_MESSAGE, R15
  | timeStateChange (st : TimeState) (u : Nat) (stepNs : W64)  -- TIME_STATE_CHANGE, R16
  | timex (w : BitVec 7) (f : Flit) (m : TimexMsg)  -- TIMEX, R18
  | linkTraining (w : BitVec 7) (lit : LightMasks)  -- LINK_TRAINING, R27
  | linkUp (w : BitVec 7) (verified : Bool)  -- LINK_UP, R27
  | req (w : BitVec 7) (f : Flit)  -- REQ, R34
  | rsp (w : BitVec 7) (f : Flit)  -- RSP, R50
  | data (w : BitVec 7) (f : Flit)  -- DATA, R31
  | idle (w : BitVec 7) (f : Flit)  -- IDLE, R34
  | nak (w : BitVec 7) (f : Flit)  -- NAK, R35
  | restripe (w : BitVec 7) (f : Flit) (mask next : W16)  -- RESTRIPE, R38
  | restripeAck (w : BitVec 7) (f : Flit) (mask : W16)  -- RESTRIPE_ACK, R37
  | keyctl (w : BitVec 7) (f : Flit) (m : KeyCtl)  -- KEYCTL, R48
  | genbump (w : BitVec 7) (f : Flit)  -- GENBUMP, R50
  | loss (w : BitVec 7) (f : Flit) (mask : W16)  -- LOSS, R37
  | stripeLost (w : BitVec 7) (lit : W16)  -- STRIPE_LOST, R36
  | stripeRestored (w : BitVec 7) (x : StripeRef)  -- STRIPE_RESTORED, R39
  | rekey (w : BitVec 7) (x : RekeyEnd)  -- REKEY, R49
  | queueBind (q : Byte) (bind : W32)  -- QUEUE_BIND, R58
  | doorbell (q : Byte) (wr : W32)  -- DOORBELL, R60
  | resetQueue (fn : BitVec 6) (r : ResetReq)  -- RESET_QUEUE, R82
  | resetContext (fn : BitVec 6) (r : ResetReq)  -- RESET_CONTEXT, R82
  | resetEngine (fn : BitVec 6) (r : ResetReq)  -- RESET_ENGINE, R82
  | resetPartition (fn : BitVec 6) (r : ResetReq)  -- RESET_PARTITION, R82
  | resetDevice (fn : BitVec 6) (r : ResetReq)  -- RESET_DEVICE, R82
  | partitionTableWrite (off : W16) (size : Nat) (v : W64)  -- PARTITION_TABLE_WRITE, R78
  | registerWrite (fn : BitVec 6) (at_ : RegPlace) (size : Nat) (v : W64)  -- REGISTER_WRITE, R4
  | serialise (fn : BitVec 6) (ctl : W32)  -- SERIALISE, R122
  | riskCompute (m : Sensors)  -- RISK_COMPUTE, R271
  | journalEnable (e : Nat) (jctl : W16)  -- JOURNAL_ENABLE, R278
  | tlbInvalidate (ctl : Byte)  -- TLB_INVALIDATE, R192
  | retag (ctl : Byte)  -- RETAG, R193
  | elide (ctl : Byte)  -- ELIDE, R193
  | sidewaysWrite (k : BitVec 2) (mask : W64)  -- SIDEWAYS_WRITE, R209
  | flush (k : BitVec 2) (mask : W64)  -- FLUSH, R209
  | pageDone (e : Nat) (va : W64)  -- PAGE_DONE, R197
  | staging (c : Nat) (va : W64)  -- STAGING, R97
  | followingFetch (e : Nat) (va : W64) (got : FetchResult)  -- FOLLOWING_FETCH, R141
  | scrub (loc : PoisonLoc) (found : ScrubFinding)  -- SCRUB, R262
  | recallLine (w : BitVec 7) (x : RecallMsg)  -- RECALL, R232
  | recallAck (w : BitVec 7) (line : W64)  -- RECALL_ACK, R232
  | recallTimeout (w : BitVec 7) (line : W64)  -- RECALL_TIMEOUT, R232
  | remoteRequest (r : RemoteReq)  -- REMOTE_REQUEST, R240
  | remoteResponse (r : RemoteRsp)  -- REMOTE_RESPONSE, R241
  | berthDelivery (d : Delivery)  -- BERTH_DELIVERY, R249
  | forwardedResolution (r : Resolution)  -- FORWARDED_RESOLUTION, R250
  | stageStep (p : StagePkt)  -- STAGE_STEP, R255
  | arm (m : ArmMsg)  -- ARM, R109
  | abandon (rope : W32) (rank : Byte)  -- ABANDON, R109
  | stopped (rope : W32) (rank : Byte)  -- STOPPED, R111
  | mode (rope : W32) (timed : Bool)  -- MODE, R113
  | ready (rope : W32) (rank : Byte)  -- READY, R113
  | batchCommit (g : Nat) (residueOk retryOk : Bool)  -- BATCH_COMMIT, R410
  | chunkLand (c k : Nat) (x : ChunkStep)  -- CHUNK_LAND, R430
  | trip (cause : TripCause)  -- TRIP, R22
  | firmwareUpdate (u : FwUpdate)  -- FIRMWARE_UPDATE, R274
  | spdmRequest (r : SpdmReq)  -- SPDM_REQUEST, R275
  | hostWindowAccess (off : W64) (a : HostAccess)  -- HOST_WINDOW_ACCESS, R230
  | jmpr (a : SReg)  -- JMPR, R348
  | time (d : SReg)  -- TIME, R442
  | sleept (a : SReg)  -- SLEEPT, R443
  | pagereq (a : SReg)  -- PAGEREQ, R444
  | add (d : SReg) (a : SReg) (b : SReg)  -- ADD, R340
  | sub (d : SReg) (a : SReg) (b : SReg)  -- SUB, R340
  | mul (d : SReg) (a : SReg) (b : SReg)  -- MUL, R340
  | mulhn (d : SReg) (a : SReg) (b : SReg)  -- MULHN, R340
  | mulhi (d : SReg) (a : SReg) (b : SReg)  -- MULHI, R340
  | divn (d : SReg) (a : SReg) (b : SReg)  -- DIVN, R340
  | divi (d : SReg) (a : SReg) (b : SReg)  -- DIVI, R340
  | remn (d : SReg) (a : SReg) (b : SReg)  -- REMN, R340
  | remi (d : SReg) (a : SReg) (b : SReg)  -- REMI, R340
  | and (d : SReg) (a : SReg) (b : SReg)  -- AND, R340
  | or (d : SReg) (a : SReg) (b : SReg)  -- OR, R340
  | xor (d : SReg) (a : SReg) (b : SReg)  -- XOR, R340
  | andn (d : SReg) (a : SReg) (b : SReg)  -- ANDN, R340
  | shl (d : SReg) (a : SReg) (b : SReg)  -- SHL, R340
  | shr (d : SReg) (a : SReg) (b : SReg)  -- SHR, R340
  | sra (d : SReg) (a : SReg) (b : SReg)  -- SRA, R340
  | minn (d : SReg) (a : SReg) (b : SReg)  -- MINN, R340
  | mini (d : SReg) (a : SReg) (b : SReg)  -- MINI, R340
  | maxn (d : SReg) (a : SReg) (b : SReg)  -- MAXN, R340
  | maxi (d : SReg) (a : SReg) (b : SReg)  -- MAXI, R340
  | seq (d : SReg) (a : SReg) (b : SReg)  -- SEQ, R340
  | sne (d : SReg) (a : SReg) (b : SReg)  -- SNE, R340
  | sltn (d : SReg) (a : SReg) (b : SReg)  -- SLTN, R340
  | slti (d : SReg) (a : SReg) (b : SReg)  -- SLTI, R340
  | clz (d : SReg) (a : SReg)  -- CLZ, R340
  | popc (d : SReg) (a : SReg)  -- POPC, R340
  | addi (d : SReg) (a : SReg) (i : BitVec 14)  -- ADDI, R342
  | andi (d : SReg) (a : SReg) (i : BitVec 14)  -- ANDI, R342
  | ori (d : SReg) (a : SReg) (i : BitVec 14)  -- ORI, R342
  | xori (d : SReg) (a : SReg) (i : BitVec 14)  -- XORI, R342
  | shli (d : SReg) (a : SReg) (n : SReg)  -- SHLI, R342
  | shri (d : SReg) (a : SReg) (n : SReg)  -- SHRI, R342
  | srai (d : SReg) (a : SReg) (n : SReg)  -- SRAI, R342
  | sltin (d : SReg) (a : SReg) (i : BitVec 14)  -- SLTIN, R342
  | sltii (d : SReg) (a : SReg) (i : BitVec 14)  -- SLTII, R342
  | liwSx (d : SReg) (imm : W32)  -- LIW_SX, R344
  | liwZx (d : SReg) (imm : W32)  -- LIW_ZX, R344
  | liwHi (d : SReg) (imm : W32)  -- LIW_HI, R344
  | slw (d : SReg) (a : SReg) (i : BitVec 14)  -- SLW, R345
  | sld (d : SReg) (a : SReg) (i : BitVec 14)  -- SLD, R345
  | ssw (d : SReg) (a : SReg) (i : BitVec 14)  -- SSW, R345
  | ssd (d : SReg) (a : SReg) (i : BitVec 14)  -- SSD, R345
  | brc (a : SReg) (b : SReg) (c : BitVec 3) (o : BitVec 11)  -- BRC, R347
  | jmp (o : BitVec 26)  -- JMP, R348
  | call (o : BitVec 26)  -- CALL, R348
  | bspl (m : BitVec 3) (inv : Bool) (tgt jn : W16)  -- BSPL, R350
  | run (i : BitVec 26)  -- RUN, R352
  | waitf (any : Bool) (m : BitVec 12)  -- WAITF, R353
  | seg (w : BitVec 3)  -- SEG, R355
  | trap (a : SReg) (i : BitVec 14)  -- TRAP, R446
  | tbarArrive (d : SReg) (n : BitVec 4)  -- TBAR_ARRIVE, R356
  | tbarWait (d : SReg) (n : BitVec 4)  -- TBAR_WAIT, R356
  | tbarSync (d : SReg) (n : BitVec 4)  -- TBAR_SYNC, R356
  | tbarExpect (d : SReg) (a : SReg) (b : SReg) (n : BitVec 4)  -- TBAR_EXPECT, R356
  | tbarAddb (d : SReg) (b : SReg) (n : BitVec 4)  -- TBAR_ADDB, R356
  | tbarTest (d : SReg) (n : BitVec 4)  -- TBAR_TEST, R358
  | cbarArrive (d : SReg)  -- CBAR_ARRIVE, R359
  | cbarWait (d : SReg)  -- CBAR_WAIT, R359
  | cbarSync (d : SReg)  -- CBAR_SYNC, R359
  | fenceAcq (s : BitVec 3)  -- FENCE_ACQ, R222
  | fenceRel (s : BitVec 3)  -- FENCE_REL, R222
  | fenceAr (s : BitVec 3)  -- FENCE_AR, R222
  | fenceSc (s : BitVec 3)  -- FENCE_SC, R222
  | smr (d : SReg) (r : BitVec 14)  -- SMR, R449
  | smw (a : SReg) (r : BitVec 14)  -- SMW, R449
  | talloc (d : SReg) (a : SReg) (b : SReg) (l : BitVec 2) (h : SReg)  -- TALLOC, R361
  | tfree (d : SReg) (l : BitVec 2) (h : SReg)  -- TFREE, R362
  | tinfo (d : SReg) (l : BitVec 2) (h : SReg)  -- TINFO, R363
  | drayM2t (a b : SReg) (tile : BitVec 6) (w1 : DrayWord)  -- DRAY_M2T, R426
  | drayT2m (a b : SReg) (tile : BitVec 6) (w1 : DrayWord)  -- DRAY_T2M, R426
  | drayT2t (a : SReg) (tile : BitVec 6) (w1 : DrayWord)  -- DRAY_T2T, R429
  | drayRed (a b : SReg) (w1 : DrayWord)  -- DRAY_RED, R429
  | dprobe (d : SReg) (a : SReg) (b : SReg) (t : SReg)  -- DPROBE, R434
  | bmint (d : SReg) (a : SReg) (s : BitVec 2) (k : SReg)  -- BMINT, R436
  | bwait (d : SReg) (a : SReg)  -- BWAIT, R437
  | bput (a : SReg) (b : SReg) (s : BitVec 2)  -- BPUT, R438
  | bdrop (a : SReg)  -- BDROP, R439
  | stage (d : SReg) (a : SReg) (b : SReg)  -- STAGE, R441
  | iadd (f : LaneWord)  -- IADD, R370
  | isub (f : LaneWord)  -- ISUB, R370
  | iadc (f : LaneWord)  -- IADC, R370
  | isbc (f : LaneWord)  -- ISBC, R370
  | imul (f : LaneWord)  -- IMUL, R370
  | imulh (f : LaneWord)  -- IMULH, R370
  | imad (f : LaneWord)  -- IMAD, R370
  | idiv (f : LaneWord)  -- IDIV, R372
  | irem (f : LaneWord)  -- IREM, R372
  | imin (f : LaneWord)  -- IMIN, R370
  | imax (f : LaneWord)  -- IMAX, R370
  | iabs (f : LaneWord)  -- IABS, R370
  | isad (f : LaneWord)  -- ISAD, R370
  | blut (f : LaneWord)  -- BLUT, R373
  | laneShl (f : LaneWord)  -- LANE_SHL, R373
  | laneShr (f : LaneWord)  -- LANE_SHR, R373
  | laneSra (f : LaneWord)  -- LANE_SRA, R373
  | fshl (f : LaneWord)  -- FSHL, R373
  | fshr (f : LaneWord)  -- FSHR, R373
  | bfx (f : LaneWord)  -- BFX, R374
  | bfi (f : LaneWord)  -- BFI, R374
  | lanePopc (f : LaneWord)  -- LANE_POPC, R373
  | laneClz (f : LaneWord)  -- LANE_CLZ, R373
  | brev (f : LaneWord)  -- BREV, R373
  | prmt (f : LaneWord)  -- PRMT, R374
  | iset (f : LaneWord)  -- ISET, R375
  | sel (f : LaneWord)  -- SEL, R376
  | mov (f : LaneWord)  -- MOV, R376
  | fadd (f : LaneWord)  -- FADD, R377
  | fsub (f : LaneWord)  -- FSUB, R377
  | fmul (f : LaneWord)  -- FMUL, R377
  | ffma (f : LaneWord)  -- FFMA, R377
  | fmin (f : LaneWord)  -- FMIN, R377
  | fmax (f : LaneWord)  -- FMAX, R377
  | fdiv (f : LaneWord)  -- FDIV, R379
  | fsqrt (f : LaneWord)  -- FSQRT, R379
  | frcp (f : LaneWord)  -- FRCP, R379
  | frsq (f : LaneWord)  -- FRSQ, R379
  | fex2 (f : LaneWord)  -- FEX2, R379
  | flg2 (f : LaneWord)  -- FLG2, R379
  | fsinp (f : LaneWord)  -- FSINP, R379
  | fcosp (f : LaneWord)  -- FCOSP, R379
  | fset (f : LaneWord)  -- FSET, R382
  | fclass (f : LaneWord)  -- FCLASS, R383
  | frnd (f : LaneWord)  -- FRND, R384
  | fscale (f : LaneWord)  -- FSCALE, R384
  | fgete (f : LaneWord)  -- FGETE, R384
  | cvt (f : LaneWord)  -- CVT, R385
  | cvtsEnc (f : LaneWord)  -- CVTS_ENC, R387
  | cvtsDec (f : LaneWord)  -- CVTS_DEC, R387
  | pack (f : LaneWord)  -- PACK, R388
  | unpk (f : LaneWord)  -- UNPK, R388
  | lxch (f : LaneWord)  -- LXCH, R390
  | lpoll (f : LaneWord)  -- LPOLL, R391
  | lred (f : LaneWord)  -- LRED, R392
  | lscan (f : LaneWord)  -- LSCAN, R392
  | lpeer (f : LaneWord)  -- LPEER, R393
  | mop (f : LaneWord)  -- MOP, R395
  | mcopyV2m (f : LaneWord)  -- MCOPY_V2M, R396
  | mcopyM2v (f : LaneWord)  -- MCOPY_M2V, R396
  | mcopyS2m (f : LaneWord)  -- MCOPY_S2M, R396
  | mcopyM2s (f : LaneWord)  -- MCOPY_M2S, R396
  | ccget (f : LaneWord)  -- CCGET, R397
  | ccput (f : LaneWord)  -- CCPUT, R397
  | ld (f : LaneWord)  -- LD, R399
  | st (f : LaneWord)  -- ST, R400
  | atom (f : LaneWord)  -- ATOM, R401
  | atomn (f : LaneWord)  -- ATOMN, R401
  | cas (f : LaneWord)  -- CAS, R402
  | pref (f : LaneWord)  -- PREF, R403
  | tld (f : LaneWord)  -- TLD, R406
  | tst (f : LaneWord)  -- TST, R406
  | tatom (f : LaneWord)  -- TATOM, R406
  | mma (f : LaneWord)  -- MMA, R418
  | mmac (f : LaneWord)  -- MMAC, R420
  | fmma (f : LaneWord)  -- FMMA, R422
  | aclr (f : LaneWord)  -- ACLR, R423
  | ald (f : LaneWord)  -- ALD, R423
  | acvt (f : LaneWord)  -- ACVT, R423
  | mclose (f : LaneWord)  -- MCLOSE, R424
  | illegalInstr (w : W32)  -- ILLEGAL_INSTR, R315
  | memoryIssueWindow (die : BitVec 3) (site : BitVec 5) (p : BitVec 2) (misses : Nat)  -- MEMORY_ISSUE_WINDOW, R105
  | forwardingRegistration (r : Registration)  -- FORWARDING_REGISTRATION, R138
  | resolutionAck (name : W64) (exists_ : Bool)  -- RESOLUTION_ACK, R250
  | translationEntryWrite (off : W16) (size : Nat) (v : W64)  -- TRANSLATION_ENTRY_WRITE, R191
  | pldmRequest (r : PldmReq)  -- PLDM_REQUEST, R263
  | thermalThrottle (t : ThermalReading)  -- THERMAL_THROTTLE, R20
  | timexSend  -- TIMEX_SEND, R18
  | idleSend  -- IDLE_SEND, R34
  | nakRepeat  -- NAK_REPEAT, R34
  | elsFault  -- ELS_FAULT, R36
  | restripeRepeat  -- RESTRIPE_REPEAT, R37
  | lossRepeat  -- LOSS_REPEAT, R38
  | requestSlotReclaim  -- REQUEST_SLOT_RECLAIM, R88
  | queueEnable  -- QUEUE_ENABLE, R71
  | queueDisable  -- QUEUE_DISABLE, R71
  | queuePause  -- QUEUE_PAUSE, R71
  | queueUnpause  -- QUEUE_UNPAUSE, R71
  | ringFetch  -- RING_FETCH, R468
  | launch  -- LAUNCH, R93
  | launchImage  -- LAUNCH_IMAGE, R137
  | copy  -- COPY, R63
  | wait  -- WAIT, R69
  | signal  -- SIGNAL, R63
  | rope  -- ROPE, R109
  | stagePacket  -- STAGE_PACKET, R63
  | mark  -- MARK, R63
  | waitPoll  -- WAIT_POLL, R69
  | waitTimeout  -- WAIT_TIMEOUT, R69
  | copyComplete  -- COPY_COMPLETE, R234
  | gridComplete  -- GRID_COMPLETE, R260
  | resetComplete  -- RESET_COMPLETE, R85
  | rungEscalation  -- RUNG_ESCALATION, R83
  | functionLevelReset  -- FUNCTION_LEVEL_RESET, R84
  | vfTeardown  -- VF_TEARDOWN, R89
  | budgetPeriod  -- BUDGET_PERIOD, R79
  | copyDrainExpiry  -- COPY_DRAIN_EXPIRY, R122
  | serialiseSeal  -- SERIALISE_SEAL, R136
  | snapshotDrained  -- SNAPSHOT_DRAINED, R148
  | invalidateComplete  -- INVALIDATE_COMPLETE, R192
  | followingPull  -- FOLLOWING_PULL, R141
  | remoteTimeout  -- REMOTE_TIMEOUT, R241
  | storeAck  -- STORE_ACK, R221
  | loadReturn  -- LOAD_RETURN, R162
  | berthExpiry  -- BERTH_EXPIRY, R250
  | resolutionResend  -- RESOLUTION_RESEND, R250
  | berthRelease  -- BERTH_RELEASE, R250
  | stageTimeout  -- STAGE_TIMEOUT, R257
  | ropeArmDeadline  -- ROPE_ARM_DEADLINE, R109
  | ropeSwitch  -- ROPE_SWITCH, R110
  | ropeWindowExpiry  -- ROPE_WINDOW_EXPIRY, R112
  | ropeModeSend  -- ROPE_MODE_SEND, R113
  | go  -- GO, R113
  | sealNow  -- SEAL, R113
  | teamResident  -- TEAM_RESIDENT, R101
  | sliceExpiry  -- SLICE_EXPIRY, R114
  | clauseStart  -- CLAUSE_START, R159
  | barrierTimeout  -- BARRIER_TIMEOUT, R459
  | sleepWake  -- SLEEP_WAKE, R443
  | contextEnd  -- CONTEXT_END, R177
  | dieLost  -- DIE_LOST, R268
  | cpMismatch  -- CP_MISMATCH, R267
  | powerLimit  -- POWER_LIMIT, R21
  | powerRestore  -- POWER_RESTORE, R21
  | undervoltage  -- UNDERVOLTAGE, R22
  | controllerRestart  -- CONTROLLER_RESTART, R274
  | nop  -- NOP, R349
  | exit  -- EXIT, R155
  | join  -- JOIN, R153
  | yield  -- YIELD, R445
  | brk  -- BRK, R446
  | ret  -- RET, R348
  | rett  -- RETT, R448
  | gwctPassed  -- GWCT_PASSED, R220
  | notimeAck  -- NOTIME_ACK, R231
  | inboundPageTimeout  -- INBOUND_PAGE_TIMEOUT, R240
  | partitionRungHold  -- PARTITION_RUNG_HOLD, R50
  | cpBerthRetry  -- CP_BERTH_RETRY, R63
  | mainInputRestored  -- MAIN_INPUT_RESTORED, R22
deriving DecidableEq, Repr

end Sys2Proof
end

