-- ==== Sys2Proof/WellFormed.lean ====
section
/-!
DEFINITION. What makes an instruction well formed: the limits that an encoding puts on its fields (`Instr.wf`), and for
a lane instruction the rules of R317 to R325 and of its own entry, checked when its clause starts (`laneLegal`, R327
step 3), under the launch's VREGS and format slots.
-/

namespace Sys2Proof

/-! ### Types (R319) -/

/-- Whether a TY code is a two's complement integer type: I32, I64, I16, I8. -/
def tySigned (t : BitVec 4) : Bool := t == 1 || t == 3 || t == 5 || t == 7
/-- Whether a TY code is an integer type, codes 0 to 7. -/
def tyInt (t : BitVec 4) : Bool := t.toNat < 8
/-- Whether a TY code is F32, F64, F16 or BF16. -/
def tyFloat (t : BitVec 4) : Bool := 8 ≤ t.toNat && t.toNat ≤ 11
/-- Whether a TY code is B32 or B64. -/
def tyBits (t : BitVec 4) : Bool := t == 13 || t == 14

/-- The width of a type in bits (R319); a SLOT code is held in one register. -/
def tyWidth (t : BitVec 4) : Nat :=
  match t.toNat with
  | 2 | 3 | 9 | 14 => 64
  | 4 | 5 | 10 | 11 => 16
  | 6 | 7 => 8
  | _ => 32

/-- The bits of vector registers that hold a value of a type: one register, or a pair. -/
def tyHeld (t : BitVec 4) : Nat := if tyWidth t = 64 then 64 else 32

/-! ### Format slots (R95) -/

/-- A format slot descriptor's fields. -/
structure Slot where
  w     : Nat
  s     : Bool
  e     : Nat
  m     : Nat
  bias  : Int
  spec  : Nat
  ovf   : Nat
  scale : Nat
  block : Nat                 -- elements per scale: 16, 32 or 64
deriving DecidableEq, Repr

/-- The fields of a descriptor word. -/
def Slot.ofWord (d : W32) : Slot :=
  { w := (d.extractLsb' 0 4).toNat, s := d.getLsbD 4, e := (d.extractLsb' 5 3).toNat, m := (d.extractLsb' 8 3).toNat,
    bias := (d.extractLsb' 11 8).toInt, spec := (d.extractLsb' 19 2).toNat, ovf := (d.extractLsb' 21 2).toNat,
    scale := (d.extractLsb' 23 2).toNat, block := 16 * 2 ^ (d.extractLsb' 25 2).toNat }
/-- The blocks that n elements lie in. -/
def Slot.blocks (f : Slot) (n : Nat) : Nat := (n + f.block - 1) / f.block

/-- The conditions of R95 on a descriptor other than 0. -/
def slotValid (d : W32) : Bool :=
  let f := Slot.ofWord d
  let sN := if f.s then 1 else 0
  (d.extractLsb' 27 5 == (0 : BitVec 5)) &&
  ((d.extractLsb' 25 2).toNat ≤ 2 && (f.scale != 0 || (d.extractLsb' 25 2).toNat == 0)) &&
  f.scale ≤ 1 && (f.ovf ≤ 2 && (f.ovf != 2 || f.spec == 1 || f.spec == 2)) &&
  (f.spec ≤ 2 && (f.spec != 1 || 2 ≤ f.e)) && sN + f.e + f.m == f.w &&
  (f.e != 0 || (f.spec == 0 && f.ovf == 0)) && 2 ≤ f.w && f.w ≤ 8

/-- Whether a descriptor word is acceptable in a launch record: unbound, or valid. -/
def slotOk (d : W32) : Bool := d == 0 || slotValid d

/-! ### Scalar words -/

/-- The fields of DRAY's second word are legal on their own (R425). -/
def DrayWord.wf (x : DrayWord) : Bool :=
  x.cls != 0 && (if x.fv then x.flag.toNat < 12 else x.flag == 0) && (x.cnt || x.bar == 0)

/-- BMINT's bound range is legal: it ends at or below s62 and does not hold SD (R436); size code 3 is illegal (R435). -/
def bmintLegal (d : SReg) (s : BitVec 2) (k : SReg) : Bool :=
  s != 3 && k.toNat + 2 ^ s.toNat - 1 ≤ 62 && !(k.toNat ≤ d.toNat && d.toNat < k.toNat + 2 ^ s.toNat)

/-- BPUT's data registers are legal: none lies past s63 (R438); size code 3 is illegal (R435). -/
def bputLegal (b : SReg) (s : BitVec 2) : Bool := s != 3 && b.toNat + 2 ^ s.toNat - 1 ≤ 63

/-- Whether an instruction's fields are ones that its encoding can hold and its word admits. Events are always so. -/
def Instr.wf : Instr → Bool
  | .brc _ _ c _ => c.toNat < 6
  | .seg w => 1 ≤ w.toNat && w.toNat ≤ 6
  | .fenceAcq s | .fenceRel s | .fenceAr s | .fenceSc s => s.toNat < 5
  | .drayM2t _ _ _ x | .drayT2m _ _ _ x | .drayT2t _ _ x => x.wf
  | .drayRed _ _ x => x.wf && x.rowoff == 0
  | .bmint d _ s k => bmintLegal d s k
  | .bput _ b s => bputLegal b s
  | .cvtsEnc f => !f.mod.getLsbD 0
  | .cvtsDec f => f.mod.getLsbD 0
  | .mcopyV2m f => f.mod.extractLsb' 0 2 == (0 : BitVec 2)
  | .mcopyM2v f => f.mod.extractLsb' 0 2 == (1 : BitVec 2)
  | .mcopyS2m f => f.mod.extractLsb' 0 2 == (2 : BitVec 2)
  | .mcopyM2s f => f.mod.extractLsb' 0 2 == (3 : BitVec 2)
  | _ => true

/-! ### Lane instructions -/

/-- What a launch fixes for the validation of its clauses: VREGS and the eight slot descriptors (R91, R95). -/
structure LaneCfg where
  vregs : Nat
  slots : List W32
deriving DecidableEq, Repr

/-- Whether slot FS is bound (R95). -/
def LaneCfg.bound (c : LaneCfg) (fs : BitVec 3) : Bool := c.slots.getD fs.toNat 0 != 0
/-- The slot that FS names. -/
def LaneCfg.slot (c : LaneCfg) (fs : BitVec 3) : Slot := Slot.ofWord (c.slots.getD fs.toNat 0)

/-- How an entry uses a source field. -/
inductive SrcSpec where
  | unused                                                 -- null: register 255, kind 0, no mark (R324)
  | opnd (kinds : List Nat) (width : Nat) (float : Bool)   -- an operand of these kinds, read at this width
  | raw (ok : Bool)                                        -- a mask, tile or scale field: kind 0, no mark, and its own limit
  | regs (count align : Nat)                               -- count vector registers from a multiple of align (CAS, R402)
deriving DecidableEq, Repr

/-- How an entry uses DST. -/
inductive DstSpec where
  | null                      -- 255
  | vec (width : Nat)         -- a vector register of this width
  | vecOpt (width : Nat)      -- the same, or 255 for none (R365, R406)
  | scalar                    -- s32 to s47 (R325)
  | raw (ok : Bool)           -- a mask or tile, with its own limit
deriving DecidableEq, Repr

/-- What an instruction's entry admits (R324 to R416). -/
structure LaneSpec where
  ty  : Bool                  -- TY is one that the entry accepts
  a   : SrcSpec
  b   : SrcSpec
  c   : SrcSpec
  d   : DstSpec
  rm  : Bool := true          -- the RM field is within the entry's limit
  fs  : Bool := true          -- the FS field is within the entry's limit, and a slot that is used is bound
  cw  : Bool := true          -- CW is within the entry's limit
  mod : Bool := true
  imm : Bool := true          -- IMM16 is within the entry's limit
deriving Repr

/-- Registers n to n + width/32 − 1 exist and the first is aligned (R327). -/
def regOk (vregs : Nat) (n : BitVec 8) (width : Nat) : Bool :=
  n.toNat % (width / 32) == 0 && n.toNat + width / 32 ≤ vregs

/-- A source field against its entry (R167, R317, R318, R324, R366). -/
def srcOk (c : LaneCfg) : SrcSpec → BitVec 8 → BitVec 2 → Bool → Bool → Bool
  | .unused, n, k, l, kp => n == 255 && k == 0 && !l && !kp
  | .raw ok, _, k, l, kp => ok && k == 0 && !l && !kp
  | .regs cnt al, n, k, l, kp => k == 0 && n.toNat % al == 0 && n.toNat + cnt ≤ c.vregs && !(l && kp)
  | .opnd kinds w fl, n, k, l, kp =>
    kinds.contains k.toNat &&
    match k.toNat with
    | 0 => regOk c.vregs n w && !(l && kp)
    | 1 => n.toNat < 32 && w ≤ 64 && !l && !kp
    | 2 => !l && !kp
    | _ => n.toNat ≤ 10 && !fl && !l && !kp

/-- The destination field against its entry. -/
def dstOk (c : LaneCfg) : DstSpec → BitVec 8 → Bool
  | .null, n => n == 255
  | .vec w, n => regOk c.vregs n w
  | .vecOpt w, n => n == 255 || regOk c.vregs n w
  | .scalar, n => 32 ≤ n.toNat && n.toNat ≤ 47
  | .raw ok, _ => ok

/-- IMM16 counts as used when any source is of kind 2 (R324); an unused one is zero. -/
def immFree (f : LaneWord) : Bool := f.imm == 0 || f.ka == 2 || f.kb == 2 || f.kc == 2
def rmUsed (f : LaneWord) : Bool := f.rm.toNat ≤ 4
def rmZero (f : LaneWord) : Bool := f.rm == 0
def modBits (f : LaneWord) (m : BitVec 9) : Bool := f.mod &&& ~~~m == 0
def modLow (f : LaneWord) (n : Nat) : Nat := (f.mod.extractLsb' 0 n).toNat

/-- A source of any kind, at a type's width. -/
def anySrc (t : BitVec 4) : SrcSpec := .opnd [0, 1, 2, 3] (tyHeld t) (tyFloat t)

/-- Integer arithmetic (R370). -/
def specInt (f : LaneWord) (three two satOk : Bool) : LaneSpec :=
  { ty := tyInt f.ty, a := anySrc f.ty, b := if two then anySrc f.ty else .unused,
    c := if three then anySrc f.ty else .unused, d := .vecOpt (tyHeld f.ty), rm := rmZero f, fs := f.fs == 0,
    mod := modBits f (if satOk then 1 else 0), imm := immFree f }

/-- Bit operations of one width (R373): which of b and c are used, and at which width. -/
def specBits (f : LaneWord) (b c : SrcSpec) : LaneSpec :=
  { ty := tyBits f.ty, a := anySrc f.ty, b := b, c := c, d := .vecOpt (tyHeld f.ty), rm := rmZero f, fs := f.fs == 0,
    mod := f.mod == 0, imm := immFree f }

/-- An integer operand read at 32 bits whatever TY is. -/
def int32Src : SrcSpec := .opnd [0, 1, 2, 3] 32 false

/-- Floating arithmetic and functions (R377, R379, R384). -/
def specFloat (f : LaneWord) (b c : SrcSpec) (rm : Bool) (mod : Bool) (dw : Nat) : LaneSpec :=
  { ty := tyFloat f.ty, a := anySrc f.ty, b := b, c := c, d := .vecOpt dw, rm := if rm then rmUsed f else rmZero f,
    fs := f.fs == 0, mod := mod, imm := immFree f }

/-- The kinds of A and B that form an address (R323): W64 is bit 34, in the RM position. -/
def addrA (f : LaneWord) : SrcSpec := if f.rm.getLsbD 1 then .unused else .opnd [1] 64 false
def addrB (f : LaneWord) : SrcSpec := if f.rm.getLsbD 1 then .opnd [0] 64 false else .opnd [0] 32 false
/-- Bits of the RM position that the entry does not allow are zero (R398): STR, W64, MIS. -/
def memBits (f : LaneWord) (str mis : Bool) : Bool := (str || !f.rm.getLsbD 2) && (mis || !f.rm.getLsbD 0)
/-- Order and scope (R211, R212): MOD[5:4] and MOD[8:6]. -/
def memOrder (f : LaneWord) : Nat := (f.mod.extractLsb' 4 2).toNat
def memScope (f : LaneWord) : Nat := (f.mod.extractLsb' 6 3).toNat

/-- The types that an atomic operation accepts (R400). -/
def atomTyOk (op : Nat) (t : BitVec 4) : Bool :=
  if op ≤ 2 then t.toNat ≤ 3 else if op ≤ 6 then tyBits t else if op ≤ 9 then t == 8 || t == 9 else false

/-- ATOM and ATOMN (R398, R400). -/
def specAtom (f : LaneWord) (ret : Bool) : LaneSpec :=
  { ty := atomTyOk (modLow f 4) f.ty, a := addrA f, b := addrB f, c := .opnd [0, 1] (tyHeld f.ty) false,
    d := if ret then .vec (tyHeld f.ty) else .null, rm := memBits f false false, fs := ret || f.fs == 0, cw := !f.cw,
    mod := memScope f ≤ 4 }

/-- A matrix operand type (R413): the multiplicand pairs, and the block KB of each. -/
def mmaPair (c : LaneCfg) (ta : BitVec 4) (fa : BitVec 3) (tb : BitVec 4) (fb : BitVec 3) : Option Nat :=
  if ta == 12 && tb == 12 then (if c.bound fa && c.bound fb then some 32 else none)
  else if fa != 0 && ta != 12 || fb != 0 && tb != 12 then none
  else if (ta == 6 || ta == 7) && (tb == 6 || tb == 7) then some 32
  else if (ta == 10 || ta == 11) && (tb == 10 || tb == 11) then some 16
  else if ta == 8 && tb == 8 then some 8
  else none

/-- Whether an operand of this type and slot has block scales (R415). -/
def scaled (c : LaneCfg) (t : BitVec 4) (fs : BitVec 3) : Bool := t == 12 && c.bound fs && (c.slot fs).scale == 1
/-- A scale register against its operand (R415): 255 exactly when the operand is not scaled; a real register exists. -/
def scaleOk (c : LaneCfg) (t : BitVec 4) (fs : BitVec 3) (r : BitVec 8) : Bool :=
  if scaled c t fs then r.toNat < c.vregs else r == 255
/-- Packing is for slots of W at most 4 (R414). -/
def packOk (c : LaneCfg) (t : BitVec 4) (fs : BitVec 3) (p : Bool) : Bool :=
  !p || (t == 12 && (c.slot fs).w ≤ 4)
/-- The fields that every matrix instruction fixes (R416). -/
def isAcc (n : BitVec 8) : Bool := 64 ≤ n.toNat && n.toNat ≤ 71
def isTile (n : BitVec 8) : Bool := n.toNat < 64

/-- The B type and B slot of a matrix instruction, and the bit fields of its IMM16 (R416, R417). -/
def bType (f : LaneWord) : BitVec 4 := f.mod.extractLsb' 0 4
def bSlot (f : LaneWord) : BitVec 3 := f.mod.extractLsb' 4 3
def bscReg (f : LaneWord) : BitVec 8 := f.imm.extractLsb' 8 8

/-- What the entry of a lane instruction admits; `none` for what is no lane instruction. -/
def laneSpec (c : LaneCfg) : Instr → Option LaneSpec
  | .iadd f | .isub f | .iadc f | .isbc f | .imul f | .idiv f => some (specInt f false true true)
  | .imulh f | .irem f | .imin f | .imax f => some (specInt f false true false)
  | .imad f | .isad f => some (specInt f true true true)
  | .iabs f => let s := specInt f false false true; some { s with ty := tySigned f.ty }
  | .blut f =>
    let k : SrcSpec := .opnd [0, 1, 3] (tyHeld f.ty) false
    some { specBits f k k with a := k, imm := f.imm.extractLsb' 8 8 == (0 : BitVec 8) }
  | .laneShl f | .laneShr f | .laneSra f => some (specBits f (anySrc f.ty) .unused)
  | .fshl f | .fshr f => some (specBits f (anySrc f.ty) (anySrc f.ty))
  | .bfx f => let s := specBits f int32Src .unused; some { s with ty := f.ty.toNat < 4 }
  | .bfi f => some (specBits f (anySrc f.ty) int32Src)
  | .lanePopc f | .laneClz f | .brev f => some (specBits f .unused .unused)
  | .prmt f => let s := specBits f (anySrc f.ty) (anySrc f.ty); some { s with ty := f.ty == 13 }
  | .iset f =>
    some { ty := tyInt f.ty, a := anySrc f.ty, b := anySrc f.ty, c := .unused, d := .vecOpt 32, rm := rmZero f,
           fs := f.fs == 0, mod := modBits f 0xF && modLow f 3 ≤ 5, imm := immFree f }
  | .sel f =>
    let k : SrcSpec := .opnd [0, 1, 2, 3] (tyHeld f.ty) false
    some { ty := f.ty != 12 && f.ty != 15, a := k, b := k, c := int32Src, d := .vecOpt (tyHeld f.ty), rm := rmZero f,
           fs := f.fs == 0, mod := f.mod == 0, imm := immFree f }
  | .mov f =>
    some { ty := f.ty != 12 && f.ty != 15, a := .opnd [0, 1, 2, 3] (tyHeld f.ty) false, b := .unused, c := .unused,
           d := .vecOpt (tyHeld f.ty), rm := rmZero f, fs := f.fs == 0, mod := f.mod == 0, imm := immFree f }
  | .fadd f | .fsub f | .fmul f | .fdiv f => some (specFloat f (anySrc f.ty) .unused true (f.mod == 0) (tyHeld f.ty))
  | .ffma f => some (specFloat f (anySrc f.ty) (anySrc f.ty) true (f.mod == 0) (tyHeld f.ty))
  | .fmin f | .fmax f => some (specFloat f (anySrc f.ty) .unused false (f.mod == 0) (tyHeld f.ty))
  | .fsqrt f | .frcp f | .frsq f | .fex2 f | .flg2 f | .fsinp f | .fcosp f =>
    some (specFloat f .unused .unused true (f.mod == 0) (tyHeld f.ty))
  | .fset f => some (specFloat f (anySrc f.ty) .unused false (modBits f 0xF) 32)
  | .fclass f => some (specFloat f .unused .unused false (f.mod == 0) 32)
  | .frnd f => some (specFloat f .unused .unused true (modBits f 1) (tyHeld f.ty))
  | .fscale f => some (specFloat f int32Src .unused true (f.mod == 0) (tyHeld f.ty))
  | .fgete f => some (specFloat f .unused .unused false (f.mod == 0) 32)
  | .cvt f =>
    let from_ := bType f
    let usesSlot := f.ty == 12 || from_ == 12
    some { ty := f.ty.toNat ≤ 12 && from_.toNat ≤ 12 && !(f.ty == 12 && from_ == 12),
           a := .opnd [0, 1, 2, 3] (tyHeld from_) (tyFloat from_ || from_ == 12), b := .unused, c := .unused,
           d := .vecOpt (tyHeld f.ty), rm := rmUsed f, fs := if usesSlot then c.bound f.fs else f.fs == 0,
           mod := modBits f 0x1F && (!f.mod.getLsbD 4 || (tyInt f.ty && tyInt from_)), imm := immFree f }
  | .cvtsEnc f | .cvtsDec f =>
    some { ty := f.ty == 12, a := .opnd [0, 1] 32 false, b := .raw (scaleOk c 12 f.fs f.sb), c := .unused,
           d := .vecOpt 32, rm := rmUsed f, fs := c.bound f.fs, mod := modBits f 1,
           imm := f.imm.extractLsb' 2 6 == (0 : BitVec 6) }
  | .pack f =>
    let k : SrcSpec := .opnd [0, 1, 3] 32 false
    some { ty := f.ty == 13, a := k, b := k, c := .unused, d := .vecOpt 32, rm := rmZero f, fs := f.fs == 0,
           mod := modBits f 3 && modLow f 2 ≤ 2, imm := f.imm.toNat < 8 / 2 ^ modLow f 2 }
  | .unpk f =>
    let k : SrcSpec := .opnd [0, 1, 3] 32 false
    some { ty := f.ty == 13, a := k, b := .unused, c := .unused, d := .vecOpt 32, rm := rmZero f, fs := f.fs == 0,
           mod := modBits f 0xB && modLow f 2 ≤ 2, imm := f.imm.toNat < 8 / 2 ^ modLow f 2 }
  | .lxch f =>
    some { ty := tyBits f.ty, a := anySrc f.ty, b := .opnd [0, 1, 2] 32 false, c := .unused, d := .vec (tyHeld f.ty),
           rm := rmZero f, fs := f.fs == 0, mod := modBits f 7 && modLow f 3 ≤ 4, imm := immFree f }
  | .lpoll f =>
    let mode := modLow f 3; let ones := f.mod.getLsbD 3; let scal := f.mod.getLsbD 8
    some { ty := tyBits f.ty, a := .opnd [0, 1, 2, 3] (if mode = 3 then 32 else tyHeld f.ty) false, b := .unused,
           c := .unused, d := if scal then .scalar else .vec (if mode = 3 then tyHeld f.ty else 32), rm := rmZero f,
           fs := f.fs == 0, cw := !(f.cw && scal),
           mod := modBits f 0x10F && mode ≤ 4 && (!ones || mode ≤ 2) && (!scal || 3 ≤ mode), imm := immFree f }
  | .lred f =>
    let op := modLow f 3; let scal := f.mod.getLsbD 8
    some { ty := if op ≤ 2 then tyInt f.ty || tyFloat f.ty else tyBits f.ty, a := anySrc f.ty, b := .unused,
           c := .unused, d := if scal then .scalar else .vec (tyHeld f.ty),
           rm := if tyFloat f.ty && op == 0 then rmUsed f else rmZero f, fs := f.fs == 0, cw := !(f.cw && scal),
           mod := modBits f 0x107 && op ≤ 5, imm := immFree f }
  | .lscan f =>
    let op := modLow f 3
    some { ty := if op ≤ 2 then tyInt f.ty || tyFloat f.ty else tyBits f.ty, a := anySrc f.ty, b := .unused,
           c := .unused, d := .vec (tyHeld f.ty), rm := if tyFloat f.ty && op == 0 then rmUsed f else rmZero f,
           fs := f.fs == 0, mod := modBits f 0x17 && op ≤ 5, imm := immFree f }
  | .lpeer f =>
    some { ty := tyBits f.ty, a := anySrc f.ty, b := .unused, c := .unused, d := .vec 32, rm := rmZero f,
           fs := f.fs == 0, mod := modBits f 3 && modLow f 2 ≤ 2, imm := immFree f }
  | .mop f =>
    let op := modLow f 3
    let m (n : BitVec 8) : SrcSpec := .raw (n.toNat ≤ 7)
    some { ty := f.ty == 0, a := if op ≤ 5 then m f.sa else .unused, b := if op ≤ 3 then m f.sb else .unused,
           c := .unused, d := .raw (1 ≤ f.dst.toNat && f.dst.toNat ≤ 7), rm := rmZero f, fs := f.fs == 0, cw := !f.cw,
           mod := modBits f 7, imm := f.imm == 0 }
  | .mcopyV2m f =>
    some { ty := f.ty == 0, a := .opnd [0, 2] 32 false, b := .unused, c := .unused,
           d := .raw (1 ≤ f.dst.toNat && f.dst.toNat ≤ 7), rm := rmZero f, fs := f.fs == 0, cw := !f.cw,
           mod := f.mod == 0, imm := immFree f }
  | .mcopyM2v f =>
    some { ty := f.ty == 0, a := .raw (f.sa.toNat ≤ 7), b := .unused, c := .unused, d := .vec 32, rm := rmZero f,
           fs := f.fs == 0, cw := !f.cw, mod := f.mod == 1, imm := f.imm == 0 }
  | .mcopyS2m f =>
    some { ty := f.ty == 0, a := .opnd [1] 64 false, b := .unused, c := .unused,
           d := .raw (1 ≤ f.dst.toNat && f.dst.toNat ≤ 7), rm := rmZero f, fs := f.fs == 0, cw := !f.cw,
           mod := f.mod == 2, imm := f.imm == 0 }
  | .mcopyM2s f =>
    some { ty := f.ty == 0, a := .raw (f.sa.toNat ≤ 7), b := .unused, c := .unused, d := .scalar, rm := rmZero f,
           fs := f.fs == 0, cw := !f.cw, mod := f.mod == 0x103, imm := f.imm == 0 }
  | .ccget f =>
    some { ty := f.ty == 0, a := .unused, b := .unused, c := .unused, d := .vec 32, rm := rmZero f, fs := f.fs == 0,
           cw := !f.cw, mod := f.mod == 0, imm := f.imm == 0 }
  | .ccput f =>
    some { ty := f.ty == 0, a := .opnd [0, 1, 2] 32 false, b := .unused, c := .unused, d := .null, rm := rmZero f,
           fs := f.fs == 0, cw := !f.cw, mod := f.mod == 0, imm := immFree f }
  | .ld f =>
    let size := modLow f 3
    some { ty := f.ty == 0, a := addrA f, b := addrB f, c := .raw (f.sc.toNat ≤ 7),
           d := .vec (if size = 4 then 128 else if size = 3 then 64 else 32), rm := memBits f true true, fs := f.fs == 0,
           cw := !f.cw, mod := size ≤ 4 && (!f.mod.getLsbD 3 || size ≤ 1) && memOrder f ≤ 1 && memScope f ≤ 4 }
  | .st f =>
    let size := modLow f 3
    some { ty := f.ty == 0, a := addrA f, b := addrB f,
           c := .opnd [0, 1] (if size = 4 then 128 else if size = 3 then 64 else 32) false, d := .null,
           rm := memBits f true true, fs := f.fs == 0, cw := !f.cw,
           mod := size ≤ 4 && !f.mod.getLsbD 3 && (memOrder f == 0 || memOrder f == 2) && memScope f ≤ 4 }
  | .atom f => some (specAtom f true)
  | .atomn f => some (specAtom f false)
  | .cas f =>
    some { ty := tyBits f.ty, a := addrA f, b := addrB f, c := if f.ty == 14 then .regs 4 4 else .regs 2 1,
           d := .vec (tyHeld f.ty), rm := memBits f false false, cw := !f.cw,
           mod := modLow f 4 == 0 && memScope f ≤ 4 }
  | .pref f =>
    some { ty := f.ty == 0, a := addrA f, b := addrB f, c := .unused, d := .null, rm := memBits f true false,
           fs := f.fs == 0, cw := !f.cw, mod := modBits f 1 }
  | .tld f =>
    some { ty := tyBits f.ty, a := .raw (isTile f.sa), b := .opnd [0, 1] 32 false, c := .unused, d := .vec (tyHeld f.ty),
           rm := rmZero f, fs := f.fs == 0, cw := !f.cw, mod := modBits f 8, imm := f.imm == 0 }
  | .tst f =>
    some { ty := tyBits f.ty, a := .raw (isTile f.sa), b := .opnd [0, 1] 32 false,
           c := .opnd [0, 1] (tyHeld f.ty) false, d := .null, rm := rmZero f, fs := f.fs == 0, cw := !f.cw,
           mod := f.mod == 0, imm := f.imm == 0 }
  | .tatom f =>
    some { ty := atomTyOk (modLow f 4) f.ty, a := .raw (isTile f.sa), b := .opnd [0, 1] 32 false,
           c := .opnd [0, 1] (tyHeld f.ty) false, d := .vecOpt (tyHeld f.ty), rm := rmZero f, fs := f.fs == 0,
           cw := !f.cw, mod := modBits f 0xF, imm := f.imm == 0 }
  | .mma f =>
    some { ty := (mmaPair c f.ty f.fs (bType f) (bSlot f)).isSome, a := .raw (isTile f.sa), b := .raw (isTile f.sb),
           c := .raw (scaleOk c f.ty f.fs f.sc), d := .raw (isAcc f.dst), rm := rmUsed f, cw := !f.cw,
           mod := modBits f 0x7F,
           imm := f.imm.extractLsb' 6 2 == (0 : BitVec 2) && scaleOk c (bType f) (bSlot f) (bscReg f) &&
             packOk c f.ty f.fs (f.imm.getLsbD 4) && packOk c (bType f) (bSlot f) (f.imm.getLsbD 5) }
  | .mmac f =>
    some { ty := (f.ty == 10 || f.ty == 11 || f.ty == 12) && (mmaPair c f.ty f.fs (bType f) (bSlot f)).isSome,
           a := .raw (isAcc f.sa && f.sa != f.dst), b := .raw (isTile f.sb), c := .raw (f.sc == 255),
           d := .raw (isAcc f.dst), rm := rmUsed f, cw := !f.cw, mod := modBits f 0x7F,
           imm := f.imm.extractLsb' 6 2 == (0 : BitVec 2) && scaleOk c (bType f) (bSlot f) (bscReg f) &&
             f.imm.extractLsb' 0 2 == (0 : BitVec 2) && !f.imm.getLsbD 4 && packOk c (bType f) (bSlot f) (f.imm.getLsbD 5) }
  | .fmma f =>
    some { ty := f.ty == 9, a := .raw (isTile f.sa), b := .raw (isTile f.sb), c := .raw (f.sc == 255),
           d := .raw (isAcc f.dst), rm := rmUsed f, fs := f.fs == 0, cw := !f.cw, mod := f.mod == 9,
           imm := f.imm == 0 }
  | .aclr f =>
    some { ty := f.ty == 8 || f.ty == 1 || f.ty == 9, a := .unused, b := .unused, c := .unused, d := .raw (isAcc f.dst),
           rm := rmZero f, fs := f.fs == 0, cw := !f.cw, mod := f.mod == 0, imm := f.imm == 0 }
  | .ald f =>
    some { ty := f.ty == 8 || f.ty == 1 || f.ty == 9, a := .raw (isTile f.sa), b := .unused, c := .unused,
           d := .raw (isAcc f.dst), rm := rmZero f, fs := f.fs == 0, cw := !f.cw, mod := f.mod == 0, imm := f.imm == 0 }
  | .acvt f =>
    let t := f.ty
    some { ty := t == 8 || t == 10 || t == 11 || t == 1 || t == 5 || t == 7 || t == 9 || t == 12, a := .raw (isAcc f.sa),
           b := .unused, c := .unused, d := .raw (isTile f.dst), rm := rmUsed f,
           fs := if t == 12 then c.bound f.fs && (c.slot f.fs).scale == 0 else f.fs == 0, cw := !f.cw,
           mod := modBits f 1 && (!f.mod.getLsbD 0 || tyInt t), imm := f.imm == 0 }
  | .mclose f =>
    some { ty := f.ty == 0, a := .unused, b := .unused, c := .unused, d := .null, rm := rmZero f, fs := f.fs == 0,
           cw := !f.cw, mod := f.mod == 0,
           imm := f.imm.extractLsb' 5 11 == (0 : BitVec 11) &&
             (if f.imm.getLsbD 4 then f.imm.extractLsb' 0 4 == (0 : BitVec 4) else (f.imm.extractLsb' 0 4).toNat < 12) }
  | _ => none

/-- The lane word of a lane instruction. -/
def Instr.lane? : Instr → Option LaneWord
  | .iadd f | .isub f | .iadc f | .isbc f | .imul f | .imulh f | .imad f | .idiv f | .irem f | .imin f | .imax f | .iabs f
  | .isad f | .blut f | .laneShl f | .laneShr f | .laneSra f | .fshl f | .fshr f | .bfx f | .bfi f | .lanePopc f
  | .laneClz f | .brev f | .prmt f | .iset f | .sel f | .mov f | .fadd f | .fsub f | .fmul f | .ffma f | .fmin f | .fmax f
  | .fdiv f | .fsqrt f | .frcp f | .frsq f | .fex2 f | .flg2 f | .fsinp f | .fcosp f | .fset f | .fclass f | .frnd f
  | .fscale f | .fgete f | .cvt f | .cvtsEnc f | .cvtsDec f | .pack f | .unpk f | .lxch f | .lpoll f | .lred f | .lscan f
  | .lpeer f | .mop f | .mcopyV2m f | .mcopyM2v f | .mcopyS2m f | .mcopyM2s f | .ccget f | .ccput f | .ld f | .st f
  | .atom f | .atomn f | .cas f | .pref f | .tld f | .tst f | .tatom f | .mma f | .mmac f | .fmma f | .aclr f | .ald f
  | .acvt f | .mclose f => some f
  | _ => none

/-- Whether a lane instruction is legal under a launch (R327 step 3): its entry admits every field, the condition exists
(R321), and the word selects the row that its constructor names. -/
def laneLegal (c : LaneCfg) (i : Instr) : Bool :=
  match i.lane?, laneSpec c i with
  | some f, some s =>
    i.wf && s.ty && srcOk c s.a f.sa f.ka f.la f.kpa && srcOk c s.b f.sb f.kb f.lb f.kpb &&
    srcOk c s.c f.sc f.kc f.lc f.kpc && dstOk c s.d f.dst && s.rm && s.fs && s.cw && s.mod && s.imm && f.cnd != 15
  | _, _ => false

end Sys2Proof
end

