-- ==== Sys2Proof/Decode.lean ====
section
/-!
DEFINITION. The decoder: total on any bits, rejecting by name; and after it the encoder, written from the same
encoding tables (R310 to R316, R326, R329, R330, R222, R425, R435). Scalar words are 32 bits, S.X instructions take a
second word; lane instructions and clause headers are 96 bits.
-/

namespace Sys2Proof

/-- Why bits are no instruction. -/
inductive DecodeError where
  | illegalScalar (w : W32)   -- R312 to R315: unassigned SOP or SFN, extension space, or a nonzero unused field
  | illegalLop (lop : Byte)   -- R330: an illegal lane opcode
  | header                    -- R330: LOP 0xFC, a clause header
  | truncated                 -- fewer bits than the instruction has
deriving DecidableEq, Repr

/-- A field of a scalar word, bits h down to l. -/
def fieldOf (w : W32) (lo len : Nat) : BitVec len := w.extractLsb' lo len

def sop (w : W32) : BitVec 6 := fieldOf w 26 6
def fSD (w : W32) : SReg := fieldOf w 20 6
def fSA (w : W32) : SReg := fieldOf w 14 6
def fSB (w : W32) : SReg := fieldOf w 8 6
def fSFN (w : W32) : Byte := fieldOf w 0 8
def fSIMM (w : W32) : BitVec 14 := fieldOf w 0 14

/-- Whether a scalar word begins an S.X instruction, which a second word follows (R310, R313). -/
def isTwoWord (w : W32) : Bool := sop w == 0x0B || sop w == 0x13 || sop w == 0x24

/-- SYS group, SOP 0x00 (R314): the fields that an SFN does not use are zero (R312). -/
def decodeSys (w : W32) : Option Instr :=
  let d := fSD w; let a := fSA w; let b := fSB w
  match (fSFN w).toNat with
  | 0x00 => if d = 0 ∧ a = 0 ∧ b = 0 then some .nop else none
  | 0x01 => if d = 0 ∧ a = 0 ∧ b = 0 then some .exit else none
  | 0x02 => if d = 0 ∧ a = 0 ∧ b = 0 then some .join else none
  | 0x03 => if d = 0 ∧ a = 0 ∧ b = 0 then some .yield else none
  | 0x04 => if d = 0 ∧ a = 0 ∧ b = 0 then some .brk else none
  | 0x05 => if d = 0 ∧ a = 0 ∧ b = 0 then some .ret else none
  | 0x06 => if d = 0 ∧ b = 0 then some (.jmpr a) else none
  | 0x07 => if a = 0 ∧ b = 0 then some (.time d) else none
  | 0x08 => if d = 0 ∧ b = 0 then some (.sleept a) else none
  | 0x09 => if d = 0 ∧ b = 0 then some (.pagereq a) else none
  | 0x0A => if d = 0 ∧ a = 0 ∧ b = 0 then some .rett else none
  | _ => none

/-- ALU group, SOP 0x01 (R314, R340). -/
def decodeAlu (w : W32) : Option Instr :=
  let d := fSD w; let a := fSA w; let b := fSB w
  match (fSFN w).toNat with
  | 0x00 => some (.add d a b)
  | 0x01 => some (.sub d a b)
  | 0x02 => some (.mul d a b)
  | 0x03 => some (.mulhn d a b)
  | 0x04 => some (.mulhi d a b)
  | 0x05 => some (.divn d a b)
  | 0x06 => some (.divi d a b)
  | 0x07 => some (.remn d a b)
  | 0x08 => some (.remi d a b)
  | 0x10 => some (.and d a b)
  | 0x11 => some (.or d a b)
  | 0x12 => some (.xor d a b)
  | 0x13 => some (.andn d a b)
  | 0x18 => some (.shl d a b)
  | 0x19 => some (.shr d a b)
  | 0x1A => some (.sra d a b)
  | 0x20 => some (.minn d a b)
  | 0x21 => some (.mini d a b)
  | 0x22 => some (.maxn d a b)
  | 0x23 => some (.maxi d a b)
  | 0x28 => some (.seq d a b)
  | 0x29 => some (.sne d a b)
  | 0x2A => some (.sltn d a b)
  | 0x2B => some (.slti d a b)
  | 0x30 => if b = 0 then some (.clz d a) else none
  | 0x31 => if b = 0 then some (.popc d a) else none
  | _ => none

/-- A shift immediate, whose SIMM14 bits 13:6 are zero (R343). -/
def shiftImm (w : W32) (mk : SReg → SReg → BitVec 6 → Instr) : Option Instr :=
  if fieldOf w 6 8 = 0 then some (mk (fSD w) (fSA w) (fieldOf w 0 6)) else none

/-- TBAR, SOP 0x18 (R313, R356): a field that an operation does not use is zero. -/
def decodeTbar (w : W32) : Option Instr :=
  let d := fSD w; let a := fSA w; let b := fSB w; let n : BitVec 4 := fieldOf w 4 4
  match (fieldOf w 0 4 : BitVec 4).toNat with
  | 0 => if a = 0 ∧ b = 0 then some (.tbarArrive d n) else none
  | 1 => if a = 0 ∧ b = 0 then some (.tbarWait d n) else none
  | 2 => if a = 0 ∧ b = 0 then some (.tbarSync d n) else none
  | 3 => some (.tbarExpect d a b n)
  | 4 => if a = 0 then some (.tbarAddb d b n) else none
  | 5 => if a = 0 ∧ b = 0 then some (.tbarTest d n) else none
  | _ => none

/-- CBAR, SOP 0x19 (R359). -/
def decodeCbar (w : W32) : Option Instr :=
  let d := fSD w
  if fSA w = 0 ∧ fSB w = 0 ∧ (fieldOf w 4 4 : BitVec 4) = 0 then
    match (fieldOf w 0 4 : BitVec 4).toNat with
    | 0 => some (.cbarArrive d)
    | 1 => some (.cbarWait d)
    | 2 => some (.cbarSync d)
    | _ => none
  else none

/-- FENCE, SOP 0x1A (R222). -/
def decodeFence (w : W32) : Option Instr :=
  let s : BitVec 3 := fieldOf w 0 3
  if fSD w = 0 ∧ fSA w = 0 ∧ fSB w = 0 ∧ (fieldOf w 5 3 : BitVec 3) = 0 ∧ s.toNat < 5 then
    match (fieldOf w 3 2 : BitVec 2).toNat with
    | 0 => some (.fenceAcq s)
    | 1 => some (.fenceRel s)
    | 2 => some (.fenceAr s)
    | _ => some (.fenceSc s)
  else none

/-- The fields of DRAY's second word (R425). -/
def drayWord (w1 : W32) : DrayWord :=
  { bar := fieldOf w1 28 4, cnt := fieldOf w1 27 1 = (1 : BitVec 1), flag := fieldOf w1 23 4,
    fv := fieldOf w1 22 1 = (1 : BitVec 1), cls := fieldOf w1 20 2, rowoff := fieldOf w1 0 16 }

/-- DRAY, SOP 0x24 (R425). Whether a RED is legal in its context is decided when it is issued. -/
def decodeDray (w w1 : W32) : Option Instr :=
  let a := fSA w; let b := fSB w; let tile : BitVec 6 := fieldOf w 0 6; let x := drayWord w1
  if fSD w = 0 ∧ (fieldOf w1 16 4 : BitVec 4) = 0 ∧ x.wf = true then
    match (fieldOf w 6 2 : BitVec 2).toNat with
    | 0 => some (.drayM2t a b tile x)
    | 1 => some (.drayT2m a b tile x)
    | 2 => if b = 0 then some (.drayT2t a tile x) else none
    | _ => if tile = 0 ∧ x.rowoff = 0 then some (.drayRed a b x) else none
  else none

/-- The scalar decoder (R313): word 0, and word 1 for an S.X instruction. -/
def decodeScalar (w w1 : W32) : Option Instr :=
  let d := fSD w; let a := fSA w; let b := fSB w; let i := fSIMM w
  match (sop w).toNat with
  | 0x00 => decodeSys w
  | 0x01 => decodeAlu w
  | 0x02 => some (.addi d a i)
  | 0x03 => some (.andi d a i)
  | 0x04 => some (.ori d a i)
  | 0x05 => some (.xori d a i)
  | 0x06 => shiftImm w .shli
  | 0x07 => shiftImm w .shri
  | 0x08 => shiftImm w .srai
  | 0x09 => some (.sltin d a i)
  | 0x0A => some (.sltii d a i)
  | 0x0B =>
    if a = 0 ∧ b = 0 then
      match (fSFN w).toNat with
      | 0 => some (.liwSx d w1)
      | 1 => some (.liwZx d w1)
      | 2 => some (.liwHi d w1)
      | _ => none
    else none
  | 0x0C => some (.slw d a i)
  | 0x0D => some (.sld d a i)
  | 0x0E => some (.ssw d a i)
  | 0x0F => some (.ssd d a i)
  | 0x10 =>
    let c : BitVec 3 := fieldOf w 11 3
    if c.toNat < 6 then some (.brc d a c (fieldOf w 0 11)) else none
  | 0x11 => some (.jmp (fieldOf w 0 26))
  | 0x12 => some (.call (fieldOf w 0 26))
  | 0x13 =>
    if (fieldOf w 0 22 : BitVec 22) = 0 then
      some (.bspl (fieldOf w 23 3) (fieldOf w 22 1 = (1 : BitVec 1)) (fieldOf w1 16 16) (fieldOf w1 0 16))
    else none
  | 0x14 => some (.run (fieldOf w 0 26))
  | 0x15 =>
    if (fieldOf w 12 13 : BitVec 13) = 0 then some (.waitf (fieldOf w 25 1 = (1 : BitVec 1)) (fieldOf w 0 12)) else none
  | 0x16 =>
    let c : BitVec 3 := fieldOf w 0 3
    if (fieldOf w 3 23 : BitVec 23) = 0 ∧ 1 ≤ c.toNat ∧ c.toNat ≤ 6 then some (.seg c) else none
  | 0x17 => if d = 0 then some (.trap a i) else none
  | 0x18 => decodeTbar w
  | 0x19 => decodeCbar w
  | 0x1A => decodeFence w
  | 0x1B => if a = 0 then some (.smr d i) else none
  | 0x1C => if d = 0 then some (.smw a i) else none
  | 0x20 => some (.talloc d a b (fieldOf w 6 2) (fieldOf w 0 6))
  | 0x21 => if a = 0 ∧ b = 0 then some (.tfree d (fieldOf w 6 2) (fieldOf w 0 6)) else none
  | 0x22 => if a = 0 ∧ b = 0 then some (.tinfo d (fieldOf w 6 2) (fieldOf w 0 6)) else none
  | 0x24 => decodeDray w w1
  | 0x25 => if (fieldOf w 6 2 : BitVec 2) = 0 then some (.dprobe d a b (fieldOf w 0 6)) else none
  | 0x28 =>
    let s : BitVec 2 := fieldOf w 6 2; let k : SReg := fieldOf w 0 6
    if b = 0 ∧ bmintLegal d s k = true then some (.bmint d a s k) else none
  | 0x29 => if b = 0 ∧ fSFN w = 0 then some (.bwait d a) else none
  | 0x2A =>
    let s : BitVec 2 := fieldOf w 0 2
    if d = 0 ∧ (fieldOf w 2 6 : BitVec 6) = 0 ∧ bputLegal b s = true then some (.bput a b s) else none
  | 0x2B => if d = 0 ∧ b = 0 ∧ fSFN w = 0 then some (.bdrop a) else none
  | 0x2C => if fSFN w = 0 then some (.stage d a b) else none
  | _ => none

/-- The decoder of the scalar stream: an instruction, or the word rejected by name (R312, R315). -/
def decode (w w1 : W32) : Except DecodeError Instr :=
  match decodeScalar w w1 with
  | some i => .ok i
  | none => .error (.illegalScalar w)

/-! ### The lane stream -/

/-- The fields of a lane word (R316). -/
def laneFields (w : W96) : LaneWord :=
  let bit (n : Nat) : Bool := w.getLsbD n
  { dst := w.extractLsb' 80 8, sa := w.extractLsb' 72 8, sb := w.extractLsb' 64 8, sc := w.extractLsb' 56 8,
    ka := w.extractLsb' 54 2, kb := w.extractLsb' 52 2, kc := w.extractLsb' 50 2,
    la := bit 49, kpa := bit 48, lb := bit 47, kpb := bit 46, lc := bit 45, kpc := bit 44,
    msk := w.extractLsb' 41 3, mnot := bit 40, ty := w.extractLsb' 36 4, rm := w.extractLsb' 33 3,
    fs := w.extractLsb' 30 3, cw := bit 29, cnd := w.extractLsb' 25 4, mod := w.extractLsb' 16 9,
    imm := w.extractLsb' 0 16 }

/-- The lane opcode map (R329, R330): CVTS and MCOPY select their row by MOD. -/
def laneOf (lop : Nat) (f : LaneWord) : Option Instr :=
  match lop with
  | 0x00 => some (.iadd f)
  | 0x01 => some (.isub f)
  | 0x02 => some (.iadc f)
  | 0x03 => some (.isbc f)
  | 0x04 => some (.imul f)
  | 0x05 => some (.imulh f)
  | 0x06 => some (.imad f)
  | 0x07 => some (.idiv f)
  | 0x08 => some (.irem f)
  | 0x09 => some (.imin f)
  | 0x0A => some (.imax f)
  | 0x0B => some (.iabs f)
  | 0x0C => some (.isad f)
  | 0x10 => some (.blut f)
  | 0x11 => some (.laneShl f)
  | 0x12 => some (.laneShr f)
  | 0x13 => some (.laneSra f)
  | 0x14 => some (.fshl f)
  | 0x15 => some (.fshr f)
  | 0x16 => some (.bfx f)
  | 0x17 => some (.bfi f)
  | 0x18 => some (.lanePopc f)
  | 0x19 => some (.laneClz f)
  | 0x1A => some (.brev f)
  | 0x1B => some (.prmt f)
  | 0x20 => some (.iset f)
  | 0x21 => some (.sel f)
  | 0x22 => some (.mov f)
  | 0x40 => some (.fadd f)
  | 0x41 => some (.fsub f)
  | 0x42 => some (.fmul f)
  | 0x43 => some (.ffma f)
  | 0x44 => some (.fmin f)
  | 0x45 => some (.fmax f)
  | 0x46 => some (.fdiv f)
  | 0x47 => some (.fsqrt f)
  | 0x48 => some (.frcp f)
  | 0x49 => some (.frsq f)
  | 0x4A => some (.fex2 f)
  | 0x4B => some (.flg2 f)
  | 0x4C => some (.fsinp f)
  | 0x4D => some (.fcosp f)
  | 0x50 => some (.fset f)
  | 0x51 => some (.fclass f)
  | 0x52 => some (.frnd f)
  | 0x53 => some (.fscale f)
  | 0x54 => some (.fgete f)
  | 0x60 => some (.cvt f)
  | 0x61 => if f.mod.getLsbD 0 then some (.cvtsDec f) else some (.cvtsEnc f)
  | 0x62 => some (.pack f)
  | 0x63 => some (.unpk f)
  | 0x70 => some (.lxch f)
  | 0x71 => some (.lpoll f)
  | 0x72 => some (.lred f)
  | 0x73 => some (.lscan f)
  | 0x74 => some (.lpeer f)
  | 0x78 => some (.mop f)
  | 0x79 =>
    match (f.mod.extractLsb' 0 2).toNat with
    | 0 => some (.mcopyV2m f)
    | 1 => some (.mcopyM2v f)
    | 2 => some (.mcopyS2m f)
    | _ => some (.mcopyM2s f)
  | 0x7A => some (.ccget f)
  | 0x7B => some (.ccput f)
  | 0x80 => some (.ld f)
  | 0x81 => some (.st f)
  | 0x82 => some (.atom f)
  | 0x83 => some (.atomn f)
  | 0x84 => some (.cas f)
  | 0x85 => some (.pref f)
  | 0x88 => some (.tld f)
  | 0x89 => some (.tst f)
  | 0x8A => some (.tatom f)
  | 0xA0 => some (.mma f)
  | 0xA1 => some (.mmac f)
  | 0xA2 => some (.aclr f)
  | 0xA3 => some (.acvt f)
  | 0xA4 => some (.mclose f)
  | 0xA5 => some (.ald f)
  | 0xE0 => some (.fmma f)
  | _ => none

/-- The decoder of the lane stream (R316, R329, R330). -/
def decodeLane (w : W96) : Except DecodeError Instr :=
  let lop : Byte := w.extractLsb' 88 8
  if lop = 0xFC then .error .header
  else match laneOf lop.toNat (laneFields w) with
    | some i => .ok i
    | none => .error (.illegalLop lop)

/-- A clause header's fields (R326). -/
structure ClauseHdr where
  len  : BitVec 5
  wait : BitVec 12
  set0 : BitVec 4
  set1 : BitVec 4
deriving DecidableEq, Repr

/-- The header of a clause, or `none` when it is invalid on its own: TAGB, bits 62:0, SET0 or SET1 of 12 to 14, or one
flag in both (R163, R327 step 2). -/
def decodeHeader (w : W96) : Option ClauseHdr :=
  let h : ClauseHdr := { len := w.extractLsb' 83 5, wait := w.extractLsb' 71 12, set0 := w.extractLsb' 67 4, set1 := w.extractLsb' 63 4 }
  let ok (f : BitVec 4) : Bool := f.toNat < 12 || f.toNat == 15
  if w.extractLsb' 88 8 = (0xFC : Byte) ∧ w.extractLsb' 0 63 = (0 : BitVec 63) ∧ ok h.set0 = true ∧ ok h.set1 = true ∧
      ¬ (h.set0 = h.set1 ∧ h.set0 ≠ 15) then some h else none

/-! ### The encoder -/

/-- An S.R word (R310). -/
def encR (op : BitVec 6) (d a b : SReg) (fn : Byte) : W32 := op ++ d ++ a ++ b ++ fn
/-- An S.I word. -/
def encI (op : BitVec 6) (d a : SReg) (i : BitVec 14) : W32 := op ++ d ++ a ++ i
/-- An S.J word. -/
def encJ (op : BitVec 6) (o : BitVec 26) : W32 := op ++ o
/-- One bit of a Bool field. -/
def bit1 (b : Bool) : BitVec 1 := BitVec.ofBool b
/-- DRAY's second word (R425). -/
def encDrayWord (x : DrayWord) : W32 := x.bar ++ bit1 x.cnt ++ x.flag ++ bit1 x.fv ++ x.cls ++ (0 : BitVec 4) ++ x.rowoff
/-- The 96-bit word of a lane instruction (R316). -/
def encLane (lop : Byte) (f : LaneWord) : W96 :=
  lop ++ f.dst ++ f.sa ++ f.sb ++ f.sc ++ f.ka ++ f.kb ++ f.kc ++ bit1 f.la ++ bit1 f.kpa ++ bit1 f.lb ++ bit1 f.kpb ++
    bit1 f.lc ++ bit1 f.kpc ++ f.msk ++ bit1 f.mnot ++ f.ty ++ f.rm ++ f.fs ++ bit1 f.cw ++ f.cnd ++ f.mod ++ f.imm

/-- The words of an instruction. -/
inductive Words where
  | one (w : W32)
  | two (w w1 : W32)
  | lane (w : W96)
deriving DecidableEq, Repr

/-- The words of an instruction; an event has none. -/
def encode : Instr → Option Words
  | .nop => some (.one (encR 0x00 0 0 0 0x00))
  | .exit => some (.one (encR 0x00 0 0 0 0x01))
  | .join => some (.one (encR 0x00 0 0 0 0x02))
  | .yield => some (.one (encR 0x00 0 0 0 0x03))
  | .brk => some (.one (encR 0x00 0 0 0 0x04))
  | .ret => some (.one (encR 0x00 0 0 0 0x05))
  | .rett => some (.one (encR 0x00 0 0 0 0x0A))
  | .jmpr a => some (.one (encR 0x00 0 a 0 0x06))
  | .time d => some (.one (encR 0x00 d 0 0 0x07))
  | .sleept a => some (.one (encR 0x00 0 a 0 0x08))
  | .pagereq a => some (.one (encR 0x00 0 a 0 0x09))
  | .add d a b => some (.one (encR 0x01 d a b 0x00))
  | .sub d a b => some (.one (encR 0x01 d a b 0x01))
  | .mul d a b => some (.one (encR 0x01 d a b 0x02))
  | .mulhn d a b => some (.one (encR 0x01 d a b 0x03))
  | .mulhi d a b => some (.one (encR 0x01 d a b 0x04))
  | .divn d a b => some (.one (encR 0x01 d a b 0x05))
  | .divi d a b => some (.one (encR 0x01 d a b 0x06))
  | .remn d a b => some (.one (encR 0x01 d a b 0x07))
  | .remi d a b => some (.one (encR 0x01 d a b 0x08))
  | .and d a b => some (.one (encR 0x01 d a b 0x10))
  | .or d a b => some (.one (encR 0x01 d a b 0x11))
  | .xor d a b => some (.one (encR 0x01 d a b 0x12))
  | .andn d a b => some (.one (encR 0x01 d a b 0x13))
  | .shl d a b => some (.one (encR 0x01 d a b 0x18))
  | .shr d a b => some (.one (encR 0x01 d a b 0x19))
  | .sra d a b => some (.one (encR 0x01 d a b 0x1A))
  | .minn d a b => some (.one (encR 0x01 d a b 0x20))
  | .mini d a b => some (.one (encR 0x01 d a b 0x21))
  | .maxn d a b => some (.one (encR 0x01 d a b 0x22))
  | .maxi d a b => some (.one (encR 0x01 d a b 0x23))
  | .seq d a b => some (.one (encR 0x01 d a b 0x28))
  | .sne d a b => some (.one (encR 0x01 d a b 0x29))
  | .sltn d a b => some (.one (encR 0x01 d a b 0x2A))
  | .slti d a b => some (.one (encR 0x01 d a b 0x2B))
  | .clz d a => some (.one (encR 0x01 d a 0 0x30))
  | .popc d a => some (.one (encR 0x01 d a 0 0x31))
  | .addi d a i => some (.one (encI 0x02 d a i))
  | .andi d a i => some (.one (encI 0x03 d a i))
  | .ori d a i => some (.one (encI 0x04 d a i))
  | .xori d a i => some (.one (encI 0x05 d a i))
  | .shli d a n => some (.one (encI 0x06 d a ((0 : BitVec 8) ++ n)))
  | .shri d a n => some (.one (encI 0x07 d a ((0 : BitVec 8) ++ n)))
  | .srai d a n => some (.one (encI 0x08 d a ((0 : BitVec 8) ++ n)))
  | .sltin d a i => some (.one (encI 0x09 d a i))
  | .sltii d a i => some (.one (encI 0x0A d a i))
  | .liwSx d imm => some (.two (encR 0x0B d 0 0 0x00) imm)
  | .liwZx d imm => some (.two (encR 0x0B d 0 0 0x01) imm)
  | .liwHi d imm => some (.two (encR 0x0B d 0 0 0x02) imm)
  | .slw d a i => some (.one (encI 0x0C d a i))
  | .sld d a i => some (.one (encI 0x0D d a i))
  | .ssw d a i => some (.one (encI 0x0E d a i))
  | .ssd d a i => some (.one (encI 0x0F d a i))
  | .brc a b c o => some (.one ((0x10 : BitVec 6) ++ a ++ b ++ c ++ o))
  | .jmp o => some (.one (encJ 0x11 o))
  | .call o => some (.one (encJ 0x12 o))
  | .bspl m inv tgt jn => some (.two ((0x13 : BitVec 6) ++ m ++ bit1 inv ++ (0 : BitVec 22)) (tgt ++ jn))
  | .run i => some (.one (encJ 0x14 i))
  | .waitf any m => some (.one ((0x15 : BitVec 6) ++ bit1 any ++ (0 : BitVec 13) ++ m))
  | .seg w => some (.one ((0x16 : BitVec 6) ++ (0 : BitVec 23) ++ w))
  | .trap a i => some (.one (encI 0x17 0 a i))
  | .tbarArrive d n => some (.one (encR 0x18 d 0 0 (n ++ (0 : BitVec 4))))
  | .tbarWait d n => some (.one (encR 0x18 d 0 0 (n ++ (1 : BitVec 4))))
  | .tbarSync d n => some (.one (encR 0x18 d 0 0 (n ++ (2 : BitVec 4))))
  | .tbarExpect d a b n => some (.one (encR 0x18 d a b (n ++ (3 : BitVec 4))))
  | .tbarAddb d b n => some (.one (encR 0x18 d 0 b (n ++ (4 : BitVec 4))))
  | .tbarTest d n => some (.one (encR 0x18 d 0 0 (n ++ (5 : BitVec 4))))
  | .cbarArrive d => some (.one (encR 0x19 d 0 0 0x00))
  | .cbarWait d => some (.one (encR 0x19 d 0 0 0x01))
  | .cbarSync d => some (.one (encR 0x19 d 0 0 0x02))
  | .fenceAcq s => some (.one (encR 0x1A 0 0 0 ((0 : BitVec 3) ++ (0 : BitVec 2) ++ s)))
  | .fenceRel s => some (.one (encR 0x1A 0 0 0 ((0 : BitVec 3) ++ (1 : BitVec 2) ++ s)))
  | .fenceAr s => some (.one (encR 0x1A 0 0 0 ((0 : BitVec 3) ++ (2 : BitVec 2) ++ s)))
  | .fenceSc s => some (.one (encR 0x1A 0 0 0 ((0 : BitVec 3) ++ (3 : BitVec 2) ++ s)))
  | .smr d r => some (.one (encI 0x1B d 0 r))
  | .smw a r => some (.one (encI 0x1C 0 a r))
  | .talloc d a b l h => some (.one (encR 0x20 d a b (l ++ h)))
  | .tfree d l h => some (.one (encR 0x21 d 0 0 (l ++ h)))
  | .tinfo d l h => some (.one (encR 0x22 d 0 0 (l ++ h)))
  | .drayM2t a b tile x => some (.two (encR 0x24 0 a b ((0 : BitVec 2) ++ tile)) (encDrayWord x))
  | .drayT2m a b tile x => some (.two (encR 0x24 0 a b ((1 : BitVec 2) ++ tile)) (encDrayWord x))
  | .drayT2t a tile x => some (.two (encR 0x24 0 a 0 ((2 : BitVec 2) ++ tile)) (encDrayWord x))
  | .drayRed a b x => some (.two (encR 0x24 0 a b ((3 : BitVec 2) ++ (0 : BitVec 6))) (encDrayWord x))
  | .dprobe d a b t => some (.one (encR 0x25 d a b ((0 : BitVec 2) ++ t)))
  | .bmint d a s k => some (.one (encR 0x28 d a 0 (s ++ k)))
  | .bwait d a => some (.one (encR 0x29 d a 0 0))
  | .bput a b s => some (.one (encR 0x2A 0 a b ((0 : BitVec 6) ++ s)))
  | .bdrop a => some (.one (encR 0x2B 0 a 0 0))
  | .stage d a b => some (.one (encR 0x2C d a b 0))
  | .iadd f => some (.lane (encLane 0x00 f))
  | .isub f => some (.lane (encLane 0x01 f))
  | .iadc f => some (.lane (encLane 0x02 f))
  | .isbc f => some (.lane (encLane 0x03 f))
  | .imul f => some (.lane (encLane 0x04 f))
  | .imulh f => some (.lane (encLane 0x05 f))
  | .imad f => some (.lane (encLane 0x06 f))
  | .idiv f => some (.lane (encLane 0x07 f))
  | .irem f => some (.lane (encLane 0x08 f))
  | .imin f => some (.lane (encLane 0x09 f))
  | .imax f => some (.lane (encLane 0x0A f))
  | .iabs f => some (.lane (encLane 0x0B f))
  | .isad f => some (.lane (encLane 0x0C f))
  | .blut f => some (.lane (encLane 0x10 f))
  | .laneShl f => some (.lane (encLane 0x11 f))
  | .laneShr f => some (.lane (encLane 0x12 f))
  | .laneSra f => some (.lane (encLane 0x13 f))
  | .fshl f => some (.lane (encLane 0x14 f))
  | .fshr f => some (.lane (encLane 0x15 f))
  | .bfx f => some (.lane (encLane 0x16 f))
  | .bfi f => some (.lane (encLane 0x17 f))
  | .lanePopc f => some (.lane (encLane 0x18 f))
  | .laneClz f => some (.lane (encLane 0x19 f))
  | .brev f => some (.lane (encLane 0x1A f))
  | .prmt f => some (.lane (encLane 0x1B f))
  | .iset f => some (.lane (encLane 0x20 f))
  | .sel f => some (.lane (encLane 0x21 f))
  | .mov f => some (.lane (encLane 0x22 f))
  | .fadd f => some (.lane (encLane 0x40 f))
  | .fsub f => some (.lane (encLane 0x41 f))
  | .fmul f => some (.lane (encLane 0x42 f))
  | .ffma f => some (.lane (encLane 0x43 f))
  | .fmin f => some (.lane (encLane 0x44 f))
  | .fmax f => some (.lane (encLane 0x45 f))
  | .fdiv f => some (.lane (encLane 0x46 f))
  | .fsqrt f => some (.lane (encLane 0x47 f))
  | .frcp f => some (.lane (encLane 0x48 f))
  | .frsq f => some (.lane (encLane 0x49 f))
  | .fex2 f => some (.lane (encLane 0x4A f))
  | .flg2 f => some (.lane (encLane 0x4B f))
  | .fsinp f => some (.lane (encLane 0x4C f))
  | .fcosp f => some (.lane (encLane 0x4D f))
  | .fset f => some (.lane (encLane 0x50 f))
  | .fclass f => some (.lane (encLane 0x51 f))
  | .frnd f => some (.lane (encLane 0x52 f))
  | .fscale f => some (.lane (encLane 0x53 f))
  | .fgete f => some (.lane (encLane 0x54 f))
  | .cvt f => some (.lane (encLane 0x60 f))
  | .pack f => some (.lane (encLane 0x62 f))
  | .unpk f => some (.lane (encLane 0x63 f))
  | .lxch f => some (.lane (encLane 0x70 f))
  | .lpoll f => some (.lane (encLane 0x71 f))
  | .lred f => some (.lane (encLane 0x72 f))
  | .lscan f => some (.lane (encLane 0x73 f))
  | .lpeer f => some (.lane (encLane 0x74 f))
  | .mop f => some (.lane (encLane 0x78 f))
  | .ccget f => some (.lane (encLane 0x7A f))
  | .ccput f => some (.lane (encLane 0x7B f))
  | .ld f => some (.lane (encLane 0x80 f))
  | .st f => some (.lane (encLane 0x81 f))
  | .atom f => some (.lane (encLane 0x82 f))
  | .atomn f => some (.lane (encLane 0x83 f))
  | .cas f => some (.lane (encLane 0x84 f))
  | .pref f => some (.lane (encLane 0x85 f))
  | .tld f => some (.lane (encLane 0x88 f))
  | .tst f => some (.lane (encLane 0x89 f))
  | .tatom f => some (.lane (encLane 0x8A f))
  | .mma f => some (.lane (encLane 0xA0 f))
  | .mmac f => some (.lane (encLane 0xA1 f))
  | .aclr f => some (.lane (encLane 0xA2 f))
  | .acvt f => some (.lane (encLane 0xA3 f))
  | .mclose f => some (.lane (encLane 0xA4 f))
  | .ald f => some (.lane (encLane 0xA5 f))
  | .fmma f => some (.lane (encLane 0xE0 f))
  | .cvtsEnc f => some (.lane (encLane 0x61 f))
  | .cvtsDec f => some (.lane (encLane 0x61 f))
  | .mcopyV2m f => some (.lane (encLane 0x79 f))
  | .mcopyM2v f => some (.lane (encLane 0x79 f))
  | .mcopyS2m f => some (.lane (encLane 0x79 f))
  | .mcopyM2s f => some (.lane (encLane 0x79 f))
  -- the events of the device, and a word that is no instruction (R315)
  | .powerOn _ | .ptpMessage _ | .timeStateChange _ _ _ | .timex _ _ _ | .linkTraining _ _ | .linkUp _ _ 
  | .req _ _ | .rsp _ _ | .data _ _ | .idle _ _ | .nak _ _ | .restripe _ _ _ _ | .restripeAck _ _ _ | .keyctl _ _ _ 
  | .genbump _ _ | .loss _ _ _ | .stripeLost _ _ | .stripeRestored _ _ | .rekey _ _ | .queueBind _ _ 
  | .doorbell _ _ | .resetQueue _ _ | .resetContext _ _ | .resetEngine _ _ | .resetPartition _ _ | .resetDevice _ _ 
  | .partitionTableWrite _ _ _ | .registerWrite _ _ _ _ | .serialise _ _ | .riskCompute _ | .journalEnable _ _ 
  | .tlbInvalidate _ | .retag _ | .elide _ | .sidewaysWrite _ _ | .flush _ _ | .pageDone _ _ | .staging _ _ 
  | .followingFetch _ _ _ | .scrub _ _ | .recallLine _ _ | .recallAck _ _ | .recallTimeout _ _ | .remoteRequest _ 
  | .remoteResponse _ | .berthDelivery _ | .forwardedResolution _ | .stageStep _ | .arm _ | .abandon _ _ 
  | .stopped _ _ | .mode _ _ | .ready _ _ | .batchCommit _ _ _ | .chunkLand _ _ _ | .trip _ | .firmwareUpdate _ 
  | .spdmRequest _ | .hostWindowAccess _ _ | .illegalInstr _ | .memoryIssueWindow _ _ _ _ | .forwardingRegistration _ 
  | .resolutionAck _ _ | .translationEntryWrite _ _ _ | .pldmRequest _ | .thermalThrottle _ | .timexSend 
  | .idleSend | .nakRepeat | .elsFault | .restripeRepeat | .lossRepeat | .requestSlotReclaim | .queueEnable 
  | .queueDisable | .queuePause | .queueUnpause | .ringFetch | .launch | .launchImage | .copy | .wait 
  | .signal | .rope | .stagePacket | .mark | .waitPoll | .waitTimeout | .copyComplete | .gridComplete 
  | .resetComplete | .rungEscalation | .functionLevelReset | .vfTeardown | .budgetPeriod | .copyDrainExpiry 
  | .serialiseSeal | .snapshotDrained | .invalidateComplete | .followingPull | .remoteTimeout | .storeAck 
  | .loadReturn | .berthExpiry | .resolutionResend | .berthRelease | .stageTimeout | .ropeArmDeadline 
  | .ropeSwitch | .ropeWindowExpiry | .ropeModeSend | .go | .sealNow | .teamResident | .sliceExpiry | .clauseStart 
  | .barrierTimeout | .sleepWake | .contextEnd | .dieLost | .cpMismatch | .powerLimit | .powerRestore 
  | .undervoltage | .controllerRestart | .gwctPassed | .notimeAck | .inboundPageTimeout | .partitionRungHold 
  | .cpBerthRetry | .mainInputRestored => none

/-! ### The table's numbering -/

/-- The instruction that the decoder reads from bits numbered as the table numbers them: a lane word is 96 bits, a scalar
instruction 32 bits with its second word above. -/
def decodeTableWord (nbits w : Nat) : Option Instr :=
  if nbits = 96 then (decodeLane (BitVec.ofNat 96 w)).toOption
  else (decode (BitVec.ofNat 32 w) (BitVec.ofNat 32 (w >>> 32))).toOption

end Sys2Proof
end

