-- ==== Sys2Proof/Config.lean ====
section
/-!
DEFINITION. What is fixed for one device (fuses, identity), the figures of the two parts (R142), and the free values:
constants with no body, so that nothing can be proved about the number that they give.
-/

namespace Sys2Proof

/-- The part: a TZ9 or a TZ5 (R142). -/
inductive Part where
  | tz9 | tz5
deriving DecidableEq, Repr

namespace Config

/-- CHECK of a berth name (R247): the low 16 bits of KMAC256 under the berth key that base die `bd` drew at its reset
number `epoch`, over bits 63:16. The key is secret. -/
opaque berthCheck : (bd epoch : Nat) → BitVec 48 → BitVec 16
/-- The digest that ARM carries, over ROPEID, COUNT, ACTION, POLICY, T, WINDOW and RANKMAP's contents (R109). -/
opaque ropeDigest : List Byte → W64
/-- The measurement of SPDM blocks 1 to 8 (R276), over the contents that the block names. -/
opaque measure : Nat → List Nat → W64
/-- The signature over measurements (R275), Falcon-1024 over SHAKE256: the spec gives neither key nor encoding, and each signature has a salt
of its own, so that it is a free value, applied to a counter of the state (log entry 127). -/
opaque signature : (salt : Nat) → List W64 → W64

/-- The time in ns for which an engine is busy with an operation of so many bytes (R79, R81): the manual bounds rates and gives no
time for one operation. -/
opaque engineNs : Nat → Nat

/-- What the budget of a background activity is reduced to while the module runs against its power limit (R21): of activity `act`, from
the number `b` of its entry. The manual gives no amount. -/
opaque reducedBudget : (act : Nat) → (b : BitVec 32) → BitVec 32

/-- What stands for a certificate chain and a signature under it (R275): of slot 0, or of slot 1 after this many activations. -/
opaque certificate : (slot acts : Nat) → W64

/-- Which of several JOINs the waiting splits of a group leave first (R154 names no order): an index into their addresses, modulo
how many there are. -/
opaque joinFirst : List W64 → Nat

/-- SERIAL (R55): fixed for a device, not stated. -/
opaque serial : W64
/-- Bits 7:0 of DEVREV, the silicon stepping (R55): fixed for a device, not stated. -/
opaque stepping : Byte

/-- Compute dies of a part (R9, R142). -/
def computeDies : Part → Nat | .tz9 => 8 | .tz5 => 1
/-- Base dies of a part. -/
def baseDies : Part → Nat | .tz9 => 4 | .tz5 => 1
/-- FEAT0 (R56, R142). -/
def feat0 : Part → W64 | .tz9 => 0x3FF | .tz5 => 0x1B0
/-- DEVID bits 31:16 (R55, R142). -/
def family : Part → W16 | .tz9 => 9 | .tz5 => 5
/-- Fast-tier bytes, HBMSIZE (R12, R55, R142). -/
def hbmSize : Part → Nat | .tz9 => 0x10000000000 | .tz5 => 0x4000000000
/-- Capacity-tier bytes, CAPSIZE (R13, R55, R142). -/
def capSize : Part → Nat | .tz9 => 0x20000000000 | .tz5 => 0
/-- Physical lanes of a partition (R142). -/
def physLanes : Part → Nat | .tz9 => 32 | .tz5 => 8
/-- Enabled-site masks from fuses (R10, R142). DESIGN CHOICE: the manual bounds them (at least 24 of 28 sites on every
die of a TZ9, 12 on a TZ5) and gives no mask; the model takes the lowest sites. -/
def siteFuses : Part → List (BitVec 28)
  | .tz9 => List.replicate 8 0x0FFFFFF
  | .tz5 => [0xFFF]

/-- Feature bits of FEAT0 (R56). -/
def featX0 : Nat := 0
def featFab : Nat := 1
def featRope : Nat := 2
def featCap : Nat := 3
def featSide : Nat := 4
def featJrnl : Nat := 5
def featDual : Nat := 6
def featSnap : Nat := 7
def featBerth : Nat := 8
def featStage : Nat := 9

end Config
end Sys2Proof
end

