-- ==== Sys2Proof/Machine/State.lean ====
section
/-!
DEFINITION. The state of one device: everything that the manual gives it, as plain data. Records stand in the order of the
manual's chapters. Other devices of the domain, the host, the power and cooling of the tray act through the events of
`Instr`; what the device sends them is listed in `State.out`. A time is a device time in ns (R5).
-/

namespace Sys2Proof.Machine

/-- A sparse table from a number to a value, sorted by number, with no entry equal to what an unlisted number reads as. -/
abbrev Sparse (α : Type) := List (Nat × α)
/-- Memory: bytes by address. -/
abbrev Mem := List Host.Cell

/-! ### Clock and power (R14 to R22) -/

/-- Device time and its servo. -/
structure Clock where
  dtime     : W64                  -- device time in ns (R5)
  tstate    : TimeState            -- R16
  u         : Option Nat           -- U in ns; none: unbounded (R16)
  stepped   : Bool                 -- the one forward step at the first lock has been made (R17)
  domain    : Nat                  -- PTP domain number, 0 to 127, set by system software (R15)
  ptp       : Option (Int × Nat)   -- the latest PTP measurement: offset to TAI and bound; none: no master (R15)
  aclk      : Nat                  -- ACLK in MHz (R14)
deriving DecidableEq, Repr

/-- Power and thermal protection. -/
structure Power where
  on         : Bool                -- the dies are powered: false after a trip or a failed device rung (R22, R83)
  limit      : Nat                 -- the power limit in W, set by system software (R20)
  lowInput   : Bool                -- the main input is between 40 V and 44 V: handled like a limit of 1,000 W (R22)
  background : Bool                -- the budgets of background activities are reduced (R21)
  steps      : Nat := 0            -- ACLK steps that the power limit asks for (R21)
  bandwidth  : Bool := false       -- the power limit asks for less HBM bandwidth (R21)
  hbm        : Bool                -- HBM bandwidth is reduced (R20, R21)
  hotDies    : List Bool           -- per compute die: throttled (R20)
  hotStacks  : List Bool           -- per HBM stack: throttled (R20)
  refresh    : List Bool           -- per HBM stack: refresh is doubled (R20)
  trip       : Option TripCause    -- why every die was stopped (R22)
deriving DecidableEq, Repr

/-! ### The fabric (R23 to R51) -/

/-- One of the two key banks of a link direction (R47). -/
structure KeyBank where
  valid  : Bool                    -- a key is installed
  seqs   : Nat                     -- the extended sequence of the next sequenced flit under this bank (R47)
  locals : Nat                     -- the link-local counter: of the next flit to send; of a receiver, the highest seen (R47)
deriving DecidableEq, Repr

/-- Whose budgets a message or an operation is charged to (R79 to R81, R92): a partition's, a grid's of it, or an activity's. -/
inductive Payer where
  | part | grid (cn : Nat) | act (a : Nat)
deriving DecidableEq, Repr

/-- A message in a transmit queue: it waits for its turn, or some of its flits have gone (R45, R87). -/
structure TxMsg where
  type  : Byte                     -- 0x01 REQ, 0x02 RSP, 0x14 KEYCTL or 0x15 GENBUMP
  cls   : BitVec 2
  part  : BitVec 3
  sub   : BitVec 3
  pgen  : Byte
  pois  : Bool
  flits : Nat                      -- how many flits the message takes (R31)
  sent  : Nat                      -- how many of them have gone
  payer : Payer                    -- whose FLITS it counts against
  msg   : Option FabMsg
deriving DecidableEq, Repr

/-- The egress direction of a link. -/
structure Tx where
  active   : W16                   -- active stripes (R32, R37)
  next     : W16                   -- SEQ of the next new sequenced flit (R33)
  retry    : List Flit             -- the retry buffer: sequenced flits that no ACK covers, as sent (R33)
  replay   : Option W16            -- the SEQ from which flits are sent again (R35)
  stream   : Nat                   -- the stream counter (R32)
  awaiting : Bool                  -- a RESTRIPE_ACK is awaited (R37)
  kg       : Bool                  -- the bank in use (R47)
  banks    : KeyBank × KeyBank
  retire   : Option Bool           -- the old bank, until every flit sent under it is acknowledged (R48)
  xoff     : W32                   -- PRI of the last header received: the peer's XOFF state (R44)
  queue    : List TxMsg            -- messages of which flits are still to go
  down     : Bool                  -- the direction stopped for want of a key (R49)
  rekey    : Bool                  -- a counter has reached 2^40: a new key is asked for (R49)
  turn     : List (BitVec 3)       -- per class, the partition served last (R45)
  bulk     : Bool                  -- of classes 2 and 3, class 3 is being served (R45)
  credit   : Nat × Nat             -- the deficits of classes 2 and 3, in flits (R45)
deriving DecidableEq, Repr

/-- A message of which flits are still to come on a link (R31), by the CLASS, PART and SUB that its flits share. -/
structure OpenMsg where
  cls   : BitVec 2
  part  : BitVec 3
  sub   : BitVec 3
  msg   : Option FabMsg            -- none: not to be used
  pois  : Bool                     -- a flit so far carries POIS (R29)
  stale : Bool                     -- discarded for its generation, as every flit of it is (R50)
  type  : Byte := 0x01             -- TYPE and PGEN of its first flit
  pgen  : Byte := 0
deriving DecidableEq, Repr

/-- The ingress direction of a link. -/
structure Rx where
  expect  : W16                    -- the expected SEQ (R34)
  lit     : W16                    -- ingress stripes that carry light (R36)
  active  : W16                    -- the stripes that the peer sends on (R38)
  again   : Nat                    -- flits that come again after a RESTRIPE and were accepted before (R35, R38)
  banks   : KeyBank × KeyBank
  nakAt   : Option Nat             -- when the outstanding NAK was last sent (R34)
  loss    : Bool                   -- LOSS is outstanding: no fitting RESTRIPE accepted yet (R38)
  open_   : List OpenMsg           -- messages whose LAST flit has not come (R31)
deriving DecidableEq, Repr

/-- A link to one peer, by its wavelength w (R25). -/
structure Link where
  trained : Bool                   -- training is complete (R27)
  up      : Bool                   -- the up state (R27)
  h       : List (Option Byte)     -- H(c, P, S) by partition table entry; none until its GENBUMP (R50)
  tx      : Tx
  rx      : Rx
  peer    : Option TimexMsg        -- the latest TIMEX received (R18)
deriving DecidableEq, Repr

/-- Where a receive pool slot was taken (R41, R42). -/
inductive PoolRegion where
  | reserve | shared | headroom (w : BitVec 7)
deriving DecidableEq, Repr

/-- A held slot of a receive pool: its partition and virtual priority, its region, and what holds it. -/
structure PoolSlot where
  part   : BitVec 3
  v      : Nat
  region : PoolRegion
  holder : Nat                     -- the inbound request, or the message that is still arriving
deriving DecidableEq, Repr

structure Fabric where
  slot  : Option (BitVec 7)        -- d; none: the fabric is disabled (R23)
  links : List Link                -- by w (R25)
  pools : List (List PoolSlot)     -- per base die (R41)
  xoff  : List W32                 -- per base die: the XOFF state it sends in PRI (R43)
  high  : List Nat                 -- HIGH(v) (R43)
  low   : List Nat                 -- LOW(v)
deriving DecidableEq, Repr

/-! ### Host attachment, queues and tenancy (R52 to R90) -/

/-- What kind of work a dispatched packet is. -/
inductive WorkKind where
  | launch | copy | rope | stage | wait | signal | mark
deriving DecidableEq, Repr

/-- A packet dispatched and not yet complete (R64). -/
structure Work where
  kind : WorkKind
  idx  : W32
  tag  : W32
  sig  : W64                       -- signal VA; 0 none
deriving DecidableEq, Repr

/-- The WAIT that holds a queue (R69). -/
structure WaitRec where
  idx      : W32
  tag      : W32
  sigs     : List W64
  deadline : Option Nat
deriving DecidableEq, Repr

/-- A STAGE packet whose berth is not minted yet (R63). -/
structure StageWait where
  idx   : W32
  tag   : W32
  pkt   : List Byte
  got   : List Byte                -- the descriptor's bytes
  bad   : Nat                      -- or the reason of its read's failure (R245); 0 none
  until_ : Nat                     -- the end of LIFE
deriving DecidableEq, Repr

/-- A command queue and its page (R59). -/
structure Queue where
  base    : W64
  size    : W32
  enable  : Bool                   -- CTRL bit 0
  pause   : Bool                   -- CTRL bit 1
  wridx   : W32
  rdidx   : W32
  state   : Nat                    -- R71
  errIdx  : W32
  errCode : W64
  vector  : W64
  func    : W16                    -- BIND bits 15:0
  pent    : Byte                   -- BIND bits 23:16
  back    : Nat                    -- the state that PAUSED left (R71)
  cur     : Option (W32 × List Byte)   -- the packet fetched and not yet dispatched, with its index
  barrier : Option W32             -- the packet with BARRIER whose completion is awaited (R64)
  wait    : Option WaitRec
  work    : List Work
  overEnd : Option W32             -- the WRIDX up to which every packet is skipped after OVERRUN (R60)
  mark    : Option W32             -- index of the last MARK written since ENABLE (R107)
  first   : W32                    -- index at which the queue was last enabled (R107)
  fetchOk : Bool                   -- false after a failed ring fetch, until WRIDX or ENABLE is written (R468)
  stages  : List StageWait
  order   : Nat                    -- its place in the order of binding (R58)
deriving DecidableEq, Repr

/-- The event queue of a function (R72). -/
structure EventQueue where
  base   : W64
  size   : W32
  wridx  : W32
  rdidx  : W32
  vector : W64
  evseq  : W64                     -- R73
  ovf    : Bool                    -- events were lost since the last one written (R74)
deriving DecidableEq, Repr

/-- A partition table entry (R77). -/
structure PartEntry where
  state    : Nat
  gen      : Byte
  func     : W16
  sites    : List (BitVec 28)
  mscways  : BitVec 24
  keybase  : W16
  keycount : W16
  hbmb     : W32
  flits    : W32
  etime    : W32
  poolres  : W32
  slice    : W32
  lease    : Byte
  l1lease  : Byte
  queues   : Byte
deriving DecidableEq, Repr

/-- What a budget limits and its counters in the present period (R79 to R81). -/
structure Budget where
  hbmb  : W32
  flits : W32
  etime : W32
deriving DecidableEq, Repr

structure Spent where
  hbmb  : Nat
  flits : Nat
  etime : Nat
deriving DecidableEq, Repr

/-- A rung in progress (R82, R83). -/
structure Rung where
  rung    : Nat                    -- the rung that now acts: 1 queue to 5 device
  queue   : W16
  pent    : Byte
  index   : W32
  replay  : Bool
  allctx  : Bool
  start   : Nat                    -- the start of the rung that now acts
  flr     : Bool                   -- from a Function Level Reset
  held    : Bool                   -- held until 4 ms after the entry's last partition rung (R50)
  ctxs    : List Nat               -- the contexts that it ends
  queues  : List Nat               -- the queues that it resets
  links   : List Nat               -- of a device rung: the links that must come up again
  cores   : List (Nat × Nat)       -- the cores that the contexts it ended were on: die, site
  teardown : Bool                  -- from a VF teardown: the function is unbound after it (R89)
deriving DecidableEq, Repr

/-- A reset control page (R85). -/
structure ResetPage where
  rctl    : W32
  queue   : W16
  pent    : Byte
  index   : W32
  rstat   : Byte
  taken   : Byte
  acceptT : W64
  doneT   : W64
  rsv     : BitVec 280             -- the reserved bytes 0x07, 0x0E to 0x0F and 0x20 to 0x3F as last written; they read as zero
  active  : Option Rung
deriving DecidableEq, Repr

/-- The serialise request of a context control page (R121). -/
structure SerPage where
  queue   : W16
  index   : W32
  imgva   : W64
  imgsize : W64
  sig     : W64
  drain   : W32
  ctl     : W32
  result  : W32
deriving DecidableEq, Repr

/-- A snapshot entry (R145) and the snapshot in progress. -/
structure Snapshot where
  thresh  : Byte
  tkind   : Byte
  status  : Byte
  level   : Byte
  count   : W32
  tbase   : W64
  tsize   : W64
  sig     : W64
  qmask   : BitVec 256
  ctxs    : List Nat               -- the registered contexts of the snapshot in progress
  shadows : List (Nat × Nat)       -- old frame, its shadow frame (R147)
  drained : List Nat               -- old frames already drained
  pages   : List (W64 × Nat)       -- SNAP pages to drain: VA and old frame
  images  : List (Nat × List Byte) -- the contexts' images, as they stand in the save areas
  copies  : List (W64 × List Byte) -- the images for the target area, with their VAs
  dests   : List (Nat × W64)       -- for each old frame its place in the target area
  asked   : List Nat               -- the frames whose writes have begun
  wrote   : Nat                    -- images written to the target area
  marks   : Nat                    -- those whose SEALED bit is being set: asked for
  failed  : Bool                   -- a write to the target area failed
  rise    : Bool                   -- the risk level rose while STATUS was not 0 (R146)
  begun   : Bool := false          -- the writes of the images to the target area have begun (R148)
deriving DecidableEq, Repr

/-- A record of the journal that has not been written yet (R279). -/
structure JPend where
  queue : Nat                      -- and index of the LAUNCH of its context
  idx   : W32
  data  : List Byte
deriving DecidableEq, Repr

/-- A journal entry (R277) and its stream. -/
structure Journal where
  jbase   : W64
  jsize   : W64
  jwr     : W64
  jreg    : W64
  jrcount : W16
  jctl    : W16
  jstart  : W32
  stopped : Bool                   -- recording stopped at OVF (R279)
  replay  : Option Nat             -- the context that takes its inputs from the journal (R280)
  used    : List Nat               -- offsets of the records already taken in replay
  pending : List JPend := []       -- records that wait for a page or are on their way to a peer, in order (R279)
deriving DecidableEq, Repr

/-- A function: PF0 or VFn (R54). -/
structure Fn where
  evq      : EventQueue
  rpage    : ResetPage
  ser      : SerPage
  inReset  : Bool                  -- requests to its BARs are completed with Unsupported Request (R90)
deriving DecidableEq, Repr

/-- What the host has sent and the device has not acted on: an access at an offset of BAR2, or a doorbell that follows one (R230). -/
inductive HostPend where
  | access (off : W64) (a : HostAccess)
  | doorbell (q : BitVec 8) (idx : W32)
deriving DecidableEq, Repr

structure HostSide where
  fns       : List Fn              -- 64 functions (R54)
  queues    : List Queue           -- 256 queues (R58)
  parts     : List PartEntry       -- 40 entries (R77)
  pterr     : W32                  -- R78
  budgets   : List Budget          -- the six activities (R80)
  period    : Nat                  -- the present budget period k (R79)
  spentPart : List Spent           -- program traffic per partition table entry
  spentAct  : List Spent           -- the activities
  paid      : List Nat             -- per activity: HBM bytes of the work in hand whose units have been made (R79)
  nextPart  : List PartEntry       -- budgets, LEASE and L1LEASE that take effect at the next period (R78)
  lastRung  : List (Option Nat)    -- start of the last partition rung per entry (R50)
  snaps     : List Snapshot        -- 40 entries (R145)
  journals  : List Journal         -- 40 entries (R277)
  numVfs    : Nat                  -- NumVFs with VF Enable set (R54, R89)
  atomicReq : Bool                 -- AtomicOp Requester Enable (R65)
  atomicErr : Bool                 -- the host completes AtomicOps with an error status (R469)
  bar2      : Nat                  -- size of the BAR2 window in bytes (R54)
  cplTimeout : Nat                 -- the PCIe completion timeout in ns (R90)
  tags      : List (Nat × Nat)     -- reads of host memory whose completions are dropped (R90): function, when the tag returns
  window    : List HostPend        -- accesses through BAR2 that wait for lines that a copy owns, and doorbells after them, oldest first (R230, R233)
  ide       : List (Nat × Nat × Bool)  -- IDE streams (0 the link stream, 1 to 8 selective): function, and secure (R53, R89)
deriving DecidableEq, Repr

/-! ### Memory control (R179 to R210) -/

/-- A translation entry (R191). DONE is write-only and keeps nothing. -/
structure Xlat where
  root       : W64
  prbase     : W64
  prsize     : Byte
  prvec      : W16
  prwr       : W32
  prrd       : W32
  occlim     : W32
  deadrd     : W64
  stageshort : W64
deriving DecidableEq, Repr

/-- An outstanding page request (R197). -/
structure PageReq where
  pent     : Nat
  page     : W64                   -- the page's VA
  write    : Bool
  expl     : Bool                  -- EXPLICIT
  sent     : Option (Bool × Bool)  -- WRITE and EXPLICIT as written to the ring; none: waits for room
  queue    : W16
  index    : W32
deriving DecidableEq, Repr

structure MemCtl where
  xlat     : List Xlat             -- 40 entries
  invva    : W64
  invpages : W32
  invpent  : Byte
  invctl   : Byte                  -- bit 0 busy, bit 1 NONGLOBAL
  inv      : Nat × Nat × Nat       -- the invalidation in progress: INVPENT, the first page and the number of pages
  invGone : List (Nat × Nat × Nat) := []   -- what the entries that it removed mapped: partition, first byte, size
  invFrom : Nat := 0               -- operations with a lower number were issued before it
  foppa    : W64
  fopcount : W32
  fopkey   : W16
  fopkind  : Byte
  fopctl   : Byte
  sideways : List W64              -- per base die
  flush    : List W64              -- per base die: the last written mask, bit 63 while busy
  memerr   : W32
  reqs     : List PageReq
deriving DecidableEq, Repr

/-- A cached entry of a translation table (R192): a leaf in one core's TLB (`core`), or a leaf or a non-leaf entry in the walk
caches (none). It maps the VAs whose bits above its level's span are `page`. -/
structure TlbEntry where
  core  : Option (Nat × Nat)       -- die and site
  pent  : Nat
  page  : Nat                      -- VA div the bytes that an entry of its level maps
  leaf  : W64                      -- the entry
  level : Nat
  entry : Nat                      -- its PA
deriving DecidableEq, Repr

/-- A frame's key tag and whether it is live (R188, R199), by PA div 64 KiB. -/
structure FrameState where
  key  : BitVec 10
  live : Bool
deriving DecidableEq, Repr

/-- A line of a base die's MSC (R210): of its own memory, or of a peer's under a lease (R226). -/
structure MscLine where
  line   : Nat                     -- PA div 128; for a peer PA with the KEYID from bit 45 on
  bd     : Nat                     -- the base die that holds it
  pent   : Nat
  ctx    : Option Nat
  way    : Nat
  stream : Bool
  used   : Nat                     -- the time of its last use
deriving DecidableEq, Repr

/-- A page of a re-planted image that follows from its origin (R141). -/
structure FollowPage where
  pent   : Nat
  va     : W64
  origin : W64
  okind  : Byte
  tier   : Byte
  leaf   : W64
  state  : Nat                     -- 0 following, 1 fetching, 2 arrived, 3 failed
  ctx    : Nat                     -- the planted context
deriving DecidableEq, Repr

/-- The following table of one planted image: its FSIG (R135, R141). -/
structure Following where
  ctx   : Nat
  fsig  : W64
  done  : Bool
  err   : Bool
deriving DecidableEq, Repr

structure Store where
  dram    : Mem                    -- bytes of the fast and the capacity tier, by PA (R180)
  dirty   : Sparse (Option Byte)   -- bytes that the MSC holds and has not written back, by PA
  host    : Mem                    -- bytes of host memory, by PCIe address (R198)
  frames  : Sparse FrameState      -- unlisted: tag 0, dead (R189)
  poison  : List PoisonLoc         -- what is marked poisoned (R264, R266)
  lines   : List MscLine
  tlb     : List TlbEntry
  follow  : List FollowPage
  follows : List Following
  usedFr  : List Nat               -- frames that the device took for staging, following pages, shadows and save areas
  freed   : List Nat               -- frames that it gave back (R97, R148)
deriving DecidableEq, Repr

/-! ### Caches and leases (R225 to R233) -/

/-- A line of a core's L1 (R225). -/
structure L1Line where
  die    : Nat
  site   : Nat
  line   : Nat                     -- PA div 128; for a peer PA with the KEYID from bit 45 on
  g      : Nat                     -- the group that brought it in (R105)
  data   : List Byte
  since  : Nat                     -- when it, or the MSC's copy that it was filled from, was granted (R229)
  expiry : Nat
deriving DecidableEq, Repr

/-- The MSC's copy of a peer line under a lease (R226). -/
structure PeerCopy where
  line  : Nat                      -- as in an L1 line
  data  : List Byte
  e     : Nat                      -- E, as the home returned it
  since : Nat                      -- when it was granted, by this device's time (R229)
deriving DecidableEq, Repr

/-- A lease that this home granted (R226). -/
structure Lease where
  line   : Nat
  holder : BitVec 7
  e      : Nat
deriving DecidableEq, Repr

/-- A write at this home that waits before its acknowledgement: for device time (R231) or for RECALL_ACKs (R232). -/
structure HeldAck where
  id      : Nat
  rsp     : RemoteRsp
  after   : Option Nat             -- NOTIME: acknowledged once device time exceeds it
  line    : Nat
  dst     : BitVec 7               -- the requester
  waiting : List (BitVec 7)        -- the holders that have not answered
  sentAt  : Nat
deriving DecidableEq, Repr

structure Caches where
  l1     : List L1Line
  peers  : List PeerCopy
  leases : List Lease
  held   : List HeldAck
  recalls : List Nat               -- lines that the device itself wrote whose holders are still to be sent RECALL (R232)
  deadOps : List (BitVec 7 × (Nat × Nat)) := []   -- instructions and chunks of requesters counted in DEADRD (R199)
deriving DecidableEq, Repr

/-! ### Execution (R91 to R178) -/

/-- A launch record's fields (R91). -/
structure LaunchRec where
  gw       : Nat                   -- group width 8, 16, 32 or 64
  vregs    : Nat
  entry    : W64
  lbase    : W64
  grid     : Nat × Nat × Nat
  gpt      : Nat
  crows    : Nat                   -- cluster rows and columns; 1 × 1 for CSHAPE 0
  ccols    : Nat
  spmb     : Nat
  accb     : Nat
  args     : W64
  fslots   : List W32
  wslist   : W64
  wscount  : Nat
  btimeout : Nat                   -- µs
  dual     : Bool
  cores    : Bool
  jrnl     : Bool
  rope     : Bool
  prio     : Nat
  bclass   : Nat
  thoff    : BitVec 24
  csig     : W64
  reqfeat  : W64
  sinit    : List W64
deriving DecidableEq, Repr

/-- A split stack entry (R152, R153). -/
structure StackEntry where
  join : W64
  mask : W64
  fall : W64
deriving DecidableEq, Repr

/-- A RUN queue entry (R158). -/
structure RunEntry where
  addr : W64
  mask : W64
  snap : List W64                  -- s0 to s31
  resume : Option Nat := none      -- a clause that an image records as started: the lane instructions completed (R131)
  since : Nat := 0                 -- the operations numbered below it were issued before the RUN (R217)
  heirs : List Nat := []           -- splits that BSPL formed since, after whose accesses none of the clause's comes (R217)
deriving DecidableEq, Repr

/-- A started clause (R159): its header and instructions as fetched and validated, and its progress. -/
structure ClauseRun where
  id   : Nat                       -- which start it is, to tell its loads and stores apart
  addr : W64
  hdr  : ClauseHdr
  code : List Instr
  done : Nat                       -- lane instructions completed
  mask : W64
  snap : List W64
  since : Nat := 0                 -- as in its RUN queue entry
  heirs : List Nat := []
  fenced : List Nat := []          -- splits that have passed a WAITF on its SET0 or SET1 (R217)
deriving DecidableEq, Repr

/-- A split's STATUS (R131). -/
inductive Status where
  | absent | ready | join | tbar | cbar | waitf | bwait | sleep | trapped | exited | page
deriving DecidableEq, Repr

/-- What a running handler returns to (R173, R447): which TRAPPC values RETT accepts. -/
inductive TrapKind where
  | scalar
  | lane                           -- within the clause in progress
  | clause (addr end_ : W64)       -- at clause start; the end is the clause address when the header was not fetched
deriving DecidableEq, Repr

/-- A split (R150, R131). -/
structure Split where
  status  : Status
  pc      : W64
  mask    : W64
  stack   : List StackEntry        -- top first
  runq    : List RunEntry          -- front first
  clause  : Option ClauseRun
  wbar    : Nat                    -- WBAR
  wflags  : W16                    -- WFLAGS
  wval    : W64                    -- WVAL
  wreg    : SReg                   -- SD of the instruction that the split is blocked in
  arrived : Bool                   -- its SYNC has arrived, or its WAIT is issued again: only the wait for the parity `wpar` remains (R447, R462)
  wpar    : Bool                   -- the parity that a WAIT or SYNC observed (R357)
  cause   : W16                    -- TRAPCAUSE
  tpc     : W64                    -- TRAPPC
  taddr   : W64                    -- TRAPADDR
  tinfo   : W64                    -- TRAPINFO
  tspc    : W64                    -- TRAPSPC while the handler runs
  handler : Option TrapKind        -- some: the split runs its handler
  hsync   : Option (Nat × Bool)    -- a SYNC abandoned at the handler's entry after its arrival: its barrier, 16 the cluster's, and parity (R447)
  age     : Nat                    -- when it last became ready (R103)
  fsc     : Nat                    -- F of its last SC fence at sys scope (R229)
  waitOp  : Option Nat             -- the outstanding remote scalar load that it waits for
  waitPg  : List W64               -- the pages that its clause waits for: non-resident (R196) or following (R141)
  waitSc  : List W64 := []         -- those that its scalar stream waits for, by an access, a fetch or a PAGEREQ (R444)
  svc     : Bool                   -- they are awaited in page service, with its group descheduled (R196)
  fails   : List (W64 × Byte × Byte)   -- those whose fetch failed since: page, reason, slot of the origin
deriving DecidableEq, Repr

/-- A vector register of a group (R164 to R166): whether it is live, the flag that publishes it while unpublished, and its
lanes. -/
structure VReg where
  live  : Bool
  unpub : Option Nat
  vals  : List W32
deriving DecidableEq, Repr

/-- An ACC tile (R200, R132): ATYPE as issued, and as committed with the committed contents. -/
structure AccTile where
  rows   : Nat
  cols   : Nat
  esize  : Nat
  atype  : Nat
  ctype  : Nat
  data   : Sparse W64              -- row-major elements; unlisted: 0
deriving DecidableEq, Repr

/-- A batch of matrix instructions (R409). -/
structure Batch where
  code   : List Instr              -- in issue order
  closed : Bool
  flag   : Option Nat              -- the flag that the closing MCLOSE named
  pcs    : List W64                -- where its instructions stood (R171); unlisted: not known, from an image
deriving DecidableEq, Repr

/-- A clause whose producers have started (R162). -/
structure ClauseTrack where
  id     : Nat
  set0   : Option Nat
  set1   : Option Nat
  issued : Bool                    -- its last instruction has issued
deriving DecidableEq, Repr

/-- RFAULT's fields (R244) and the VA of the first pending fault. -/
structure RFault where
  pend    : Bool
  count   : W16
  ltarget : Byte
  lreason : Byte
  starget : Byte
  sreason : Byte
  va      : W64
deriving DecidableEq, Repr

/-- A stop request that has reached a group (R118): the lane instructions left, whether a scalar one is, and the splits that
stopped before a lane instruction, or before a scalar instruction, that would have had to wait. -/
structure StopReq where
  lanes  : Nat
  scalar : Bool
  held   : List Nat
  waits  : List Nat
deriving DecidableEq, Repr

/-- A group (R150, R130). -/
structure Group where
  team    : Nat
  index   : Nat
  part    : Nat                    -- the partition of its core, 0 to 3 (R100)
  live    : Bool                   -- resident and not done
  splits  : List Split             -- 4
  sregs   : List W64               -- s0 to s63
  spois   : W64                    -- those that hold a poisoned value (R266)
  masks   : List W64               -- m0 to m7; m0 is not stored
  munpub  : List (Option Nat)      -- the flag that publishes an unpublished mask (R195)
  flags   : BitVec 12              -- f0 to f11 set
  pend    : BitVec 12              -- pending
  mflags  : BitVec 12              -- set by a copy whose destination is memory (R235)
  segw    : Nat                    -- segment width
  fxf     : BitVec 5
  poison  : Bool
  rfault  : RFault
  gwct    : Nat
  vregs   : List VReg
  ccs     : List (BitVec 4)        -- per lane V N Z C in bits 3 to 0
  acc     : List (Option AccTile)  -- a0 to a7
  batches : List Batch             -- oldest first; the open one, if any, last
  clauses : List ClauseTrack
  desched : Bool                   -- descheduled for page service (R196)
  since   : Nat                    -- when it became resident (R105)
  hits    : Nat                    -- lost-locality score (R105)
  right   : Bool := false          -- it held the right to issue memory instructions when the window last shrank (R105)
  stop    : Option StopReq         -- a stop request (R118)
deriving DecidableEq, Repr

/-- A barrier (R128, R205): of a team, or of a cluster. -/
structure Barrier where
  lquota  : Nat
  larr    : Nat
  bquota  : Nat
  barr    : Nat
  parity  : Bool
  err     : Bool
  lastErr : Bool                   -- the status of the last completed phase
  arrived : List Nat               -- groups that have arrived in the phase (R175)
  dog     : Nat                    -- how long the watchdog has run in the phase, in ns (R175)
deriving DecidableEq, Repr

/-- An SPM or SIDE tile (R200, R202, R204). -/
structure Tile where
  level : Nat
  rows  : Nat
  cols  : Nat
  esize : Nat
  err   : Bool
  map   : Nat                      -- the chunk-arrival map, chunk 0 in bit 0
  data  : Mem                      -- logical bytes; unlisted: 0
deriving DecidableEq, Repr

/-- Whether a team has retired; one that has not has not started, or runs (R126). -/
inductive TeamState where
  | running | retired
deriving DecidableEq, Repr

/-- What an incoming context has claimed of a halted team (R115): register rows and ACC banks by group index, and its SPM. -/
structure Claimed where
  regs : List Nat
  acc  : List Nat
  spm  : Bool
deriving DecidableEq, Repr
def Claimed.none_ : Claimed := { regs := [], acc := [], spm := false }

/-- A team (R127). -/
structure Team where
  ctx    : Nat
  linear : Nat
  xyz    : Nat × Nat × Nat
  crank  : Nat
  lead   : Nat                     -- the rank-0 team of its cluster, which holds the cluster barrier
  inst   : Nat                     -- instance of a dual-run launch, 0 or 1 (R106)
  die    : Nat
  site   : Nat
  state  : TeamState
  bars   : List Barrier            -- b0 to b15
  cbar   : Barrier
  tiles  : List (Option Tile)      -- t0 to t63
  groups : List Nat
  halting : Bool                   -- its slice has expired: it halts once its groups have stopped (R114)
  halted : Bool                    -- halted in place (R114)
  gone   : Claimed                 -- what of its state has been claimed while it is halted: it goes to the save area (R115)
  claimAt : Nat                    -- when its SPM was claimed: copies into its tiles are drained, then squashed
  saved  : Bool                    -- the records of the claimed state stand in the save area
deriving DecidableEq, Repr

/-- What a context is doing. -/
inductive CtxState where
  | staging                        -- dispatched, required pages not staged, or no team resident yet
  | running
  | ending                         -- ended, outstanding requests awaited (R177)
  | gone                           -- complete, ended, or sealed without KEEP
deriving DecidableEq, Repr

/-- A serialisation in progress (R122): who asked, KEEP, the drain limit, and what it has reached. -/
structure Serial where
  asker   : Option Nat             -- the function; none: a rope PREEMPT or a snapshot
  rope    : Bool
  snap    : Option Nat             -- the snapshot entry
  keep    : Bool
  start   : Nat
  drainTo : Nat
  drained : Bool                   -- step 2 is over
  phase   : Nat                    -- of step 5: 0 none, 1 the records are being written, 2 written, 3 the header is, 4 sealed, 5 failed
  hdr     : List Byte              -- the header, written last (R136)
deriving DecidableEq, Repr

/-- The fault record of a context that ends (R178). -/
structure FaultRec where
  code    : W16
  cause   : W16
  group   : Byte
  split   : Byte
  team    : W32
  hfl     : Byte
  die     : Byte
  trapPc  : W64
  trapAddr : W64
  trapInfo : W64
  aux     : W64
  siga    : W64
  sigb    : W64
deriving DecidableEq, Repr

/-- A page that a working-set entry asks to be staged (R97). -/
structure StagePage where
  va       : W64
  tier     : Nat
  required : Bool
deriving DecidableEq, Repr

/-- A context: one grid (R117). -/
structure Ctx where
  queue    : Nat
  index    : W32
  tag      : W32
  pent     : Nat
  image    : Bool                  -- planted by a LAUNCH with IMAGE, or a rope RESUME
  lr       : LaunchRec
  raw      : List Byte             -- the 256 bytes read at dispatch
  state    : CtxState
  start    : Bool                  -- may start: false for a rope LAUNCH or RESUME before its switch (R110)
  next     : Nat                   -- lowest team linear index never made resident (per instance 0)
  next2    : Nat                   -- the same for the second instance of a dual-run launch
  retired  : Nat
  touched  : BitVec 12             -- R143
  stage    : List StagePage
  ropeId   : W32
  rank     : Nat
  rcount   : Nat
  redSeq   : Nat                   -- rope reduces issued (R258)
  siga     : W64                   -- dual-run signatures (R106)
  sigb     : W64
  ser      : Option Serial
  fault    : Option FaultRec
  slices   : List (Nat × Nat × Nat)    -- die, site, start of the slice (R114)
  save     : List Nat              -- the fast-tier frames of its save area, in order (R115)
  featUsed : W64                   -- FEATUSED (R125)
  jseq     : List (Nat × Nat × Nat)    -- KIND, GROUP, records so far (R278)
  epoch    : Nat                   -- dispatch order
  yields   : List Nat              -- the contexts for which its teams halted: it is served after they have been (R114)
  spent    : Spent                 -- its part of the partition's program budgets in the present period (R92)
  cores    : List (Nat × Nat)      -- of a context that was stopped: the cores that its teams were on
  jpos     : Option Nat            -- replay position (R280)
  load     : Option (List Byte × List Byte) := none   -- an image, and its page list, that waits for room (R138)
deriving DecidableEq, Repr

/-- Which split issues: its group, by number, and its split number. -/
structure SplitRef where
  g  : Nat
  sp : Nat
deriving DecidableEq, Repr

/-- A core's victim tag array (R105). -/
structure Victim where
  die  : Nat
  site : Nat
  tags : List (Nat × Nat)          -- line, group; newest first
deriving DecidableEq, Repr

structure Exec where
  ctxs    : List Ctx
  teams   : List Team
  groups  : List Group
  victims : List Victim
  windows : List (Nat × Nat × Nat × Nat)   -- die, site, partition, W (R105)
  misses  : List (Nat × Nat × Nat × Nat)   -- die, site, partition: L1 misses in the interval (R105)
deriving DecidableEq, Repr

/-! ### Operations in flight (R211 to R243, R425 to R433) -/

/-- Where a piece of an access lands after translation. -/
inductive Place where
  | mem (pa : Nat)                 -- fast or capacity tier
  | host (addr : Nat)
  | peer (slot : BitVec 7) (off : Nat) (key : BitVec 10)
  | rope (rank : Nat) (slot : BitVec 7) (off : Nat)
  | tile (team handle off : Nat)   -- logical bytes of an SPM or SIDE tile
deriving DecidableEq, Repr

/-- A piece of an access: one event on one sector (R213). -/
structure Piece where
  lane  : Nat
  va    : W64
  place : Place
  ca    : Nat                      -- caching of its leaf (R186)
  n     : Nat
  sub   : Nat                      -- its offset in the element
  data  : List Byte                -- bytes to store, or the operand of an atomic
  cmp   : List Byte                -- the comparand of a CAS
  done  : Bool                     -- performed, or failed
  got   : List Byte                -- what was read
  miss  : Bool                     -- a remote fault (R243)
  lanes : List (Nat × List Byte)   -- the lanes that a combined atomic serves, with their operands (R242)
  seen  : Bool := false            -- of a store: performed at grp scope for its whole core, which may have read it (R211)
deriving DecidableEq, Repr

inductive OpKind where
  | load | store | atomic | atomicN | cas | scalarLoad | scalarStore | bput
deriving DecidableEq, Repr

/-- A memory operation that has issued and is not complete. -/
structure MOp where
  id     : Nat
  g      : Nat
  sp     : Nat
  heirs  : List Nat                -- splits that BSPL formed since, which inherit its place in program order (R217)
  pc     : W64                     -- the instruction's address, its LOP or SOP, and which of the two
  code   : Nat
  clause : Option Nat              -- the clause that issued it; none: a scalar instruction
  kind   : OpKind
  aop    : Nat                     -- the operation of an atomic (R401)
  ty     : BitVec 4
  esize  : Nat                     -- bytes of an element
  sx     : Bool                    -- sign extension of a narrow load
  ord    : Nat
  scope  : Nat
  dst    : Nat                     -- first destination register; 255 none
  sd     : SReg                    -- of a scalar load
  rmask  : Nat                     -- residency mask; 0 none
  lanes  : W64                     -- the execution mask
  missed : W64                     -- lanes that touched a non-resident page
  drop   : List Nat                -- destination registers whose data is discarded (R165)
  dead   : Bool                    -- a read of a dead frame has been counted for it (R199)
  pieces : List Piece
  sets   : BitVec 12 := 0          -- the flags that its clause names in SET0 and SET1
  since  : Nat := 0                -- of a lane instruction: the operations numbered below were issued before its clause's RUN (R217)
  fenced : List Nat := []          -- splits that have passed a WAITF on one of those flags, or a FENCE, since (R217)
  past   : Bool := false           -- its split is no more: the split's number has been given to another
  noted  : Bool := false           -- of an acquire at sys scope: its 0x07 point has been taken (R278)
deriving DecidableEq, Repr

/-- An outstanding remote request (R240, R241). -/
structure Request where
  id     : Nat
  op     : Nat                     -- the memory operation or copy that it serves
  piece  : Nat
  copy   : Bool
  req    : RemoteReq
  pent   : Nat
  sentAt : Nat
  cn     : Option Nat := none      -- the context that it serves
  stale  : Bool                    -- of a generation that a rung ended: a slot to reclaim (R88)
deriving DecidableEq, Repr

/-- A tensor layout record's fields (R427). -/
structure Layout where
  base    : W64
  spans   : Nat
  esize   : Nat
  format  : Nat
  edge    : Nat
  fill    : W32
  extent  : List Nat
  trans   : Bool
  pitch   : List W64               -- PITCH1 to PITCH4
  win     : List Nat
deriving DecidableEq, Repr

/-- What a copy is. -/
inductive CopyDir where
  | m2t | t2m | t2t | red | mem
deriving DecidableEq, Repr

/-- A copy of a dray engine, or of a base-die copy engine (R234, R425 to R433). -/
structure Copy where
  id      : Nat
  ctx     : Option Nat
  g       : Option Nat             -- the issuing group
  team    : Nat
  pent    : Nat
  queue   : Nat                    -- of a COPY packet
  idx     : W32
  dir     : CopyDir
  tile    : Nat
  dteam   : Option Nat             -- the destination team of a T2T
  dtile   : Nat
  bar     : Nat
  cnt     : Bool
  flag    : Option Nat
  cls     : Nat
  rowoff  : Nat
  coords  : List W64
  dest    : W64
  lay     : Option Layout
  raw     : List Byte              -- the layout record as read
  src     : W64                    -- of a COPY packet
  len     : Nat
  chunks  : List Nat               -- chunk numbers to land; not listed for a COPY packet
  landed  : List Nat
  sent    : List Nat               -- chunks of which bytes are on their way to a peer
  total   : Nat                    -- bytes that it would count had it completed
  counted : Nat
  prior   : Nat                    -- bytes that a restarted T2M or RED had counted before (R433)
  bytes   : Nat                    -- bytes landed
  owned   : List (Nat × Nat)       -- destination lines owned and not yet written (R233): first line and how many
  seen    : List ((Nat × Nat) × (List Byte × Bool))   -- source sectors read so far, and whether poisoned (R234)
  wrote   : List (Nat × Nat)       -- destination sectors written so far (R234)
  page    : Option W64             -- the page that it waits for (R431)
  gwct    : Nat
  seq     : Nat                    -- sequence number of a rope reduce
  at_     : Nat                    -- issue time
  poison  : Option W64             -- the first poisoned source that was written through
  fault   : Option (Nat × W64 × Nat)   -- of a COPY packet: REASON of R432, VA, AUX
deriving DecidableEq, Repr

/-- A stage packet that this device holds until the next one accepts it (R257). -/
structure Stage where
  pkt    : StagePkt
  dst    : BitVec 7
  sentAt : Nat
  sent   : Bool
  ctx    : Option Nat              -- the issuing context, until the first owner accepts
  g      : Nat
deriving DecidableEq, Repr

/-- An inbound request that waits for a page (R240). -/
structure Inbound where
  req  : RemoteReq
  at_  : Nat
  pent : Nat
  page : W64
deriving DecidableEq, Repr

/-- A peer line that the command processor or a fetch has asked its home for (R468, R311): still awaited, or its bytes, or
the reason of the failure. -/
structure Fetched where
  slot   : BitVec 7
  line   : Nat                     -- offset div 128 in the peer
  req    : Option Nat              -- awaited
  data   : List Byte
  reason : Byte                    -- 0: the bytes are there
deriving DecidableEq, Repr

/-- What a signal update does (R63, R68). -/
inductive SigAct where
  | decrement                      -- by 1, unless negative
  | error (code : W16)             -- the error value, unless already negative
  | add (v : W64)
  | set (v : W64)
deriving DecidableEq, Repr

/-- A signal update that waits for its page or for its home (R468). -/
structure SigUpd where
  queue : Nat
  idx   : W32
  tag   : W32
  pent  : Nat
  va    : W64
  act   : SigAct
  work  : Bool                     -- the packet is complete once the update is made, or has failed
  req   : Option Nat               -- the outstanding compare and swap at a peer home
deriving DecidableEq, Repr

/-- What a record that the command processor writes is for. -/
inductive PutKind where
  | mark                           -- of a MARK packet (R63)
  | event                          -- an event entry in a ring in peer memory (R72)
  | result (sig : W64)             -- of a STAGE packet, whose signal is decremented after it
  | slot                           -- the parked slot of a berth in a sealed image (R134)
  | image (cn : Nat)               -- the image of a context, without its header and then the header (R136)
  | drain (e frame : Nat)          -- a SNAP page of a snapshot (R148)
  | drainImage (e : Nat)           -- an image of a snapshot, and in the end its SEALED bit
  | journal (e : Nat)              -- a record of the journal of an entry that could not be written at once (R279)
deriving DecidableEq, Repr

/-- A record that the command processor is writing (R468): what is left of it, and the outstanding request for its next
piece. -/
structure CpPut where
  queue : Nat
  idx   : W32
  tag   : W32
  pent  : Nat
  va    : W64
  data  : List Byte
  kind  : PutKind
  req   : Option Nat
  gwct  : Nat := 0                 -- the largest GWCT of its writes (R224)
deriving DecidableEq, Repr

/-- A write of the device itself that waits: a record's bytes, or the bits that an update of a leaf sets and clears (R187). -/
inductive DevWrite where
  | bytes (b : List Byte)
  | leaf (bits clear : W64)
deriving DecidableEq, Repr

structure Ops where
  nextId  : Nat
  mops    : List MOp
  reqs    : List Request
  copies  : List Copy
  stages  : List Stage
  inbound : List Inbound
  fetched : List Fetched
  sigs    : List SigUpd
  puts    : List CpPut
  late    : List (Nat × DevWrite)  -- writes of the device's own records that wait, by PA: for a shadow frame (R147) or an owned line (R233)
deriving DecidableEq, Repr

/-! ### Berths (R247 to R253) -/

inductive SlotState where
  | free | live | resolved
deriving DecidableEq, Repr

/-- Where a berth's owner is (R248). -/
inductive OwnerLoc where
  | resident | parked | forwarding (slot : BitVec 7)
deriving DecidableEq, Repr

/-- A slot of a base die's berth table that has been minted at least once; the others are FREE with GEN 0. -/
structure Berth where
  bd      : Nat
  slot    : Nat
  state   : SlotState
  gen     : BitVec 27
  g       : Option Nat             -- the owning group; none: a STAGE packet of `queue`
  queue   : Nat
  idx     : W32
  pent    : Nat
  k       : Nat                    -- first bound register
  bytes   : Nat                    -- its size
  expiry  : Nat
  status  : Byte                   -- of a RESOLVED berth
  data    : List Byte
  stage   : Bool                   -- resolved by a stage result
  loc     : OwnerLoc
  waiter  : Option Nat             -- the split that waits in BWAIT
  filled  : Bool                   -- the parked slot holds an event (R134)
  ptime   : Nat
  sentAt  : Option Nat             -- a forwarded resolution: when last sent (R250)
  acked   : Bool                   -- the owner's device has acknowledged it
  held    : Bool                   -- the home holds it, after a down link or 4 ms without an answer
  slotVa  : Option W64             -- the parked slot in a sealed image (R134)
  res     : W64                    -- of a STAGE packet: its result VA, signal and tag
  sig     : W64
  tag     : W32
deriving DecidableEq, Repr

/-- The forwarding record of a berth whose home is elsewhere (R138, R250). -/
structure Forward where
  name   : W64
  g      : Nat
  k      : Nat
  bytes  : Nat
  expiry : Nat
  state  : SlotState
  status : Byte
  data   : List Byte
  waiter : Option Nat
  freed  : Bool                    -- consumed: the release is sent until it arrives
  parked : Bool                    -- its context is stopped, or sealed (R134)
  filled : Bool                    -- resolved since
  ptime  : Nat
  slotVa : Option W64              -- its parked slot in a sealed image
  sentAt : Nat
deriving DecidableEq, Repr

structure BerthTables where
  slots    : List Berth
  forwards : List Forward
  epoch    : Nat                   -- how often the berth keys were drawn (R247)
deriving DecidableEq, Repr

/-! ### Ropes (R108 to R113, R239) -/

/-- A rope action in progress on this member. -/
structure RopeAct where
  id      : W32
  count   : Nat
  action  : Nat                    -- 1 LAUNCH, 2 PREEMPT, 3 RESUME
  policy  : Nat
  map     : List (BitVec 7)
  rank    : Nat
  t       : Nat
  window  : Nat
  imgva   : W64
  queue   : Nat
  idx     : W32
  tag     : W32
  sig     : W64
  pent    : Nat
  digest  : W64
  arms    : List (Nat × ArmMsg)    -- by rank
  ready   : List Nat               -- READY, by rank (rank 0)
  stopped : List Nat               -- STOPPED, by rank
  agreed  : Bool                   -- every ARM was there and equal at T − 5 µs
  mode    : Option Bool            -- MODE received: TIMED
  said    : Bool                   -- READY sent
  switched : Option Nat            -- when this member switched
  started : Bool                   -- this member has started, or sent STOPPED
  extended : Bool
  abandoned : Bool                 -- ROPE_ABANDONED written
  sealOk  : Bool                   -- SEAL received (MESSAGE mode)
  ctx     : Option Nat
deriving DecidableEq, Repr

/-- A rope binding (R239). -/
structure Binding where
  id   : W32
  pent : Nat
  map  : List (BitVec 7)
  rank : Nat
  ctx  : Nat
deriving DecidableEq, Repr

structure Ropes where
  acts  : List RopeAct
  early : List ArmMsg              -- ARMs of actions that this member has not dispatched: the latest of each rope and rank
  binds : List Binding
  parts : List RedPart             -- members' contributions to rope reduces that have not been used (R258)
deriving DecidableEq, Repr

/-! ### Reliability and management (R261 to R281) -/

/-- A firmware component (R274): two banks with a security version and a digest each. -/
structure Firmware where
  active : Bool                    -- the bank that runs
  vers   : Nat × Nat
  digs   : W64 × W64
  staged : Bool                    -- the other bank holds an accepted update, to be activated
  minVer : Nat
  ok     : Bool                    -- false: both banks failed self-test (R456)
deriving DecidableEq, Repr

/-- An entry of the controller's event log (R270): 64 bytes, an event entry as it was sent to PF0, or one of the events that no queue
carries. -/
structure LogEntry where
  kind  : W16
  bytes : List Byte
deriving DecidableEq, Repr

/-- An error that the controller has counted in the last second (R268, R271): when, the row of R264's table (8 for an ELS fault), whether
it was corrected, whether it lay in the MSC, the die, by its LOSTMASK bit, and the link. -/
structure ErrorEvt where
  time  : Nat
  row   : Nat
  fixed : Bool
  msc   : Bool
  die   : Option Nat
  link  : Nat
deriving DecidableEq, Repr

structure Mgmt where
  rascfg    : W32
  errors    : List (Nat × Nat)     -- per structure of R264, in its order: corrected and uncorrected errors (R270)
  recent    : List ErrorEvt        -- those of the last second, newest first (R268, R271)
  fw        : List Firmware        -- MC, CP, SEC, EMUL, HBMB
  risk      : Nat                  -- the risk level (R271)
  below     : Nat                  -- consecutive computations below it
  sub       : List Nat             -- the last sublevels
  thresh    : List (List Nat)      -- per input, for levels 2, 4, 6 and 7
  ran       : Option Nat           -- when the risk was last computed
  restart   : Option Nat           -- the controller restarts since (R273)
  acts      : Nat                  -- activations of firmware so far: each derives a new alias key (R275)
  log       : List LogEntry        -- newest first
  sensors   : Option Sensors       -- the last readings (R270)
  tenant    : List Nat             -- key ids whose tenant key is installed (R188)
  spdm      : List (Nat × Bool)    -- SPDM sessions by requester slot, and verified
deriving DecidableEq, Repr

/-! ### What leaves the device -/

/-- What the device hands to the outside in a step. -/
inductive Output where
  | flit (w : BitVec 7) (f : Flit) (nonce : BitVec 96)                     -- a sequenced flit (R28, R47)
  | local_ (w : BitVec 7) (h : FlitHdr) (m : LocalMsg) (nonce : BitVec 96)  -- a link-local flit
  | keyExchange (w : BitVec 7)                     -- the security engines are asked for a new key of this direction (R49)
  | msix (fn : Nat) (vector : W64)
  | unsupported                                    -- a request completed with Unsupported Request
  | hostData (data : List Byte) (poisoned : Bool)  -- the completion of a read through BAR2
  | response (dst : BitVec 7) (r : RemoteRsp)      -- to a peer that is the device itself
  | spdm (blocks : List W64)
  | pldm (v : W64)
  | report (e : LogEntry)                          -- the management controller's report to the host
  | ideFail (fn : Nat)                             -- an IDE check failure, reported through PCIe Advanced Error Reporting (R53)
deriving DecidableEq, Repr

/-! ### What comes next -/

/-- What an event without fields acts on. -/
structure Sel where
  a : Nat
  b : Nat
  c : Nat
deriving DecidableEq, Repr

/-- What the next step is, where the manual leaves it to the outside, to timing or to a choice of the hardware. -/
inductive Occurrence where
  | event (sel : Sel) (i : Instr)            -- an event of the table
  | scalar (r : SplitRef)                    -- this split fetches and issues its next scalar instruction
  | lane (r : SplitRef)                      -- this split issues the next lane instruction of its clause
  | perform (op piece : Nat)                 -- this piece of a memory operation is performed
  | elapse (ns : Nat)                        -- device time passes
  | evictL1 (die site line : Nat)            -- a core drops a line
  | evictMsc (line : Nat)                    -- the MSC writes a line back and drops it
  | dropTlb (page : Nat)                     -- cached translations of a page are dropped
deriving DecidableEq, Repr

/-- The state of the device. -/
structure State where
  part    : Part
  sites   : List (BitVec 28)       -- SITESk: the enabled-site masks (R10, R55)
  lost    : BitVec 12              -- LOSTMASK (R55)
  clock   : Clock
  power   : Power
  fabric  : Fabric
  host    : HostSide
  memctl  : MemCtl
  store   : Store
  caches  : Caches
  exec    : Exec
  ops     : Ops
  berths  : BerthTables
  ropes   : Ropes
  mgmt    : Mgmt
  cur     : Option SplitRef        -- the split that issues (the model's own)
  sel     : Sel                    -- what an event without fields acts on (the model's own)
  agenda  : List Occurrence        -- what comes next, first first (the model's own)
  fresh   : Nat                    -- how many free values have been used (the model's own)
  out     : List Output            -- what the last step handed out (the model's own)
deriving DecidableEq, Repr

/-! ### Why a step stops -/

/-- Faults. -/
inductive Fault where
  /-- Raised by every scalar and lane instruction when no split issues (`State.cur` is none or names no live group). Safe:
  the manual has no instruction outside a split. -/
  | noIssuer
deriving DecidableEq, Repr

/-- Refusals. -/
inductive Refusal where
  /-- Raised by an arm of `exec` whose instruction has no meaning yet. Safe: nothing is said of it. -/
  | notModelled (mnemonic : String)
deriving DecidableEq, Repr

/-! ### Reset -/

def KeyBank.reset : KeyBank := { valid := false, seqs := 0, locals := 0 }
def Tx.reset : Tx :=
  { active := 0, next := 0, retry := [], replay := none, stream := 0, awaiting := false, kg := false,
    banks := (KeyBank.reset, KeyBank.reset), retire := none, xoff := 0, queue := [], down := false,
    rekey := false, turn := List.replicate 4 7, bulk := true, credit := (0, 0) }
def Rx.reset : Rx :=
  { expect := 0, lit := 0, active := 0, again := 0, banks := (KeyBank.reset, KeyBank.reset), nakAt := none, loss := false,
    open_ := [] }
def Link.reset : Link :=
  { trained := false, up := false, h := List.replicate 40 none, tx := Tx.reset, rx := Rx.reset, peer := none }

/-- A queue at reset (R59): every register at the value of its table. -/
def Queue.reset : Queue :=
  { base := 0, size := 0, enable := false, pause := false, wridx := 0, rdidx := 0, state := 0, errIdx := 0, errCode := 0,
    vector := 0, func := 0xFFFF, pent := 0, back := 0, cur := none, barrier := none, wait := none, work := [],
    overEnd := none, mark := none, first := 0, fetchOk := true, stages := [], order := 0 }
def EventQueue.reset : EventQueue :=
  { base := 0, size := 0, wridx := 0, rdidx := 0, vector := 0, evseq := 0, ovf := false }
/-- A reset control page at reset (R85). -/
def ResetPage.reset : ResetPage :=
  { rctl := 0, queue := 0, pent := 0, index := 0, rstat := 0, taken := 0, acceptT := 0, doneT := 0, rsv := 0, active := none }
def SerPage.reset : SerPage :=
  { queue := 0, index := 0, imgva := 0, imgsize := 0, sig := 0, drain := 0, ctl := 0, result := 0 }
def Fn.reset : Fn := { evq := EventQueue.reset, rpage := ResetPage.reset, ser := SerPage.reset, inReset := false }
/-- A partition table entry at reset (R77). -/
def PartEntry.reset : PartEntry :=
  { state := 0, gen := 0, func := 0xFFFF, sites := List.replicate 8 0, mscways := 0, keybase := 0, keycount := 0,
    hbmb := 0xFFFFFFFF, flits := 0xFFFFFFFF, etime := 0xFFFFFFFF, poolres := 512, slice := 1000, lease := 8, l1lease := 4,
    queues := 16 }
/-- The budget table's defaults (R80). -/
def budgetDefaults : List Budget :=
  [⟨2048, 0xFFFFFFFF, 50000⟩, ⟨1024, 16384, 50000⟩, ⟨64, 0, 10000⟩, ⟨256, 4096, 20000⟩, ⟨4096, 16384, 100000⟩, ⟨8, 64, 2000⟩]
def Spent.zero : Spent := { hbmb := 0, flits := 0, etime := 0 }
def Snapshot.reset : Snapshot :=
  { thresh := 0, tkind := 0, status := 0, level := 0, count := 0, tbase := 0, tsize := 0, sig := 0, qmask := 0, ctxs := [],
    shadows := [], drained := [], pages := [], images := [], copies := [], dests := [], asked := [], wrote := 0, marks := 0,
    failed := false, rise := false }
def Journal.reset : Journal :=
  { jbase := 0, jsize := 0, jwr := 0, jreg := 0, jrcount := 0, jctl := 0, jstart := 0, stopped := false, replay := none,
    used := [] }
def Xlat.reset : Xlat :=
  { root := 0, prbase := 0, prsize := 0, prvec := 0, prwr := 0, prrd := 0, occlim := 0, deadrd := 0, stageshort := 0 }
def Firmware.reset : Firmware :=
  { active := false, vers := (0, 0), digs := (0, 0), staged := false, minVer := 0, ok := true }
/-- The thresholds of R271 for levels 2, 4, 6 and 7. Input 7 counts uncorrectable errors at levels 6 and 7, and an ELS
fault is level 4. -/
def riskThresholds : List (List Nat) :=
  [[10, 100, 1000, 10000], [1, 10, 100, 1000], [100, 10000, 100000, 1000000], [1, 4, 16, 64], [90, 100, 107, 112],
   [80, 88, 97, 102], [80, 90, 95, 98], [0, 1, 1, 4]]

/-- The clock at power-on: FREE, counting from 0, U unbounded (R16), ACLK at full rate (R14). -/
def Clock.reset : Clock :=
  { dtime := 0, tstate := .free, u := none, stepped := false, domain := 0, ptp := none, aclk := 700 }
def Power.reset : Power :=
  { on := true, limit := 4000, lowInput := false, background := false, hbm := false,
    hotDies := List.replicate 8 false, hotStacks := List.replicate 16 false, refresh := List.replicate 16 false, trip := none }
def Fabric.reset : Fabric :=
  { slot := none, links := List.replicate 128 Link.reset, pools := List.replicate 4 [], xoff := List.replicate 4 0,
    high := List.replicate 32 4096, low := List.replicate 32 3072 }
def HostSide.reset : HostSide :=
  { fns := List.replicate 64 Fn.reset, queues := List.replicate 256 Queue.reset, parts := List.replicate 40 PartEntry.reset,
    pterr := 0, budgets := budgetDefaults, period := 0, spentPart := List.replicate 40 Spent.zero,
    spentAct := List.replicate 6 Spent.zero, paid := List.replicate 6 0, nextPart := [], lastRung := List.replicate 40 none,
    snaps := List.replicate 40 Snapshot.reset, journals := List.replicate 40 Journal.reset, numVfs := 0,
    atomicReq := false, atomicErr := false, bar2 := 0x1000000000, cplTimeout := 50000000, tags := [], window := [], ide := [] }
def MemCtl.reset : MemCtl :=
  { xlat := List.replicate 40 Xlat.reset, invva := 0, invpages := 0, invpent := 0, invctl := 0, foppa := 0, fopcount := 0,
    fopkey := 0, fopkind := 0, fopctl := 0, sideways := List.replicate 4 0, flush := List.replicate 4 0, memerr := 0,
    inv := (0, 0, 0), reqs := [] }
/-- Memory at power-on: every frame has tag 0 and is dead, so that every byte reads as zero (R189, R199). -/
def Store.reset : Store :=
  { dram := [], dirty := [], host := [], frames := [], poison := [], lines := [], tlb := [], follow := [], follows := [],
    usedFr := [], freed := [] }
def Caches.reset : Caches := { l1 := [], peers := [], leases := [], held := [], recalls := [] }
def Exec.reset : Exec := { ctxs := [], teams := [], groups := [], victims := [], windows := [], misses := [] }
def Ops.reset : Ops :=
  { nextId := 0, mops := [], reqs := [], copies := [], stages := [], inbound := [], fetched := [], sigs := [], puts := [], late := [] }
def BerthTables.reset : BerthTables := { slots := [], forwards := [], epoch := 0 }
def Ropes.reset : Ropes := { acts := [], early := [], binds := [], parts := [] }
def Mgmt.reset : Mgmt :=
  { rascfg := 0, errors := List.replicate 8 (0, 0), recent := [], fw := List.replicate 5 Firmware.reset, risk := 0, below := 0, sub := List.replicate 8 0,
    thresh := riskThresholds, ran := none, restart := none, acts := 0, log := [], sensors := none, tenant := [], spdm := [] }

/-- A device of a part right after power-on, with its fabric slot not read yet (POWER_ON reads it). -/
def State.resetOf (p : Part) : State :=
  { part := p, sites := Config.siteFuses p, lost := 0, clock := Clock.reset, power := Power.reset, fabric := Fabric.reset,
    host := HostSide.reset, memctl := MemCtl.reset, store := Store.reset, caches := Caches.reset, exec := Exec.reset,
    ops := Ops.reset, berths := BerthTables.reset, ropes := Ropes.reset, mgmt := Mgmt.reset, cur := none,
    sel := ⟨0, 0, 0⟩, agenda := [], fresh := 0, out := [] }

/-- The machine right after reset: a TZ9. -/
def State.reset : State := State.resetOf .tz9

end Sys2Proof.Machine
end

