-- ==== Sys2Proof/Machine/Bits.lean ====
section
/-!
DEFINITION. Helpers that every part of the machine uses: sparse tables, little-endian bytes (R3), bit counts, and lists.
-/

namespace Sys2Proof.Machine

/-! ### Sparse tables -/

/-- What a number reads as; `d` for an unlisted one. -/
def sget {α : Type} (d : α) : Sparse α → Nat → α
  | [], _ => d
  | (k, v) :: r, a => if a = k then v else sget d r a

/-- A number given a value, keeping the table sorted and without entries equal to `d`. -/
def sset {α : Type} [DecidableEq α] (d : α) (m : Sparse α) (a : Nat) (v : α) : Sparse α :=
  match m with
  | [] => if v = d then [] else [(a, v)]
  | (k, w) :: r =>
    if a < k then (if v = d then (k, w) :: r else (a, v) :: (k, w) :: r)
    else if a = k then (if v = d then r else (a, v) :: r)
    else (k, w) :: sset d r a v

/-- The canonical form above `lo`: numbers strictly rising, no entry equal to `d`. -/
def swfFrom {α : Type} [DecidableEq α] (d : α) : Nat → Sparse α → Bool
  | _, [] => true
  | lo, (k, v) :: r => decide (lo ≤ k) && decide (v ≠ d) && swfFrom d (k + 1) r

/-- The canonical form of a sparse table. -/
def swf {α : Type} [DecidableEq α] (d : α) (m : Sparse α) : Bool := swfFrom d 0 m

/-- The canonical form of a memory whose unlisted bytes read as zero. -/
def Memory.wf (m : Mem) : Bool := swf (0 : Byte) m

/-- The entries of a table outside a range of numbers. -/
def sclear {α : Type} (m : Sparse α) (lo n : Nat) : Sparse α := m.filter (fun p => p.1 < lo || lo + n ≤ p.1)

/-! ### Bytes and words (R3) -/

/-- The n bytes of a number, lowest first. -/
def bytesOf : Nat → Nat → List Byte
  | 0, _ => []
  | n + 1, v => BitVec.ofNat 8 v :: bytesOf n (v / 256)

/-- The number that bytes hold, lowest first. -/
def natOf : List Byte → Nat
  | [] => 0
  | b :: r => b.toNat + 256 * natOf r

/-- A little-endian word of bytes. -/
def wordOf (w : Nat) (bs : List Byte) : BitVec w := BitVec.ofNat w (natOf bs)

/-- The bytes of a list of words, each in n bytes. -/
def bytesOfWords (n : Nat) (ws : List Nat) : List Byte := ws.flatMap (bytesOf n)

/-- The field of n bytes at an offset of a record. -/
def fieldAt (bs : List Byte) (off n : Nat) : Nat := natOf ((bs.drop off).take n)

/-- Whether every byte of a range of a record is zero. -/
def zeroAt (bs : List Byte) (off n : Nat) : Bool := ((bs.drop off).take n).all (· == 0)

/-! ### Bits -/

/-- How many of the low n bits are set. -/
def popc : Nat → Nat → Nat
  | 0, _ => 0
  | n + 1, v => v % 2 + popc n (v / 2)

/-- The leading zero bits of the low n bits. -/
def clz : Nat → Nat → Nat
  | 0, _ => 0
  | n + 1, v => if v / 2 ^ n % 2 = 1 then 0 else 1 + clz n v

/-- The lowest set bit among bits i to i + n − 1. -/
def lowBit : Nat → Nat → Nat → Option Nat
  | 0, _, _ => none
  | n + 1, i, v => if v.testBit i then some i else lowBit n (i + 1) v

/-- The numbers 0 to n − 1 whose bit is set. -/
def bitsOf (n v : Nat) : List Nat := (List.range n).filter (v.testBit ·)

/-- A mask with these bits set. -/
def maskOf (l : List Nat) : Nat := l.foldl (fun m i => m ||| 2 ^ i) 0

/-- A mask of the low n lanes. -/
def lanesMask (n : Nat) : W64 := BitVec.ofNat 64 (2 ^ n - 1)

/-! ### Lists -/

/-- One element changed. -/
def modAt {α : Type} (l : List α) (i : Nat) (f : α → α) : List α :=
  match l, i with
  | [], _ => []
  | x :: r, 0 => f x :: r
  | x :: r, i + 1 => x :: modAt r i f

/-- The position of the first element that satisfies p. -/
def indexOf? {α : Type} (l : List α) (p : α → Bool) : Option Nat :=
  match l with
  | [] => none
  | x :: r => if p x then some 0 else (indexOf? r p).map (· + 1)

/-- The elements with their positions. -/
def withIndex {α : Type} (l : List α) : List (Nat × α) := (List.range l.length).zip l

/-- The element for which f is least, the first of them on a tie. -/
def leastBy {α : Type} (f : α → Nat) : List α → Option α
  | [] => none
  | x :: r =>
    match leastBy f r with
    | none => some x
    | some y => if f x ≤ f y then some x else some y

/-- Each item once, in the order of its first place. -/
def dedup {α : Type} [DecidableEq α] (l : List α) : List α := l.foldl (fun a x => if a.contains x then a else a ++ [x]) []

/-- Insertion into a list that is sorted by f. -/
def insertBy {α : Type} (f : α → Nat) (x : α) : List α → List α
  | [] => [x]
  | y :: r => if f x ≤ f y then x :: y :: r else y :: insertBy f x r
def sortBy {α : Type} (f : α → Nat) : List α → List α
  | [] => []
  | x :: r => insertBy f x (sortBy f r)

end Sys2Proof.Machine
end

