-- ==== Sys2Proof/Machine/Memory.lean ====
section
/-!
DEFINITION. Physical memory, the MSC's lines, frames and poison; translation (R179 to R199).
-/

namespace Sys2Proof.Machine

/-! ### The physical address space (R180) -/

def inFast (p : Part) (pa : Nat) : Bool := pa < Config.hbmSize p
def inCap (p : Part) (pa : Nat) : Bool := 0x10000000000 ≤ pa && pa < 0x10000000000 + Config.capSize p
/-- Whether a PA lies in the fast or the capacity tier. -/
def isLocal (p : Part) (pa : Nat) : Bool := inFast p pa || inCap p pa
/-- The base die that is the home of a PA. -/
def homeDie (pa : Nat) : Nat := if pa < 0x10000000000 then pa / 2 ^ 38 else (pa - 0x10000000000) / 2 ^ 39
/-- The base die below a compute die (R9). -/
def baseBelow (die : Nat) : Nat := die / 2

/-! ### Bytes of memory -/

def FrameState.dead : FrameState := { key := 0, live := false }
def Store.frame (m : Store) (pa : Nat) : FrameState := sget FrameState.dead m.frames (pa / 65536)

/-- What a byte of memory reads as: zero in a dead frame (R199), else what the MSC holds of it, else what DRAM holds. -/
def Store.byte (m : Store) (pa : Nat) : Byte :=
  if (m.frame pa).live then
    match sget none m.dirty pa with
    | some b => b
    | none => sget 0 m.dram pa
  else 0

def Store.bytes (m : Store) (pa n : Nat) : List Byte := (List.range n).map (fun i => m.byte (pa + i))

/-- The first write to a dead frame makes it live; every other byte of it then reads as zero (R199). -/
def Store.revive (m : Store) (pa : Nat) : Store :=
  if (m.frame pa).live then m
  else
    let f := pa / 65536
    { m with frames := sset FrameState.dead m.frames f { m.frame pa with live := true },
             dram := sclear m.dram (f * 65536) 65536, dirty := sclear m.dirty (f * 65536) 65536 }

/-- One byte written, into the MSC (`cached`) or at the memory. -/
def Store.put (m : Store) (cached : Bool) (pa : Nat) (b : Byte) : Store :=
  let m := m.revive pa
  if cached then { m with dirty := sset none m.dirty pa (some b) }
  else { m with dram := sset 0 m.dram pa b, dirty := sset none m.dirty pa none }

def Store.putBytes (m : Store) (cached : Bool) (pa : Nat) : List Byte → Store
  | [] => m
  | b :: r => (m.put cached pa b).putBytes cached (pa + 1) r

/-- The sector of local memory whose value a poison mark is about: in its memory, or as the MSC holds it. -/
def sectorOf : PoisonLoc → Option Nat
  | .sector a => some (a / 32 * 32)
  | .msc line k => some (line * 128 + 32 * k)
  | _ => none

/-- Frames made dead, their contents gone (R193, R199); `key` gives them a new tag. -/
def Store.kill (m : Store) (key : Option (BitVec 10)) (f : Nat) : Store :=
  { m with frames := sset FrameState.dead m.frames f { key := key.getD (m.frame (f * 65536)).key, live := false },
           dram := sclear m.dram (f * 65536) 65536, dirty := sclear m.dirty (f * 65536) 65536,
           lines := m.lines.filter (fun l => l.line / 512 != f), freed := m.freed.filter (· != f),
           poison := m.poison.filter (fun p => (sectorOf p).all (fun a => a / 65536 != f)) }

/-- A frame's tag set with its contents kept (staging and following pages, R189). -/
def Store.tag (m : Store) (f : Nat) (key : BitVec 10) : Store :=
  { m with frames := sset FrameState.dead m.frames f { m.frame (f * 65536) with key := key } }

/-! ### Poison (R264, R266) -/

/-- Whether a range of memory touches a poisoned sector. -/
def Store.poisoned (m : Store) (pa n : Nat) : Bool :=
  m.poison.any (fun p => (sectorOf p).any (fun a => decide (a < pa + n ∧ pa < a + 32 ∧ 0 < n)))
/-- A write that covers a whole sector clears its poison. -/
def Store.cleanse (m : Store) (pa n : Nat) : Store :=
  { m with poison := m.poison.filter (fun p => (sectorOf p).all (fun a => !(pa ≤ a && a + 32 ≤ pa + n))) }
def Store.spoil (m : Store) (l : PoisonLoc) : Store := if m.poison.contains l then m else { m with poison := l :: m.poison }
/-- Every sector that a range of memory touches is marked. -/
def Store.spoilRange (m : Store) (pa n : Nat) : Store :=
  if n = 0 then m
  else (List.range ((pa + n - 1) / 32 + 1 - pa / 32)).foldl (fun (m : Store) i => m.spoil (.sector (32 * (pa / 32 + i)))) m
/-- Whether a place is marked. -/
def Store.marked (m : Store) (l : PoisonLoc) : Bool := m.poison.contains l
/-- A mark taken away: the place is given a new value. -/
def Store.clearMark (m : Store) (l : PoisonLoc) : Store := { m with poison := m.poison.filter (· != l) }
/-- The marks of an accumulator tile of a group are taken away. -/
def Store.clearAcc (m : Store) (g n : Nat) : Store :=
  { m with poison := m.poison.filter (fun p => match p with | .acc g' n' _ => !(g' == g && n' == n) | _ => true) }
/-- The poisoned sectors of a range are poisoned in a copy of it as well (R266). -/
def Store.carryPoison (m : Store) (pa n dst : Nat) : Store :=
  (m.poison.filterMap sectorOf).foldl (fun (m : Store) a => if pa ≤ a ∧ a < pa + n then m.spoil (.sector (a - pa + dst)) else m) m

/-! ### Frames that the device takes for itself (R97, R141, R147) -/

/-- The frames of a tier: the first and the one after the last, by PA div 64 KiB. -/
def tierFrames (p : Part) (tier : Nat) : Nat × Nat :=
  if tier = 0 then (0, Config.hbmSize p / 65536) else (0x1000000, 0x1000000 + Config.capSize p / 65536)

/-- The frames that are not free, as runs of a first frame and a count: those that have been tagged or written and not given back, those
that the device has taken, and its save areas (R115). `fresh` leaves out none of those given back. -/
def Store.takenRuns (m : Store) (fresh : Bool) : List (Nat × Nat) :=
  (m.frames.map (·.1)).filterMap (fun f => if !fresh && m.freed.contains f then none else some (f, 1)) ++ m.usedFr.map (·, 1)
def State.saveRuns (s : State) : List (Nat × Nat) :=
  (s.exec.ctxs.flatMap (·.save)).map (·, 1)
def State.takenRuns (s : State) (fresh : Bool) : List (Nat × Nat) := s.store.takenRuns fresh ++ s.saveRuns

/-- The highest run of k frames below `top` that meets no run of a list; its first frame is a multiple of `align`. -/
def runBelow (taken : List (Nat × Nat)) (lo k align : Nat) : (fuel top : Nat) → Option Nat
  | 0, _ => none
  | n + 1, top =>
    let f := (top - k) / align * align
    if top < lo + k ∨ f < lo then none
    else
      match taken.find? (fun r => decide (r.1 < f + k ∧ f < r.1 + r.2)) with
      | some r => runBelow taken lo k align n r.1
      | none => some f

/-- The run of k free frames of a tier that the device takes, beside runs that it is about to take: frames never used before those given
back. Which one it takes is not stated (log entry 24). -/
def State.freeRun (s : State) (tier k align : Nat) (taken : List (Nat × Nat)) : Option Nat :=
  let r := tierFrames s.part tier
  let find (t : List (Nat × Nat)) : Option Nat := runBelow t r.1 k align (t.length + 1) r.2
  match find (taken ++ s.takenRuns true) with
  | some f => some f
  | none => if s.store.freed = [] then none else find (taken ++ s.takenRuns false)
/-- A free frame of a tier. -/
def State.freeFrame (s : State) (tier : Nat) : Option Nat := s.freeRun tier 1 1 []
/-- n free frames of the fast tier, in as few runs as halving finds: the runs taken so far and these; none when there are not so many. -/
def State.freeRuns (s : State) : (fuel n : Nat) → (taken : List (Nat × Nat)) → Option (List (Nat × Nat))
  | 0, _, _ => none
  | fuel + 1, n, taken =>
    if n = 0 then some taken
    else
      match s.freeRun 0 n 1 taken with
      | some f => some (taken ++ [(f, n)])
      | none => if n = 1 then none else (s.freeRuns fuel (n / 2) taken).bind (s.freeRuns fuel (n - n / 2))

/-- A frame taken for the device's own use, with a tag (R189). -/
def Store.takeFrame (m : Store) (f : Nat) (key : BitVec 10) : Store :=
  { m with usedFr := f :: m.usedFr, freed := m.freed.filter (· != f) }.tag f key
/-- A frame given back (R97, R148): the device may take it again. What it holds then is not stated: the model leaves it (log entry 67). -/
def Store.freeFrame (m : Store) (f : Nat) : Store :=
  { m with usedFr := m.usedFr.filter (· != f), freed := if m.freed.contains f then m.freed else f :: m.freed }

/-! ### The MSC's lines (R209, R210) -/

/-- The ways in which a partition's lines may be allocated on a base die: those of its MSCWAYS that are not converted. -/
def State.usableWays (s : State) (pent bd : Nat) : List Nat :=
  let w := (s.host.parts.getD pent PartEntry.reset).mscways
  let side := s.memctl.sideways.getD bd 0
  (List.range 24).filter (fun i => w.getLsbD i && !side.getLsbD i)

/-- The sets of one base die's MSC: 192 MiB in 24 ways of 128-byte lines. Which lines share a set is not stated. -/
def mscSets : Nat := 65536

/-- Dirty bytes of a line written back to memory. -/
def Store.writeBack (m : Store) (line : Nat) : Store :=
  (List.range 128).foldl (fun m i =>
    let a := line * 128 + i
    match sget none m.dirty a with
    | some b => { m with dram := sset 0 m.dram a b, dirty := sset none m.dirty a none }
    | none => m) m

/-- A line leaves the MSC. A dirty sector that is poisoned is poisoned in memory; the mark of a clean one goes with the line. -/
def Store.dropLine (m : Store) (line : Nat) : Store :=
  let isDirty (k : Nat) : Bool := (List.range 32).any (fun i => (sget none m.dirty (line * 128 + 32 * k + i)).isSome)
  let m' := m.writeBack line
  { m' with lines := m'.lines.filter (fun l => l.line != line)
            poison := m'.poison.filterMap (fun p => match p with
              | .msc l k => if l = line then (if isDirty k then some (.sector (line * 128 + 32 * k)) else none) else some p
              | _ => some p) }

/-- The line that gives way in a set (R210): a streaming one first; then, when the context is above OCCLIM, its own least
recently used; else the least recently used. -/
def State.mscVictim (s : State) (cands : List MscLine) (pent : Nat) (ctx : Option Nat) (bd : Nat) : Option MscLine :=
  let lim := (s.memctl.xlat.getD pent Xlat.reset).occlim.toNat
  let mine := s.store.lines.countP (fun l => l.ctx == ctx && l.bd == bd)
  match leastBy (·.used) (cands.filter (·.stream)) with
  | some l => some l
  | none =>
    match (if lim ≠ 0 ∧ lim < mine then leastBy (·.used) (cands.filter (fun l => l.ctx == ctx)) else none) with
    | some l => some l
    | none => leastBy (·.used) cands

/-- Copies of peer lines leave the MSC, with their ways and their marks. -/
def State.dropPeers (s : State) (gone : Nat → Bool) : State :=
  let g (l : Nat) : Bool := gone l && s.caches.peers.any (fun c => c.line == l)
  { s with
    caches := { s.caches with peers := s.caches.peers.filter (fun c => !gone c.line) }
    store := { s.store with
      lines := s.store.lines.filter (fun l => !g l.line)
      poison := s.store.poison.filter (fun p => match p with | .msc l _ => !g l | _ => true) } }
/-- A line leaves the MSC: of the device's own memory, or a peer's, whose copy goes (R226). -/
def State.dropMscLine (s : State) (line : Nat) : State :=
  if s.caches.peers.any (fun c => c.line == line) then s.dropPeers (· == line) else { s with store := s.store.dropLine line }

/-- The MSC of a base die takes note of an access to a line (R186, R210): the line is allocated if the partition has a usable way. -/
def State.allocLine (s : State) (line bd pent : Nat) (ctx : Option Nat) (stream : Bool) : State :=
  if s.store.lines.any (fun l => l.line == line) then
    { s with store := { s.store with lines := s.store.lines.map (fun l =>
        if l.line = line then { l with used := s.clock.dtime.toNat } else l) } }
  else
    let ways := s.usableWays pent bd
    let set := s.store.lines.filter (fun l => l.bd == bd && l.line % mscSets == line % mscSets)
    match ways.find? (fun w => !(set.any (fun l => l.way == w))) with
    | some w => { s with store := { s.store with lines :=
        { line, bd, pent, ctx, way := w, stream, used := s.clock.dtime.toNat } :: s.store.lines } }
    | none =>
      match s.mscVictim (set.filter (fun l => ways.contains l.way)) pent ctx bd with
      | none => s                                          -- no usable way: the memory is reached uncached
      | some v =>
        let s := s.dropMscLine v.line
        { s with store := { s.store with lines :=
            { line, bd, pent, ctx, way := v.way, stream, used := s.clock.dtime.toNat } :: s.store.lines } }
/-- The same for a line of this device's memory, at its home. -/
def State.touchLine (s : State) (pa pent : Nat) (ctx : Option Nat) (stream : Bool) : State :=
  s.allocLine (pa / 128) (homeDie pa) pent ctx stream

/-- Whether an access with this caching goes through the MSC. -/
def State.cachedAt (s : State) (pa pent ca : Nat) : Bool := ca < 2 && (s.usableWays pent (homeDie pa)) != []

/-! ### Writes to local memory -/

/-- A write to the fast or the capacity tier at its home: the bytes, their poison and the line. -/
def State.memWrite (s : State) (pent : Nat) (ctx : Option Nat) (ca : Nat) (stream : Bool) (pa : Nat) (data : List Byte) : State :=
  let c := s.cachedAt pa pent ca
  let s := if c then s.touchLine pa pent ctx stream else s
  { s with store := (s.store.putBytes c pa data).cleanse pa data.length }

/-! ### Shadows (R147) -/

def State.snap (s : State) (e : Nat) : Snapshot := s.host.snaps.getD e Snapshot.reset
def State.modSnap (s : State) (e : Nat) (f : Snapshot → Snapshot) : State :=
  { s with host := { s.host with snaps := modAt s.host.snaps e f } }

/-- Where an access to a frame in shadow mode goes: the shadow, if there is one. -/
def State.shadowed (s : State) (pa : Nat) : Nat :=
  match (s.host.snaps.flatMap (·.shadows)).find? (fun p => p.1 == pa / 65536) with
  | some p => p.2 * 65536 + pa % 65536
  | none => pa

/-- The snapshot that waits to drain a frame, by partition table entry. -/
def State.draining (s : State) (f : Nat) : Option Nat :=
  indexOf? s.host.snaps (fun k => k.status == 2 && k.pages.any (fun p => p.2 == f) && !k.drained.contains f &&
    !k.shadows.any (fun p => p.1 == f))

/-- Before a store to a PA: the page's shadow is taken and filled if the store is the first to it; none when no frame is
free and the store waits. The PA is the one that the store goes to. -/
def State.forStore (s : State) (pa : Nat) : Option (State × Nat) :=
  let f := pa / 65536
  match s.draining f with
  | none => some (s, s.shadowed pa)
  | some e =>
    match s.freeFrame 0 with
    | none => none
    | some n =>
      let old := s.store.bytes (f * 65536) 65536
      let st := ((s.store.takeFrame n (s.store.frame pa).key).putBytes false (n * 65536) old).carryPoison (f * 65536) 65536 (n * 65536)
      some (({ s with store := st }.modSnap e (fun k => { k with shadows := (f, n) :: k.shadows })), n * 65536 + pa % 65536)

/-- Whether a copy that has not written the line yet owns it (R233). -/
def inRanges (l : List (Nat × Nat)) (x : Nat) : Bool := l.any (fun r => decide (r.1 ≤ x ∧ x < r.1 + r.2))
def State.owned (s : State) (pa : Nat) : Bool := s.ops.copies.any (fun c => inRanges c.owned (pa / 128))

/-- Whether a copy owns one of the lines of a range. -/
def State.ownedIn (s : State) (pa n : Nat) : Bool :=
  s.ops.copies.any (fun c => c.owned.any (fun r => decide (r.1 ≤ (pa + n - 1) / 128 ∧ pa / 128 < r.1 + r.2)))

/-- LOCKED or in HOLDOVER: leases are granted and taken (R226). -/
def State.leasing (s : State) : Bool := s.clock.tstate == .locked || s.clock.tstate == .holdover
/-- The leases outstanding on a line. -/
def State.leasesOn (s : State) (line : Nat) : List Lease :=
  s.caches.leases.filter (fun l => l.line == line && decide (s.clock.dtime.toNat < l.e))
/-- The device itself has written to lines: outside LOCKED and HOLDOVER their holders are to be sent RECALL (R232). -/
def State.noteWrite (s : State) (pa n : Nat) : State :=
  if s.leasing || n = 0 then s
  else
    let ls := ((List.range ((pa + n - 1) / 128 + 1 - pa / 128)).map (· + pa / 128)).filter (fun l => s.leasesOn l != [])
    { s with caches := { s.caches with recalls := s.caches.recalls ++ ls } }

/-- A write of the device itself at a local PA, made now; none when it has to wait: for a copy that owns a line (R233), or for a shadow
frame (R147). -/
def State.devNow (s : State) (pa : Nat) (x : DevWrite) : Option State :=
  let n := match x with | .bytes b => b.length | .leaf _ _ => 8
  if s.ownedIn pa n then none
  else
    match s.forStore pa with
    | none => none
    | some (s, p) =>
      let put (s : State) (b : List Byte) : State := ({ s with store := (s.store.putBytes false p b).cleanse p b.length }).noteWrite pa b.length
      match x with
      | .bytes b => some (put s b)
      | .leaf bits clear =>
        let w := wordOf 64 (s.store.bytes p 8)
        some (if w.getLsbD 0 && w.getLsbD 10 then put s (bytesOf 8 ((w ||| bits) &&& ~~~clear).toNat) else s)
/-- A device write of a record (tables, rings, images), now or later; writes to one frame keep their order. -/
def State.devDo (s : State) (pa : Nat) (x : DevWrite) : State :=
  let wait : State := { s with ops := { s.ops with late := s.ops.late ++ [(pa, x)] } }
  if s.ops.late.any (fun p => p.1 / 65536 == pa / 65536) then wait else (s.devNow pa x).getD wait
def State.devWrite (s : State) (pa : Nat) (data : List Byte) : State := s.devDo pa (.bytes data)
/-- The device writes that waited are tried again, oldest first. -/
def State.settleLate (s : State) : State :=
  s.ops.late.foldl (fun (s : State) p => s.devDo p.1 p.2) { s with ops := { s.ops with late := [] } }

/-- Bytes of host memory (R198): unlisted ones read as zero. -/
def Store.hostBytes (m : Store) (a n : Nat) : List Byte := (List.range n).map (fun i => sget 0 m.host (a + i))
def Store.hostPut (m : Store) (a : Nat) : List Byte → Store
  | [] => m
  | b :: r => { m with host := sset 0 m.host a b }.hostPut (a + 1) r

/-! ### Translation tables (R181 to R184) -/

/-- A leaf's fields (R182). -/
def lfV (w : W64) : Bool := w.getLsbD 0
def lfR (w : W64) : Bool := w.getLsbD 1
def lfW (w : W64) : Bool := w.getLsbD 2
def lfX (w : W64) : Bool := w.getLsbD 3
def lfP (w : W64) : Bool := w.getLsbD 4
def lfG (w : W64) : Bool := w.getLsbD 5
def lfCA (w : W64) : Nat := (w.extractLsb' 6 2).toNat
def lfTier (w : W64) : Nat := (w.extractLsb' 8 2).toNat
def lfRes (w : W64) : Bool := w.getLsbD 10
def lfDead (w : W64) : Bool := w.getLsbD 11
def lfSnap (w : W64) : Bool := w.getLsbD 12
def lfA (w : W64) : Bool := w.getLsbD 13
def lfD (w : W64) : Bool := w.getLsbD 14
def lfLeaf (w : W64) : Bool := w.getLsbD 15
def lfFrame (w : W64) : Nat := (w.extractLsb' 16 36).toNat * 65536
def lfKey (w : W64) : BitVec 10 := w.extractLsb' 52 10

/-- The offset bits of a leaf at a level (R181): so much does an entry of the level map. -/
def offBits (level : Nat) : Nat := 46 - 10 * level

/-- An entry of a table in memory; none where the device has no memory. -/
def State.pte (s : State) (pa : Nat) : Option W64 :=
  if isLocal s.part pa then some (wordOf 64 (s.store.bytes (s.shadowed pa) 8)) else none

inductive Walked where
  | bad
  | poison                         -- an entry on the walk is poisoned (R266)
  | leaf (w : W64) (level entry : Nat)
deriving DecidableEq, Repr

/-- The walk from a level with its table's PA; `n` levels remain. The non-leaf entries on it are listed for the walk caches. -/
def State.walkFrom (s : State) (pent va : Nat) : (n level table : Nat) → Walked × List TlbEntry
  | 0, _, _ => (.bad, [])
  | n + 1, level, table =>
    let entry := table + 8 * (va / 2 ^ offBits level % 1024)
    match s.pte entry with
    | none => (.bad, [])
    | some w =>
      if s.store.poisoned (s.shadowed entry) 8 then (.poison, [])
      else if !lfV w then (.bad, [])
      else if lfLeaf w then (if level = 0 ∨ w.extractLsb' 62 2 ≠ (0 : BitVec 2) then .bad else .leaf w level entry, [])
      else if w &&& ~~~(0x000FFFFFFFFFE001 : W64) ≠ 0 then (.bad, [])
      else
        let r := s.walkFrom pent va n (level + 1) ((w.extractLsb' 13 39).toNat * 8192)
        (r.1, { core := none, pent, page := va / 2 ^ offBits level, leaf := w, level, entry } :: r.2)

/-- The deepest non-leaf entry that the walk caches hold for a VA (R192). -/
def State.walkCached (s : State) (pent va : Nat) : Option TlbEntry :=
  [2, 1, 0].findSome? (fun level => s.store.tlb.find? (fun e =>
    e.core.isNone && e.pent == pent && e.level == level && e.page == va / 2 ^ offBits level && !lfLeaf e.leaf))

/-- The walk of a VA in a partition's tables, from the deepest entry that is cached, with the entries that it read; bad while EN is
0 (R191). -/
def State.walkPath (s : State) (pent va : Nat) : Walked × List TlbEntry :=
  let root := (s.memctl.xlat.getD pent Xlat.reset).root
  if root.getLsbD 0 then
    match s.walkCached pent va with
    | some e => s.walkFrom pent va (3 - e.level) (e.level + 1) ((e.leaf.extractLsb' 13 39).toNat * 8192)
    | none => s.walkFrom pent va 4 0 ((root.extractLsb' 13 39).toNat * 8192)
  else (.bad, [])
def State.walk (s : State) (pent : Nat) (va : Nat) : Walked := (s.walkPath pent va).1

/-- The conditions of R184 on a resident leaf: alignment, the range of its tier, and DEAD. -/
def leafValid (p : Part) (w : W64) (level : Nat) : Bool :=
  let f := lfFrame w
  f % 2 ^ offBits level == 0 &&
  (match lfTier w with
   | 0 => inFast p f
   | 1 => inCap p f
   | 2 => true
   | _ => 2 ^ 51 ≤ f) &&
  (!lfDead w || lfTier w == 0)

/-- What looking a VA up gives. -/
inductive Look where
  | fail                                      -- PROTECTION sub-code 0
  | poison                                    -- an entry on the walk is poisoned
  | absent (w : W64) (entry : Nat)            -- V = 1, RES = 0
  | hit (e : TlbEntry)
deriving DecidableEq, Repr

/-- A cached translation of a page that the access may use. For a write through a leaf whose D is 0, the entry in memory
must still have V = 1 and RES = 1, or the device walks again (R187); so it does where that entry is poisoned (R266). -/
def State.tlbHit (s : State) (core : Option (Nat × Nat)) (pent va : Nat) (write : Bool) : Option TlbEntry :=
  match s.store.tlb.find? (fun e => e.core == core && e.pent == pent && e.page == va / 2 ^ offBits e.level && lfLeaf e.leaf) with
  | none => none
  | some e =>
    if write && !lfD e.leaf then
      match s.pte e.entry with
      | some w => if lfV w && lfRes w && !s.store.poisoned e.entry 8 then some e else none
      | none => none
    else some e

/-- A VA looked up in the TLB, then in the tables (R192), while EN is 1 (R191). -/
def State.look (s : State) (core : Option (Nat × Nat)) (pent : Nat) (va : Nat) (write : Bool) : Look :=
  if !(s.memctl.xlat.getD pent Xlat.reset).root.getLsbD 0 then .fail
  else
    match s.tlbHit core pent va write with
    | some e => .hit e
    | none =>
      match s.walk pent va with
      | .bad => .fail
      | .poison => .poison
      | .leaf w level entry =>
        if !lfRes w then .absent w entry
        else if leafValid s.part w level then .hit { core, pent, page := va / 2 ^ offBits level, leaf := w, level, entry }
        else .fail

/-- The PA that a hit gives a VA. -/
def TlbEntry.pa (e : TlbEntry) (va : Nat) : Nat := lfFrame e.leaf + va % 2 ^ offBits e.level

/-- The kinds of access of R185. -/
inductive Acc where
  | read | write | atomic | exec
deriving DecidableEq, Repr

def Acc.writes : Acc → Bool
  | .write | .atomic => true
  | _ => false

/-- The sub-code of a permission failure of R185, the P check first; none when the access is permitted. -/
def permFail (w : W64) (k : Acc) (priv : Bool) : Option Nat :=
  if lfP w && !priv then some 4
  else
    match k with
    | .read => if lfR w then none else some 1
    | .write => if lfW w then none else some 2
    | .atomic => if !lfW w then some 2 else if lfR w then none else some 1
    | .exec => if lfX w then none else some 3

/-- A key id within a partition's range (R188). -/
def State.keyInRange (s : State) (pent : Nat) (k : BitVec 10) : Bool :=
  let p := s.host.parts.getD pent PartEntry.reset
  p.keybase.toNat ≤ k.toNat && k.toNat < p.keybase.toNat + p.keycount.toNat

/-- What the translation of an access gives. -/
inductive Tr where
  | ok (place : Place) (ca : Nat) (e : Option TlbEntry)
  | prot (sub : Nat)
  | key
  | nonres (page : W64)
  | follow (page : W64)
  | poison                         -- an entry of the tables on the walk is poisoned (R266, log entry 111)
deriving DecidableEq, Repr

/-- Whether a page of a partition is following (R141). -/
def State.following (s : State) (pent : Nat) (page : W64) : Bool :=
  s.store.follow.any (fun f => f.pent == pent && f.va == page && f.state < 2)

/-- Translation, permission and key of one access, at a partition (R179 to R188). P, R, W and X are examined on a page that is not
resident too: of such a leaf only FRAME, TIER, KEYID and DEAD are not (R184). `rope` gives the rope context whose
window the access may use: member count and slots by rank (R238). -/
def State.translate (s : State) (core : Option (Nat × Nat)) (pent : Nat) (rope : Option (Nat × List (BitVec 7)))
    (va : W64) (k : Acc) (priv : Bool := false) : Tr :=
  let page : W64 := va &&& ~~~(0xFFFF : W64)
  if va.extractLsb' 56 8 ≠ (0 : Byte) then .prot 0
  else
    match (if va.getLsbD 55 then rope else none) with
    | some (count, slots) =>
      let r := (va.extractLsb' 48 7).toNat
      if count ≤ r then .prot 0 else .ok (.rope r (slots.getD r 0) (va.toNat % 2 ^ 48)) 0 none
    | none =>
      match s.look core pent va.toNat k.writes with
      | .fail => .prot 0
      | .poison => .poison
      | .absent w _ =>
        match permFail w k priv with
        | some sub => .prot sub
        | none => if s.following pent page then .follow page else .nonres page
      | .hit e =>
        let w := e.leaf
        let pa := e.pa va.toNat
        match permFail w k priv with
        | some sub => .prot sub
        | none =>
          if lfTier w = 2 then .ok (.host pa) (lfCA w) (some e)
          else if !s.keyInRange pent (lfKey w) then .key
          else if lfTier w = 3 then .ok (.peer (BitVec.ofNat 7 (pa / 2 ^ 44)) (pa % 2 ^ 44) (lfKey w)) (lfCA w) (some e)
          else if (s.store.frame pa).key ≠ lfKey w then .key
          else .ok (.mem pa) (if lfCA w = 3 then 2 else lfCA w) (some e)

/-- Whether a translation is in its TLB already. -/
def State.tlbHas (s : State) (e : TlbEntry) : Bool :=
  s.store.tlb.any (fun t => t.core == e.core && t.pent == e.pent && t.level == e.level && t.page == e.page && t.entry == e.entry)

/-- Entries of one TLB, which holds 2048 (R194): the newest stay. Which of them give way is not stated (log entry 112). -/
def tlbBound (core : Option (Nat × Nat)) : (room : Nat) → List TlbEntry → List TlbEntry
  | _, [] => []
  | room, e :: r =>
    if core.isNone || e.core != core then e :: tlbBound core room r
    else
      match room with
      | 0 => tlbBound core 0 r
      | n + 1 => e :: tlbBound core n r

/-- Entries put into the TLB and the walk caches: a leaf, and the non-leaf entries on its walk. -/
def Store.cacheEntries (m : Store) (core : Option (Nat × Nat)) (es : List TlbEntry) : Store :=
  let same (a b : TlbEntry) : Bool := a.core == b.core && a.pent == b.pent && a.level == b.level && a.page == b.page
  { m with tlb := tlbBound core 2048 (es ++ m.tlb.filter (fun t => !es.any (same t))) }

/-- The bits of a leaf that an access sets (R187): A when its translation is placed in a TLB, D before the first write. -/
def leafBits (e : TlbEntry) (cached write : Bool) : W64 :=
  (if cached then 0 else 0x2000) ||| (if write && !lfD e.leaf then 0x4000 else 0)

/-- The device caches a translation and sets A, and D before the first write; a write that revives a frame through a leaf
with DEAD = 1 clears DEAD by the same update (R187, R199). -/
def State.markLeaf (s : State) (e : TlbEntry) (va : Nat) (write : Bool) : State :=
  match s.pte e.entry with
  | none => s
  | some w =>
    let revives := write && lfDead e.leaf && lfV w && lfRes w && !(s.store.frame (e.pa va)).live
    let bits := leafBits e (s.tlbHas e) write
    let clear : W64 := if revives then 0x800 else 0
    let e' := { e with leaf := (e.leaf ||| bits) &&& ~~~clear }
    let path := (s.walkPath e.pent va).2
    let s := if (w ||| bits) &&& ~~~clear = w then s else s.devDo e.entry (.leaf bits clear)
    { s with store := s.store.cacheEntries e.core (e' :: path) }

/-- D, before the device itself writes at a VA of a partition (R187). -/
def State.markWrite (s : State) (pent : Nat) (va : W64) : State :=
  match s.translate none pent none va .write with
  | .ok _ _ (some e) => s.markLeaf e va.toNat true
  | _ => s

/-- A dead-frame read counted, once for each lane instruction or copy chunk (R199). -/
def State.countDead (s : State) (pent : Nat) : State :=
  { s with memctl := { s.memctl with xlat := modAt s.memctl.xlat pent (fun x => { x with deadrd := x.deadrd + 1 }) } }

end Sys2Proof.Machine
end

