-- ==== Sys2Proof/Machine/Ops.lean ====
section
/-!
DEFINITION. The named operations over the state: records by number, scalar registers (R312), splits and JOIN (R153, R154),
barriers and their phases (R205, R206), the end of a context (R177), taking a trap and returning from it (R170 to R174,
R447, R448).
-/

namespace Sys2Proof.Machine

/-- The outcome of a step. -/
abbrev Res := Host.Outcome State Fault Refusal

/-! ### Records by number -/

def Split.absent : Split :=
  { status := .absent, pc := 0, mask := 0, stack := [], runq := [], clause := none, wbar := 0, wflags := 0, wval := 0,
    wreg := 0, arrived := false, wpar := false, cause := 0, tpc := 0, taddr := 0, tinfo := 0, tspc := 0, handler := none,
    age := 0, fsc := 0, waitOp := none, waitPg := [], svc := false, fails := [], hsync := none }

def State.group? (s : State) (g : Nat) : Option Group := s.exec.groups[g]?
def State.team? (s : State) (t : Nat) : Option Team := s.exec.teams[t]?
def State.ctx? (s : State) (c : Nat) : Option Ctx := s.exec.ctxs[c]?
def Group.split (g : Group) (i : Nat) : Split := g.splits.getD i Split.absent
/-- Device time, a 64-bit count of ns (R5). -/
def State.now (s : State) : Nat := s.clock.dtime.toNat
def State.partEnt (s : State) (e : Nat) : PartEntry := s.host.parts.getD e PartEntry.reset
def State.queue (s : State) (q : Nat) : Queue := s.host.queues.getD q Queue.reset
def State.fn (s : State) (f : Nat) : Fn := s.host.fns.getD f Fn.reset
def State.feat (s : State) (bit : Nat) : Bool := (Config.feat0 s.part).getLsbD bit

def State.modGroup (s : State) (g : Nat) (f : Group → Group) : State :=
  { s with exec := { s.exec with groups := modAt s.exec.groups g f } }
def State.modTeam (s : State) (t : Nat) (f : Team → Team) : State :=
  { s with exec := { s.exec with teams := modAt s.exec.teams t f } }
def State.modCtx (s : State) (c : Nat) (f : Ctx → Ctx) : State :=
  { s with exec := { s.exec with ctxs := modAt s.exec.ctxs c f } }
def State.modQueue (s : State) (q : Nat) (f : Queue → Queue) : State :=
  { s with host := { s.host with queues := modAt s.host.queues q f } }
def State.modFn (s : State) (n : Nat) (f : Fn → Fn) : State :=
  { s with host := { s.host with fns := modAt s.host.fns n f } }
def State.modPart (s : State) (e : Nat) (f : PartEntry → PartEntry) : State :=
  { s with host := { s.host with parts := modAt s.host.parts e f } }
def State.emit (s : State) (o : Output) : State := { s with out := s.out ++ [o] }

/-- The context of a group. -/
def State.ctxOf? (s : State) (g : Nat) : Option (Nat × Ctx) :=
  match s.group? g with
  | none => none
  | some gr =>
    match s.team? gr.team with
    | none => none
    | some t => (s.ctx? t.ctx).map (fun c => (t.ctx, c))

/-- The groups of a context, by number. -/
def State.groupsOf (s : State) (c : Nat) : List Nat :=
  (s.exec.teams.filter (fun t => t.ctx == c)).flatMap (·.groups)

/-- The rope window that a context's accesses may use (R238): member count and slots by rank. -/
def State.ropeWin (s : State) (c : Ctx) : Option (Nat × List (BitVec 7)) :=
  if c.lr.rope then
    some (c.rcount, ((s.ropes.binds.find? (fun b => b.id == c.ropeId)).map (·.map)).getD [])
  else none

/-! ### Scalar registers (R6, R312) -/

/-- A scalar register; s63 reads zero. -/
def Group.sreg (g : Group) (r : SReg) : W64 := if r = 63 then 0 else g.sregs.getD r.toNat 0
/-- A scalar register written; a write to s63 is discarded. -/
def Group.setSreg (g : Group) (r : SReg) (v : W64) : Group :=
  if r = 63 then g else { g with sregs := g.sregs.set r.toNat v, spois := g.spois &&& ~~~((1 : W64) <<< r.toNat) }

/-! ### Splits and JOIN -/

/-- Whether a split with this status can still reach a JOIN (R154): ready, asleep, or waiting for page service. -/
def Status.reaches : Status → Bool
  | .ready | .sleep | .page => true
  | _ => false

/-- Whether a split can still reach a JOIN (R154): by its status, or for as long as it runs its handler, in which an image records it as
STATUS 8 whatever it is blocked in. One that waits at a JOIN of its handler is judged as waiting there (DESIGN CHOICE, log entry 113). -/
def Split.reaches (sp : Split) : Bool :=
  sp.status.reaches || (sp.handler.isSome && (sp.status == .tbar || sp.status == .cbar || sp.status == .waitf || sp.status == .bwait))

/-- A split is present unless its number is free or it has exited (R155). -/
def Status.present : Status → Bool
  | .absent | .exited => false
  | _ => true

/-- Of the JOINs at which splits wait, the one whose splits leave first. The manual states no order among several: with more than
one it is a free choice (`Config.joinFirst`). -/
def firstJoin : List W64 → Option W64
  | [] => none
  | [j] => some j
  | js => js[Config.joinFirst js % js.length]?

/-- The splits that wait at a JOIN leave together once no other split can reach it (R153, R154); the lowest-numbered one goes on for
all. A split that has left is ready, and can reach every other JOIN. -/
def Group.settle (g : Group) (now : Nat) : Group :=
  if g.splits.any (·.reaches) then g
  else
    match firstJoin (sortBy BitVec.toNat (dedup ((g.splits.filter (·.status == .join)).map (·.wval)))) with
    | none => g
    | some j =>
      let m := (withIndex g.splits).filter (fun (_, t) => t.status == .join && t.wval == j)
      { g with splits := (withIndex g.splits).map (fun (i, sp) =>
          if sp.status = .join ∧ sp.wval = j then
            if m.any (fun (k, _) => decide (k < i)) then Split.absent
            else { sp with status := .ready, pc := j + 4, wval := 0, age := now, mask := m.foldl (fun a (_, t) => a ||| t.mask) 0 }
          else sp) }

/-- A split replaced, after which the JOINs of its group are looked at again. -/
def State.putSplit (s : State) (r : SplitRef) (sp : Split) : State :=
  s.modGroup r.g (fun g => { g with splits := g.splits.set r.sp sp }.settle s.now)

/-- A split blocked in an instruction, at its own address. -/
def Split.block (sp : Split) (st : Status) (reg : SReg := 0) : Split := { sp with status := st, wreg := reg }
/-- A split that has completed an instruction of `n` bytes. -/
def Split.advance (sp : Split) (n : W64) : Split := { sp with pc := sp.pc + n, status := .ready, arrived := false, wval := 0 }

/-- An instruction of `n` bytes completes with a value for SD. -/
def State.finish (s : State) (r : SplitRef) (sp : Split) (n : W64) (d : SReg) (v : W64) : State :=
  (s.modGroup r.g (fun g => g.setSreg d v)).putSplit r (sp.advance n)
/-- An instruction of `n` bytes completes with no result. -/
def State.finish0 (s : State) (r : SplitRef) (sp : Split) (n : W64) : State := s.putSplit r (sp.advance n)

/-- A blocked split wakes with a value for the SD of the instruction that it was blocked in. -/
def Group.wake (g : Group) (i : Nat) (v : W64) (now : Nat) : Group :=
  let sp := g.split i
  ({ g.setSreg sp.wreg v with splits := g.splits.set i { sp.advance 4 with age := now } }).settle now

/-! ### L1 (R225) -/

/-- Lines leave the L1s, with their poison marks. -/
def State.dropL1 (s : State) (gone : (die site line : Nat) → Bool) : State :=
  { s with
    caches := { s.caches with l1 := s.caches.l1.filter (fun l => !gone l.die l.site l.line) }
    store := { s.store with poison := s.store.poison.filter (fun p => match p with | .l1 d i l => !gone d i l | _ => true) } }
/-- Every line of a core's L1 is discarded (R220). -/
def State.flushL1 (s : State) (die site : Nat) : State := s.dropL1 (fun d i _ => d == die && i == site)
/-- The core of a group. -/
def State.coreOf (s : State) (g : Nat) : Nat × Nat :=
  match s.group? g with
  | some gr => match s.team? gr.team with | some t => (t.die, t.site) | none => (0, 0)
  | none => (0, 0)
/-- An acquire at clu, dev or sys scope by a group (R220). -/
def State.acquire (s : State) (g : Nat) : State := let c := s.coreOf g; s.flushL1 c.1 c.2

/-! ### Barriers (R205 to R208) -/

def Barrier.zero : Barrier :=
  { lquota := 0, larr := 0, bquota := 0, barr := 0, parity := false, err := false, lastErr := false, arrived := [],
    dog := 0 }

/-- Whether a phase is complete (R206). -/
def Barrier.full (b : Barrier) : Bool :=
  (b.lquota != 0 || b.bquota != 0) && b.lquota ≤ b.larr && b.bquota ≤ b.barr

/-- Completion of a phase (R206). -/
def Barrier.next (b : Barrier) : Barrier :=
  { b with lastErr := b.err || decide (b.lquota < b.larr) || decide (b.bquota < b.barr), parity := !b.parity, larr := 0,
           barr := 0, bquota := 0, err := false, arrived := [], dog := 0 }

/-- The splits of a group blocked with this status on this barrier are released with the phase's status (R206). -/
def Group.release (g : Group) (st : Status) (bar : Nat) (par : Bool) (err : Bool) (now : Nat) : Group :=
  (List.range 4).foldl (fun g i =>
    let sp := g.split i
    if sp.status = st ∧ sp.wbar = bar ∧ sp.wpar = par then g.wake i (if err then 1 else 0) now else g) g

/-- What an event on team barrier n of team t leaves: the phase completes if it is full, its waiters are released, and the
core's L1 is discarded for the copies counted in it (R206, R207, R235). -/
def State.settleBar (s : State) (t n : Nat) : State :=
  match s.team? t with
  | none => s
  | some tm =>
    let b := tm.bars.getD n Barrier.zero
    if b.full then
      let b' := b.next
      let s := s.modTeam t (fun tm => { tm with bars := tm.bars.set n b' })
      let s := tm.groups.foldl (fun s g => s.modGroup g (fun gr => gr.release .tbar n b.parity b'.lastErr s.now)) s
      s.flushL1 tm.die tm.site
    else s

/-- The teams of the cluster that team `lead` leads. -/
def State.cluster (s : State) (lead : Nat) : List (Nat × Team) :=
  (withIndex s.exec.teams).filter (fun p => p.2.lead == lead)

/-- The same for the cluster barrier that team `lead` holds (R208, R237). -/
def State.settleCbar (s : State) (lead : Nat) : State :=
  match s.team? lead with
  | none => s
  | some tm =>
    if tm.cbar.full then
      let b' := tm.cbar.next
      let teams := s.cluster lead
      let s := s.modTeam lead (fun tm => { tm with cbar := b' })
      teams.foldl (fun s p =>
        (p.2.groups.foldl (fun s g => s.modGroup g (fun gr => gr.release .cbar 0 tm.cbar.parity b'.lastErr s.now)) s).flushL1
          p.2.die p.2.site) s
    else s

/-- A change of team barrier n, followed by what it completes. -/
def State.barEvent (s : State) (t n : Nat) (f : Barrier → Barrier) : State :=
  (s.modTeam t (fun tm => { tm with bars := modAt tm.bars n f })).settleBar t n

/-- Whether a split waits on team barrier n, or with 16 on the cluster barrier: blocked there, or about to issue again an instruction of
which the wait part alone is left (R447, R462). -/
def Split.waitsAt (sp : Split) (n : Nat) : Bool :=
  (if n = 16 then sp.status == .cbar else sp.status == .tbar && sp.wbar == n) || (sp.status == .ready && sp.arrived && sp.wbar == n)

/-- How many splits are blocked on barrier n of a team: WAITING (R128). -/
def State.waiting (s : State) (tm : Team) (n : Nat) : Nat :=
  (tm.groups.map (fun g => match s.group? g with
    | some gr => gr.splits.countP (·.waitsAt n)
    | none => 0)).sum

/-! ### The end of a context (R177) -/

def FaultRec.none_ : FaultRec :=
  { code := 0, cause := 0, group := 0xFF, split := 0xFF, team := 0xFFFFFFFF, hfl := 0, die := 0xFF, trapPc := 0,
    trapAddr := 0, trapInfo := 0, aux := 0, siga := 0, sigb := 0 }

/-- Whether a group belongs to a context. -/
def State.inCtx (s : State) (c g : Nat) : Bool := (s.groupsOf c).contains g

/-- The cores on which a context has teams that run. -/
def State.coresIn (s : State) (c : Nat) : List (Nat × Nat) :=
  dedup ((s.exec.teams.filter (fun t => t.ctx == c && t.state == .running)).map (fun t => 32 * t.die + t.site)) |>.map (fun x => (x / 32, x % 32))

/-- Every group of a context stops where it stands, its copies are squashed, its open batches discarded and its berths
destroyed (R177, steps 1 and 2; R82, the context rung). -/
def State.stopCtx (s : State) (c : Nat) : State :=
  let gs := s.groupsOf c
  { s with
    exec := { s.exec with
      ctxs := modAt s.exec.ctxs c (fun x => { x with cores := x.cores ++ s.coresIn c })
      groups := (withIndex s.exec.groups).map (fun (i, g) =>
        if gs.contains i then { g with live := false, batches := [], desched := false, stop := none } else g)
      teams := s.exec.teams.map (fun t => if t.ctx = c then { t with state := .retired, tiles := List.replicate 64 none } else t) }
    ops := { s.ops with
      copies := s.ops.copies.filter (fun k => k.ctx != some c)
      stages := s.ops.stages.map (fun k => if k.ctx = some c then { k with ctx := none } else k) }
    berths := { s.berths with
      slots := s.berths.slots.map (fun b => match b.g with
        | some g => if gs.contains g then { b with state := .free, g := none, waiter := none, filled := false } else b
        | none => b)
      forwards := s.berths.forwards.map (fun f => if gs.contains f.g then { f with freed := true, waiter := none } else f) } }

/-- A context ends with a fault record; its code goes to CSIG once its outstanding requests are over (CONTEXT_END). A
context that is already ending keeps its first record. -/
def State.endCtx (s : State) (c : Nat) (f : FaultRec) : State :=
  match s.ctx? c with
  | none => s
  | some x =>
    match x.state with
    | .staging | .running => (s.stopCtx c).modCtx c (fun x => { x with state := .ending, fault := some f })
    | _ => s

/-! ### Traps (R170 to R174, R447) -/

/-- A trap that an instruction raises. -/
structure Trap where
  code : Nat
  sub  : Nat := 0
  lane : Bool := false
  imp  : Bool := false
  pc   : W64
  addr : W64 := 0
  info : W64 := 0
  kind : TrapKind := .scalar
  spc  : W64                       -- the scalar resume point (R447)
deriving DecidableEq, Repr

/-- TRAPCAUSE (R171). -/
def Trap.cause (t : Trap) : W16 :=
  BitVec.ofNat 16 (t.code + (if t.lane then 256 else 0) + (if t.imp then 512 else 0) + t.sub * 4096)

/-- Causes that end the context whatever handler it names (R170): BARRIER_TIMEOUT, DUAL_RUN, DATA_POISON. -/
def fatalCause (code : Nat) : Bool := code == 11 || code == 12 || code == 13

/-- RFAULT as SMR reads it (R244). -/
def RFault.word (f : RFault) : W64 :=
  BitVec.ofBool f.pend ++ (0 : BitVec 15) ++ f.count ++ f.ltarget ++ f.lreason ++ f.starget ++ f.sreason
def RFault.zero : RFault :=
  { pend := false, count := 0, ltarget := 0, lreason := 0, starget := 0, sreason := 0, va := 0 }

/-- The fault record of a trap (R178). -/
def Trap.record (t : Trap) (g : Group) (r : SplitRef) (tm : Team) (aux : W64) (hfl : Byte) : FaultRec :=
  { FaultRec.none_ with
    code := 1, cause := t.cause, group := BitVec.ofNat 8 g.index, split := BitVec.ofNat 8 r.sp,
    team := BitVec.ofNat 32 tm.linear, trapPc := t.pc, trapAddr := t.addr, trapInfo := t.info, aux, hfl := hfl ||| (if tm.inst = 1 then 4 else 0) }

/-- The address of the handler's first instruction (R92, R173). -/
def LaunchRec.handler (l : LaunchRec) : W64 := l.entry + 4 * l.thoff.signExtend 64

/-- A split no longer waits on a berth: the BWAIT that its handler abandons is executed again (R447). -/
def State.unwait (s : State) (r : SplitRef) : State :=
  { s with berths := { s.berths with
    slots := s.berths.slots.map (fun b => if b.g = some r.g ∧ b.waiter = some r.sp then { b with waiter := none } else b)
    forwards := s.berths.forwards.map (fun f => if f.g = r.g ∧ f.waiter = some r.sp then { f with waiter := none } else f) } }

/-- The scalar load that a split waits in is given up: its handler executes it again (R447). -/
def State.abandonLoad (s : State) (sp : Split) : State :=
  match sp.waitOp with
  | none => s
  | some id => { s with ops := { s.ops with mops := s.ops.mops.filter (fun o => o.id != id) } }

/-- The lowest split of a group that is present. -/
def Group.firstSplit (g : Group) : Nat := ((List.range 4).find? (fun i => (g.split i).status.present)).getD 0

/-- TAKING A TRAP, the one operation that every cause goes through. A split that runs its handler ends its context, with
the first cause and, in AUX, the second (R174). A context-fatal cause, and any cause without a handler, end the context
(R173, R177). Otherwise the split enters the handler with its own mask: the trap registers hold the record, TRAPSPC the
scalar resume point, and the PC is ENTRY + 4 × THOFF. -/
def State.takeTrap (s : State) (r : SplitRef) (t : Trap) : State :=
  match s.group? r.g with
  | none => s
  | some g =>
    match s.team? g.team with
    | none => s
    | some tm =>
      match s.ctx? tm.ctx with
      | none => s
      | some c =>
        let sp := g.split r.sp
        let rec0 := t.record g r tm (if t.code = 10 then g.rfault.word else 0) 0
        if sp.handler.isSome then
          s.endCtx tm.ctx { rec0 with cause := sp.cause, trapPc := sp.tpc, trapAddr := sp.taddr, trapInfo := sp.tinfo,
                                      aux := t.cause.zeroExtend 64, hfl := rec0.hfl ||| 3 }
        else if fatalCause t.code || c.lr.thoff == 0 || c.lr.dual then s.endCtx tm.ctx rec0
        else
          ((s.unwait r).abandonLoad sp).putSplit r { sp with
            status := .ready, pc := c.lr.handler, cause := t.cause, tpc := t.pc, taddr := t.addr, tinfo := t.info,
            tspc := t.spc, handler := some t.kind, age := s.now, waitOp := none,
            hsync := if sp.arrived then some (if sp.status = .cbar then 16 else sp.wbar, sp.wpar) else none, arrived := false,
            waitSc := [] }

/-- A precise trap of the scalar instruction at the split's PC (R171). -/
def State.scalarTrap (s : State) (r : SplitRef) (sp : Split) (code sub : Nat) (addr : W64) (sop : Nat) : State :=
  s.takeTrap r { code, sub, pc := sp.pc, addr, info := BitVec.ofNat 64 sop, spc := sp.pc }

/-- ILLEGAL_INSTR at the split's PC. -/
def State.illegal (s : State) (r : SplitRef) (sp : Split) (sop : Nat) : State := s.scalarTrap r sp 1 0 0 sop

/-- The address of the lane instruction that a started clause issues next (R171, R326). -/
def ClauseRun.at_ (c : ClauseRun) : W64 := c.addr + 12 * BitVec.ofNat 64 (c.done + 1)

/-- THE RETURN FROM A TRAP (R173, R448): whether TRAPPC is a value that RETT accepts, and the split that it leaves. After
a lane trap the clause resumes at TRAPPC or is complete; after a trap at clause start it is validated again or leaves the
queue; the scalar stream resumes at TRAPSPC, or after a scalar trap at TRAPPC. -/
def Split.rett (sp : Split) : Option Split :=
  let back : Split := { sp with handler := none, tspc := 0, status := .ready, hsync := none, arrived := sp.hsync.isSome,
                                wbar := (sp.hsync.map (·.1)).getD sp.wbar, wpar := (sp.hsync.map (·.2)).getD sp.wpar }
  match sp.handler with
  | none => none
  | some .scalar => if sp.tpc.extractLsb' 0 2 = (0 : BitVec 2) then some { back with pc := sp.tpc } else none
  | some .lane =>
    match sp.clause with
    | none => none
    | some c =>
      let n := c.code.length
      let k := (sp.tpc - c.addr).toNat
      if k % 12 = 0 ∧ c.done + 1 ≤ k / 12 ∧ k / 12 ≤ n + 1 then
        some { back with pc := sp.tspc, clause := if k / 12 = n + 1 then none else some { c with done := k / 12 - 1 } }
      else none
  | some (.clause addr end_) =>
    if sp.tpc = addr then some { back with pc := sp.tspc }
    else if sp.tpc = end_ then some { back with pc := sp.tspc, runq := sp.runq.tail }
    else none

/-! ### Running an instruction for the issuing split -/

/-- An instruction runs for the split that issues, of a group that is resident. -/
def withIssuer (s : State) (f : SplitRef → Group → Split → State) : Res :=
  match s.cur with
  | none => .fault .noIssuer
  | some r =>
    match s.group? r.g with
    | none => .fault .noIssuer
    | some g => .next (f r g (g.split r.sp))

/-- The same for a lane instruction, which runs for the started clause of the issuing split. -/
def withClause (s : State) (f : SplitRef → Group → Split → ClauseRun → State) : Res :=
  match s.cur with
  | none => .fault .noIssuer
  | some r =>
    match s.group? r.g with
    | none => .fault .noIssuer
    | some g =>
      match (g.split r.sp).clause with
      | none => .fault .noIssuer
      | some c => .next (f r g (g.split r.sp) c)

end Sys2Proof.Machine
end

