-- ==== Sys2Proof/Machine/Code.lean ====
section
/-!
DEFINITION. Reading code: clauses in memory (R326), what a queued clause will write (R161, R350), and the launch's limits
for validation (R327).
-/

namespace Sys2Proof.Machine

/-- What a launch fixes for validation. -/
def LaunchRec.cfg (l : LaunchRec) : LaneCfg := { vregs := l.vregs, slots := l.fslots }

/-- Four bytes of code as they stand, without any effect: none where they cannot be read here. -/
def State.peek4 (s : State) (c : Ctx) (va : W64) : Option (List Byte) :=
  match s.translate none c.pent (s.ropeWin c) va .exec with
  | .ok (.mem pa) _ _ => some (s.store.bytes (s.shadowed pa) 4)
  | .ok (.host a) _ _ => some (s.store.hostBytes a 4)
  | _ => none

def State.peek12 (s : State) (c : Ctx) (va : W64) : Option W96 :=
  match s.peek4 c va, s.peek4 c (va + 4), s.peek4 c (va + 8) with
  | some a, some b, some d => some (wordOf 96 (a ++ b ++ d))
  | _, _, _ => none

/-- The header of a clause in memory. -/
def State.peekHeader (s : State) (c : Ctx) (addr : W64) : Option ClauseHdr := (s.peek12 c addr).bind decodeHeader

/-- The instructions of a clause in memory, as far as they decode. -/
def State.peekClause (s : State) (c : Ctx) (addr : W64) : List Instr :=
  match s.peekHeader c addr with
  | none => []
  | some h => (List.range (h.len.toNat + 1)).filterMap (fun i =>
      (s.peek12 c (addr + 12 * BitVec.ofNat 64 (i + 1))).bind (fun w => (decodeLane w).toOption))

/-- Whether four bytes of code may yet be read that cannot be now: on a page that is not resident or is following, or at a peer. -/
def State.unread4 (s : State) (c : Ctx) (va : W64) : Bool :=
  match s.translate none c.pent (s.ropeWin c) va .exec with
  | .nonres _ | .follow _ | .ok (.peer ..) _ _ | .ok (.rope ..) _ _ => true
  | _ => false
/-- Whether a clause in memory has words that cannot be read yet. -/
def State.unreadClause (s : State) (c : Ctx) (addr : W64) : Bool :=
  let n := match s.peekHeader c addr with | some h => h.len.toNat + 1 | none => 0
  (List.range (3 * (n + 1))).any (fun i => s.unread4 c (addr + 4 * BitVec.ofNat 64 i))

/-- The instructions of a split's clauses, the one in progress and those queued: each counts until it is over (R161, R350). -/
def State.pendingCode (s : State) (c : Ctx) (sp : Split) : List Instr :=
  (match sp.clause with | some k => k.code | none => []) ++ sp.runq.flatMap (fun e => s.peekClause c e.addr)

/-- The scalar register that a lane instruction writes (R325). -/
def laneScalarDst : Instr → Option Nat
  | .lpoll f | .lred f => if f.mod.getLsbD 8 then some f.dst.toNat else none
  | .mcopyM2s f => some f.dst.toNat
  | _ => none

/-- The mask register that a lane instruction writes: MOP and MCOPY to a mask, and the residency mask of a memory access
(R195, R395, R396, R398). -/
def laneMaskDst : Instr → Option Nat
  | .mop f | .mcopyV2m f | .mcopyS2m f => some f.dst.toNat
  | .ld f => if f.sc = 0 then none else some f.sc.toNat
  | .atom f | .cas f => if f.fs = 0 then none else some f.fs.toNat
  | _ => none

/-- Whether a scalar instruction that names these registers must wait: one lies in s32 to s47 and a clause that its split
enqueued earlier still writes it (R161), or may, for all that can be read of it. -/
def State.regBusy (s : State) (c : Ctx) (sp : Split) (rs : List SReg) : Bool :=
  rs.any (fun r => 32 ≤ r.toNat && r.toNat ≤ 47) &&
  (sp.runq.any (fun e => s.unreadClause c e.addr) ||
    (s.pendingCode c sp).any (fun i => match laneScalarDst i with | some d => rs.any (fun r => r.toNat == d) | none => false))

/-- The scalar registers that a scalar instruction reads. RUN takes the snapshot, and reads s0 to s31 (R158). -/
def scalarReads : Instr → List SReg
  | .jmpr a | .sleept a | .pagereq a | .clz _ a | .popc _ a | .addi _ a _ | .andi _ a _ | .ori _ a _ | .xori _ a _ | .shli _ a _
  | .shri _ a _ | .srai _ a _ | .sltin _ a _ | .sltii _ a _ | .slw _ a _ | .sld _ a _ | .trap a _ | .smw a _ | .bwait _ a | .bmint _ a _ _
  | .bdrop a | .drayT2t a _ _ => [a]
  | .add _ a b | .sub _ a b | .mul _ a b | .mulhn _ a b | .mulhi _ a b | .divn _ a b | .divi _ a b | .remn _ a b | .remi _ a b
  | .and _ a b | .or _ a b | .xor _ a b | .andn _ a b | .shl _ a b | .shr _ a b | .sra _ a b | .minn _ a b | .mini _ a b
  | .maxn _ a b | .maxi _ a b | .seq _ a b | .sne _ a b | .sltn _ a b | .slti _ a b | .brc a b _ _ | .tbarExpect _ a b _
  | .talloc _ a b _ _ | .dprobe _ a b _ | .bput a b _ | .stage _ a b | .ssw a b _ | .ssd a b _ | .drayRed a b _ => [a, b]
  | .liwHi d _ => [d]
  | .tbarAddb _ b _ => [b]
  | .drayM2t a b _ _ | .drayT2m a b _ _ => a :: ((List.range 5).filter (fun i => decide (b.toNat + i < 64))).map (fun i => b + BitVec.ofNat 6 i)
  | .ret => [62]
  | .run _ => (List.range 32).map (BitVec.ofNat 6)
  | _ => []
/-- Whether an instruction reads a scalar register that holds a poisoned value (R266). -/
def Group.readsPoison (g : Group) (i : Instr) : Bool := (scalarReads i).any (fun r => g.spois.getLsbD r.toNat)

/-- Whether a split's earlier clauses have all issued their last instruction. -/
def Split.clausesIssued (sp : Split) : Bool := sp.runq == [] && sp.clause.isNone

/-- A memory lane instruction (R105). -/
def isMemLane : Instr → Bool
  | .ld _ | .st _ | .atom _ | .atomn _ | .cas _ | .pref _ | .tld _ | .tst _ | .tatom _ => true
  | _ => false
/-- A lane instruction that stores: a producer of SET1 waits for it (R162). -/
def isStoring : Instr → Bool
  | .st _ | .atom _ | .atomn _ | .cas _ | .tst _ | .tatom _ => true
  | _ => false

/-- The flags that a clause names in SET0 and SET1. -/
def setsOf (h : ClauseHdr) : BitVec 12 :=
  (if h.set0 = 15 then 0 else BitVec.ofNat 12 (2 ^ h.set0.toNat)) ||| (if h.set1 = 15 then 0 else BitVec.ofNat 12 (2 ^ h.set1.toNat))

/-- The instructions of a started clause that have not issued. -/
def ClauseRun.rest (c : ClauseRun) : List Instr := c.code.drop c.done

/-- Whether clauses that a split inherits from those it descends from, enqueued before it was formed, have all issued their last
instruction (R217). -/
def Group.inheritedIssued (g : Group) (sp : Nat) : Bool :=
  g.splits.all (fun q => q.runq.all (fun e => !e.heirs.contains sp) &&
    (match q.clause with | some c => !c.heirs.contains sp | none => true))
/-- Whether every clause that precedes a scalar instruction of a split in program order has issued its last instruction. -/
def Group.earlierIssued (g : Group) (sp : Nat) : Bool := (g.split sp).clausesIssued && g.inheritedIssued sp

/-- Whether a split's memory instructions must wait for a clause that it inherits: for one of its memory instructions, or for code of it
that cannot be read yet (R217, DEDUCED: log entry 122). -/
def State.inheritedMem (s : State) (c : Ctx) (g : Group) (sp : Nat) : Bool :=
  g.splits.any (fun q =>
    q.runq.any (fun e => e.heirs.contains sp && ((s.peekClause c e.addr).any isMemLane || s.unreadClause c e.addr)) ||
    (match q.clause with | some k => k.heirs.contains sp && k.rest.any isMemLane | none => false))

/-- A load or a returning atomic (R163). -/
def isReturning (i : Instr) : Bool :=
  match i with
  | .ld _ | .atom _ | .cas _ | .tld _ => true
  | .tatom f => f.dst != 255
  | _ => false

/-- Whether an MCLOSE names the flag of its clause's SET0 or SET1 (R424). -/
def mcloseClash (h : ClauseHdr) (i : Instr) : Bool :=
  match i with
  | .mclose f => !f.imm.getLsbD 4 && (f.imm.extractLsb' 0 4 == h.set0 || f.imm.extractLsb' 0 4 == h.set1)
  | _ => false

end Sys2Proof.Machine
end

