-- ==== Sys2Proof/Machine/HostOps.lean ====
section
/-!
DEFINITION. Shared operations of the host side: event queues (R72 to R75), page requests (R197), the command processor's
own accesses (R468), signals (R65 to R68, R469), queue errors (R70), the management controller's log (R270).
-/

namespace Sys2Proof.Machine

/-- The TLP of a request of a function fails its integrity check (sel.c = 1 in an access under a secure IDE stream): the device performs
no part of the request (R53). -/
def State.ideFails (s : State) (fn : Nat) : Bool :=
  s.sel.c == 1 && s.host.ide.any (fun x => x.2.2 && (x.1 == 0 || x.2.1 == fn))

/-- Whether a function answers at its BAR: PF0, and the VFs that NumVFs counts (R54), but not while in reset (R90). -/
def State.answers (s : State) (fn : Nat) : Bool := decide (fn ≤ s.host.numVfs) && !(s.fn fn).inReset

/-! ### The event log and the event queues -/

/-- An entry of the controller's event log: a ring of 32,768 entries (R270). -/
def State.logBytes (s : State) (kind : W16) (b : List Byte) : State :=
  { s with mgmt := { s.mgmt with log := ({ kind, bytes := b } :: s.mgmt.log).take 32768 } }
/-- The entry of an event that no queue carries: KIND, the time and 8 bytes of its own (log entry 96). -/
def State.logRec (s : State) (kind : W16) (data : W64) : LogEntry :=
  { kind, bytes := bytesOf 2 kind.toNat ++ List.replicate 6 0 ++ bytesOf 8 s.now ++ bytesOf 8 data.toNat ++ List.replicate 40 0 }
def State.log (s : State) (kind : W16) (data : W64) : State := s.logBytes kind (s.logRec kind data).bytes

/-! ### Error counters (R263, R264, R268, R270, R271) -/

/-- RASCFG turns off the mechanism of a row of R264's table (log entry 96: bit n is row n). -/
def State.rasOff (s : State) (row : Nat) : Bool := s.mgmt.rascfg.getLsbD row
/-- What the controller keeps of an error for a second. -/
def State.noteError (s : State) (e : ErrorEvt) : State :=
  { s with mgmt := { s.mgmt with recent := e :: s.mgmt.recent.filter (fun x => decide (s.now < x.time + 1000000000)) } }
/-- An error of a row of R264's table is counted: corrected, or not; on a die, by its LOSTMASK bit. -/
def State.countError (s : State) (row : Nat) (fixed : Bool) (die : Option Nat := none) (msc : Bool := false) (link : Nat := 0) : State :=
  ({ s with mgmt := { s.mgmt with errors := modAt s.mgmt.errors row (fun c => if fixed then (c.1 + 1, c.2) else (c.1, c.2 + 1)) } }).noteError
    { time := s.now, row, fixed, msc, die, link }

/-- The partition table entry to which a function is bound (R76). -/
def State.entryOf (s : State) (fn : Nat) : Option Nat :=
  indexOf? s.host.parts (fun p => p.state != 0 && p.func.toNat == fn)

/-- The function bound to a partition, or PF0 when none is (R72, R246). -/
def State.fnOfPart (s : State) (e : Nat) : Nat :=
  let f := (s.partEnt e).func
  if (s.partEnt e).state ≠ 0 ∧ f ≠ 0xFFFF then f.toNat else 0
/-- The function bound to a queue. -/
def State.fnOfQueue (s : State) (q : Nat) : Nat := let f := (s.queue q).func; if f = 0xFFFF then 0 else f.toNat

/-- The link to a slot (R25). -/
def State.wave (s : State) (slot : BitVec 7) : Option (BitVec 7) := s.fabric.slot.map (fun d => slot - d - 1)
def State.link (s : State) (w : BitVec 7) : Link := s.fabric.links.getD w.toNat Link.reset
def State.linkUp (s : State) (slot : BitVec 7) : Bool :=
  match s.wave slot with
  | some w => w != 127 && (s.link w).up && !(s.link w).tx.down && (s.link w).tx.active != 0
  | none => false

/-- Where an entry of a function's event ring is written; none when the write fails or would wait (R72, R74). An entry in peer memory
is sent to its home at once (log entry 12). -/
def State.ringPlace (s : State) (fn : Nat) (va : W64) : Option Place :=
  match s.entryOf fn with
  | none => if fn = 0 ∧ inFast s.part va.toNat then some (.mem va.toNat) else none
  | some e =>
    match s.translate none e none va .write with
    | .ok (.mem pa) _ _ => some (.mem pa)
    | .ok (.host a) _ _ => some (.host a)
    | .ok (.peer slot off key) _ _ => if s.linkUp slot then some (.peer slot off key) else none
    | _ => none

def State.putPlace (s : State) (p : Place) (data : List Byte) : State :=
  match p with
  | .mem pa => s.devWrite pa data
  | .host a => { s with store := s.store.hostPut a data }
  | _ => s

/-- The bytes of entry i of an event with its continuation entries (R73). -/
def eventEntries (kind : Nat) (part sub : Byte) (ovf : Bool) (evseq : W64) (body : List Byte) : List (List Byte) :=
  let n := (body.length - 48 + 63) / 64
  let pad (l : List Byte) (k : Nat) := l ++ List.replicate (k - l.length) 0
  (pad (bytesOf 2 kind ++ [part, sub, BitVec.ofNat 8 n, if ovf then 1 else 0, 0, 0] ++ bytesOf 8 evseq.toNat ++
      pad (body.take 48) 48) 64) ::
    (List.range n).map (fun i => pad ((body.drop (48 + 64 * i)).take 64) 64)

/-- An event is written to a function's event queue, or dropped and counted (R72 to R74). Events sent to PF0 are in the
controller's log too (R270). -/
def State.event (s : State) (fn kind : Nat) (part sub : Byte) (body : List Byte) : State :=
  let q := (s.fn fn).evq
  let es := eventEntries kind part sub q.ovf q.evseq body
  let s := if fn = 0 then es.foldl (fun (s : State) b => s.logBytes (BitVec.ofNat 16 kind) b) s else s
  let places := (List.range es.length).map (fun i =>
    s.ringPlace fn (q.base + 64 * BitVec.ofNat 64 ((q.wridx.toNat + i) % 2 ^ q.size.toNat)))
  let room := decide (6 ≤ q.size.toNat ∧ q.size.toNat ≤ 16 ∧
    (q.wridx.toNat + 2 ^ 32 - q.rdidx.toNat) % 2 ^ 32 + es.length ≤ 2 ^ q.size.toNat)
  if room && places.all (·.isSome) then
    let s := match s.entryOf fn with
      | some e => (List.range es.length).foldl (fun (s : State) i =>
          s.markWrite e (q.base + 64 * BitVec.ofNat 64 ((q.wridx.toNat + i) % 2 ^ q.size.toNat))) s
      | none => s
    let s := (withIndex (places.zip es)).foldl (fun (s : State) x =>
      match x.2.1, s.entryOf fn with
      | some (.peer _ _ _), some e =>
        { s with ops := { s.ops with puts := s.ops.puts ++ [{ queue := 0, idx := 0, tag := 0, pent := e, data := x.2.2, kind := .event, req := none
                                                              va := q.base + 64 * BitVec.ofNat 64 ((q.wridx.toNat + x.1) % 2 ^ q.size.toNat) }] } }
      | some p, _ => s.putPlace p x.2.2
      | none, _ => s) s
    let s := s.modFn fn (fun f => { f with evq := { q with wridx := q.wridx + BitVec.ofNat 32 es.length, evseq := q.evseq + 1, ovf := false } })
    if q.wridx = q.rdidx then s.emit (.msix fn q.vector) else s
  else s.modFn fn (fun f => { f with evq := { q with evseq := q.evseq + 1, ovf := true } })

def tsCode : TimeState → Byte
  | .free => 0 | .locked => 1 | .holdover => 2 | .degraded => 3

/-- A fabric event record, to PF0 (R51, R72). -/
def State.fabricEvent (s : State) (code : Nat) (peer dir : Byte) (mask seq : W16) (count : Nat) : State :=
  s.event 0 1 0xFF 0 (bytesOf 8 s.now ++ bytesOf 2 code ++ [peer, dir] ++ bytesOf 2 mask.toNat ++ bytesOf 2 seq.toNat ++
    bytesOf 4 count ++ [tsCode s.clock.tstate] ++ List.replicate 11 0)

/-- PART and SUB of a partition table entry (R76). -/
def partOf (e : Nat) : Byte := BitVec.ofNat 8 (e / 5)
def subOf (e : Nat) : Byte := BitVec.ofNat 8 (e % 5)

/-! ### Error values and queue errors -/

/-- An error value (R66). -/
def errorValue (q : Nat) (idx : W32) (code : Nat) : W64 :=
  BitVec.ofNat 64 (2 ^ 63 + q % 65536 * 2 ^ 32 + idx.toNat % 65536 * 65536 + code)

/-- A queue-error event (R75). -/
def State.queueErrorEvent (s : State) (q : Nat) (tag : W32) (idx : W32) (reason : Nat) (arg : Byte) (value : W64) : State :=
  let e := (s.queue q).pent.toNat
  s.event (s.fnOfQueue q) 3 (partOf e) (subOf e)
    (bytesOf 4 tag.toNat ++ bytesOf 2 q ++ [0, 0] ++ bytesOf 2 reason ++ [arg, 0] ++ bytesOf 4 idx.toNat ++
      bytesOf 8 value.toNat ++ bytesOf 8 s.now ++ List.replicate 16 0)

/-- A queue whose ENABLE is clear is IDLE once no dispatch is in progress (R71). -/
def Queue.rest (k : Queue) : Queue :=
  if !k.enable && k.cur.isNone && k.wait.isNone && k.state != 5 then { k with state := 0, back := 0 } else k

/-- A packet that was fetched and is not dispatched is held by the queue again (R60). -/
def Queue.unfetch (k : Queue) : Queue :=
  match k.cur with
  | some (i, _) => { k with cur := none, rdidx := i }
  | none => k

/-- A queue enters ERROR (R70): ERRIDX and ERRCODE if they hold no earlier error, the vector, the event. A packet that was fetched is met
again in ERROR. A WAIT or a barrier already dispatched goes on. RESETTING is left for IDLE alone (R71). -/
def State.queueError (s : State) (q : Nat) (tag : W32) (idx : W32) (code reason : Nat) (arg : Byte) : State :=
  if (s.queue q).state = 5 then s
  else
    let v := errorValue q idx code
    let s := s.modQueue q (fun k =>
      let k := { k.unfetch with state := if k.state = 4 then 4 else 3, back := if k.state = 4 then 3 else k.back }
      (if k.errCode = 0 then { k with errIdx := idx, errCode := v } else k).rest)
    (s.emit (.msix (s.fnOfQueue q) (s.queue q).vector)).queueErrorEvent q tag idx reason arg v

/-! ### Page requests (R197) -/

/-- The entry of a page request is written to the ring if it has room, and its vector raised when the ring was empty. -/
def State.sendPageReq (s : State) (p : PageReq) : State × PageReq :=
  let x := s.memctl.xlat.getD p.pent Xlat.reset
  if (x.prwr.toNat + 2 ^ 32 - x.prrd.toNat) % 2 ^ 32 < 2 ^ x.prsize.toNat then
    let bits := (if p.write then 1 else 0) + (if p.expl then 2 else 0)
    let s := s.devWrite (x.prbase.toNat + 16 * (x.prwr.toNat % 2 ^ x.prsize.toNat))
      (bytesOf 8 (p.page.toNat + bits) ++ bytesOf 2 p.queue.toNat ++ [0, 0] ++ bytesOf 4 p.index.toNat)
    let s := { s with memctl := { s.memctl with xlat := modAt s.memctl.xlat p.pent (fun x => { x with prwr := x.prwr + 1 }) } }
    ((if x.prwr = x.prrd then s.emit (.msix 0 (x.prvec.zeroExtend 64)) else s), { p with sent := some (p.write, p.expl) })
  else (s, p)

/-- A page request for a page of a partition (R197): merged with an outstanding one; a further entry when it adds a bit. -/
def State.pageRequest (s : State) (pent : Nat) (page : W64) (write expl : Bool) (queue : W16) (index : W32) : State :=
  match s.memctl.reqs.find? (fun r => r.pent == pent && r.page == page) with
  | none =>
    let r := s.sendPageReq { pent, page, write, expl, sent := none, queue, index }
    { r.1 with memctl := { r.1.memctl with reqs := r.1.memctl.reqs ++ [r.2] } }
  | some o =>
    let n := { o with write := o.write || write, expl := o.expl || expl }
    if n = o then s
    else
      let r := s.sendPageReq n
      { r.1 with memctl := { r.1.memctl with reqs := r.1.memctl.reqs.map (fun x =>
          if x.pent == pent && x.page == page then r.2 else x) } }

/-! ### The command processor's accesses (R468) -/

/-- What one of the command processor's accesses meets. -/
inductive CpRes (α : Type) where
  | ok (a : α)
  | wait (s : State)               -- a page request was made, a page is following, or a home was asked
  | fail (reason : Nat)            -- coded as R245

/-- A following page is fetched at its first access (R141): it is in state 1 until FOLLOWING_FETCH. -/
def State.startFollow (s : State) (pent : Nat) (page : W64) : State :=
  { s with store := { s.store with follow := s.store.follow.map (fun f =>
      if f.pent = pent ∧ f.va = page ∧ f.state = 0 then { f with state := 1 } else f) } }

/-- The place of the bytes at a VA, for the command processor. A piece lies within one 128-byte line. -/
def State.cpPlace (s : State) (pent q : Nat) (idx : W32) (va : W64) (k : Acc) : CpRes Place :=
  match s.translate none pent none va k with
  | .ok p _ _ => .ok p
  | .prot 0 => .fail 1
  | .prot _ => .fail 2
  | .key => .fail 3
  | .poison => .fail 9
  | .nonres page => .wait (s.pageRequest pent page k.writes false (BitVec.ofNat 16 q) idx)
  | .follow page => .wait (s.startFollow pent page)

/-- The buffer that holds a peer line asked for by the command processor or a fetch. -/
def State.fetched? (s : State) (slot : BitVec 7) (line : Nat) : Option Fetched :=
  s.ops.fetched.find? (fun f => f.slot == slot && f.line == line)

/-- The bytes of one line's part of a read; a peer line is asked of its home by `ask`, once. -/
def State.cpReadPart (s : State) (ask : State → Nat → BitVec 7 → Nat → BitVec 10 → CpRes State)
    (pent q : Nat) (idx : W32) (va : W64) (n : Nat) : CpRes (List Byte) :=
  match s.cpPlace pent q idx va .read with
  | .fail r => .fail r
  | .wait s => .wait s
  | .ok (.mem pa) =>
    if s.ownedIn pa n then .wait s                     -- a copy owns the line: the read follows its write (R233)
    else
      let pa := s.shadowed pa
      if s.store.poisoned pa n then .fail 9 else .ok (s.store.bytes pa n)
  | .ok (.host a) => .ok (s.store.hostBytes a n)
  | .ok (.rope _ _ _) | .ok (.tile _ _ _) => .fail 1
  | .ok (.peer slot off key) =>
    match s.fetched? slot (off / 128) with
    | some f =>
      if f.req.isSome then .wait s
      else if f.reason ≠ 0 then .fail f.reason.toNat
      else .ok ((f.data.drop (off % 128)).take n)
    | none =>
      match ask s pent slot (off / 128) key with
      | .ok s => .wait s
      | .wait s => .wait s
      | .fail r => .fail r

/-- A read of n bytes by the command processor, line by line (`fuel` lines at most). -/
def State.cpRead (s : State) (ask : State → Nat → BitVec 7 → Nat → BitVec 10 → CpRes State)
    (pent q : Nat) (idx : W32) : (fuel : Nat) → (va : W64) → (n : Nat) → CpRes (List Byte)
  | 0, _, _ => .ok []
  | fuel + 1, va, n =>
    if n = 0 then .ok []
    else
      let k := min n (128 - va.toNat % 128)
      match s.cpReadPart ask pent q idx va k with
      | .ok b =>
        match s.cpRead ask pent q idx fuel (va + BitVec.ofNat 64 k) (n - k) with
        | .ok r => .ok (b ++ r)
        | .wait s => .wait s
        | .fail r => .fail r
      | .wait s => .wait s
      | .fail r => .fail r

/-- Buffers of peer lines are given up once they have been used. -/
def State.dropFetched (s : State) : State :=
  { s with ops := { s.ops with fetched := s.ops.fetched.filter (·.req.isSome) } }

/-! ### Completion of packets (R64) -/

/-- A packet of a queue is complete: it leaves the work, and a barrier that waits for it ends the hold. -/
def State.workDone (s : State) (q : Nat) (idx : W32) : State :=
  s.modQueue q (fun k =>
    let k := { k with work := k.work.filter (fun w => w.idx != idx) }
    if k.barrier = some idx then
      let free := k.wait.isNone
      { k with barrier := none, state := if k.state = 2 ∧ free then 1 else k.state, back := if k.state = 4 ∧ k.back = 2 ∧ free then 1 else k.back }
    else k)

/-! ### Signals (R65 to R68) -/

/-- The new value of a signal (R63, R68); none when it is left unchanged. -/
def SigAct.apply (a : SigAct) (q : Nat) (idx : W32) (old : W64) : Option W64 :=
  match a with
  | .decrement => if old.getLsbD 63 then none else some (old - 1)
  | .error code => if old.getLsbD 63 then none else some (errorValue q idx code.toNat)
  | .add v => some (old + v)
  | .set v => some v

/-- A signal update is over. -/
def State.sigEnd (s : State) (u : SigUpd) : State := if u.work then s.workDone u.queue u.idx else s

/-- A signal update that failed (R469): the queue-error event with REASON 16. -/
def State.sigFailed (s : State) (u : SigUpd) : State :=
  let v := match u.act with | .error code => errorValue u.queue u.idx code.toNat | _ => 0
  (s.queueErrorEvent u.queue u.tag u.idx 16 0 v).sigEnd u

/-- The caching of the command processor's access to a VA (R186). -/
def State.cpCa (s : State) (pent : Nat) (va : W64) (k : Acc) : Nat :=
  match s.translate none pent none va k with
  | .ok _ ca _ => ca
  | _ => 0

/-- A signal at a VA in a partition is updated, as a sys-scope release (R65), in host memory by a PCIe AtomicOp, whose error status
fails it (R469); the update waits for a page that is not resident, and fails by R468. A signal at a peer home waits in `ops.sigs` for `ask`. -/
def State.sigUpdate (s : State) (u : SigUpd) : State :=
  let keep (s : State) : State := { s with ops := { s.ops with sigs := s.ops.sigs ++ [u] } }
  if u.va = 0 then s.sigEnd u
  else
    match s.cpPlace u.pent u.queue u.idx u.va .atomic with
    | .fail _ => s.sigFailed u
    | .wait s => keep s
    | .ok (.mem pa) =>
      let old := s.store.bytes (s.shadowed pa) 8
      if s.store.poisoned (s.shadowed pa) 8 then s.sigFailed u
      else if s.owned pa then keep s
      else
        match u.act.apply u.queue u.idx (wordOf 64 old) with
        | none => s.sigEnd u
        | some v =>
          match s.forStore pa with
          | none => keep s
          | some (s, at_) =>
            let ca := s.cpCa u.pent u.va .atomic
            (((s.markWrite u.pent u.va).memWrite u.pent none ca (ca == 1) at_ (bytesOf 8 v.toNat)).noteWrite pa 8).sigEnd u
    | .ok (.host a) =>
      if s.host.atomicErr || !s.host.atomicReq then s.sigFailed u
      else
      match u.act.apply u.queue u.idx (wordOf 64 (s.store.hostBytes a 8)) with
      | none => s.sigEnd u
      | some v =>
        let s := s.markWrite u.pent u.va
        ({ s with store := s.store.hostPut a (bytesOf 8 v.toNat) }).sigEnd u
    | .ok (.peer _ _ _) => keep s
    | .ok (.rope _ _ _) | .ok (.tile _ _ _) => s.sigFailed u

/-- The signal of a packet of a queue is updated. -/
def State.signal (s : State) (q : Nat) (idx tag : W32) (va : W64) (act : SigAct) : State :=
  s.sigUpdate { queue := q, idx, tag, pent := (s.queue q).pent.toNat, va, act, work := false, req := none }
/-- The same for a packet that is complete after it. -/
def State.signalEnd (s : State) (q : Nat) (idx tag : W32) (va : W64) (act : SigAct) : State :=
  s.sigUpdate { queue := q, idx, tag, pent := (s.queue q).pent.toNat, va, act, work := true, req := none }

/-- The bytes of a fault record (R178). -/
def FaultRec.bytes (f : FaultRec) (c : Ctx) (now : Nat) : List Byte :=
  bytesOf 4 c.tag.toNat ++ bytesOf 2 c.queue ++ bytesOf 2 f.code.toNat ++ bytesOf 4 c.index.toNat ++
    bytesOf 2 f.cause.toNat ++ [f.group, f.split] ++ bytesOf 4 f.team.toNat ++ [f.hfl, f.die, 0, 0] ++
    bytesOf 8 f.trapPc.toNat ++ bytesOf 8 f.trapAddr.toNat ++ bytesOf 8 f.trapInfo.toNat ++ bytesOf 8 now ++
    bytesOf 8 f.aux.toNat ++ bytesOf 8 f.siga.toNat ++ bytesOf 8 f.sigb.toNat ++ List.replicate 32 0

end Sys2Proof.Machine
end

