-- ==== Sys2Proof/Machine/FabricOps.lean ====
section
/-!
DEFINITION. Sending on the fabric: messages and their flits (R28 to R33), what holds a message back (R33, R37, R44, R49), and
the order of the transmit queue (R45).
-/

namespace Sys2Proof.Machine

def State.modLink (s : State) (w : BitVec 7) (f : Link → Link) : State :=
  { s with fabric := { s.fabric with links := modAt s.fabric.links w.toNat f } }

/-- The base die on which the direction from the peer of link w terminates: that peer's light comes at wavelength 126 − w modulo 128
(R9, R25). -/
def linkDie (w : BitVec 7) : Nat := (126 - w).toNat / 32
/-- The virtual priority of a class and a partition (R40). -/
def vprio (cls : BitVec 2) (part : BitVec 3) : Nat := 8 * cls.toNat + part.toNat

/-- How many flits a message with n data bytes takes (R31). -/
def flitsFor (n : Nat) : Nat := 1 + (n - 192 + 223) / 224

/-- The data bytes that a message carries. -/
def reqData : ReqKind → Nat
  | .store d _ => d.length
  | .sector .. => 36
  | .atomic .. => 8
  | .cas n .. => 2 * n
  | .load .. => 0
def msgBytes : FabMsg → Nat
  | .request r => reqData r.kind
  | .requests rs => (rs.map (fun r => reqData r.kind)).sum
  | .contribution m => m.data.length
  | .response r => match r.result with | .ok d _ _ => d.length | _ => 0
  | .delivery d => d.data.length
  | .resolution r => r.data.length
  | .stage _ => 128
  | _ => 0

/-! ### Receive pools (R41, R43) -/

def State.poolOf (s : State) (die : Nat) : List PoolSlot := s.fabric.pools.getD die []
/-- The XOFF state of a die's pool after a change (R43). -/
def State.setXoff (s : State) (die : Nat) : State :=
  let p := s.poolOf die
  let old := s.fabric.xoff.getD die 0
  let new_ := maskOf ((List.range 32).filter (fun v =>
    let mine := p.filter (·.v == v)
    let occ := mine.countP (fun x => x.region == .reserve || x.region == .shared)
    let head := decide (occ < mine.length)
    head || decide (s.fabric.high.getD v 0 ≤ occ) || (old.getLsbD v && decide (s.fabric.low.getD v 0 < occ))))
  { s with fabric := { s.fabric with xoff := modAt s.fabric.xoff die (fun _ => BitVec.ofNat 32 new_) } }

/-! ### Beats, headers and nonces -/

/-- Stream beat n on an active mask (R32): its stripe, the (n mod A)-th active one, and its beat slot. -/
def beatPlace (active : W16) (n : Nat) : Option (Nat × Nat) :=
  let on := (List.range 16).filter (fun k => active.getLsbD k)
  (on[n % on.length]?).map (fun k => (k, n / on.length))
/-- Where the 16 beats of the next flit of a direction travel. -/
def Tx.beats (t : Tx) : List (Option (Nat × Nat)) := (List.range 16).map (fun i => beatPlace t.active (t.stream + i))

/-- The 96-bit nonce (R47). -/
def nonceOf (ext : Nat) (isLocal kg : Bool) (dst src : BitVec 7) : BitVec 96 :=
  (0 : BitVec 16) ++ BitVec.ofNat 64 ext ++ BitVec.ofBool isLocal ++ BitVec.ofBool kg ++ dst ++ src

/-- The header of a flit that this device sends on link w (R29): ACK is the next SEQ expected, PRI the XOFF state of the
base die's pool. -/
def State.hdr (s : State) (w : BitVec 7) (m : TxMsg) (type : Byte) (seq : W16) (last : Bool) : FlitHdr :=
  let l := s.link w
  let d := s.fabric.slot.getD 0
  { rsv := 0, ackv := true, pois := m.pois, pri := s.fabric.xoff.getD (linkDie w) 0, ack := l.rx.expect, seq,
    pgen := m.pgen, last, dst := d + w + 1, src := d, sub := m.sub, part := m.part, cls := m.cls, kg := l.tx.kg, type }

/-- The TYPE of a link-local flit (R30). -/
def localType : LocalMsg → Byte
  | .idle => 0x00 | .nak => 0x10 | .restripe _ _ => 0x11 | .restripeAck _ => 0x12 | .timex _ => 0x13 | .loss _ => 0x16

def KeyBank.sent (b : KeyBank) (n : Nat) : KeyBank := { b with seqs := b.seqs + n }
def KeyBank.sentLocal (b : KeyBank) : KeyBank := { b with locals := b.locals + 1 }
/-- A sequenced flit is accepted under a bank: the first one's SEQ begins its extended sequence (R47). -/
def KeyBank.accept (b : KeyBank) (seq : W16) : KeyBank :=
  { b with seqs := (if b.seqs % 65536 = seq.toNat then b.seqs else seq.toNat) + 1 }
/-- The bank that KG names, changed. -/
def modBank (p : KeyBank × KeyBank) (kg : Bool) (f : KeyBank → KeyBank) : KeyBank × KeyBank :=
  if kg then (p.1, f p.2) else (f p.1, p.2)
def bankOf (p : KeyBank × KeyBank) (kg : Bool) : KeyBank := if kg then p.2 else p.1

/-- The extended sequence of a flit that lies within 65,536 before a bank's count. -/
def KeyBank.extend (b : KeyBank) (seq : W16) : Nat := b.seqs - (BitVec.ofNat 16 b.seqs - seq).toNat
/-- The nonce of a sequenced flit that a direction has sent: the same at every replay (R47). -/
def Tx.nonce (t : Tx) (f : Flit) : BitVec 96 := nonceOf ((bankOf t.banks f.hdr.kg).extend f.hdr.seq) false f.hdr.kg f.hdr.dst f.hdr.src

/-- Whether a flit of a message may go on a link now: the direction runs, nothing is replayed first, the retry buffer has room
and its priority is in XON (R33, R35, R37, R44). -/
def Link.mayStart (l : Link) (m : TxMsg) : Bool :=
  l.up && !l.tx.down && !l.tx.awaiting && l.tx.active != 0 && l.tx.replay.isNone &&
  decide (l.tx.retry.length < 2048) && !l.tx.xoff.getLsbD (vprio m.cls m.part)

/-! ### Budgets (R78 to R81) -/

/-- What a partition may spend of a budget in a period; none: no limit. A top-level one's own work draws on what its
children's budgets leave (R78). -/
def State.budgetOf (s : State) (e : Nat) (get : PartEntry → W32) : Option Nat :=
  let own := (get (s.partEnt e)).toNat
  if own = 0xFFFFFFFF then none
  else if e % 5 = 0 then
    some (own - ((List.range 4).map (fun i =>
      let c := s.partEnt (e + 1 + i)
      if c.state = 0 ∨ get c = 0xFFFFFFFF then 0 else (get c).toNat)).sum)
  else some own
def State.spent (s : State) (e : Nat) : Spent := s.host.spentPart.getD e Spent.zero
def State.modSpent (s : State) (e : Nat) (f : Spent → Spent) : State :=
  { s with host := { s.host with spentPart := modAt s.host.spentPart e f } }
/-- What a grid may spend of its partition's budget b: the weights of BCLASS share it among the grids that run (R92, log entry 109). -/
def State.shareOf (s : State) (e cn b : Nat) : Nat :=
  let w (c : Ctx) : Nat := 2 ^ c.lr.bclass
  match s.ctx? cn with
  | none => b
  | some c => b * w c / max (w c) ((s.exec.ctxs.filter (fun c => c.pent == e && c.state == .running)).map w).sum
/-- Whether a partition, or a grid in its share, has used up a budget of `unit`s (R79, R92). -/
def State.budgetFull (s : State) (e : Nat) (cn : Option Nat) (get : PartEntry → W32) (unit : Nat) (used : Spent → Nat) : Bool :=
  match s.budgetOf e get with
  | none => false
  | some b =>
    decide (b * unit ≤ used (s.spent e)) ||
      (match cn with | none => false | some c => decide (s.shareOf e c b * unit ≤ used (((s.ctx? c).map (·.spent)).getD Spent.zero)))

/-- Whether messages of classes 2 and 3 are held (R81). -/
def State.flitsFull (s : State) (e : Nat) (cn : Option Nat) : Bool := s.budgetFull e cn (·.flits) 1 (·.flits)
/-- Whether memory instructions and copies wait at issue (R81). -/
def State.hbmFull (s : State) (e : Nat) (cn : Option Nat) : Bool := s.budgetFull e cn (·.hbmb) 4096 (·.hbmb)
/-- Whether new copies wait for engine time (R81). -/
def State.etimeFull (s : State) (e : Nat) (cn : Option Nat) : Bool := s.budgetFull e cn (·.etime) 1 (·.etime)

/-- Traffic is charged to whom it belongs. -/
def State.pay (s : State) (e : Nat) (p : Payer) (f : Spent → Spent) : State :=
  match p with
  | .part => s.modSpent e f
  | .grid cn => (s.modSpent e f).modCtx cn (fun c => { c with spent := f c.spent })
  | .act a => { s with host := { s.host with spentAct := modAt s.host.spentAct a f } }

/-- The budget of an activity (R80): of the background ones, but for staging and serialisation, reduced against the power limit (R21). -/
def State.actBudget (s : State) (a : Nat) : Budget :=
  let b := s.host.budgets.getD a ⟨0, 0, 0⟩
  let less (x : W32) : W32 := if x.toNat ≤ (Config.reducedBudget a x).toNat then x else Config.reducedBudget a x
  if s.power.background && (a == 1 || a == 2 || a == 3 || a == 5) then ⟨less b.hbmb, less b.flits, less b.etime⟩ else b
/-- Whether an activity may start a new unit: none of its counters has reached its budget (R79, R80). -/
def State.mayUnit (s : State) (a : Nat) : Bool :=
  let b := s.actBudget a
  let x := s.host.spentAct.getD a Spent.zero
  let less (used : Nat) (most : W32) (unit : Nat) : Bool := most == 0xFFFFFFFF || decide (used < unit * most.toNat)
  less x.hbmb b.hbmb 4096 && less x.etime b.etime 1
/-- Whether an activity may send a message. -/
def State.actFlits (s : State) (a : Nat) : Bool :=
  let b := (s.actBudget a).flits
  b == 0xFFFFFFFF || decide ((s.host.spentAct.getD a Spent.zero).flits < b.toNat)
/-- HBM bytes charged to an activity. An engine operation's time is a free value (log entry 110). -/
def State.chargeAct (s : State) (a n : Nat) : State :=
  { s with host := { s.host with spentAct := modAt s.host.spentAct a (fun x => { x with hbmb := x.hbmb + n, etime := x.etime + Config.engineNs n }) } }
/-- How many of n bytes an activity moves now, in units of 4 KiB: a unit starts while its counter is below the budget (R79). -/
def State.unitsNow (s : State) (a n : Nat) : Nat :=
  let b := (s.actBudget a).hbmb
  if !s.mayUnit a then 0
  else if b = 0xFFFFFFFF then n
  else min n ((4096 * b.toNat - (s.host.spentAct.getD a Spent.zero).hbmb + 4095) / 4096 * 4096)
/-- Work of n bytes of an activity goes on as far as the budget of this period admits its units; whether all of them have been made. -/
def State.work (s : State) (a n : Nat) : State × Bool :=
  let left := n - s.host.paid.getD a 0
  let now := s.unitsNow a left
  let all := decide (left ≤ now)
  let s := if now = 0 then s else s.chargeAct a now
  ({ s with host := { s.host with paid := modAt s.host.paid a (fun p => if all then p + now - n else p + now) } }, all)

def TxMsg.entry (m : TxMsg) : Nat := 5 * m.part.toNat + m.sub.toNat

/-- The peer of a link (R25). -/
def State.peerSlot (s : State) (w : BitVec 7) : BitVec 7 := s.fabric.slot.getD 0 + w + 1

/-- The forwarded resolutions for a device whose link is down are held by their homes (R250). -/
def State.holdForwards (s : State) (slot : BitVec 7) : State :=
  { s with berths := { s.berths with slots := s.berths.slots.map (fun b =>
    if b.loc = .forwarding slot ∧ b.state = .resolved ∧ b.acked = false then { b with held := true } else b) } }

/-- A fabric event of a link (R51): 0 egress, 1 ingress. -/
def State.linkEvent (s : State) (w : BitVec 7) (code dir : Nat) (mask seq : W16) (count : Nat) : State :=
  s.fabricEvent code ((s.peerSlot w).zeroExtend 8) (BitVec.ofNat 8 dir) mask seq count
/-- LINK_DOWN is recorded. Its MASK is 0, as that of POOL_OVERFLOW, REKEY_DONE, REKEY_FAIL and FLIT_DISCARDED is (DESIGN CHOICE, log entry
108: R51 gives no value). -/
def State.linkIsDown (s : State) (w : BitVec 7) (dir : Nat) : State :=
  (s.linkEvent w 0x104 dir 0 (s.link w).rx.expect 0).holdForwards (s.peerSlot w)

/-- The counters of the key in use (R49): at 2^40 a new key is asked for, and at 2^41 the direction stops for want of one. -/
def State.keyCheck (s : State) (w : BitVec 7) : State :=
  let l := s.link w
  let b := bankOf l.tx.banks l.tx.kg
  let at_ (n : Nat) : Bool := decide (n ≤ b.seqs ∨ n ≤ b.locals)
  if !l.tx.down && at_ (2 ^ 41) then
    (s.modLink w (fun l => { l with tx := { l.tx with down := true } })).linkIsDown w 0
  else if !l.tx.rekey && at_ (2 ^ 40) then
    (s.modLink w (fun l => { l with tx := { l.tx with rekey := true } })).emit (.keyExchange w)
  else s

/-- The next flit of message i of a transmit queue is numbered, kept in the retry buffer and sent (R31, R33), and charged to its
partition or its activity (R79, R81). -/
def State.sendFlit (s : State) (w : BitVec 7) (i : Nat) (m : TxMsg) : State :=
  let l := s.link w
  let last := decide (m.flits ≤ m.sent + 1)
  let f : Flit := { hdr := s.hdr w m (if m.sent = 0 then m.type else 0x03) l.tx.next last, tagOk := true, msg := if m.sent = 0 then m.msg else none }
  let t := { l.tx with
    next := l.tx.next + 1, retry := l.tx.retry ++ [f], stream := l.tx.stream + 16, banks := modBank l.tx.banks l.tx.kg (·.sent 1)
    queue := if last then l.tx.queue.eraseIdx i else modAt l.tx.queue i (fun m => { m with sent := m.sent + 1 }) }
  let s := (s.modLink w (fun l => { l with tx := t })).emit (.flit w f (t.nonce f))
  (s.pay m.entry m.payer (fun x => { x with flits := x.flits + 1 })).keyCheck w

/-- Whether the FLITS budget lets a message go on: one already begun is completed (R79, R81). -/
def State.flitsLet (s : State) (m : TxMsg) : Bool :=
  decide (m.cls.toNat < 2) || m.sent != 0 ||
    (match m.payer with | .part => !s.flitsFull m.entry none | .grid cn => !s.flitsFull m.entry (some cn) | .act a => s.actFlits a)

/-- The message of a class whose next flit may go now: partitions are served round robin, and within one the oldest message goes
first and whole (R45). A message waits behind a GENBUMP of its own entry (R50). -/
def State.firstMsg (s : State) (w : BitVec 7) (c : BitVec 2) : Option (Nat × TxMsg) :=
  let l := s.link w
  let bumped (i : Nat) (m : TxMsg) : Bool := (l.tx.queue.take i).any (fun x => x.type == 0x15 && x.entry == m.entry)
  let behind (m : TxMsg) : Bool := m.sent == 0 && l.tx.queue.any (fun x => x.sent != 0 && x.cls == c && x.part == m.part)
  leastBy (fun p => (p.2.part - l.tx.turn.getD c.toNat 7 - 1).toNat) ((withIndex l.tx.queue).filter (fun p =>
    p.2.cls == c && l.mayStart p.2 && s.flitsLet p.2 && !behind p.2 && !bumped p.1 p.2))

/-- A flit is chosen: its partition has had its turn. -/
def Tx.served (t : Tx) (m : TxMsg) : Tx := { t with turn := modAt t.turn m.cls.toNat (fun _ => m.part) }

/-- Classes 2 and 3 by deficit round robin, weighted 3 : 1 (R45). A visit is worth three flits, or one. -/
def Tx.serveBulk (t : Tx) (a b : Nat × TxMsg) : (Nat × TxMsg) × Tx :=
  if t.bulk then
    if 0 < t.credit.2 then (b, { t with credit := (t.credit.1, t.credit.2 - 1) })
    else (a, { t with bulk := false, credit := (t.credit.1 + 2, t.credit.2) })
  else if 0 < t.credit.1 then (a, { t with credit := (t.credit.1 - 1, t.credit.2) })
  else (b, { t with bulk := true, credit := (t.credit.1, t.credit.2) })

/-- The message of which a transmitter sends the next flit: class 0, then 1, then 2 and 3 (R45), and the transmitter after the
choice. -/
def State.pickMsg (s : State) (w : BitVec 7) : Option ((Nat × TxMsg) × Tx) :=
  let t := (s.link w).tx
  match s.firstMsg w 0, s.firstMsg w 1, s.firstMsg w 2, s.firstMsg w 3 with
  | some x, _, _, _ => some (x, t.served x.2)
  | _, some x, _, _ => some (x, t.served x.2)
  | _, _, some a, some b => let q := t.serveBulk a b; some (q.1, q.2.served q.1.2)
  | _, _, some x, _ => some (x, { t with credit := (0, 0) }.served x.2)
  | _, _, _, some x => some (x, { t with credit := (0, 0) }.served x.2)
  | _, _, _, _ => none

/-- Flits go while any may. -/
def State.pumpN (s : State) (w : BitVec 7) : (fuel : Nat) → State
  | 0 => s
  | fuel + 1 =>
    match s.pickMsg w with
    | none => s
    | some ((i, m), t) => ((s.modLink w (fun l => { l with tx := t })).sendFlit w i m).pumpN w fuel
/-- How many flits of its queue a transmitter still has to send. -/
def Tx.waiting (t : Tx) : Nat := (t.queue.map (fun m => m.flits - m.sent)).sum
def State.pump (s : State) (w : BitVec 7) : State := s.pumpN w (s.link w).tx.waiting

/-- A message is queued on a link and sent as soon as it may go. The loopback link carries no message (R26). -/
def State.push (s : State) (w : BitVec 7) (m : TxMsg) : State :=
  (s.modLink w (fun l => { l with tx := { l.tx with queue := l.tx.queue ++ [m] } })).pump w

/-- A message to a slot whose link is up. -/
def State.sendAs (s : State) (payer : Payer) (slot : BitVec 7) (type : Byte) (cls : BitVec 2) (o : Origin) (pois : Bool)
    (msg : FabMsg) : State :=
  match s.wave slot with
  | none => s
  | some w =>
    if w = 127 then s
    else s.push w { type, cls, part := o.part, sub := o.sub, pgen := o.pgen, pois, flits := flitsFor (msgBytes msg), sent := 0, payer, msg := some msg }
def State.send (s : State) (slot : BitVec 7) (type : Byte) (cls : BitVec 2) (o : Origin) (pois : Bool) (msg : FabMsg) : State :=
  s.sendAs .part slot type cls o pois msg

/-- PART, SUB and PGEN of a partition table entry (R50, R76). -/
def partBits (e : Nat) : BitVec 3 := BitVec.ofNat 3 (e / 5)
def subBits (e : Nat) : BitVec 3 := BitVec.ofNat 3 (e % 5)

/-- The originator's PART, SUB and PGEN of what a partition sends: its present generation (R50). -/
def State.origin (s : State) (e : Nat) : Origin := { part := partBits e, sub := subBits e, pgen := (s.partEnt e).gen }

/-- A REQ of a partition, in its class (R40, R241). -/
def State.sendReq (s : State) (slot : BitVec 7) (cls : BitVec 2) (e : Nat) (pois : Bool) (msg : FabMsg) : State :=
  s.send slot 0x01 cls (s.origin e) pois msg

/-- A control message of a partition in class 0 (ropes, resolutions, recalls). -/
def State.sendCtl (s : State) (slot : BitVec 7) (e : Nat) (msg : FabMsg) : State := s.sendReq slot 0 e false msg
/-- The answer to a control message: it copies PART, SUB and PGEN (R50). -/
def State.sendAnswer (s : State) (slot : BitVec 7) (o : Origin) (msg : FabMsg) : State := s.send slot 0x02 0 o false msg

/-- The same to every slot of a list but this device's own. -/
def State.sendAll (s : State) (slots : List (BitVec 7)) (e : Nat) (msg : FabMsg) : State :=
  slots.foldl (fun s d => if s.fabric.slot = some d then s else s.sendCtl d e msg) s

/-- A link-local flit is sent: CLASS 0, PART 0 and the low bits of its counter as SEQ, which counts it (R29, R30, R47). DESIGN CHOICE (log
entry 125): its PGEN is 0 and its LAST 1, for which R30 gives no value. Like every
flit it carries ACK (R34) and takes 16 beats (R32). None goes out on a direction that is down (R39, R49). -/
def State.local_ (s : State) (w : BitVec 7) (m : LocalMsg) : State :=
  let t := (s.link w).tx
  if t.active = 0 ∨ t.down = true ∨ (s.link w).up = false then s
  else
    let n := (bankOf t.banks t.kg).locals
    let h := s.hdr w { type := localType m, cls := 0, part := 0, sub := 0, pgen := 0, pois := false, flits := 1, sent := 0, payer := .part, msg := none }
      (localType m) (BitVec.ofNat 16 n) true
    ((s.modLink w (fun l => { l with tx := { l.tx with
        stream := l.tx.stream + 16, banks := modBank l.tx.banks l.tx.kg KeyBank.sentLocal } })).emit
      (.local_ w h m (nonceOf n true t.kg h.dst h.src))).keyCheck w

end Sys2Proof.Machine
end

