-- ==== Sys2Proof/Machine/Journal.lean ====
section
/-!
DEFINITION. The input journal (R277 to R280): its records, what is taken from it in replay, and its journaled regions.
-/

namespace Sys2Proof.Machine

def State.journal (s : State) (e : Nat) : Journal := s.host.journals.getD e Journal.reset
def State.modJournal (s : State) (e : Nat) (f : Journal → Journal) : State :=
  { s with host := { s.host with journals := modAt s.host.journals e f } }

/-- ENABLE, REPLAY. -/
def Journal.enabled (j : Journal) : Bool := j.jctl.getLsbD 0
def Journal.replaying (j : Journal) : Bool := j.jctl.getLsbD 1

/-- Bytes written at a VA of a partition by the device, piece by piece of at most 64 KiB; none when a page is not in this
device's memory or in host memory (log entry 12). -/
def State.devPut (s : State) (pent : Nat) : (fuel : Nat) → (va : W64) → List Byte → Option State
  | 0, _, _ => some s
  | fuel + 1, va, data =>
    if data = [] then some s
    else
      let n := 65536 - va.toNat % 65536
      match s.translate none pent none va .write with
      | .ok (.mem pa) _ _ => ((s.markWrite pent va).devWrite pa (data.take n)).devPut pent fuel (va + BitVec.ofNat 64 n) (data.drop n)
      | .ok (.host a) _ _ => let s := s.markWrite pent va
                             ({ s with store := s.store.hostPut a (data.take n) }).devPut pent fuel (va + BitVec.ofNat 64 n) (data.drop n)
      | _ => none

/-- Bytes read at a VA of a partition by the device, as far as this device's memory and host memory hold them; none of them when one is
poisoned (R266). -/
def State.devGet (s : State) (pent : Nat) : (fuel : Nat) → (va : W64) → (n : Nat) → Option (List Byte)
  | 0, _, _ => some []
  | fuel + 1, va, n =>
    if n = 0 then some []
    else
      let k := min n (65536 - va.toNat % 65536)
      let here := match s.translate none pent none va .read with
        | .ok (.mem pa) _ _ => if s.store.poisoned (s.shadowed pa) k then none else some (s.store.bytes (s.shadowed pa) k)
        | .ok (.host a) _ _ => some (s.store.hostBytes a k)
        | _ => none
      match here, s.devGet pent fuel (va + BitVec.ofNat 64 k) (n - k) with
      | some a, some b => some (a ++ b)
      | _, _ => none

/-- Whether a journal takes records (R278, R279). -/
def Journal.taking (j : Journal) : Bool := j.enabled && !j.replaying && !j.stopped
/-- Whether earlier records of an entry's journal have not been written yet: its contexts wait for them (R279). -/
def State.jrnlBusy (s : State) (e : Nat) (jrnl : Bool) : Bool := jrnl && (s.journal e).pending != []
/-- Whether a record for a context of an entry, which sets JRNL or not, has to wait for the journal's budget or for earlier records
(R279). -/
def State.jrnlHeld (s : State) (e : Nat) (jrnl : Bool) : Bool :=
  jrnl && (s.journal e).taking && (!s.mayUnit 3 || (s.journal e).pending != [])
def State.recordHeld (s : State) (cn : Nat) : Bool := match s.ctx? cn with | some c => s.jrnlHeld c.pent c.lr.jrnl | none => false

/-- The count of earlier records of a KIND for a group (JSite.key), or for the context (R278). -/
def Ctx.jcount (c : Ctx) (kind group : Nat) : Nat :=
  ((c.jseq.find? (fun p => p.1 == kind && p.2.1 == group)).map (·.2.2)).getD 0
def Ctx.jbump (c : Ctx) (kind group : Nat) : Ctx :=
  { c with jseq := (kind, group, c.jcount kind group + 1) :: c.jseq.filter (fun p => !(p.1 == kind && p.2.1 == group)) }

/-- Who a record is about. -/
structure JSite where
  group : Nat := 0xFF
  split : Nat := 0xFF
  team  : Nat := 0xFFFFFFFF
deriving DecidableEq, Repr
/-- The number of the group, or of none, by TEAM and GROUP: each team numbers its own groups (log entry 121). -/
def JSite.key (w : JSite) : Nat := if w.group = 0xFF then 0xFF else 256 * (w.team + 1) + w.group

/-- The bytes of a record (R278), padded to a multiple of 32. -/
def journalBytes (c : Ctx) (kind : Nat) (w : JSite) (now : Nat) (payload : List Byte) : List Byte :=
  let body := bytesOf 1 kind ++ [0] ++ bytesOf 1 w.group ++ bytesOf 1 w.split ++ bytesOf 2 c.queue ++ bytesOf 2 payload.length ++
    bytesOf 4 c.index.toNat ++ bytesOf 4 w.team ++ bytesOf 8 (c.jcount kind w.key) ++ bytesOf 8 now ++ payload
  body ++ List.replicate ((32 - body.length % 32) % 32) 0

/-- A record of n bytes has been written. -/
def State.jrnlWrote (s : State) (e n : Nat) : State :=
  let j := s.journal e
  let hbm := match s.translate none e none (j.jbase + j.jwr) .write with | .ok (.mem _) _ _ => true | _ => false
  (if hbm then s.chargeAct 3 n else s).modJournal e (fun j => { j with jwr := j.jwr + BitVec.ofNat 64 n })

/-- An input of a context is recorded before it is delivered (R278, R279): nothing is written when the context does not
record; a record that would pass JSIZE sets OVF and stops the recording. One written to HBM counts against the journal's budget (R80). One
whose page is not resident, or lies at a peer, waits in `pending`, and the contexts of the journal issue nothing until it is written
(R40, log entry 126). -/
def State.record (s : State) (cn kind : Nat) (w : JSite) (payload : List Byte) : State :=
  match s.ctx? cn with
  | none => s
  | some c =>
    let j := s.journal c.pent
    if !(c.lr.jrnl && j.taking) then s
    else
      let bs := journalBytes c kind w s.now payload
      let s := s.modCtx cn (fun c => c.jbump kind w.key)
      if j.jsize.toNat < j.jwr.toNat + (j.pending.map (·.data.length)).sum + bs.length then
        s.modJournal c.pent (fun j => { j with jctl := j.jctl ||| 4, stopped := true })
      else
        match (if j.pending = [] then s.devPut c.pent 3 (j.jbase + j.jwr) bs else none) with
        | some s => s.jrnlWrote c.pent bs.length
        | none => s.modJournal c.pent (fun j => { j with pending := j.pending ++ [{ queue := c.queue, idx := c.index, data := bs }] })

/-- Whether a context takes its inputs from the journal. -/
def State.replays (s : State) (cn : Nat) : Bool :=
  match s.ctx? cn with
  | none => false
  | some c => c.lr.jrnl && (s.journal c.pent).replay == some cn

/-- A record as it stands in the journal: its offset, header fields (`group` as JSite.key gives it) and payload. -/
structure JRec where
  off     : Nat
  kind    : Nat
  group   : Nat
  queue   : Nat
  index   : Nat
  seq     : Nat
  payload : List Byte
deriving DecidableEq, Repr

/-- The records from an offset on, at most `fuel` of them. -/
def State.records (s : State) (e : Nat) : (fuel : Nat) → (off : Nat) → List JRec
  | 0, _ => []
  | fuel + 1, off =>
    let j := s.journal e
    if j.jsize.toNat < off + 32 then []
    else
      match s.devGet e 2 (j.jbase + BitVec.ofNat 64 off) 32 with
      | none => []
      | some h =>
        let len := fieldAt h 6 2
        let kind := fieldAt h 0 1
        if kind = 0 then []
        else
          let w : JSite := { group := fieldAt h 2 1, split := fieldAt h 3 1, team := fieldAt h 12 4 }
          let r : JRec := { off, kind, group := w.key, queue := fieldAt h 4 2, index := fieldAt h 8 4, seq := fieldAt h 16 8
                            payload := (s.devGet e 3 (j.jbase + BitVec.ofNat 64 (off + 32)) len).getD [] }
          r :: s.records e fuel (off + 32 + (len + 31) / 32 * 32)

/-- The counts of records of a launch before an offset, by KIND and group: with them a context that an image replants goes on (R278). -/
def State.countsBefore (s : State) (e pos queue index : Nat) : List (Nat × Nat × Nat) :=
  let rs := (s.records e ((s.journal e).jsize.toNat / 32) 0).filter (fun r => decide (r.off < pos) && r.queue == queue && r.index == index)
  (dedup (rs.map (fun r => (r.kind, r.group)))).map (fun k => (k.1, k.2, rs.countP (fun r => r.kind == k.1 && r.group == k.2)))

/-- The next input of a KIND for a group in replay, matched by KIND, GROUP and SEQ (R280). -/
def State.replayInput (s : State) (cn kind group : Nat) : Option (List Byte) :=
  match s.ctx? cn with
  | none => none
  | some c =>
    let j := s.journal c.pent
    ((s.records c.pent (j.jsize.toNat / 32) (c.jpos.getD j.jstart.toNat)).find? (fun r =>
      r.kind == kind && r.group == group && r.seq == c.jcount kind group)).map (·.payload)

/-- A requested input with no matching record ends the context (R280). -/
def State.replayEnd (s : State) (cn : Nat) : State := s.endCtx cn { FaultRec.none_ with code := 1, aux := 0x4A }

/-- At a sys-scope acquire of a replaying group, the stores recorded before its 0x07 point and not yet applied are applied
(R280). -/
def State.replayAcquire (s : State) (cn group : Nat) : State :=
  match s.ctx? cn with
  | none => s
  | some c =>
    let j := s.journal c.pent
    let rs := s.records c.pent (j.jsize.toNat / 32) (c.jpos.getD j.jstart.toNat)
    match rs.find? (fun r => r.kind == 7 && r.group == group && r.seq == c.jcount 7 group) with
    | none => s.replayEnd cn
    | some p =>
      let todo := rs.filter (fun r => r.kind == 6 && decide (r.off < p.off) && !j.used.contains r.off)
      let s := todo.foldl (fun s r => (s.devPut c.pent 3 (wordOf 64 (r.payload.take 8)) (r.payload.drop 8)).getD s) s
      (s.modJournal c.pent (fun j => { j with used := j.used ++ todo.map (·.off) })).modCtx cn (·.jbump 7 group)

/-- Where a group stands in its launch, for a record. -/
def State.jsite (s : State) (g sp : Nat) : JSite :=
  match s.group? g with
  | none => {}
  | some gr => { group := gr.index, split := sp, team := match s.team? gr.team with | some t => t.linear | none => 0xFFFFFFFF }

/-- A sys-scope acquire by a group of a context: the 0x07 record, or in replay the stores before it. -/
def State.sysAcquire (s : State) (g sp : Nat) : State :=
  match s.ctxOf? g with
  | none => s
  | some (cn, _) =>
    if s.replays cn then s.replayAcquire cn (s.jsite g sp).key
    else s.record cn 7 (s.jsite g sp) []

/-- Whether a sys-scope acquire of a group has to wait for the record of it (R279). -/
def State.acquireHeld (s : State) (g : Nat) : Bool := match s.ctxOf? g with | some (cn, _) => s.recordHeld cn | none => false

/-- The VA of a partition's journaled region that a frame backs (R277, R278). -/
def State.journaledVa (s : State) (e pa : Nat) : Option W64 :=
  let j := s.journal e
  if !j.enabled then none
  else
    (List.range j.jrcount.toNat).findSome? (fun i =>
      match s.devGet e 1 (j.jreg + BitVec.ofNat 64 (16 * i)) 16 with
      | none => none
      | some r =>
        (List.range (fieldAt r 8 4)).findSome? (fun k =>
          let va : W64 := wordOf 64 (r.take 8) + BitVec.ofNat 64 (65536 * k)
          match s.translate none e none va .read with
          | .ok (.mem b) _ _ => if b / 65536 = pa / 65536 then some (va + BitVec.ofNat 64 (pa % 65536)) else none
          | _ => none))

/-- Whether a store by a peer or by the host has to wait for its record (R279). -/
def State.storeHeld (s : State) (e pa : Nat) : Bool :=
  (s.journal e).taking && (!s.mayUnit 3 || (s.journal e).pending != []) && s.exec.ctxs.any (fun c => c.pent == e && c.state != .gone && c.lr.jrnl) && (s.journaledVa e pa).isSome
/-- Whether such a store reaches a region whose context replays: it is not delivered (R280). -/
def State.storeKept (s : State) (e pa : Nat) : Bool :=
  (match (s.journal e).replay with | some cn => s.replays cn && (s.ctx? cn).any (fun c => c.state != .gone) | none => false) &&
    (s.journaledVa e pa).isSome
/-- Bytes from a VA on in pieces of at most 4 KiB. -/
def pieces4K (va : W64) (data : List Byte) : List (W64 × List Byte) :=
  (List.range ((data.length + 4095) / 4096)).map (fun i => (va + BitVec.ofNat 64 (4096 * i), (data.drop (4096 * i)).take 4096))
/-- A store by a peer or by the host into a journaled region: a record in every recording context of the partition, or several where it is
longer than 4 KiB (R278). -/
def State.recordStore (s : State) (e pa : Nat) (data : List Byte) : State :=
  match (if (s.journal e).taking then s.journaledVa e pa else none) with
  | none => s
  | some va =>
    (withIndex s.exec.ctxs).foldl (fun s p =>
      if p.2.pent = e ∧ p.2.state ≠ .gone then
        (pieces4K va data).foldl (fun (s : State) x => s.record p.1 6 {} (bytesOf 8 x.1.toNat ++ x.2)) s
      else s) s

end Sys2Proof.Machine
end

