-- ==== Sys2Proof/Machine/Flags.lean ====
section
/-!
DEFINITION. Exact numbers and their rounding (R334), exception flags (FXF), the correctly rounded functions (R379), slot
codes (R335) and condition codes (R367). Every finite value is a natural number times a power of two; a quotient, a root
or a transcendental value is represented, for rounding, by a number of more than enough bits whose last bit stands for
the part that was cut off.
-/

namespace Sys2Proof.Machine

/-! ### Exact numbers -/

/-- A real number (−1)^neg · m · 2^e, an infinity, or a NaN with whether it is signalling. -/
inductive Num where
  | nan (sig : Bool)
  | inf (neg : Bool)
  | fin (neg : Bool) (m : Nat) (e : Int)
deriving DecidableEq, Repr

/-- Flags of FXF (R334): NV, DZ, OF, UF, NX in bits 0 to 4. -/
abbrev Flags := BitVec 5
def fNV : Flags := 1
def fDZ : Flags := 2
def fOF : Flags := 4
def fUF : Flags := 8
def fNX : Flags := 16
def flagIf (c : Bool) (f : Flags) : Flags := if c then f else 0

/-- The number of bits of a number. -/
def bitLen (m : Nat) : Nat := if m = 0 then 0 else Nat.log2 m + 1

/-- 2^e for e not below zero. -/
def pow2 (e : Int) : Nat := 2 ^ e.toNat

def Num.neg : Num → Bool
  | .nan _ => false
  | .inf s => s
  | .fin s _ _ => s
def Num.isNan : Num → Bool | .nan _ => true | _ => false
def Num.isSig : Num → Bool | .nan s => s | _ => false
def Num.isZero : Num → Bool | .fin _ m _ => m == 0 | _ => false
def Num.negate : Num → Num
  | .nan s => .nan s
  | .inf s => .inf !s
  | .fin s m e => .fin (!s) m e

/-! ### Formats -/

/-- A binary format: precision p with the hidden bit, the exponents of the least and the greatest normal number, width. -/
structure Fmt where
  p    : Nat
  emin : Int
  emax : Int
  w    : Nat
deriving DecidableEq, Repr

def fmtF32 : Fmt := ⟨24, -126, 127, 32⟩
def fmtF64 : Fmt := ⟨53, -1022, 1023, 64⟩
def fmtF16 : Fmt := ⟨11, -14, 15, 16⟩
def fmtBF16 : Fmt := ⟨8, -126, 127, 16⟩

/-- The format of a floating TY code (R319). -/
def fmtOf (ty : BitVec 4) : Fmt :=
  match ty.toNat with
  | 9 => fmtF64
  | 10 => fmtF16
  | 11 => fmtBF16
  | _ => fmtF32

/-- The exponent field when every bit is set. -/
def Fmt.top (f : Fmt) : Nat := 2 ^ (f.w - f.p) - 1

/-- The number that bits hold. -/
def Fmt.decode (f : Fmt) (b : Nat) : Num :=
  let m := b % 2 ^ (f.p - 1)
  let e := b / 2 ^ (f.p - 1) % 2 ^ (f.w - f.p)
  let s := b.testBit (f.w - 1)
  if e = f.top then (if m = 0 then .inf s else .nan (!m.testBit (f.p - 2)))
  else if e = 0 then .fin s m (f.emin - (f.p - 1 : Nat))
  else .fin s (2 ^ (f.p - 1) + m) (f.emin + (e : Int) - 1 - (f.p - 1 : Nat))

/-- The sign bit. -/
def Fmt.sign (f : Fmt) (s : Bool) : Nat := if s then 2 ^ (f.w - 1) else 0
/-- The canonical NaN (R334). -/
def Fmt.qnan (f : Fmt) : Nat := f.top * 2 ^ (f.p - 1) + 2 ^ (f.p - 2)
def Fmt.inf (f : Fmt) (s : Bool) : Nat := f.sign s + f.top * 2 ^ (f.p - 1)
def Fmt.maxFinite (f : Fmt) (s : Bool) : Nat := f.inf s - 1

/-! ### Rounding -/

/-- m / 2^s rounded to an integer in mode rm (R320), and whether that is exact. -/
def roundInt (rm : Nat) (neg : Bool) (m s : Nat) : Nat × Bool :=
  let (m, s) := if bitLen m + 1 < s then (if m = 0 then (0, 0) else (1, 2)) else (m, s)
  let q := m / 2 ^ s
  let r := m % 2 ^ s
  let h := 2 ^ s / 2
  let up := r != 0 && match rm with
    | 0 => decide (h < r) || (r == h && q % 2 == 1)
    | 1 => false
    | 2 => !neg
    | 3 => neg
    | _ => decide (h ≤ r)
  (if up then q + 1 else q, r == 0)

/-- m · 2^e rounded to a multiple of 2^k: the multiple, and whether that is exact. -/
def roundAt (rm : Nat) (neg : Bool) (m : Nat) (e k : Int) : Nat × Bool :=
  if k ≤ e then (m * pow2 (e - k), true) else roundInt rm neg m (k - e).toNat

/-- Whether the mode rounds away from zero in the direction of a sign (R334). -/
def away (rm : Nat) (neg : Bool) : Bool :=
  match rm with
  | 1 => false
  | 2 => !neg
  | 3 => neg
  | _ => true

/-- round_f32 and its like (R334): the bits and the flags OF, UF, NX. -/
def Fmt.round (f : Fmt) (rm : Nat) : Num → Nat × Flags
  | .nan _ => (f.qnan, 0)
  | .inf s => (f.inf s, 0)
  | .fin s m e =>
    if m = 0 then (f.sign s, 0)
    else
      let ex := e + (bitLen m : Int) - 1
      let p1 : Int := (f.p - 1 : Nat)
      if f.emax < ex then (if away rm s then f.inf s else f.maxFinite s, fOF ||| fNX)
      else
        let k := max ex f.emin - p1
        let (q, exact) := roundAt rm s m e k
        let (u, _) := roundAt rm s m e (ex - p1)
        let tiny := decide (ex < f.emin) && (ex + 1 < f.emin || u < 2 ^ f.p)
        let bits := f.sign s + ((k + p1 - f.emin).toNat * 2 ^ (f.p - 1) + q)
        if f.inf s ≤ bits then (if away rm s then f.inf s else f.maxFinite s, fOF ||| fNX)
        else (bits, flagIf (!exact) fNX ||| flagIf (tiny && !exact) fUF)

/-! ### Arithmetic (R377, R378) -/

/-- NV for a signalling operand, and the canonical NaN. -/
def nanOf (l : List Num) : Num × Flags := (.nan false, flagIf (l.any Num.isSig) fNV)

/-- The exact sum of two finite numbers, an exact zero taking its sign by the mode (R378). -/
def addFin (rm : Nat) (s1 : Bool) (m1 : Nat) (e1 : Int) (s2 : Bool) (m2 : Nat) (e2 : Int) : Num :=
  if m1 = 0 ∧ m2 = 0 then .fin (if s1 = s2 then s1 else rm == 3) 0 0
  else if m1 = 0 then .fin s2 m2 e2
  else if m2 = 0 then .fin s1 m1 e1
  else
    let e := min e1 e2
    let a := m1 * pow2 (e1 - e)
    let b := m2 * pow2 (e2 - e)
    if s1 = s2 then .fin s1 (a + b) e
    else if a = b then .fin (rm == 3) 0 0
    else if b < a then .fin s1 (a - b) e
    else .fin s2 (b - a) e

def addNum (rm : Nat) (a b : Num) : Num × Flags :=
  match a, b with
  | .nan _, _ | _, .nan _ => nanOf [a, b]
  | .inf s, .inf t => if s = t then (a, 0) else (.nan false, fNV)
  | .inf _, _ => (a, 0)
  | _, .inf _ => (b, 0)
  | .fin s1 m1 e1, .fin s2 m2 e2 => (addFin rm s1 m1 e1 s2 m2 e2, 0)

def mulNum (a b : Num) : Num × Flags :=
  match a, b with
  | .nan _, _ | _, .nan _ => nanOf [a, b]
  | .inf s, y => if y.isZero then (.nan false, fNV) else (.inf (s != y.neg), 0)
  | x, .inf t => if x.isZero then (.nan false, fNV) else (.inf (x.neg != t), 0)
  | .fin s1 m1 e1, .fin s2 m2 e2 => (.fin (s1 != s2) (m1 * m2) (e1 + e2), 0)

/-- a · b + c, exact; 0 · ∞ is invalid even beside a quiet NaN (R378). -/
def fmaNum (rm : Nat) (a b c : Num) : Num × Flags :=
  let (p, fl) := mulNum a b
  let (r, fl2) := addNum rm p c
  (r, fl ||| fl2 ||| flagIf ([a, b, c].any Num.isSig) fNV)

/-- The order of two numbers that are no NaN: less, equal or greater. -/
def cmpNum (a b : Num) : Ordering :=
  match a, b with
  | .inf s, .inf t => if s = t then .eq else if s then .lt else .gt
  | .inf s, _ => if s then .lt else .gt
  | _, .inf t => if t then .gt else .lt
  | .fin s1 m1 e1, .fin s2 m2 e2 =>
    let e := min e1 e2
    let x : Int := (if s1 then -1 else 1) * ((m1 * pow2 (e1 - e) : Nat) : Int)
    let y : Int := (if s2 then -1 else 1) * ((m2 * pow2 (e2 - e) : Nat) : Int)
    compare x y
  | .nan _, _ | _, .nan _ => .eq

/-- minimumNumber and maximumNumber (R378), −0 below +0. -/
def minMaxNum (max_ : Bool) (a b : Num) : Num × Flags :=
  let fl := flagIf (a.isSig || b.isSig) fNV
  if a.isNan && b.isNan then (.nan false, fl)
  else if a.isNan then (b, fl)
  else if b.isNan then (a, fl)
  else
    let aLess := match cmpNum a b with
      | .lt => true
      | .gt => false
      | .eq => a.neg && !b.neg
    (if aLess != max_ then a else b, fl)

/-! ### Quotients and roots (R379) -/

/-- A value known to lie in [m, m + 1) · 2^e, above m when `more`: the number that rounds as it does. -/
def sticky (s : Bool) (m : Nat) (e : Int) (more : Bool) : Num := if more then .fin s (2 * m + 1) (e - 1) else .fin s m e

def divNum (a b : Num) : Num × Flags :=
  match a, b with
  | .nan _, _ | _, .nan _ => nanOf [a, b]
  | .inf s, y => (match y with | .inf _ => (.nan false, fNV) | _ => (.inf (s != y.neg), 0))
  | x, .inf t => (.fin (x.neg != t) 0 0, 0)
  | .fin s1 m1 e1, .fin s2 m2 e2 =>
    if m2 = 0 then (if m1 = 0 then (.nan false, fNV) else (.inf (s1 != s2), fDZ))
    else if m1 = 0 then (.fin (s1 != s2) 0 0, 0)
    else
      let k := 130 + bitLen m2
      (sticky (s1 != s2) (m1 * 2 ^ k / m2) (e1 - e2 - k) (m1 * 2 ^ k % m2 != 0), 0)

/-- The integer square root by bits n − 1 down to 0 of the root. -/
def isqrt : (n r x : Nat) → Nat
  | 0, r, _ => r
  | n + 1, r, x => if (r + 2 ^ n) * (r + 2 ^ n) ≤ x then isqrt n (r + 2 ^ n) x else isqrt n r x
/-- The integer square root. -/
def sqrtNat (x : Nat) : Nat := isqrt (bitLen x / 2 + 1) 0 x

/-- A value with an even exponent. -/
def evenExp (m : Nat) (e : Int) : Nat × Int := if e % 2 = 0 then (m, e) else (2 * m, e - 1)

def sqrtNum : Num → Num × Flags
  | .nan s => nanOf [.nan s]
  | .inf s => if s then (.nan false, fNV) else (.inf false, 0)
  | .fin s m e =>
    if m = 0 then (.fin s 0 0, 0)
    else if s then (.nan false, fNV)
    else
      let (m, e) := evenExp m e
      let x := m * 2 ^ 160
      let r := sqrtNat x
      (sticky false r (e / 2 - 80) (r * r != x), 0)

def rsqrtNum : Num → Num × Flags
  | .nan s => nanOf [.nan s]
  | .inf s => if s then (.nan false, fNV) else (.fin false 0 0, 0)
  | .fin s m e =>
    if m = 0 then (.inf s, fDZ)
    else if s then (.nan false, fNV)
    else
      let (m, e) := evenExp m e
      let t := 80 + bitLen m
      let x := 2 ^ (2 * t) / m
      let r := sqrtNat x
      (sticky false r (-(e / 2) - t) (r * r * m != 2 ^ (2 * t)), 0)

/-! ### Transcendental functions: fixed point with P fraction bits, every quantity rounded down -/

/-- Σ z^(2k+1)/(2k+1) over n terms, where z = zn/zd: the series of atanh, or of atan with alternating signs. The error is
at most 2 units a term. -/
def atanhSeries (alt : Bool) (zn zd : Nat) : (n k : Nat) → (pow : Nat) → Int
  | 0, _, _ => 0
  | n + 1, k, pow =>
    (if alt && k % 2 == 1 then -((pow / (2 * k + 1) : Nat) : Int) else ((pow / (2 * k + 1) : Nat) : Int)) +
      atanhSeries alt zn zd n (k + 1) (pow * (zn * zn) / (zd * zd))

/-- ln 2 = 2 · atanh(1/3), with P fraction bits; low by at most P units. -/
def ln2Fix (P : Nat) : Nat := (2 * atanhSeries false 1 3 (P / 3 + 2) 0 (2 ^ P / 3)).toNat
/-- π = 16 · atan(1/5) − 4 · atan(1/239), with P fraction bits; within 32 · P units. -/
def piFix (P : Nat) : Nat :=
  (16 * atanhSeries true 1 5 (P / 4 + 2) 0 (2 ^ P / 5) - 4 * atanhSeries true 1 239 (P / 4 + 2) 0 (2 ^ P / 239)).toNat

/-- Σ t^k/k! from term k on (the terms of e^t), n terms. -/
def expSeries (P t : Nat) : (n k term : Nat) → Nat
  | 0, _, _ => 0
  | n + 1, k, term => term + expSeries P t n (k + 1) (term * t / 2 ^ P / (k + 1))

/-- Σ (−1)^j t^j/(...)! : the alternating series of cosine (o = 0) and of sin x / x (o = 1) in t = x². -/
def altSeries (P t o : Nat) : (n j term : Nat) → Int
  | 0, _, _ => 0
  | n + 1, j, term =>
    (if j % 2 = 0 then (term : Int) else -(term : Int)) +
      altSeries P t o n (j + 1) (term * t / 2 ^ P / ((2 * j + 1 + o) * (2 * j + 2 + o)))

/-- A positive value strictly between lo and hi units of 2^e, which no number with 80 bits equals: the first 80 bits of the lower bound, and
whether both bounds agree on them, so that they are those of the value. -/
def settle (s : Bool) (lo hi : Nat) (e : Int) : Num × Bool :=
  let d := bitLen lo - 80
  (sticky s (lo / 2 ^ d) (e + d) true, !(lo == 0 || decide (bitLen lo < 80) || lo / 2 ^ d != hi / 2 ^ d))

/-- A function evaluated with growing precision until its value is settled, to 65,536 bits at most (log entry 128). -/
def tryPrec (f : Nat → Num × Bool) : (fuel P : Nat) → Num
  | 0, P => (f P).1
  | n + 1, P => if (f P).2 then (f P).1 else tryPrec f n (2 * P)

/-- A fraction num · 2^e (e ≤ 0) with P fraction bits, rounded down. -/
def fixOf (P m : Nat) (e : Int) : Nat := if -(P : Int) ≤ e then m * pow2 (e + P) else m / pow2 (-e - P)

/-- 2^x for x neither an integer nor out of every format's range: x = n + f with f = fm · 2^fe. -/
def exp2At (n : Int) (fm : Nat) (fe : Int) (P : Nat) : Num × Bool :=
  let t := fixOf P fm fe * ln2Fix P / 2 ^ P
  let y := expSeries P t (P / 2 + 8) 0 (2 ^ P)
  settle false (max y (2 ^ P)) (min (y + 16 * P + 16) (2 ^ (P + 1) - 1)) (n - P)

/-- FEX2 (R379). -/
def exp2Num : Num → Num × Flags
  | .nan s => nanOf [.nan s]
  | .inf s => (if s then .fin false 0 0 else .inf false, 0)
  | .fin s m e =>
    if m = 0 then (.fin false 1 0, 0)
    else if 20 ≤ e + (bitLen m : Int) then (.fin false 1 (if s then -1000000 else 1000000), 0)
    else
      let d := pow2 (-e)
      let q : Int := if 0 ≤ e then (m * pow2 e : Nat) else (m / d : Nat)
      let r : Nat := if 0 ≤ e then 0 else m % d
      if r = 0 then (.fin false 1 (if s then -q else q), 0)
      else
        let (n, fm) := if s then (-q - 1, d - r) else (q, r)
        (tryPrec (exp2At n fm e) 8 256, 0)

/-- log2 of m · 2^e, no power of two. The mantissa is taken in [3/4, 3/2). -/
def log2At (m : Nat) (ex : Int) (l P : Nat) : Num × Bool :=
  -- value = (m / 2^l) · 2^ex with m / 2^l in [3/4, 3/2)
  let neg := decide (m < 2 ^ l)
  let num := if neg then 2 ^ l - m else m - 2 ^ l
  let den := m + 2 ^ l
  let a := (2 * atanhSeries false num den (P / 4 + 2) 0 (2 ^ P * num / den)).toNat
  let ln2 := ln2Fix P
  -- |ln mantissa| in [a, a + 2P]; divided by ln 2 in [ln2, ln2 + P]
  let lo := a * 2 ^ P / (ln2 + P)
  let hi := (a + 2 * P + 4) * 2 ^ P / ln2 + 1
  let (blo, bhi) : Int × Int := if neg then (-(hi : Int), -(lo : Int)) else ((lo : Int), (hi : Int))
  let lo' := ex * (2 ^ P : Nat) + blo
  let hi' := ex * (2 ^ P : Nat) + bhi
  if 0 < lo' then settle false lo'.toNat hi'.toNat (-P)
  else if hi' < 0 then settle true (-hi').toNat (-lo').toNat (-P)
  else (.fin false 0 0, false)

/-- FLG2 (R379). -/
def log2Num : Num → Num × Flags
  | .nan s => nanOf [.nan s]
  | .inf s => if s then (.nan false, fNV) else (.inf false, 0)
  | .fin s m e =>
    if m = 0 then (.inf true, fDZ)
    else if s then (.nan false, fNV)
    else
      let l := bitLen m - 1
      let ex := e + (l : Int)
      if m = 2 ^ l then (.fin (decide (ex < 0)) ex.natAbs 0, 0)
      else if 2 * m < 3 * 2 ^ l then (tryPrec (log2At m ex l) 8 256, 0)
      else (tryPrec (log2At m (ex + 1) (l + 1)) 8 256, 0)

/-- sin(π r) for r = m · 2^e in (0, 1/2): (sin(π r) / r) · r. -/
def sinAt (s : Bool) (m : Nat) (e : Int) (P : Nat) : Num × Bool :=
  let p := piFix P
  let x := p * fixOf P m e / 2 ^ P
  let t := x * x / 2 ^ P
  let y := (altSeries P t 1 (P / 2 + 8) 0 (2 ^ P)).toNat
  let v := y * p / 2 ^ P
  let err := 256 * P
  settle s ((v - err) * m) ((v + err) * m) (e - P)

/-- cos(π r) for r = m · 2^e in (0, 1/4]. -/
def cosAt (s : Bool) (m : Nat) (e : Int) (P : Nat) : Num × Bool :=
  let x := piFix P * fixOf P m e / 2 ^ P
  let t := x * x / 2 ^ P
  let y := (altSeries P t 0 (P / 2 + 8) 0 (2 ^ P)).toNat
  let err := 256 * P
  settle s (y - err) (min (y + err) (2 ^ P - 1)) (-P)

/-- The magnitude m · 2^e reduced modulo 2, in units of 2^e (e below 0). -/
def mod2 (m : Nat) (e : Int) : Nat := m % pow2 (1 - e)

/-- ±sin(π r) for 0 ≤ r ≤ 1/2 in units of 2^e. -/
def sinQuarter (s : Bool) (r : Nat) (e : Int) : Num :=
  if r = 0 then .fin s 0 0
  else if r = pow2 (-e - 1) ∧ e < 0 then .fin s 1 0
  else tryPrec (sinAt s r e) 8 256
/-- ±cos(π r) for 0 ≤ r ≤ 1/2. -/
def cosQuarter (s : Bool) (r : Nat) (e : Int) : Num :=
  if r = 0 then .fin s 1 0
  else if 4 * r ≤ pow2 (-e) then tryPrec (cosAt s r e) 8 256
  else sinQuarter s (pow2 (-e) - 2 * r) (e - 1)

/-- FSINP and FCOSP (R379). A value with e ≥ 0 is an integer; a fraction is reduced by quarters of the period. -/
def sinpNum : Num → Num × Flags
  | .nan s => nanOf [.nan s]
  | .inf _ => (.nan false, fNV)
  | .fin s m e =>
    if m = 0 ∨ 0 ≤ e then (.fin s 0 0, 0)
    else
      let one := pow2 (-e)
      let r := mod2 m e
      if r % one = 0 then (.fin s 0 0, 0)
      else
        let h := r % one
        let s' := s != decide (one < r)
        (sinQuarter s' (if one < 2 * h then one - h else h) e, 0)
def cospNum : Num → Num × Flags
  | .nan s => nanOf [.nan s]
  | .inf _ => (.nan false, fNV)
  | .fin _ m e =>
    if m = 0 then (.fin false 1 0, 0)
    else if 0 ≤ e then (.fin (e == 0 && m % 2 == 1) 1 0, 0)
    else
      let one := pow2 (-e)
      let r := mod2 m e
      let r := if one < r then 2 * one - r else r
      if 2 * r = one then (.fin false 0 0, 0)
      else (cosQuarter (decide (one < 2 * r)) (if one < 2 * r then one - r else r) e, 0)

/-! ### Scaling and integers (R384, R385) -/

/-- x · 2^n. -/
def Num.scale (x : Num) (n : Int) : Num :=
  match x with
  | .fin s m e => .fin s m (e + n)
  | x => x

/-- A finite value rounded to an integer in a mode: its magnitude, and whether it was exact. -/
def intOf (rm : Nat) (s : Bool) (m : Nat) (e : Int) : Nat × Bool := roundAt rm s m e 0

/-- floor(log2 |a|) (R384). -/
def Num.exponent : Num → Option Int
  | .fin _ m e => if m = 0 then none else some (e + (bitLen m : Int) - 1)
  | _ => none

/-- The number of an integer. -/
def Num.ofInt (i : Int) : Num := .fin (decide (i < 0)) i.natAbs 0

/-! ### Slot codes (R335) -/

/-- slot_decode: the value of a code. -/
def slotDecode (f : Slot) (code : Nat) : Num :=
  let s := f.s && code.testBit (f.w - 1)
  let m := code % 2 ^ f.m
  let e := code / 2 ^ f.m % 2 ^ f.e
  if f.e = 0 then .fin s m (-f.bias)
  else if f.spec = 1 ∧ e = 2 ^ f.e - 1 then (if m = 0 then .inf s else .nan false)
  else if f.spec = 2 ∧ e = 2 ^ f.e - 1 ∧ m = 2 ^ f.m - 1 then .nan false
  else if e = 0 then .fin s m (1 - f.bias - (f.m : Int))
  else .fin s (2 ^ f.m + m) ((e : Int) - f.bias - (f.m : Int))

/-- The code of the largest finite value, without its sign. -/
def slotMax (f : Slot) : Nat :=
  if f.e = 0 then 2 ^ f.m - 1
  else if f.spec = 1 then (2 ^ f.e - 1) * 2 ^ f.m - 1
  else if f.spec = 2 then 2 ^ (f.e + f.m) - 2
  else 2 ^ (f.e + f.m) - 1

/-- The NaN code. -/
def slotNan (f : Slot) : Nat := 2 ^ (f.e + f.m) - 1
def slotSign (f : Slot) (neg : Bool) : Nat := if f.s && neg then 2 ^ (f.w - 1) else 0

/-- A value beyond the largest finite one, or an infinity (R335). -/
def slotOver (f : Slot) (rm : Nat) (neg isInf : Bool) : Nat × Flags :=
  if !f.s && neg then (0, fNV ||| fNX)
  else if f.ovf = 2 then (slotNan f, fOF ||| fNX)
  else if f.ovf = 1 ∧ f.spec = 1 ∧ away rm neg = true then
    (slotSign f neg + (2 ^ f.e - 1) * 2 ^ f.m, if isInf then 0 else fOF ||| fNX)
  else (slotSign f neg + slotMax f, fOF ||| fNX)

/-- slot_encode: the code nearest to a value, with the slot's own overflow rule (R335). DESIGN CHOICE (log entry 18): a NaN in a slot without a
NaN code raises NV alone; with S = 0 a negative value other than zero that rounds to −0 raises NX, as the decoded result differs. -/
def slotEncode (f : Slot) (rm : Nat) : Num → Nat × Flags
  | .nan _ => if f.spec = 1 ∨ f.spec = 2 then (slotNan f, 0) else (0, fNV)
  | .inf s => slotOver f rm s true
  | .fin s m e =>
    if m = 0 then (slotSign f s, 0)
    else
      let ex := e + (bitLen m : Int) - 1
      let low : Int := if f.e = 0 then -f.bias else 1 - f.bias - (f.m : Int)
      let k := if f.e = 0 then low else max low (ex - (f.m : Int))
      let (q, exact) := if 600 ≤ ex then (2 ^ 10, true) else roundAt rm s m e k
      -- the code that q units of 2^k have, with the exponent unbounded above
      let code := if f.e = 0 then q else (k - low).toNat * 2 ^ f.m + q
      if q = 0 then (slotSign f s, flagIf (!exact) fNX)
      else if 600 ≤ ex ∨ slotMax f < code then slotOver f rm s false
      else if !f.s && s then (0, fNV ||| fNX)
      else (slotSign f s + code, flagIf (!exact) fNX)

/-! ### Condition codes (R321, R367): V N Z C in bits 3 to 0 -/

def ccOf (n z c v : Bool) : BitVec 4 :=
  BitVec.ofBool v ++ BitVec.ofBool n ++ BitVec.ofBool z ++ BitVec.ofBool c

def ccC (x : BitVec 4) : Bool := x.getLsbD 0
def ccZ (x : BitVec 4) : Bool := x.getLsbD 1
def ccN (x : BitVec 4) : Bool := x.getLsbD 2
def ccV (x : BitVec 4) : Bool := x.getLsbD 3

/-- Whether condition codes satisfy CND (R321). -/
def cndHolds (cnd : BitVec 4) (x : BitVec 4) : Bool :=
  match cnd.toNat with
  | 0 => true
  | 1 => ccZ x
  | 2 => !ccZ x
  | 3 => ccC x
  | 4 => !ccC x
  | 5 => ccN x
  | 6 => !ccN x
  | 7 => ccV x
  | 8 => !ccV x
  | 9 => ccC x && !ccZ x
  | 10 => !ccC x || ccZ x
  | 11 => ccN x == ccV x
  | 12 => ccN x != ccV x
  | 13 => !ccZ x && ccN x == ccV x
  | 14 => ccZ x || ccN x != ccV x
  | _ => false

/-- The codes of an integer or bit result of width w. -/
def ccInt (w d : Nat) (c v : Bool) : BitVec 4 := ccOf (d.testBit (w - 1)) (d % 2 ^ w == 0) c v
/-- The codes of a floating-point result. -/
def ccFloat (f : Fmt) (bits : Nat) : BitVec 4 :=
  match f.decode bits with
  | .nan _ => ccOf false false false true
  | .inf s => ccOf s false true false
  | .fin s m _ => ccOf (s && m != 0) (m == 0) false false

end Sys2Proof.Machine
end

