-- ==== Sys2Proof/Machine/Operands.lean ====
section
/-!
DEFINITION. Operands of lane instructions: the execution mask (R160), sources (R317, R318, R366), poison (R164, R166),
destinations (R165, R166, R319), last-use marks, block scales (R336), the canonical orders (R333), and what every lane
instruction does when it has computed its results.
-/

namespace Sys2Proof.Machine

/-! ### Vector registers -/

def poisonWord : W32 := 0x7FA00000
def VReg.dead : VReg := { live := false, unpub := none, vals := [] }
def Group.vreg (g : Group) (n : Nat) : VReg := g.vregs.getD n VReg.dead
/-- Live and published: a read of any other register gives poison (R164, R166). -/
def VReg.readable (r : VReg) : Bool := r.live && r.unpub.isNone
def VReg.lane (r : VReg) (l : Nat) : W32 := if r.readable then r.vals.getD l poisonWord else poisonWord

/-- Lane l of the registers n, n + 1, … that hold w bits, the first lowest (R317). -/
def Group.vec (g : Group) (n l : Nat) : (parts : Nat) → Nat
  | 0 => 0
  | k + 1 => ((g.vreg n).lane l).toNat + 2 ^ 32 * g.vec (n + 1) l k

/-- A register written in the lanes of a mask; a dead one becomes live, and its other lanes hold poison (R166). -/
def VReg.write (r : VReg) (gw : Nat) (mask : W64) (f : Nat → W32) : VReg :=
  { live := true, unpub := none,
    vals := (List.range gw).map (fun l =>
      if mask.getLsbD l then f l else if r.live then r.vals.getD l poisonWord else poisonWord) }

/-- The registers n, n + 1, … of a destination written. -/
def Group.setVec (g : Group) (gw : Nat) (mask : W64) (n : Nat) (f : Nat → Nat) : (parts : Nat) → Group
  | 0 => g
  | k + 1 =>
    Group.setVec { g with vregs := modAt g.vregs n (fun r => r.write gw mask (fun l => BitVec.ofNat 32 (f l))) } gw mask (n + 1)
      (fun l => f l / 2 ^ 32) k

/-- A register that a load targets: live, unpublished under the load's flag (R164, R166). -/
def VReg.target (r : VReg) (gw : Nat) (flag : Nat) : VReg :=
  { live := true, unpub := some flag, vals := if r.live then r.vals else List.replicate gw poisonWord }

/-- Registers that a flag published: what a started clause, or a WAITF, has waited for (R164, R195). -/
def Group.publish (g : Group) (flags : W16) : Group :=
  let hit (u : Option Nat) : Bool := match u with | some f => flags.getLsbD f | none => false
  { g with vregs := g.vregs.map (fun r => if hit r.unpub then { r with unpub := none } else r),
           munpub := g.munpub.map (fun u => if hit u then none else u) }

/-! ### Masks -/

/-- A mask register; m0 stands for the given mask, and an unpublished one reads zero (R195). -/
def Group.maskReg (g : Group) (n : Nat) (m0 : W64) : W64 :=
  if n = 0 then m0 else if (g.munpub.getD n none).isSome then 0 else g.masks.getD n 0
def Group.maskUnpub (g : Group) (n : Nat) : Bool := n != 0 && (g.munpub.getD n none).isSome
/-- A mask register written; m0 is not writable (R6). -/
def Group.setMask (g : Group) (n : Nat) (v : W64) : Group :=
  if n = 0 then g else { g with masks := g.masks.set n v, munpub := g.munpub.set n none }

/-! ### The environment of a lane instruction -/

/-- What a lane instruction reads of its split, group, team and launch (R149, R158). -/
structure Env where
  r     : SplitRef
  g     : Group
  sp    : Split
  c     : ClauseRun
  tm    : Team
  ctx   : Ctx

def Env.gw (e : Env) : Nat := e.ctx.lr.gw
def Env.cfg (e : Env) : LaneCfg := e.ctx.lr.cfg

/-- The execution mask (R160). -/
def Env.mask (e : Env) (f : LaneWord) : W64 :=
  let m := e.g.maskReg f.msk.toNat e.c.mask
  let m := e.c.mask &&& (if f.mnot then ~~~m else m)
  if f.cnd = 0 then m
  else BitVec.ofNat 64 (maskOf ((List.range e.gw).filter (fun l => m.getLsbD l && cndHolds f.cnd (e.g.ccs.getD l 0))))

/-- The lanes of a mask, ascending. -/
def Env.lanes (e : Env) (m : W64) : List Nat := (List.range e.gw).filter (m.getLsbD ·)

/-- Special sources (R149, R318). -/
def Env.special (e : Env) (code l : Nat) : Nat :=
  match code with
  | 0 => l
  | 1 => if e.g.segw = 0 then 0 else l % e.g.segw
  | 2 => e.g.index
  | 3 => e.tm.xyz.1
  | 4 => e.tm.xyz.2.1
  | 5 => e.tm.xyz.2.2
  | 6 => e.gw
  | 7 => e.g.segw
  | 8 => e.ctx.lr.gpt
  | 9 => e.tm.crank
  | _ => 0

/-- IMM16 as a floating operand (R366): an F16 value, or a BF16 value widened exactly. -/
def immFloat (ty : BitVec 4) (imm : W16) : Nat :=
  match ty.toNat with
  | 10 | 11 => imm.toNat
  | 9 =>
    match fmtBF16.decode imm.toNat with
    | .nan _ => fmtF64.sign (imm.getLsbD 15) + fmtF64.top * 2 ^ 52 + imm.toNat % 128 * 2 ^ 45
    | x => (fmtF64.round 0 x).1
  | _ => imm.toNat * 65536

/-- A source field of a lane word: kind, register field, last-use mark. -/
structure Src where
  k : BitVec 2
  n : Byte
  l : Bool
deriving DecidableEq, Repr

def srcA (f : LaneWord) : Src := ⟨f.ka, f.sa, f.la⟩
def srcB (f : LaneWord) : Src := ⟨f.kb, f.sb, f.lb⟩
def srcC (f : LaneWord) : Src := ⟨f.kc, f.sc, f.lc⟩

/-- A source read as bits at a width (R317), for an operand that is no floating type. -/
def Env.bits (e : Env) (f : LaneWord) (s : Src) (w l : Nat) : Nat :=
  match s.k.toNat with
  | 0 => e.g.vec s.n.toNat l ((w + 31) / 32) % 2 ^ w
  | 1 => (e.c.snap.getD s.n.toNat 0).toNat % 2 ^ w
  | 2 => (f.imm.signExtend 64).toNat % 2 ^ w
  | _ => e.special s.n.toNat l % 2 ^ w

/-- A source read as an operand of a type (R319, R366): its low bits at the type's width. -/
def Env.opnd (e : Env) (f : LaneWord) (s : Src) (ty : BitVec 4) (l : Nat) : Nat :=
  if tyFloat ty && s.k == 2 then immFloat ty f.imm else e.bits f s (tyWidth ty) l

/-- The vector registers that a source reads at a width. -/
def Src.regs (s : Src) (w : Nat) : List Nat := if s.k = 0 then (List.range (w / 32)).map (s.n.toNat + ·) else []

/-- A narrow integer result extended to 32 bits (R319). -/
def extendTo32 (ty : BitVec 4) (d : Nat) : Nat :=
  let w := tyWidth ty
  if tySigned ty && w < 32 && d.testBit (w - 1) then d % 2 ^ w + (2 ^ 32 - 2 ^ w) else d % 2 ^ w

/-- The two readings of bits at a width. -/
def signedOf (w d : Nat) : Int := if d.testBit (w - 1) then (d % 2 ^ w : Nat) - (2 ^ w : Nat) else (d % 2 ^ w : Nat)
def readTy (ty : BitVec 4) (d : Nat) : Int := if tySigned ty then signedOf (tyWidth ty) d else (d % 2 ^ tyWidth ty : Nat)
/-- The limits of an integer type (R371). -/
def tyLo (ty : BitVec 4) : Int := if tySigned ty then -(2 ^ (tyWidth ty - 1) : Nat) else 0
def tyHi (ty : BitVec 4) : Int := if tySigned ty then (2 ^ (tyWidth ty - 1) : Nat) - 1 else (2 ^ tyWidth ty : Nat) - 1
/-- x mod 2^w. -/
def wrapInt (w : Nat) (x : Int) : Nat := (x % (2 ^ w : Nat)).toNat
def clampInt (lo hi x : Int) : Int := min (max x lo) hi

/-! ### Canonical orders (R333) -/

/-- One level: neighbours combined, an unpaired last element passed up. -/
def pairUp {α : Type} (op : α → α → α) : List α → List α
  | a :: b :: r => op a b :: pairUp op r
  | l => l

/-- canon_reduce over at most 2^fuel elements. -/
def canonReduce {α : Type} (op : α → α → α) (d : α) : (fuel : Nat) → List α → α
  | 0, l => l.headD d
  | n + 1, l => match l with | [x] => x | _ => canonReduce op d n (pairUp op l)

/-- One round of the Kogge-Stone scan at distance k. -/
def scanRound {α : Type} (op : α → α → α) (k : Nat) (s : List α) : List α :=
  s.take k ++ List.zipWith op s (s.drop k)

/-- canon_scan, inclusive, over at most 2^fuel elements. -/
def canonScan {α : Type} (op : α → α → α) : (fuel k : Nat) → List α → List α
  | 0, _, s => s
  | n + 1, k, s => if k < s.length then canonScan op n (2 * k) (scanRound op k s) else s

/-! ### Reductions (R392), shared by atomics and rope reduces -/

/-- The number that bits of a floating type are (R319). -/
def numOf (ty : BitVec 4) (b : Nat) : Num := (fmtOf ty).decode b

/-- The identity of a reduction (R392). -/
def redIdent (op : Nat) (ty : BitVec 4) : Nat :=
  let w := tyWidth ty
  if tyFloat ty then
    match op with
    | 0 => (fmtOf ty).sign true
    | 1 => (fmtOf ty).inf false
    | _ => (fmtOf ty).inf true
  else
    match op with
    | 1 => wrapInt w (tyHi ty)
    | 2 => wrapInt w (tyLo ty)
    | 3 => 2 ^ w - 1
    | _ => 0

/-- One application of a reduction: bits and flags. -/
def redOp (op : Nat) (ty : BitVec 4) (rm : Nat) (a b : Nat) : Nat × Flags :=
  let w := tyWidth ty
  if tyFloat ty then
    let x := numOf ty a
    let y := numOf ty b
    let r := match op with
      | 0 => addNum rm x y
      | 1 => minMaxNum false x y
      | _ => minMaxNum true x y
    let b := (fmtOf ty).round rm r.1
    (b.1, r.2 ||| b.2)
  else
    let d := match op with
      | 0 => (a + b) % 2 ^ w
      | 1 => wrapInt w (min (readTy ty a) (readTy ty b))
      | 2 => wrapInt w (max (readTy ty a) (readTy ty b))
      | 3 => a &&& b
      | 4 => a ||| b
      | _ => a ^^^ b
    (d, 0)

/-- The same on elements that may be absent, with the flags of everything below them. -/
def redOpt (op : Nat) (ty : BitVec 4) (rm : Nat) (a b : Option (Nat × Flags)) : Option (Nat × Flags) :=
  match a, b with
  | none, y => y
  | x, none => x
  | some x, some y => let r := redOp op ty rm x.1 y.1; some (r.1, r.2 ||| x.2 ||| y.2)

/-! ### Block scales (R336) -/

/-- scale_of: none for the byte 255, else the exponent s − 127. The register is read as poison where it does not exist. -/
def Group.scaleAt (g : Group) (l : LaunchRec) (base sel b : Nat) : Option Int :=
  let n := base + b / l.gw
  let word := if n < l.vregs then (g.vreg n).lane (b % l.gw) else poisonWord
  let s := word.toNat / 2 ^ (8 * sel) % 256
  if s = 255 then none else some ((s : Int) - 127)
/-- Whether the read gives poison. -/
def Group.scaleDead (g : Group) (l : LaunchRec) (base b : Nat) : Bool :=
  let n := base + b / l.gw
  !(decide (n < l.vregs) && (g.vreg n).readable)
def Env.scaleOf (e : Env) (base sel b : Nat) : Option Int := e.g.scaleAt e.ctx.lr base sel b
def Env.scalePoison (e : Env) (base b : Nat) : Bool := e.g.scaleDead e.ctx.lr base b

/-! ### Completing a lane instruction -/

/-- The loads of a group that have not written register n yet (R165). -/
def State.loadInto (s : State) (g n : Nat) : Bool :=
  s.ops.mops.any (fun o => o.g == g && o.dst != 255 && o.dst ≤ n && !o.drop.contains n &&
    (match o.kind with
     | .load => decide (n < o.dst + max 1 (o.esize / 4))
     | .atomic | .cas => decide (n < o.dst + max 1 (o.esize / 4))
     | _ => false))

/-! ### Operands of matrix instructions (R412) -/

/-- The tiles that a matrix instruction reads, or that its commit writes. -/
def matTiles : Instr → List Nat
  | .mma f | .fmma f => [f.sa.toNat, f.sb.toNat]
  | .mmac f => [f.sb.toNat]
  | .ald f => [f.sa.toNat]
  | .acvt f => [f.dst.toNat]
  | _ => []

/-- Whether a tile of a team is an operand of a batch that has not committed: every write to it waits. -/
def State.tileLocked (s : State) (t h : Nat) : Bool :=
  s.exec.groups.any (fun g => g.team == t && g.batches.any (fun b => b.code.any (fun i => (matTiles i).contains h)))

/-- The registers that hold the n scales from a base register on, in a group of gw lanes (R336); none for 255. -/
def scaleSpan (base n gw : Nat) : List Nat := if base = 255 then [] else (List.range ((n + gw - 1) / gw)).map (base + ·)

/-- The scales that a matrix instruction of a group reads (R415), of each operand: base register, how many, and the group's lanes. -/
def State.scaleUses (s : State) (g : Group) : Instr → List (Nat × Nat × Nat)
  | .mma f | .mmac f =>
    match s.team? g.team with
    | none => []
    | some tm =>
      match s.ctx? tm.ctx, (g.acc[f.dst.toNat - 64]?).join with
      | some c, some d =>
        let slot (n : BitVec 3) : Slot := Slot.ofWord (c.lr.fslots.getD n.toNat 0)
        let k := match (tm.tiles[f.sb.toNat]?).join with | some b => b.rows | none => 0
        [(f.sc.toNat, (slot f.fs).blocks k * d.rows, c.lr.gw), ((bscReg f).toNat, (slot (bSlot f)).blocks k * d.cols, c.lr.gw)]
      | _, _ => []
  | _ => []
/-- The registers that hold them. -/
def State.scaleRegs (s : State) (g : Group) (i : Instr) : List Nat := (s.scaleUses g i).flatMap (fun u => scaleSpan u.1 u.2.1 u.2.2)
/-- The register lanes that hold them: scale b lies in lane b mod GW (R336). -/
def State.scaleLanes (s : State) (g : Group) (i : Instr) : List (Nat × Nat) :=
  (s.scaleUses g i).flatMap (fun u => if u.1 = 255 then [] else (List.range u.2.1).map (fun b => (u.1 + b / u.2.2, b % u.2.2)))

/-- Whether a register is a scale register of a batch of its group that has not committed. -/
def State.scaleLocked (s : State) (g n : Nat) : Bool :=
  match s.group? g with
  | none => false
  | some gr => gr.batches.any (fun b => b.code.any (fun i => (s.scaleRegs gr i).contains n))

/-- Whether a load is still to write mask register n. -/
def State.loadIntoMask (s : State) (g n : Nat) : Bool :=
  n != 0 && s.ops.mops.any (fun o => o.g == g && o.rmask == n)

/-- Last-use marks (R165, R166): the registers are dead, and what a load still brings to them is discarded. -/
def State.lastUse (s : State) (g : Nat) (regs : List Nat) : State :=
  if regs = [] then s
  else
    let s := s.modGroup g (fun gr => { gr with vregs := regs.foldl (fun v n => v.set n VReg.dead) gr.vregs })
    { s with ops := { s.ops with mops := s.ops.mops.map (fun o =>
        if o.g = g ∧ o.dst ≠ 255 then { o with drop := o.drop ++ regs.filter (fun n => (s.loadInto g n)) } else o) } }

/-- The registers with a last-use mark among sources read at these widths. -/
def lastUses (l : List (Src × Nat)) : List Nat := l.flatMap (fun p => if p.1.l then p.1.regs p.2 else [])

/-- A flag is set at its producer's completion (R162). -/
def Group.setFlag (g : Group) (f : Nat) : Group :=
  { g with flags := g.flags ||| BitVec.ofNat 12 (2 ^ f), pend := g.pend &&& ~~~BitVec.ofNat 12 (2 ^ f) }
/-- A flag is cleared and pending while its producer runs (R162). -/
def Group.startFlag (g : Group) (f : Nat) : Group :=
  { g with flags := g.flags &&& ~~~BitVec.ofNat 12 (2 ^ f), pend := g.pend ||| BitVec.ofNat 12 (2 ^ f),
           mflags := g.mflags &&& ~~~BitVec.ofNat 12 (2 ^ f) }

/-- Whether an operation of a clause still owes its loads, or its stores (R162). -/
def MOp.owesLoad (o : MOp) : Bool :=
  match o.kind with
  | .load | .atomic | .cas => true
  | _ => false
def MOp.owesStore (o : MOp) : Bool :=
  match o.kind with
  | .load | .scalarLoad => false
  | _ => true

/-- Whether a started clause still has instructions of a kind to issue; one with none of that kind counts until its last instruction has
issued (R162). The rest of a clause that has trapped is left to its handler (R172). -/
def Group.unissued (g : Group) (t : ClauseTrack) (kind : Instr → Bool) : Bool :=
  !t.issued && g.splits.any (fun sp => match sp.clause with
    | some c => c.id == t.id && (if c.code.any kind then sp.handler != some .lane && c.rest.any kind else true)
    | none => false)

/-- The clauses of a group whose loads, or whose stores, are complete set SET0, or SET1 (R162). -/
def State.settleClauses (s : State) (g : Nat) : State :=
  let mine := s.ops.mops.filter (fun o => o.g == g)
  let owe (id : Nat) (p : MOp → Bool) : Bool := mine.any (fun o => o.clause == some id && p o)
  s.modGroup g (fun gr =>
    gr.clauses.foldl (fun gr t =>
      let d0 := t.set0.isSome && !gr.unissued t isReturning && !owe t.id MOp.owesLoad
      let d1 := t.set1.isSome && !gr.unissued t isStoring && !owe t.id MOp.owesStore
      let gr := match t.set0 with | some f => if d0 then gr.setFlag f else gr | none => gr
      let gr := match t.set1 with | some f => if d1 then gr.setFlag f else gr | none => gr
      let t' := { t with set0 := if d0 then none else t.set0, set1 := if d1 then none else t.set1 }
      if t.issued && t'.set0.isNone && t'.set1.isNone then gr else { gr with clauses := gr.clauses ++ [t'] })
      { gr with clauses := [] })

/-- A clause that goes on after its trap: its flags that were set while its handler ran are pending again for what it still issues
(R162, R172, DEDUCED: log entry 123). -/
def Group.resumeFlags (g : Group) (c : ClauseRun) : Group :=
  let again (g : Group) (now : Option Nat) (set : BitVec 4) (kind : Instr → Bool) : Group × Option Nat :=
    if now.isNone ∧ set ≠ 15 ∧ c.rest.any kind = true ∧ g.pend.getLsbD set.toNat = false then (g.startFlag set.toNat, some set.toNat) else (g, now)
  g.clauses.foldl (fun g t =>
    if t.id = c.id then
      let a := again g t.set0 c.hdr.set0 isReturning
      let b := again a.1 t.set1 c.hdr.set1 isStoring
      { b.1 with clauses := b.1.clauses ++ [{ t with set0 := a.2, set1 := b.2 }] }
    else { g with clauses := g.clauses ++ [t] }) { g with clauses := [] }

/-- The lane instruction that a clause was at has issued: the clause goes on, or its last instruction has issued and the
entry leaves the RUN queue (R158, R162). -/
def State.laneDone (s : State) (r : SplitRef) : State :=
  match s.group? r.g with
  | none => s
  | some g =>
    let sp := g.split r.sp
    match sp.clause with
    | none => s
    | some c =>
      if c.done + 1 < c.code.length then
        let s := s.modGroup r.g (fun g => { g with splits := g.splits.set r.sp { sp with clause := some { c with done := c.done + 1 } } })
        if ((c.code[c.done]?).elim false (fun i => isReturning i || isStoring i)) then s.settleClauses r.g else s
      else
        (s.modGroup r.g (fun g => { g with
          splits := g.splits.set r.sp { sp with clause := none },
          clauses := g.clauses.map (fun t => if t.id = c.id then { t with issued := true } else t) })).settleClauses r.g

/-- A precise trap of the next lane instruction of a started clause (R171): TRAPINFO holds the reported lane, write and
atomic bits and LOP. The loads and stores that the clause has issued complete (R172). -/
def State.laneTrap (s : State) (r : SplitRef) (sp : Split) (c : ClauseRun) (code sub : Nat) (addr : W64) (info : Nat) : State :=
  (s.takeTrap r { code, sub, lane := true, pc := c.at_, addr, info := BitVec.ofNat 64 info, kind := .lane, spc := sp.pc }).settleClauses r.g

/-- What a lane instruction computes in one lane. -/
structure LaneOut where
  d  : Nat
  cc : BitVec 4 := 0
  fl : Flags := 0
deriving DecidableEq, Repr

/-- The environment of the lane instruction that the issuing split is at. -/
def State.env (s : State) (r : SplitRef) (g : Group) (sp : Split) (c : ClauseRun) : Option Env :=
  match s.team? g.team with
  | none => none
  | some tm => (s.ctx? tm.ctx).map (fun ctx => { r, g, sp, c, tm, ctx })

/-- LOP of a lane instruction. -/
def lopOf (i : Instr) : Nat := match encode i with | some (.lane w) => w.toNat / 2 ^ 88 | _ => 0
/-- LOP of the lane instruction that a clause is at, for TRAPINFO (R171). -/
def ClauseRun.lop (c : ClauseRun) : Nat := (c.code[c.done]?).elim 0 lopOf

/-- Whether a lane of these registers holds data marked poisoned by an uncorrectable error (R266): the lowest such lane of
the mask. -/
def State.spoiledLane (s : State) (g : Nat) (regs : List Nat) (lanes : List Nat) : Option Nat :=
  lanes.find? (fun l => regs.any (fun n => s.store.poison.contains (.vreg g n l)))

/-- A register that is written whole in some lanes loses their poison marks. -/
def Store.cleanseReg (m : Store) (g n : Nat) (mask : W64) : Store :=
  { m with poison := m.poison.filter (fun p => match p with
      | .vreg g' n' l => !(g' == g && n' == n && mask.getLsbD l)
      | _ => true) }

/-- What is the same for every lane instruction that makes no memory access, with sources read at the given widths: an
empty execution mask has its last-use marks alone and what `empty` does (R168); otherwise the instruction waits while a
load is still to write a destination (`busy`, R165), consumes no poisoned data (R266), reads its sources (POISON for the
dead and the unpublished, R166), applies its marks and has its effect. `unread` tells of a mask source that reads as
unpublished. -/
def State.laneEffect (s : State) (e : Env) (f : LaneWord) (srcs : List (Src × Nat)) (busy unread : Bool)
    (empty full : State → State) : State :=
  let lanes := e.lanes (e.mask f)
  let regs := srcs.flatMap (fun p => p.1.regs p.2)
  let munp := e.g.maskUnpub f.msk.toNat
  if lanes = [] then
    (empty ((s.modGroup e.r.g (fun g => { g with poison := g.poison || munp })).lastUse e.r.g (lastUses srcs))).laneDone e.r
  else if busy then s
  else
    match s.spoiledLane e.r.g regs lanes with
    | some l => s.laneTrap e.r e.sp e.c 13 0 0 (l + 256 * e.c.lop)
    | none =>
      let dead := regs.any (fun n => !(e.g.vreg n).readable)
      (full ((s.lastUse e.r.g (lastUses srcs)).modGroup e.r.g (fun g =>
        { g with poison := g.poison || dead || munp || unread }))).laneDone e.r

/-- The vector registers of a destination of dw bits. -/
def dstRegs (f : LaneWord) (dw : Nat) : List Nat :=
  if f.dst = 255 then [] else (List.range (dw / 32)).map (f.dst.toNat + ·)

/-- The results of a lane instruction written: the destination, the codes with CW, the flags into FXF (R367, R369). -/
def State.writeOuts (s : State) (e : Env) (f : LaneWord) (dw : Nat) (res : Nat → LaneOut) : State :=
  let m := e.mask f
  let outs := (List.range e.gw).map (fun l => if m.getLsbD l then res l else { d := 0 })
  let s := s.modGroup e.r.g (fun g =>
    let g := if f.dst = 255 then g else g.setVec e.gw m f.dst.toNat (fun l => (outs.getD l { d := 0 }).d) (dw / 32)
    { g with
      ccs := if f.cw then (List.range e.gw).map (fun l =>
        if m.getLsbD l then (outs.getD l { d := 0 }).cc else g.ccs.getD l 0) else g.ccs
      fxf := outs.foldl (fun a o => a ||| o.fl) g.fxf })
  { s with store := (dstRegs f dw).foldl (fun m' n => m'.cleanseReg e.r.g n m) s.store }

/-- Whether a write of one of these registers waits: for a load that is still to write it (R165), or for a batch whose scales
it holds (R412). -/
def State.regsBusy (s : State) (g : Nat) (regs : List Nat) : Bool := regs.any (fun n => s.loadInto g n || s.scaleLocked g n)
def State.dstBusy (s : State) (e : Env) (f : LaneWord) (dw : Nat) : Bool := s.regsBusy e.r.g (dstRegs f dw)

/-- A lane instruction that writes a vector register, condition codes and FXF from what it computes in each lane. -/
def State.laneWrite (s : State) (e : Env) (f : LaneWord) (srcs : List (Src × Nat)) (dw : Nat) (unread : Bool)
    (res : Nat → LaneOut) : State :=
  s.laneEffect e f srcs (s.dstBusy e f dw) unread (fun s => s) (fun s => s.writeOuts e f dw res)

/-- A lane instruction of the issuing split, with its environment. -/
def withEnv (s : State) (k : Env → State) : Res :=
  withClause s (fun r g sp c => match s.env r g sp c with | none => s | some e => k e)

/-- A lane instruction whose result depends on its sources alone, lane by lane. -/
def laneOp (s : State) (f : LaneWord) (srcs : List (Src × Nat)) (dw : Nat) (res : Env → Nat → LaneOut) : Res :=
  withEnv s (fun e => s.laneWrite e f srcs dw false (res e))

end Sys2Proof.Machine
end

