-- ==== Sys2Proof/Machine/Home.lean ====
section
/-!
DEFINITION. What a line's home does: lines that a copy owns (R233), leases and GWCT (R226, R227), RECALL (R232), atomics
(R400 to R402), shadows of a snapshot (R147), requests of peers (R240) and their fault records (R246).
-/

namespace Sys2Proof.Machine

/-! ### Leases -/

/-- GWCT of a write performed now (R227). -/
def State.gwctAt (s : State) (pa : Nat) : Nat := (s.leasesOn (pa / 128)).foldl (fun m l => max m l.e) s.now

/-- A lease granted to a peer (R226): E, recorded with the line. An earlier lease of the same holder that ends later stays. -/
def State.grant (s : State) (line : Nat) (holder : BitVec 7) (us : Nat) : State × Nat :=
  let e := s.now + 1000 * us
  ({ s with caches := { s.caches with leases :=
      { line, holder, e } :: s.caches.leases.filter (fun l => !(l.line == line && l.holder == holder && decide (l.e ≤ e))) } }, e)

/-- The homes' RECALL for a line on which leases stand, when the home is in FREE or DEGRADED (R232): the acknowledgement
`rsp` of write `id` waits for the holders. -/
def State.recall (s : State) (id : Nat) (dst : BitVec 7) (rsp : RemoteRsp) (line : Nat) : State :=
  let hs := dedup ((s.leasesOn line).map (·.holder))
  let e := 5 * rsp.part.toNat + rsp.sub.toNat
  let s := hs.foldl (fun s h => s.sendCtl h e (.recallLine { line := BitVec.ofNat 64 line, origin := s.origin e })) s
  { s with caches := { s.caches with held := s.caches.held ++
      [{ id, rsp, after := none, line, dst, waiting := hs, sentAt := s.now }] } }

/-! ### Atomics -/

/-- The new value of an atomic operation at its piece (R400). -/
def atomApply (op : Nat) (ty : BitVec 4) (old x : Nat) : Nat :=
  match op with
  | 6 => x
  | 7 => (redOp 0 ty 0 old x).1
  | 8 => (redOp 1 ty 0 old x).1
  | 9 => (redOp 2 ty 0 old x).1
  | _ => (redOp op ty 0 old x).1

/-- The bytes after an atomic or a CAS, of the same length. -/
def rmwBytes (kind : OpKind) (op : Nat) (ty : BitVec 4) (old data cmp : List Byte) : List Byte :=
  match kind with
  | .cas => if old = cmp then data else old
  | _ => bytesOf old.length (atomApply op ty (natOf old) (natOf data))

/-! ### Reads and writes at the home -/

/-- A read at the home: the MSC takes note of it. -/
def State.homeRead (s : State) (pent : Nat) (ctx : Option Nat) (ca : Nat) (stream : Bool) (pa n : Nat) : State × List Byte :=
  let pa := s.shadowed pa
  let d := s.store.bytes pa n
  (if s.cachedAt pa pent ca then s.touchLine pa pent ctx stream else s, d)

/-- Whether a read of local memory meets a dead frame (R199). -/
def State.deadAt (s : State) (pa : Nat) : Bool := !(s.store.frame (s.shadowed pa)).live

/-- A write at the home. -/
def State.homeWrite (s : State) (pent : Nat) (ctx : Option Nat) (ca : Nat) (stream : Bool) (pa : Nat) (data : List Byte) :
    Option State :=
  (s.forStore pa).map (fun p => p.1.memWrite pent ctx ca stream p.2 data)

/-! ### Requests of peers (R240) -/

/-- AKIND of R246. -/
def reqAkind : ReqKind → Nat
  | .load .. => 0
  | .store .. | .sector .. => 1
  | _ => 2
/-- The kind of access for R185. -/
def reqAcc : ReqKind → Acc
  | .load .. => .read
  | .store .. | .sector .. => .write
  | _ => .atomic
def reqBytes : ReqKind → Nat
  | .load n _ _ => n
  | .store d _ => d.length
  | .sector _ _ => 32
  | .atomic _ ty _ => tyWidth ty / 8
  | .cas n _ _ => n

/-- The inbound fault event of R246, at the function bound to a partition, or at PF0. -/
def State.inboundFault (s : State) (pent : Option Nat) (part sub : Byte) (reason : Byte) (src : BitVec 7) (akind : Nat)
    (rope : W32) (addr name : W64) : State :=
  s.event (match pent with | some e => s.fnOfPart e | none => 0) 6 part sub
    (bytesOf 8 s.now ++ [reason, src.zeroExtend 8, BitVec.ofNat 8 akind, 0] ++ bytesOf 4 rope.toNat ++ bytesOf 8 addr.toNat ++
      bytesOf 8 name.toNat ++ List.replicate 16 0)

/-- What becomes of a request at its target. -/
inductive Served where
  | answer (s : State) (r : RspResult)
  | late (s : State)                     -- performed; the acknowledgement is held (R231, R232)
  | hold (s : State) (page : W64)        -- waits for a page, or with page 0 for a line that a copy owns

/-- The partition that a request acts in: that of PART and SUB, or the one that the rope binding names. -/
def State.reqPart (s : State) (r : RemoteReq) : Option Nat :=
  match r.rope with
  | none => some (5 * r.part.toNat + r.sub.toNat)
  | some id => (s.ropes.binds.find? (fun b => b.id == id)).map (·.pent)

/-- The place and the caching of a request's first byte, or a fault's reason, or a page. -/
inductive Reach where
  | at_ (pa ca : Nat)
  | bad (reason : Byte)
  | page (p : W64) (follow : Bool)

def State.reach (s : State) (pent : Nat) (r : RemoteReq) : Reach :=
  match r.rope with
  | none =>
    let pa := r.addr.toNat
    if !isLocal s.part pa || !isLocal s.part (pa + (reqBytes r.kind) - 1) then .bad 1
    else if (s.store.frame pa).key ≠ r.key ∨ s.keyInRange pent r.key = false then .bad 3
    else .at_ pa 0
  | some _ =>
    match s.translate none pent none r.addr (reqAcc r.kind) with
    | .ok (.mem pa) ca _ => .at_ pa ca
    | .ok _ _ _ => .bad 1
    | .prot 0 => .bad 1
    | .prot _ => .bad 2
    | .key => .bad 3
    | .poison => .bad 9
    | .nonres p => .page p false
    | .follow p => .page p true

/-- QUEUE and INDEX of a page request for an inbound request (R197): the LAUNCH that started the rope context bound here. -/
def State.reqNames (s : State) (r : RemoteReq) : W16 × W32 :=
  match r.rope.bind (fun id => s.ropes.binds.find? (fun b => b.id == id)) with
  | none => (0xFFFF, 0xFFFFFFFF)
  | some b => match s.ctx? b.ctx with | some c => (BitVec.ofNat 16 c.queue, c.index) | none => (0xFFFF, 0xFFFFFFFF)

/-- A fault of a request, with its record (R246). -/
def State.refuseReq (s : State) (r : RemoteReq) (pent : Option Nat) (reason : Byte) : Served :=
  .answer (s.inboundFault pent (r.part.zeroExtend 8) (r.sub.zeroExtend 8) reason r.src (reqAkind r.kind) (r.rope.getD 0)
    (r.addr + BitVec.ofNat 64 r.skip) 0)
    (.fault reason)

/-- The response to a request, from this device. -/
def State.rspFor (s : State) (r : RemoteReq) (x : RspResult) : RemoteRsp :=
  { id := r.id, src := s.fabric.slot.getD 0, part := r.part, sub := r.sub, pgen := r.pgen, result := x, cls := r.cls }

/-- A write's acknowledgement: with its GWCT, which is 0 for a NOTIME request, or held (R227, R231, R232). -/
def State.ackWrite (s : State) (r : RemoteReq) (pa : Nat) (old : List Byte) : Served :=
  let line := pa / 128
  if !s.leasing && s.leasesOn line != [] then
    .late (s.recall r.id r.src (s.rspFor r (.ok old (if r.notime then 0 else BitVec.ofNat 64 s.now) none)) line)
  else if r.notime then
    let g := s.gwctAt pa
    .late { s with caches := { s.caches with held := s.caches.held ++
      [{ id := r.id, rsp := s.rspFor r (.ok old 0 none), after := some g, line, dst := r.src, waiting := [], sentAt := s.now }] } }
  else .answer s (.ok old (BitVec.ofNat 64 (s.gwctAt pa)) none)

/-- The runs of bytes that a sector's mask names: offset and length. -/
def maskRuns (mask : W32) : (n i : Nat) → List (Nat × Nat)
  | 0, _ => []
  | n + 1, i =>
    if mask.getLsbD i then
      match maskRuns mask n (i + 1) with
      | (j, k) :: r => if j = i + 1 then (i, k + 1) :: r else (i, 1) :: (j, k) :: r
      | [] => [(i, 1)]
    else maskRuns mask n (i + 1)

/-- What the stores of another device at an entry's memory add to its journal (R278). -/
def State.recordReq (s : State) (r : RemoteReq) (pent pa : Nat) (d : List Byte) : State :=
  if s.fabric.slot = some r.src then s else s.recordStore pent pa d
/-- Whether a request is a store of another device. -/
def State.storesIn (s : State) (r : RemoteReq) : Bool := (reqAcc r.kind).writes && s.fabric.slot != some r.src

/-- A read of a dead frame that serves a lane instruction or a copy chunk: counted once for it, however many requests it makes (R199). -/
def State.countReq (s : State) (pent : Nat) (r : RemoteReq) (pa : Nat) : State :=
  if !s.deadAt pa || r.op == (0, 0) || s.caches.deadOps.contains (r.src, r.op) then s
  else { s.countDead pent with caches := { s.caches with deadOps := (r.src, r.op) :: s.caches.deadOps } }

/-- A request performed at its place; a line of a page with CA 1 is the first victim of its set (R186). -/
def State.performReq (s : State) (pent : Nat) (r : RemoteReq) (pa ca : Nat) : Served :=
  match r.kind with
  | .load n _ _ =>
    let s := s.countReq pent r pa
    let (s, d) := s.homeRead pent none ca (ca == 1) pa n
    match r.lease with
    | some us =>
      if s.leasing && decide (ca < 2) then
        let (s, e) := s.grant (pa / 128) r.src us
        .answer s (.ok d 0 (some (BitVec.ofNat 64 e)))
      else .answer s (.ok d 0 none)
    | none => .answer s (.ok d 0 none)
  | .store d _ =>
    match s.homeWrite pent none ca (ca == 1) pa d with
    | none => .hold s 0
    | some s =>
      let s := if r.pois then { s with store := s.store.spoilRange (s.shadowed pa) d.length } else s
      (s.recordReq r pent pa d).ackWrite r pa []
  | .sector d mask =>
    let runs := (maskRuns mask 32 0).map (fun r => (pa + r.1, (d.drop r.1).take r.2))
    match runs.foldl (fun (a : Option State) r => a.bind (fun s => s.homeWrite pent none ca (ca == 1) r.1 r.2)) (some s) with
    | none => .hold s 0
    | some s =>
      let s := if r.pois then { s with store := s.store.spoil (.sector (s.shadowed pa)) } else s
      (runs.foldl (fun (s : State) x => s.recordReq r pent x.1 x.2) s).ackWrite r pa []
  | .atomic op ty x =>
    let n := tyWidth ty / 8
    let s := s.countReq pent r pa
    let old := s.store.bytes (s.shadowed pa) n
    match s.homeWrite pent none ca (ca == 1) pa (rmwBytes .atomic op ty old (bytesOf n x.toNat) []) with
    | none => .hold s 0
    | some s => (s.recordReq r pent pa (s.store.bytes (s.shadowed pa) n)).ackWrite r pa old
  | .cas n cmp new =>
    let s := s.countReq pent r pa
    let old := s.store.bytes (s.shadowed pa) n
    match s.homeWrite pent none ca (ca == 1) pa (rmwBytes .cas 0 0 old (bytesOf n new.toNat) (bytesOf n cmp.toNat)) with
    | none => .hold s 0
    | some s => (s.recordReq r pent pa (s.store.bytes (s.shadowed pa) n)).ackWrite r pa old

/-- A and D of the leaf through which a request of a rope window reaches its page (R187, R238). -/
def State.markReq (s : State) (pent : Nat) (r : RemoteReq) : State :=
  match r.rope with
  | none => s
  | some _ =>
    match s.translate none pent none r.addr (reqAcc r.kind) with
    | .ok _ _ (some e) => s.markLeaf e r.addr.toNat (reqAcc r.kind).writes
    | _ => s

/-- A remote request at its target: the checks of R240 in the order of its table, then its effect. -/
def State.serve (s : State) (r : RemoteReq) : Served :=
  match s.reqPart r with
  | none => s.refuseReq r none 6
  | some e =>
    if (s.partEnt e).state = 2 then .answer s .nack
    else if (s.partEnt e).state ≠ 1 then s.refuseReq r (some e) 12
    else
      match s.reach e r with
      | .bad reason => s.refuseReq r (some e) reason
      | .page p follow =>
        if follow then .hold (s.startFollow e p) p
        else
          let (q, i) := s.reqNames r
          .hold (s.pageRequest e p (reqAcc r.kind).writes false q i) p
      | .at_ pa ca =>
        let reads := match r.kind with | .store .. | .sector .. => false | _ => true
        let bad := reads && (r.pois || s.store.poisoned (s.shadowed pa) (reqBytes r.kind))
        if s.lost.getLsbD (8 + homeDie pa) || bad then s.refuseReq r (some e) 9
        else if s.owned pa || s.owned (pa + (reqBytes r.kind) - 1) || (s.storesIn r && s.storeHeld e pa) then .hold s 0
        -- a store into a region whose context replays is acknowledged and not delivered (R280, log entry 68)
        else if s.storesIn r && s.storeKept e pa then
          .answer s (.ok (if (match r.kind with | .atomic .. | .cas .. => true | _ => false) then s.store.bytes (s.shadowed pa) (reqBytes r.kind) else [])
            (BitVec.ofNat 64 s.now) none)
        else (s.markReq e r).performReq e r pa ca

end Sys2Proof.Machine
end

