-- ==== Sys2Proof/Machine/Access.lean ====
section
/-!
DEFINITION. Accesses of groups to memory and tiles: what an instruction's elements meet (R172, R179 to R199, R337), the
operation that issues (R213), its pieces and when they are performed (R214 to R219), L1 and leased copies (R225 to R229),
combined atomics (R242), what completes it (R162, R221), and the release and acquire conditions (R219, R220).
-/

namespace Sys2Proof.Machine

/-! ### Who accesses -/

structure AccEnv where
  g    : Nat
  sp   : Nat
  core : Nat × Nat
  cn   : Nat
  ctx  : Ctx
  tm   : Team

def State.accEnv (s : State) (g sp : Nat) : Option AccEnv :=
  match s.group? g with
  | none => none
  | some gr =>
    match s.team? gr.team with
    | none => none
    | some tm => (s.ctx? tm.ctx).map (fun c => { g, sp, core := (tm.die, tm.site), cn := tm.ctx, ctx := c, tm })

/-- The context has switched to a rope PREEMPT: its groups issue nothing that sends a fabric request (R110). -/
def AccEnv.switched (a : AccEnv) : Bool := match a.ctx.ser with | some z => z.rope | none => false

/-- A die's bit in a context's touched-dies mask (R143): CD0 to CD7, then BD0 to BD3. -/
def State.touch (s : State) (cn bit : Nat) : State :=
  s.modCtx cn (fun c => { c with touched := c.touched ||| BitVec.ofNat 12 (2 ^ bit) })

/-- A context exercises a capability of FEAT0 (R125). -/
def State.useFeat (s : State) (cn bit : Nat) : State :=
  s.modCtx cn (fun c => { c with featUsed := c.featUsed ||| BitVec.ofNat 64 (2 ^ bit) })
/-- The use of a frame by a context: its base die, and CAP for the capacity tier. -/
def State.touchPa (s : State) (cn pa : Nat) : State :=
  let s := s.touch cn (8 + homeDie pa)
  if inCap s.part pa then s.useFeat cn Config.featCap else s

/-! ### Remote faults (R243, R244) -/

def Group.loadFault (g : Group) (slot reason : Byte) : Group := { g with rfault := { g.rfault with ltarget := slot, lreason := reason } }
/-- A store-kind fault: the first one since the last report names slot, reason and VA; all are counted. -/
def Group.storeFault (g : Group) (slot reason : Byte) (va : W64) : Group :=
  let f := g.rfault
  let f := if f.pend then f else { f with pend := true, starget := slot, sreason := reason, va }
  { g with rfault := { f with count := if f.count = 0xFFFF then f.count else f.count + 1 } }

def OpKind.stores : OpKind → Bool
  | .load | .scalarLoad => false
  | _ => true
def OpKind.loads : OpKind → Bool
  | .load | .scalarLoad | .atomic | .cas => true
  | _ => false
def OpKind.acc : OpKind → Acc
  | .load | .scalarLoad => .read
  | .store | .scalarStore | .bput => .write
  | _ => .atomic

/-- The fault of a piece of an operation, at its group: `va` is that of the access. -/
def State.opFault (s : State) (o : MOp) (va : W64) (slot reason : Byte) : State :=
  s.modGroup o.g (fun g =>
    let g := if o.kind.loads then g.loadFault slot reason else g
    if o.kind.stores then g.storeFault slot reason va else g)

/-! ### What elements meet -/

/-- An element that a lane accesses: n bytes at va, and what it stores. -/
structure Want where
  lane : Nat
  va   : W64
  n    : Nat
  data : List Byte := []
  cmp  : List Byte := []
deriving DecidableEq, Repr

/-- The pieces of n bytes at va: offset in the element and length (R213). -/
def piecesOf (va : W64) (n : Nat) : List (Nat × Nat) :=
  let k := 32 - va.toNat % 32
  if n ≤ k then [(0, n)] else [(0, k), (k, n - k)]

/-- What one piece meets. -/
inductive Spot where
  | ok (p : Place) (ca : Nat) (e : Option TlbEntry)
  | fault (code sub : Nat)
  | absent (page : W64)
  | follow (page : W64)
  | gone (slot reason : Byte)                -- the fetch of its following page failed
  | lost (bd : Nat)                          -- its frame lies on a lost base die (R144)
deriving DecidableEq, Repr

/-- One piece looked up: translation, permission and key (R179 to R188), poison for a read (R266). `hostOk` is false for an
atomic that has no AtomicOp (R198). -/
def State.spot (s : State) (a : AccEnv) (fails : List (W64 × Byte × Byte)) (acc : Acc) (hostOk : Bool) (va : W64) (n : Nat) : Spot :=
  match s.translate (some a.core) a.ctx.pent (s.ropeWin a.ctx) va acc with
  | .prot sub => .fault 5 sub
  | .key => .fault 6 0
  | .poison => .fault 13 0
  | .nonres p =>
    match fails.find? (fun f => f.1 == p) with
    | some f => .gone f.2.2 f.2.1
    | none => .absent p
  | .follow p => .follow p
  | .ok (.mem pa) ca e =>
    if s.lost.getLsbD (8 + homeDie pa) then .lost (homeDie pa)
    else if acc != .write && s.store.poisoned (s.shadowed pa) n then .fault 13 0
    else .ok (.mem pa) ca e
  | .ok (.host h) ca e => if acc == .atomic && !hostOk then .fault 5 2 else .ok (.host h) ca e
  | .ok p ca e => .ok p ca e

/-- What an instruction's elements meet, all together. -/
structure Met where
  faults : List (Nat × Nat × Nat × W64)      -- code, lane, sub-code, VA
  absent : List W64
  follow : List W64
  lost   : Option Nat
  missed : List Nat                          -- lanes that touch a non-resident page
  pieces : List Piece
  gone   : List (W64 × Byte × Byte)          -- VA, slot, reason
  tlb    : List (TlbEntry × W64)
deriving DecidableEq, Repr

def Met.none_ : Met :=
  { faults := [], absent := [], follow := [], lost := none, missed := [], pieces := [], gone := [], tlb := [] }

def mkPiece (w : Want) (sub n : Nat) (p : Place) (ca : Nat) : Piece :=
  { lane := w.lane, va := w.va + BitVec.ofNat 64 sub, place := p, ca, n, sub, data := (w.data.drop sub).take n,
    cmp := (w.cmp.drop sub).take n, done := false, got := [], miss := false, lanes := [(w.lane, (w.data.drop sub).take n)] }

/-- A piece added to what is met so far. A misaligned access to a device page is a MISALIGN even with MIS (R186). -/
def Met.add (m : Met) (w : Want) (off : Bool) (sub n : Nat) (x : Spot) : Met :=
  let va := w.va + BitVec.ofNat 64 sub
  match x with
  | .fault c b => { m with faults := m.faults ++ [(c, w.lane, b, w.va)] }
  | .absent p => { m with absent := if m.absent.contains p then m.absent else m.absent ++ [p],
                          missed := if m.missed.contains w.lane then m.missed else m.missed ++ [w.lane] }
  | .follow p => { m with follow := if m.follow.contains p then m.follow else m.follow ++ [p] }
  | .lost d => { m with lost := some d }
  | .gone sl r => { m with pieces := m.pieces ++ [{ mkPiece w sub n (.mem 0) 2 with done := true, miss := true }],
                           gone := m.gone ++ [(va, sl, r)] }
  | .ok p ca e =>
    if off && ca = 3 then { m with faults := m.faults ++ [(4, w.lane, 0, w.va)] }
    else { m with pieces := m.pieces ++ [mkPiece w sub n p ca],
                  tlb := match e with | some t => m.tlb ++ [(t, va)] | none => m.tlb }

/-- One element: MISALIGN without MIS, else its pieces (R213, R337). -/
def State.meetOne (s : State) (a : AccEnv) (fails : List (W64 × Byte × Byte)) (acc : Acc) (hostOk mis : Bool) (m : Met) (w : Want) : Met :=
  let off := decide (w.va.toNat % w.n ≠ 0)
  if off && !mis then { m with faults := m.faults ++ [(4, w.lane, 0, w.va)] }
  else (piecesOf w.va w.n).foldl (fun m p =>
    m.add w off p.1 p.2 (s.spot a fails acc hostOk (w.va + BitVec.ofNat 64 p.1) p.2)) m

def State.meet (s : State) (a : AccEnv) (fails : List (W64 × Byte × Byte)) (acc : Acc) (hostOk mis : Bool) (ws : List Want) : Met :=
  ws.foldl (s.meetOne a fails acc hostOk mis) Met.none_

/-- The fault that an instruction reports (R172): the first cause in the order of the codes, for the lowest lane. -/
def Met.first (m : Met) : Option (Nat × Nat × Nat × W64) := leastBy (fun f => 64 * f.1 + f.2.1) m.faults

/-! ### Waiting for pages (R141, R196) -/

/-- A split waits for page service (R196): it is recorded with STATUS 10, and `kind` says what is executed again (R131). What its scalar
stream was blocked in is executed again too: a WAIT for the same phase. A SYNC, JOIN or EXIT waits for the split's clauses first, so that
none is blocked while a clause of it runs. -/
def Split.service (sp : Split) (kind : Nat) (pages : List W64) : Split :=
  let scalar := kind == 1 || kind == 2
  { sp with
    status := .page, wbar := kind, wval := pages.headD 0, svc := true
    arrived := sp.arrived || sp.status == .tbar || sp.status == .cbar
    waitPg := if scalar then sp.waitPg else pages
    waitSc := if scalar then pages else if sp.status = .page then [] else sp.waitSc }

/-- The group is descheduled for page service, with a page request for each page (R196). -/
def State.deschedule (s : State) (a : AccEnv) (pages : List W64) (write : Bool) (kind : Nat) : State :=
  let s := pages.foldl (fun s p => s.pageRequest a.ctx.pent p write false (BitVec.ofNat 16 a.ctx.queue) a.ctx.index) s
  (s.unwait ⟨a.g, a.sp⟩).modGroup a.g (fun g => { g with desched := true, splits := modAt g.splits a.sp (·.service kind pages) })

/-- The split's scalar stream, or its clause, waits for following pages to be fetched (R141). -/
def State.awaitFollow (s : State) (a : AccEnv) (pages : List W64) (scalar : Bool) : State :=
  let s := pages.foldl (fun s p => s.startFollow a.ctx.pent p) s
  s.modGroup a.g (fun g => { g with splits := modAt g.splits a.sp (fun sp =>
    if scalar then { sp with waitSc := pages } else { sp with waitPg := pages }) })

/-- A context that needs a lost die ends (R144). -/
def State.endLostDie (s : State) (cn bit : Nat) : State := s.endCtx cn { FaultRec.none_ with code := 0x000B, die := BitVec.ofNat 8 bit }
/-- The same for the base die that an access needs. -/
def State.endLost (s : State) (cn base : Nat) : State := s.endLostDie cn (8 + base)

/-! ### Program traffic and budgets (R79, R81) -/

/-- An access that reaches HBM is charged to whom it belongs. -/
def State.charge (s : State) (e : Nat) (p : Payer) (pa n : Nat) : State :=
  if inFast s.part pa && !s.store.lines.any (fun l => l.line == pa / 128) then s.pay e p (fun x => { x with hbmb := x.hbmb + n })
  else s

/-! ### L1 and leased copies (R225, R226) -/

/-- The address by which caches know a place: the PA, and for a peer above it the KEYID, since the tag is checked at the peer alone
(R188): a copy fetched under one key serves no access under another. -/
def Place.pa? : Place → Option Nat
  | .mem pa => some pa
  | .peer slot off key => some (2 ^ 52 * key.toNat + 2 ^ 51 + slot.toNat * 2 ^ 44 + off)
  | _ => none

/-- A line of a core's L1 that may be used: not expired. -/
def State.l1Line (s : State) (core : Nat × Nat) (pa : Nat) : Option L1Line :=
  s.caches.l1.find? (fun l => l.die == core.1 && l.site == core.2 && l.line == pa / 128 && decide (s.now < l.expiry))

/-- Bytes of a list replaced from an offset on. -/
def overlay (old : List Byte) (off : Nat) (new : List Byte) : List Byte := old.take off ++ new ++ old.drop (off + new.length)

/-- A store updates the lines of its core's L1 that hold its sector (R225). -/
def State.l1Store (s : State) (core : Nat × Nat) (pa : Nat) (data : List Byte) : State :=
  { s with caches := { s.caches with l1 := s.caches.l1.map (fun l =>
      if l.die = core.1 ∧ l.site = core.2 ∧ l.line = pa / 128 then { l with data := overlay l.data (pa % 128) data } else l) } }
/-- A core's L1 line is discarded. -/
def State.l1Drop (s : State) (core : Nat × Nat) (pa : Nat) : State :=
  s.dropL1 (fun d i l => d == core.1 && i == core.2 && l == pa / 128)
/-- The stores that a core has issued to a line and that are not performed, oldest first: what they write is in its L1 already (R211). -/
def State.pendingStores (s : State) (core : Nat × Nat) (line : Nat) : List (Nat × List Byte) :=
  s.ops.mops.flatMap (fun o =>
    if (o.kind == .store || o.kind == .scalarStore) && s.coreOf o.g == core then
      o.pieces.filterMap (fun p => match p.place.pa? with
        | some pa => if !p.done && pa / 128 == line then some (pa % 128, p.data) else none
        | none => none)
    else [])
/-- A line filled, with its lease. What the core's own pending stores write to the line is in it (R218, R225). -/
def State.l1Fill (s : State) (core : Nat × Nat) (g : Nat) (pa : Nat) (data : List Byte) (since expiry : Nat) : State :=
  let s := s.l1Drop core pa
  let data := (s.pendingStores core (pa / 128)).foldl (fun d x => overlay d x.1 x.2) data
  { s with caches := { s.caches with l1 := { die := core.1, site := core.2, line := pa / 128, g, data, since, expiry } :: s.caches.l1 } }
/-- A line of local memory brought into L1, with its lease (R225); not while a copy owns it, and not with a poisoned sector. -/
def State.l1Local (s : State) (core : Nat × Nat) (e g pa : Nat) : State :=
  let line := pa / 128 * 128
  if s.owned line || s.store.poisoned (s.shadowed line) 128 then s
  else s.l1Fill core g line (s.store.bytes (s.shadowed line) 128) s.now (s.now + 1000 * (s.partEnt e).l1lease.toNat)

/-- An L1 miss of a group (R105): counted for its partition; one that hits in the core's victim tag array adds one to the score of the
group that its tag names. -/
def State.l1Miss (s : State) (core : Nat × Nat) (g line : Nat) : State :=
  let p := match s.group? g with | some gr => gr.part | none => 0
  let mine (x : Nat × Nat × Nat × Nat) : Bool := x.1 == core.1 && x.2.1 == core.2 && x.2.2.1 == p
  let n := ((s.exec.misses.find? mine).map (·.2.2.2)).getD 0
  let s := { s with exec := { s.exec with misses := (core.1, core.2, p, n + 1) :: s.exec.misses.filter (fun x => !mine x) } }
  match (s.exec.victims.find? (fun v => v.die == core.1 && v.site == core.2)).bind (fun v => v.tags.find? (fun t => t.1 == line)) with
  | some t => s.modGroup t.2 (fun g => { g with hits := g.hits + 1 })
  | none => s

/-- The device's copy of a peer line, while its own device time is below E − 2 µs (R226) and, after an SC fence at F, only
if its lease was granted at F or later (R229). -/
def State.peerCopy (s : State) (pa fsc : Nat) : Option PeerCopy :=
  s.caches.peers.find? (fun c => c.line == pa / 128 && decide (s.now + 2000 < c.e) && decide (fsc ≤ c.since) && s.leasing)
/-- The device's own store to a peer line invalidates its copy (R226); a copy that a load has asked for before is not kept either. -/
def State.dropPeer (s : State) (pa : Nat) : State :=
  let s := s.dropPeers (· == pa / 128)
  { s with ops := { s.ops with reqs := s.ops.reqs.map (fun r =>
      let line := 2 ^ 52 * r.req.key.toNat + 2 ^ 51 + r.req.dst.toNat * 2 ^ 44 + r.req.addr.toNat
      if r.req.rope.isNone ∧ line / 128 = pa / 128 then { r with req := { r.req with lease := none } } else r) } }
/-- The same for the place of a store. -/
def State.dropAt (s : State) (p : Place) : State := match p.pa? with | some pa => s.dropPeer pa | none => s

/-! ### Operations -/

def State.op? (s : State) (id : Nat) : Option MOp := s.ops.mops.find? (fun o => o.id == id)
def State.modOp (s : State) (id : Nat) (f : MOp → MOp) : State :=
  { s with ops := { s.ops with mops := s.ops.mops.map (fun o => if o.id = id then f o else o) } }
def State.modPiece (s : State) (id i : Nat) (f : Piece → Piece) : State := s.modOp id (fun o => { o with pieces := modAt o.pieces i f })
def State.dropOp (s : State) (id : Nat) : State := { s with ops := { s.ops with mops := s.ops.mops.filter (fun o => o.id != id) } }

def Place.remote : Place → Bool
  | .peer .. | .rope .. => true
  | _ => false
/-- The slot of a remote place. -/
def Place.slot : Place → BitVec 7
  | .peer s _ _ => s
  | .rope _ s _ => s
  | _ => 0

def Piece.isTile (p : Piece) : Bool := match p.place with | .tile .. => true | _ => false

/-- Whether a slot is this device, whose accesses to itself are served inside (R26). -/
def State.isSelf (s : State) (slot : BitVec 7) (rope : Bool) : Bool := s.fabric.slot == some slot || (s.fabric.slot.isNone && rope)
/-- Whether a place is reached through a peer address or a rope window that names this device. -/
def State.selfPlace (s : State) (p : Place) : Bool :=
  p.remote && s.isSelf p.slot (match p with | .rope .. => true | _ => false)

/-- The byte at which a place begins: its space, and where in it. -/
def Place.first : Place → Nat × Nat
  | .mem pa => (0, pa)
  | .host a => (1, a)
  | .peer s off _ => (2 + s.toNat, off)
  | .rope r _ off => (130 + r, off)
  | .tile t h off => (300 + 64 * t + h, off)

/-- The sector in which a place begins (R213). -/
def Place.key (p : Place) : Nat × Nat := (p.first.1, p.first.2 / 32)

/-- The local PA of a place of this device: one reached through its own slot or its own rank too (R26, R238). -/
def State.localPa (s : State) (e : Nat) (p : Place) : Option Nat :=
  match p with
  | .mem pa => some pa
  | .peer _ off _ => if s.selfPlace p then some off else none
  | .rope _ _ off =>
    if s.selfPlace p then
      match s.look none e off false with
      | .hit t => if lfTier t.leaf < 2 then some (t.pa off) else none
      | _ => none
    else none
  | _ => none
/-- Where the bytes of a place begin, by space: the same for every way in which this device reaches its own memory. -/
def State.locate (s : State) (e : Nat) (p : Place) : Nat × Nat :=
  match s.localPa e p with
  | some pa => (0, pa)
  | none => p.first

/-- Whether two runs of bytes overlap, and whether they touch one sector (R213). -/
def overlaps (a : Nat × Nat) (n : Nat) (b : Nat × Nat) (m : Nat) : Bool := a.1 == b.1 && decide (a.2 < b.2 + m ∧ b.2 < a.2 + n)
def sameSector (a b : Nat × Nat) : Bool := a.1 == b.1 && a.2 / 32 == b.2 / 32

/-- GWCT of an acknowledgement kept by the group (R227). -/
def Group.passGwct (g : Group) (t : Nat) : Group := { g with gwct := max g.gwct t }

/-! ### Requests to peers (R241) -/

/-- The message that a remote piece sends: for a load the line, where a lease may be taken (R226), or its sector; on a device
page, and for a store, its own bytes. -/
def State.reqKind (s : State) (a : AccEnv) (o : MOp) (p : Piece) : ReqKind × Nat × Option Nat :=
  let off := match p.place with | .peer _ off _ => off | .rope _ _ off => off | _ => 0
  let peer := match p.place with | .peer .. => true | _ => false
  match o.kind with
  | .load | .scalarLoad =>
    if peer && decide (p.ca < 2) && s.leasing && !s.selfPlace p.place then
      (.load 128 (o.ord != 0) false, off / 128 * 128, some (s.partEnt a.ctx.pent).lease.toNat)
    else if p.ca = 3 then (.load p.n (o.ord != 0) false, off, none)
    else (.load 32 (o.ord != 0) false, off / 32 * 32, none)
  | .cas => (.cas p.n (wordOf 64 p.cmp) (wordOf 64 p.data), off, none)
  | .atomic | .atomicN => (.atomic o.aop o.ty (wordOf 64 p.data), off, none)
  | _ => (.store p.data true, off, none)

def State.mkReq (s : State) (a : AccEnv) (o : MOp) (id : Nat) (p : Piece) : RemoteReq :=
  let (kind, off, lease) := s.reqKind a o p
  { id, src := s.fabric.slot.getD 0, dst := p.place.slot, part := partBits a.ctx.pent, sub := subBits a.ctx.pent,
    pgen := (s.partEnt a.ctx.pent).gen, rope := (match p.place with | .rope .. => some a.ctx.ropeId | _ => none),
    addr := BitVec.ofNat 64 off, skip := (match p.place with | .peer _ o _ => o | .rope _ _ o => o | _ => off) - off,
    key := (match p.place with | .peer _ _ k => k | _ => 0), lease,
    notime := o.kind.stores && !s.leasing, kind, op := (o.id, 0) }

/-- The offset of a remote place in its target. -/
def Place.off : Place → Nat
  | .peer _ off _ => off
  | .rope _ _ off => off
  | _ => 0

/-- What a response's data gives a piece. -/
def partOfRsp (r : RemoteReq) (p : Piece) (d : List Byte) : List Byte :=
  match r.kind with
  | .load .. => (d.drop (p.place.off - r.addr.toNat)).take p.n
  | _ => d.take p.n

/-- The pieces that one event on a sector serves: of a load, every piece on that sector, so that lanes which read the same
byte read the same value (R194, R399); elsewhere, and on a device page, the piece alone. -/
def MOp.mates (o : MOp) (i : Nat) (p : Piece) : List Nat :=
  if (o.kind == .load || o.kind == .scalarLoad) && p.ca != 3 then
    (withIndex o.pieces).filterMap (fun jq => if !jq.2.done && sameSector jq.2.place.first p.place.first then some jq.1 else none)
  else [i]

/-- A context uses the MSC line of a base die that holds a peer line (R143). -/
def State.touchMsc (s : State) (cn line : Nat) : State :=
  match s.store.lines.find? (fun l => l.line == line) with
  | some l => s.touch cn (8 + l.bd)
  | none => s
/-- A response to a piece of an operation: the bytes, a copy under a lease and an L1 line, GWCT; or a remote fault. -/
def State.applyRsp (s : State) (a : AccEnv) (o : MOp) (i : Nat) (p : Piece) (r : RemoteReq) (x : RspResult) : State :=
  let mates := ((s.op? o.id).getD o).mates i p
  let miss (s : State) (reason : Byte) : State :=
    (mates.foldl (fun s j => s.modPiece o.id j (fun p => { p with done := true, miss := true })) s).opFault o (p.va - BitVec.ofNat 64 p.sub)
      (p.place.slot.zeroExtend 8) reason
  match x with
  | .ok d gwct lease =>
    let s := mates.foldl (fun s j => s.modPiece o.id j (fun p => { p with done := true, got := partOfRsp r p d })) s
    let s := if o.kind.stores then s.modGroup o.g (·.passGwct gwct.toNat) else s
    match lease, p.place.pa?, r.lease with
    | some e, some pa, some us =>
      if !s.leasing then s
      else
        -- the copy lies in the MSC below the core, if the partition has a way there (R210, log entry 114)
        let s := (s.dropPeers (· == pa / 128)).allocLine (pa / 128) (baseBelow a.core.1) a.ctx.pent (some a.cn) (p.ca == 1)
        let s := if !s.store.lines.any (fun l => l.line == pa / 128) then s
          else { s with caches := { s.caches with peers :=
            { line := pa / 128, data := d, e := e.toNat, since := e.toNat - 1000 * us } :: s.caches.peers } }
        let s := s.touchMsc a.cn (pa / 128)
        if p.ca = 0 ∧ o.ord = 0 then
          s.l1Fill a.core o.g pa d (e.toNat - 1000 * us) (min (s.now + 1000 * (s.partEnt a.ctx.pent).l1lease.toNat) (e.toNat - 2000))
        else s
    | _, _, _ => s
  | .fault reason => miss s reason
  | .nack => miss s (if o.kind == .bput then 13 else 12)

/-- A remote piece is asked of its home: served at once when the target is this device (R26), failed with LINKDOWN when the link is
down (R241), else listed for the message to its target. -/
def State.sendPiece (s : State) (a : AccEnv) (o : MOp) (i : Nat) (p : Piece) : State × List RemoteReq :=
  let id := s.ops.nextId
  let r := s.mkReq a o id p
  let s := { s with ops := { s.ops with nextId := id + 1 } }
  let rec_ : Request := { id, op := o.id, piece := i, copy := false, req := r, pent := a.ctx.pent, sentAt := s.now, cn := some a.cn, stale := false }
  let listed : State := { s with ops := { s.ops with reqs := s.ops.reqs ++ [rec_] } }
  if s.isSelf r.dst r.rope.isSome then
    match s.serve r with
    | .answer s x => (s.applyRsp a o i p r x, [])
    | .late s => ({ s with ops := { s.ops with reqs := s.ops.reqs ++ [rec_] } }, [])
    | .hold s page => ({ s with ops := { s.ops with
        reqs := s.ops.reqs ++ [rec_]
        inbound := s.ops.inbound ++ [{ req := r, at_ := s.now, pent := (s.reqPart r).getD 0, page }] } }, [])
  else if s.linkUp r.dst then (listed.useFeat a.cn Config.featFab, [r])
  else (s.applyRsp a o i p r (.fault 11), [])

/-- Requests to one target in messages of at most 4 KiB (R241). -/
def messages : List RemoteReq → List (List RemoteReq)
  | [] => []
  | r :: rest =>
    match messages rest with
    | m :: ms => if msgBytes (.request r) + (m.map (fun x => msgBytes (.request x))).sum ≤ 4096 then (r :: m) :: ms else [r] :: m :: ms
    | [] => [[r]]
/-- The requests of an instruction or a chunk are sent, grouped by target; those with poisoned data apart, since POIS stands in a
message's flits (R29). -/
def State.sendRequests (s : State) (payer : Payer) (cls : BitVec 2) (e : Nat) (rs : List RemoteReq) : State :=
  (dedup (rs.map (fun r => (r.dst, r.pois)))).foldl (fun (s : State) d =>
    (messages (rs.filter (fun r => r.dst == d.1 && r.pois == d.2))).foldl (fun (s : State) m =>
      s.sendAs payer d.1 0x01 cls (s.origin e) d.2 (match m with | [r] => .request r | _ => .requests m)) s) s

/-- Pieces of a load take their bytes from a line that is at hand. -/
def State.readLine (s : State) (id : Nat) (is : List Nat) (line : List Byte) : State :=
  is.foldl (fun s i => s.modPiece id i (fun p => { p with
    done := true, got := (line.drop ((match p.place with | .mem pa => pa | x => x.off) % 128)).take p.n })) s

/-- Whether a remote piece's request is outstanding. -/
def State.asked (s : State) (o i : Nat) : Bool := s.ops.reqs.any (fun r => r.op == o && r.piece == i && !r.copy)

/-- A relaxed load, or an acquire load at grp or team scope, may be served by L1 (R223), on a page that L1 may hold (R186). -/
def MOp.mayL1 (o : MOp) (p : Piece) : Bool := (o.ord == 0 || decide (o.scope < 2)) && decide (p.ca < 2)
/-- The trap record of an access that read a poisoned value, at its instruction (R171, R266): the context ends. -/
def State.readPoison (s : State) (o : MOp) (p : Piece) : State :=
  let atomic := match o.kind with | .atomic | .atomicN | .cas => true | _ => false
  s.takeTrap { g := o.g, sp := o.sp } {
    code := 13, lane := o.clause.isSome, pc := o.pc, addr := p.va - BitVec.ofNat 64 p.sub, spc := 0
    info := BitVec.ofNat 64 (if o.clause.isNone then o.code
      else p.lane + (if o.kind.stores then 64 else 0) + (if atomic then 128 else 0) + 256 * o.code) }

/-- What a piece of a remote load finds on this device: a relaxed or acquire load may use the MSC's copy, and a relaxed one a line of
its core's L1, on a page that is cached (R186), granted at its last SC fence or later (R229). -/
inductive Nearby where
  | none | poisoned
  | l1 (data : List Byte)
  | msc (c : PeerCopy)
def State.nearby (s : State) (a : AccEnv) (o : MOp) (p : Piece) : Nearby :=
  match (if o.kind.stores || decide (2 ≤ p.ca) || s.selfPlace p.place then Option.none else p.place.pa?) with
  | Option.none => .none
  | some pa =>
    let fsc := match s.group? o.g with | some g => (g.split o.sp).fsc | Option.none => 0
    match (if o.ord = 0 then (s.l1Line a.core pa).filter (fun l => decide (fsc ≤ l.since)) else Option.none), s.peerCopy pa fsc with
    | some l, _ => if s.store.marked (.l1 a.core.1 a.core.2 l.line) then .poisoned else .l1 l.data
    | Option.none, some c =>
      if (List.range 4).any (fun k => s.store.marked (.msc c.line k) && decide (pa % 128 < 32 * k + 32 ∧ 32 * k < pa % 128 + p.n)) then .poisoned
      else .msc c
    | Option.none, Option.none => .none

/-! ### Performing pieces -/

/-- Whether an operation is a split's own, or was issued by a split from which it descends before it was formed (R217). -/
def MOp.ofSplit (o : MOp) (g sp : Nat) : Bool := o.g == g && ((o.sp == sp && !o.past) || o.heirs.contains sp)

/-- Whether an operation precedes another in its split's program order (R217): the scalar accesses before a RUN and the earlier clauses,
for an access of a clause; the earlier scalar accesses, and the accesses of clauses that a WAITF or a FENCE lies behind, for a scalar one. -/
def MOp.precedes (q o : MOp) : Bool :=
  decide (q.id < o.id) && q.ofSplit o.g o.sp &&
    (match q.clause, o.clause with
     | none, some _ => decide (q.id < o.since)
     | some _, none => q.fenced.contains o.sp
     | _, _ => true)

/-- The partition of a group's context. -/
def State.pentOf (s : State) (g : Nat) : Nat := match s.ctxOf? g with | some (_, c) => c.pent | none => 0

/-- A store whose bytes some agent may have seen in part: it is no longer whole at grp scope (R214). -/
def MOp.torn (o : MOp) : Bool := o.kind == .store && decide (o.scope < 2) && o.pieces.any (·.done)

/-- The stores, not performed at their home, whose bytes a load must see at a run of bytes: the split's own earlier ones (R218), and those
of its core that are performed at grp scope for every split of it (R211). -/
def State.mustSee (s : State) (o : MOp) (at_ : Nat × Nat) (n : Nat) : List (MOp × Nat × Piece) :=
  let core := s.coreOf o.g
  s.ops.mops.flatMap (fun q =>
    if q.kind.stores && q.id != o.id then
      (withIndex q.pieces).filterMap (fun jq =>
        if !jq.2.done && overlaps (s.locate (s.pentOf q.g) jq.2.place) jq.2.n at_ n &&
            (q.precedes o || ((jq.2.seen || q.torn) && !jq.2.isTile && s.coreOf q.g == core)) then some (q, jq.1, jq.2) else none)
    else [])

/-- The bytes that a load takes from a store of its core which is not performed at its home: from the latest one that it must see, if
that one writes all of them and L1 may serve the load (R211, R223). -/
def State.forward (s : State) (o : MOp) (p : Piece) : Option (List Byte) :=
  if o.mayL1 p && !p.isTile then
    let at_ := s.locate (s.pentOf o.g) p.place
    match (s.mustSee o at_ p.n).getLast? with
    | some (q, _, w) =>
      let b := s.locate (s.pentOf q.g) w.place
      if (q.kind == .store || q.kind == .scalarStore) && decide (b.2 ≤ at_.2 ∧ at_.2 + p.n ≤ b.2 + w.n) then some ((w.data.drop (at_.2 - b.2)).take p.n) else none
    | none => none
  else none

/-- The line of its core's L1 that serves a piece of a load of local memory. -/
def State.l1Serves (s : State) (o : MOp) (p : Piece) : Option L1Line :=
  match p.place with
  | .mem pa => if !o.kind.stores && o.mayL1 p then s.l1Line (s.coreOf o.g) pa else none
  | _ => none

/-- The pieces that must be performed before piece i of an operation. In the operation itself: everything before, on a device page (R186),
and atomics of lower lanes on the same bytes (R401). Of others: what precedes it in program order and overlaps it, and for a write each
such write to its sector (R218); and a store of its core that its group may have seen. A load that L1 serves finds the stores there, and
one that takes its bytes from a store of its core does not wait for it. -/
def State.before (s : State) (o : MOp) (i : Nat) (p : Piece) : List (Nat × Nat) :=
  let core := s.coreOf o.g
  let e := s.pentOf o.g
  let served := (s.l1Serves o p).isSome
  -- the runs of bytes that the event touches, each with whether it looks past stores that it must see
  let runs := (o.mates i p).filterMap (fun j => (o.pieces[j]?).map (fun m =>
    (s.locate e m.place, m.n, served || (!o.kind.stores && (s.forward o m).isSome))))
  s.ops.mops.flatMap (fun q =>
    (withIndex q.pieces).filterMap (fun jq =>
      let w := jq.2
      let at_ := s.locate (s.pentOf q.g) w.place
      let plain := q.kind == .store || q.kind == .scalarStore
      let first :=
        if w.done then false
        else if q.id = o.id then
          decide (jq.1 < i) && (p.ca == 3 ||
            (overlaps at_ w.n (s.locate e p.place) p.n && (o.kind == .atomic || o.kind == .atomicN || o.kind == .cas)))
        else runs.any (fun r =>
          (q.precedes o && (overlaps at_ w.n r.1 r.2.1 || (o.kind.stores && q.kind.stores && sameSector at_ r.1)) && !(plain && r.2.2)) ||
          (q.kind.stores && !w.isTile && (w.seen || q.torn) && s.coreOf q.g == core && overlaps at_ w.n r.1 r.2.1 && !r.2.2))
      if first then some (q.id, jq.1) else none))

/-- Store pieces of operations that satisfy `f`, not performed at their home, are performed at grp scope for their core (R211). -/
def State.markSeen (s : State) (f : MOp → Piece → Bool) : State :=
  { s with ops := { s.ops with mops := s.ops.mops.map (fun o =>
      if o.kind.stores then { o with pieces := o.pieces.map (fun p => if !p.done && f o p then { p with seen := true } else p) } else o) } }
/-- A release of a group: its stores are performed at grp scope, for every agent of its team (R220). -/
def State.performedAtGrp (s : State) (g : Nat) : State := s.markSeen (fun o _ => o.g == g)
/-- A load has found a core's stores in L1: no split of the core reads an older value after it (R218). -/
def State.readThrough (s : State) (o : MOp) (is : List Nat) : State :=
  let core := s.coreOf o.g
  let e := s.pentOf o.g
  let runs := is.filterMap (fun i => (o.pieces[i]?).map (fun p => (s.locate e p.place, p.n)))
  s.markSeen (fun q w => s.coreOf q.g == core && runs.any (fun r => overlaps (s.locate (s.pentOf q.g) w.place) w.n r.1 r.2))

/-- A load of a peer line that the MSC holds under a lease: a miss of L1, which it fills for as long as both leases allow (R105, R225). -/
def State.mscHit (s : State) (a : AccEnv) (o : MOp) (p : Piece) (c : PeerCopy) : State :=
  let s := s.touchMsc a.cn c.line
  let s := if o.mayL1 p then s.l1Miss a.core o.g c.line else s
  if p.ca = 0 ∧ o.ord = 0 then
    s.l1Fill a.core o.g (128 * c.line) c.data c.since (min (s.now + 1000 * (s.partEnt a.ctx.pent).l1lease.toNat) (c.e - 2000))
  else s

/-- The remote pieces of an operation that may be sent: those before which nothing is to be performed (R186, R218). -/
def State.sendPieces (s : State) (a : AccEnv) (id : Nat) : State :=
  match s.op? id with
  | none => s
  | some o =>
    let x := (withIndex o.pieces).foldl (fun (x : State × List RemoteReq) ip =>
      let s := x.1
      match s.op? id with
      | none => x
      | some o =>
        match o.pieces[ip.1]? with
        | none => x
        | some p =>
          if p.place.remote && !p.done && !(o.mates ip.1 p).any (s.asked id) && s.before o ip.1 p == [] then
            match s.nearby a o p with
            | .poisoned => (s.readPoison o p, x.2)
            | .l1 d => ((s.readThrough o (o.mates ip.1 p)).readLine id (o.mates ip.1 p) d, x.2)
            | .msc c => ((s.mscHit a o p c).readLine id (o.mates ip.1 p) c.data, x.2)
            | .none =>
              let s := match p.place.pa? with
                | some pa => if !o.kind.stores && o.mayL1 p && !s.selfPlace p.place then s.l1Miss a.core o.g (pa / 128) else s
                | none => s
              let y := s.sendPiece a o ip.1 p
              (y.1, x.2 ++ y.2)
          else x) (s, [])
    x.1.sendRequests (.grid a.cn) 1 a.ctx.pent x.2

/-- A tile's element read and written. -/
def State.tile? (s : State) (t h : Nat) : Option Tile :=
  match s.team? t with
  | none => none
  | some tm => (tm.tiles[h]?).bind (·)
def State.modTile (s : State) (t h : Nat) (f : Tile → Tile) : State :=
  s.modTeam t (fun tm => { tm with tiles := modAt tm.tiles h (fun x => x.map f) })
def Tile.bytes (t : Tile) (off n : Nat) : List Byte := (List.range n).map (fun i => sget 0 t.data (off + i))
def Tile.put (t : Tile) (off : Nat) : List Byte → Tile
  | [] => t
  | b :: r => { t with data := sset 0 t.data off b }.put (off + 1) r

/-- A poisoned element of a tile (R266), or any element of a tile whose entry in the tile table is poisoned (log entry 116). -/
def State.tilePoison (s : State) (t h : Nat) (x : Tile) (off : Nat) : Bool :=
  s.store.marked (.tile t h (off / x.esize)) || s.store.marked (.tileEntry t h)

/-- A piece of local memory performed (R214, R215): a load from a usable L1 line, from a store of its core (R211), or at the home, which
fills L1; a store or an atomic at the home. None while a copy owns the line (R233), or no shadow can be taken (R147). -/
def State.doMem (s : State) (a : AccEnv) (o : MOp) (i : Nat) (p : Piece) (pa : Nat) : Option State :=
  let stream := p.ca == 1
  if o.kind.stores then
    let reads := match o.kind with | .atomic | .atomicN | .cas => true | _ => false
    if s.owned pa then none
    else if reads && s.store.poisoned (s.shadowed pa) p.n then some (s.readPoison o p)
    else
      let old := s.store.bytes (s.shadowed pa) p.n
      let new := match o.kind with
        | .atomic | .atomicN | .cas => rmwBytes o.kind o.aop o.ty old p.data p.cmp
        | _ => p.data
      let s := if reads && s.deadAt pa && !((s.op? o.id).getD o).dead then (s.countDead a.ctx.pent).modOp o.id (fun o => { o with dead := true }) else s
      let s := s.charge a.ctx.pent (.grid a.cn) pa p.n
      (s.homeWrite a.ctx.pent (some a.cn) p.ca stream pa new).map (fun s =>
        let line := pa / 128
        let s := if !s.leasing && s.leasesOn line != [] then
            s.recall o.id 0 { id := o.id, src := s.fabric.slot.getD 0, part := partBits a.ctx.pent, sub := subBits a.ctx.pent, pgen := 0, result := .nack } line
          else s
        let g := if s.leasing then s.gwctAt pa else s.now
        let s := match o.kind with
          | .atomic | .atomicN | .cas => s.l1Drop a.core pa
          | _ => s
        (s.modPiece o.id i (fun p => { p with done := true, got := old })).modGroup o.g (·.passGwct g))
  else
    let ms := o.mates i p
    let fw (j : Nat) : Option (List Byte) := (o.pieces[j]?).bind (s.forward o)
    match s.l1Serves o p with
    | some l =>
      some (if s.store.marked (.l1 a.core.1 a.core.2 l.line) then s.readPoison o p else (s.readThrough o ms).readLine o.id ms l.data)
    | none =>
      if ms.all (fun j => (fw j).isSome) then
        some (ms.foldl (fun s j => s.modPiece o.id j (fun q => { q with done := true, got := (fw j).getD [] })) (s.l1Miss a.core o.g (pa / 128)))
      else if s.owned pa then none
      else if s.store.poisoned (s.shadowed pa) p.n then some (s.readPoison o p)
      else
        let dead := s.deadAt pa
        let s := s.charge a.ctx.pent (.grid a.cn) pa p.n
        let s := if o.mayL1 p then s.l1Miss a.core o.g (pa / 128) else s
        let (s, d) := s.homeRead a.ctx.pent (some a.cn) p.ca stream (if p.ca = 3 then pa else pa / 32 * 32) (if p.ca = 3 then p.n else 32)
        let s := if dead && !((s.op? o.id).getD o).dead then (s.countDead a.ctx.pent).modOp o.id (fun o => { o with dead := true }) else s
        let s := ms.foldl (fun s j => s.modPiece o.id j (fun q => { q with
          done := true, got := (fw j).getD ((d.drop (match q.place with | .mem qa => if p.ca = 3 then 0 else qa % 32 | _ => 0)).take q.n) })) s
        some (if p.ca = 0 ∧ o.ord = 0 then s.l1Local a.core a.ctx.pent o.g pa else s)

/-- A piece of host memory performed (R198, R230). -/
def State.doHost (s : State) (o : MOp) (i : Nat) (p : Piece) (h : Nat) : State :=
  let old := s.store.hostBytes h p.n
  if o.kind.stores then
    let new := match o.kind with
      | .atomic | .atomicN | .cas => rmwBytes o.kind o.aop o.ty old p.data p.cmp
      | _ => p.data
    ({ s with store := s.store.hostPut h new }).modPiece o.id i (fun p => { p with done := true, got := old })
  else
    (o.mates i p).foldl (fun s j => s.modPiece o.id j (fun q => { q with
      done := true, got := (match q.place with | .host a => s.store.hostBytes a q.n | _ => []) })) s

/-- A tile element accessed (R216, R406). -/
def State.doTile (s : State) (o : MOp) (i : Nat) (p : Piece) (t h off : Nat) : State :=
  match s.tile? t h with
  | none => s.modPiece o.id i (fun p => { p with done := true, got := List.replicate p.n 0 })
  | some x =>
    if (if o.kind == .store then s.store.marked (.tileEntry t h) else s.tilePoison t h x off) then s.readPoison o p
    else
    let old := x.bytes off p.n
    let new := match o.kind with
      | .atomic | .atomicN => rmwBytes o.kind o.aop o.ty old p.data p.cmp
      | _ => p.data
    let s := if o.kind.stores then s.modTile t h (fun x => x.put off new) else s
    (o.mates i p).foldl (fun s j => s.modPiece o.id j (fun p => { p with done := true, got := old })) s

/-- An acquire at sys scope, which is an input of the journal (R278): it waits for its record (R279). -/
def MOp.sysAcq (o : MOp) : Bool := (o.ord == 1 || o.ord == 3) && o.scope == 4

/-- The 0x07 point of an acquire at sys scope to this device's memory, as piece i is performed (R278, R280): in replay the stores recorded
before it are applied ahead of its first piece; a recording takes it with its last piece, after what the access may have read, and waits
while the record must. -/
def State.notePoint (s : State) (o : MOp) (i : Nat) : Option State :=
  if !o.sysAcq || o.noted then some s
  else
    match s.ctxOf? o.g with
    | none => some s
    | some (cn, _) =>
      let take : State := (s.sysAcquire o.g o.sp).modOp o.id (fun o => { o with noted := true })
      if s.replays cn then some take
      else if s.acquireHeld o.g then none
      else if (withIndex o.pieces).all (fun p => p.2.done || p.1 == i) then some take
      else some s

/-- A piece performed, after those that must come before it; none when it cannot be now. A remote piece is performed by its
response. -/
def State.perform (s : State) : (fuel : Nat) → (id i : Nat) → Option State
  | 0, _, _ => none
  | fuel + 1, id, i =>
    match s.op? id with
    | none => some s
    | some o =>
      match o.pieces[i]?, s.accEnv o.g o.sp with
      | some p, some a =>
        if p.done then some s
        else
          match (s.before o i p).foldl (fun (acc : Option State) d => acc.bind (fun s => s.perform fuel d.1 d.2)) (some s) with
          | none => none
          | some s =>
            match p.place with
            | .mem pa => (s.notePoint o i).bind (fun s => if (s.op? o.id).isNone then some s else s.doMem a o i p pa)
            | .host h => some (s.doHost o i p h)
            | .tile t h off => some (s.doTile o i p t h off)
            | _ => none
      | _, _ => some s

/-- How deep orders between pieces can nest. -/
def State.depth (s : State) : Nat := (s.ops.mops.map (fun o => o.pieces.length)).sum + 1

/-- Every piece of an operation that can be performed is. -/
def State.performAll (s : State) (id : Nat) : State :=
  match s.op? id with
  | none => s
  | some o => (List.range o.pieces.length).foldl (fun s i => (s.perform s.depth id i).getD s) s

/-- Whether an operation is performed, and its acknowledgement is not held by a RECALL (R232). -/
def State.opDone (s : State) (id : Nat) : Bool :=
  match s.op? id with
  | none => true
  | some o => o.pieces.all (·.done) && !s.caches.held.any (fun h => h.id == id && h.rsp.result == .nack)

/-- Remote pieces that waited for others are sent. -/
def State.sendHeld (s : State) : State :=
  (s.ops.mops.filter (fun o => o.pieces.any (fun p => p.place.remote && !p.done))).foldl (fun (s : State) o =>
    match s.accEnv o.g o.sp with
    | some a => s.sendPieces a o.id
    | none => s) s

/-! ### Issue -/

/-- Lower lanes of one store hold the bytes of higher ones where they overlap, so that no agent observes a lower lane's
value (R400). -/
def mergeStores (ps : List Piece) : List Piece :=
  ps.map (fun p => { p with data := (List.range p.data.length).map (fun i =>
    let at_ := p.place.first.2 + i
    let ovr := ps.filter (fun q => p.lane < q.lane && !q.done && q.place.first.1 == p.place.first.1 &&
      decide (q.place.first.2 ≤ at_ ∧ at_ < q.place.first.2 + q.n))
    match ovr.getLast? with
    | some q => q.data.getD (at_ - q.place.first.2) 0
    | none => p.data.getD i 0) })

/-- The pieces of a store whose scope is its group or its team, byte by byte in local memory: a write of an agent outside it is not in
mutual scope with it, and a load that races with both may see them mixed (R214). An agent of its core never sees a part of it. -/
def scopedPieces (scope : Nat) (p : Piece) : List Piece :=
  match p.place with
  | .mem pa =>
    if 2 ≤ scope || p.done then [p]
    else (withIndex p.data).map (fun ib => { p with
      va := p.va + BitVec.ofNat 64 ib.1, place := .mem (pa + ib.1), n := 1, sub := p.sub + ib.1, data := [ib.2], lanes := [(p.lane, [ib.2])] })
  | _ => [p]

/-- Remote atomics of one instruction on one piece are combined (R242): the tree of their operands, and the lanes. -/
def combine (op : Nat) (ty : BitVec 4) (ps : List Piece) : List Piece :=
  ps.foldl (fun acc p =>
    if !p.place.remote then acc ++ [p]
    else
      match indexOf? acc (fun q => q.place == p.place && !q.done) with
      | none => acc ++ [p]
      | some i => modAt acc i (fun q => { q with lanes := q.lanes ++ p.lanes })) [] |>.map (fun p =>
    if p.place.remote && decide (1 < p.lanes.length) then
      { p with data := bytesOf p.n (canonReduce (atomApply op ty) 0 7 (p.lanes.map (fun l => natOf l.2))) }
    else p)

/-- What the lanes of a piece fetch: the piece's old value, rebuilt for each lane of a combined atomic (R242). -/
def Piece.fetches (p : Piece) (op : Nat) (ty : BitVec 4) : List (Nat × List Byte) :=
  let o := natOf p.got
  let xs := p.lanes.map (fun l => natOf l.2)
  if p.lanes.length ≤ 1 then [(p.lane, p.got)]
  else
    let e := canonScan (atomApply op ty) 7 1 xs.dropLast
    (withIndex p.lanes).map (fun il =>
      (il.2.1, if il.1 = 0 then p.got else bytesOf p.n (atomApply op ty o (e.getD (il.1 - 1) 0))))

/-- An operation issues: leaves are marked, dies touched, a store updates L1 and drops the device's own copy of a peer line,
remote pieces are sent. -/
def State.issue (s : State) (a : AccEnv) (m : Met) (o : MOp) : State × Nat :=
  let id := s.ops.nextId
  let ps := match o.kind with
    | .store => (mergeStores m.pieces).flatMap (scopedPieces o.scope)
    | .atomic | .atomicN => combine o.aop o.ty m.pieces
    | _ => m.pieces
  let s := m.tlb.foldl (fun s t => s.markLeaf t.1 t.2.toNat o.kind.stores) s
  let s := ps.foldl (fun s p => match p.place with | .mem pa => if p.done then s else s.touchPa a.cn pa | _ => s) s
  let s := if o.kind.stores then ps.foldl (fun s p =>
      let self := s.localPa a.ctx.pent p.place
      match (if self.isSome then self else p.place.pa?) with
      | some pa =>
        if p.done then s
        else
          let s := match o.kind with
            | .store | .scalarStore => s.l1Store a.core pa p.data
            | _ => s.l1Drop a.core pa
          if p.place.remote && self.isNone then s.dropPeer pa else s
      | none => s) s else s
  let o := { o with id, pieces := ps }
  let s := { s with ops := { s.ops with nextId := id + 1, mops := s.ops.mops ++ [o] } }
  let s := m.gone.foldl (fun s x => s.opFault o x.1 x.2.1 x.2.2) s
  (s.sendPieces a id, id)

/-- An operation of a lane instruction or a scalar access, before it issues: the clause, the instruction's address and its LOP or SOP. -/
def newOp (a : AccEnv) (kind : OpKind) (clause : Option Nat) (pc : W64) (code : Nat) : MOp :=
  { id := 0, g := a.g, sp := a.sp, heirs := [], pc, code, clause, kind, aop := 0, ty := 0, esize := 0, sx := false, ord := 0, scope := 3, dst := 255,
    sd := 0, rmask := 0, lanes := 0, missed := 0, drop := [], dead := false, pieces := [] }

/-- Loads that precede a store of a split, of a clause with its RUN point or a scalar one, and overlap it are performed first: it would
overtake them in L1 (R218); none when one of them cannot be now. -/
def State.drainLoads (s : State) (a : AccEnv) (clause : Option Nat) (since : Nat) (ps : List Piece) : Option State :=
  let o : MOp := { newOp a .store clause 0 0 with id := s.ops.nextId, since }
  let todo := s.ops.mops.flatMap (fun q =>
    if q.precedes o && !q.kind.stores then
      (withIndex q.pieces).filterMap (fun jq =>
        if !jq.2.done && ps.any (fun p => overlaps (s.locate a.ctx.pent p.place) p.n (s.locate a.ctx.pent jq.2.place) jq.2.n) then some (q.id, jq.1) else none)
    else [])
  todo.foldl (fun (acc : Option State) d => acc.bind (fun s => s.perform s.depth d.1 d.2)) (some s)

/-! ### Completion -/

/-- The loaded bytes of a lane; none when it missed (R195, R243). -/
def MOp.loaded (o : MOp) (l : Nat) : Option (List Byte) :=
  let mine := o.pieces.filter (fun p => p.lanes.any (fun x => x.1 == l))
  if o.missed.getLsbD l || mine.any (·.miss) then none
  else some (mine.flatMap (fun p => ((p.fetches o.aop o.ty).find? (fun x => x.1 == l)).elim [] (·.2)))

/-- What a lane of a load writes, extended (R398). -/
def MOp.value (o : MOp) (l : Nat) : Nat :=
  match o.loaded l with
  | none => 0
  | some b =>
    let v := natOf b
    if o.sx && decide (o.esize < 4) && v.testBit (8 * o.esize - 1) then v + (2 ^ 32 - 2 ^ (8 * o.esize)) else v

/-- A load's data written into the registers that still await it; they stay unpublished (R164, R165). -/
def Group.fillRegs (g : Group) (o : MOp) : Group :=
  let parts := max 1 (o.esize / 4)
  { g with
    vregs := (List.range parts).foldl (fun v j =>
      let n := o.dst + j
      if o.dst = 255 ∨ o.drop.contains n then v
      else modAt v n (fun r => { r with vals := (withIndex r.vals).map (fun il =>
        if o.lanes.getLsbD il.1 then BitVec.ofNat 32 (o.value il.1 / 2 ^ (32 * j)) else il.2) })) g.vregs
    masks :=
      if o.rmask = 0 then g.masks
      else modAt g.masks o.rmask (fun m => BitVec.ofNat 64 (maskOf ((List.range 64).filter (fun l =>
        if o.lanes.getLsbD l then (o.loaded l).isNone else m.getLsbD l)))) }

/-- A load or a returning atomic returns (R162): it is performed, its registers are written, and an acquire has its effect
(R220, R404). Nothing happens while a piece cannot be performed. -/
def State.loadReturn (s : State) (id : Nat) : State :=
  let s := s.performAll id
  match s.op? id with
  | none => s
  | some o =>
    if !(o.kind == .load || o.kind == .atomic || o.kind == .cas) || !s.opDone id || (o.sysAcq && !o.noted && s.acquireHeld o.g) then s
    else
      let host := o.kind.stores && o.pieces.any (fun p => match p.place with | .host _ => true | _ => false)
      let s := (s.dropOp id).modGroup o.g (fun g => if host then (g.fillRegs o).passGwct s.now else g.fillRegs o)
      let acq := o.ord = 1 ∨ o.ord = 3
      let s := if acq ∧ 2 ≤ o.scope then s.acquire o.g else s
      let s := if o.sysAcq && !o.noted then s.sysAcquire o.g o.sp else s
      s.settleClauses o.g

/-- A store, a non-returning atomic or a BPUT is acknowledged by its home (R221). Host memory is acknowledged by a read after
it, whose instant is its GWCT (R230). -/
def State.storeAck (s : State) (id : Nat) : State :=
  let s := s.performAll id
  match s.op? id with
  | none => s
  | some o =>
    if !(o.kind == .store || o.kind == .atomicN || o.kind == .scalarStore || o.kind == .bput) || !s.opDone id || (o.sysAcq && !o.noted && s.acquireHeld o.g) then s
    else
      let host := o.pieces.any (fun p => match p.place with | .host _ => true | _ => false)
      let s := (s.dropOp id).modGroup o.g (fun g => if host then g.passGwct s.now else g)
      let s := if (o.ord = 1 ∨ o.ord = 3) ∧ 2 ≤ o.scope then s.acquire o.g else s
      let s := if o.sysAcq && !o.noted then s.sysAcquire o.g o.sp else s
      s.settleClauses o.g

/-! ### Release and acquire (R219 to R221) -/

/-- The operations of a group. -/
def State.opsOf (s : State) (g : Nat) : List MOp := s.ops.mops.filter (fun o => o.g == g)

/-- The release counter (R221): pieces of stores and atomics to memory not yet acknowledged. -/
def State.relCount (s : State) (g : Nat) : Nat :=
  ((s.opsOf g).map (fun o => if o.kind.stores then (o.pieces.filter (fun p => !p.isTile)).length else 0)).sum

/-- Every load of the group has fixed its value, and every tile write is performed. -/
def State.valuesFixed (s : State) (g : Nat) : Bool :=
  (s.opsOf g).all (fun o => (!o.kind.loads || o.pieces.all (·.done)) && o.pieces.all (fun p => p.done || !p.isTile || !o.kind.stores))

/-- The release condition of R220 at a scope. While the device is in FREE or DEGRADED a sys release waits for the counter
alone (R231). -/
def State.released (s : State) (g scope : Nat) : Bool :=
  s.valuesFixed g &&
  (decide (scope < 2) || s.relCount g == 0) &&
  (decide (scope < 4) || !s.leasing || (match s.group? g with | some gr => decide (gr.gwct < s.now) | none => true))

/-- Every earlier load and returning atomic of a split has fixed its value (R219). -/
def State.loadsFixed (s : State) (g sp : Nat) : Bool :=
  s.ops.mops.all (fun o => !o.ofSplit g sp || !o.kind.loads || o.pieces.all (·.done))

/-- An acquiring access of the split is still outstanding: its later lane instructions wait, and its fences (R404). -/
def State.acquiring (s : State) (g sp : Nat) : Bool :=
  s.ops.mops.any (fun o => o.ofSplit g sp && (o.ord == 1 || o.ord == 3))

/-- The split has passed a FENCE, or a WAITF that completed on these flags: its scalar accesses come after those of the clauses that the
rule names (R217). -/
def State.fencePassed (s : State) (r : SplitRef) (hit : (sets : BitVec 12) → Bool) : State :=
  let add (l : List Nat) : List Nat := if l.contains r.sp then l else r.sp :: l
  { s with
    ops := { s.ops with mops := s.ops.mops.map (fun o =>
      if o.ofSplit r.g r.sp && o.clause.isSome && hit o.sets then { o with fenced := add o.fenced } else o) }
    exec := { s.exec with groups := modAt s.exec.groups r.g (fun g => { g with splits := (withIndex g.splits).map (fun p =>
      { p.2 with clause := p.2.clause.map (fun c =>
        if (p.1 == r.sp || c.heirs.contains r.sp) && hit (setsOf c.hdr) then { c with fenced := add c.fenced } else c) }) }) } }

/-- A scalar access of the split comes after an acquiring access of a clause that has not returned, or after memory instructions of a clause
that have not issued (R217, R404). A handler does not wait for the clause that trapped into it. -/
def State.scalarHeld (s : State) (g : Group) (r : SplitRef) : Bool :=
  s.ops.mops.any (fun o => o.ofSplit r.g r.sp && (o.ord == 1 || o.ord == 3) && o.fenced.contains r.sp) ||
  g.splits.any (fun q => match q.clause with
    | some c => c.fenced.contains r.sp && c.rest.any isMemLane && q.handler != some .lane
    | none => false)

/-- A pending remote fault is raised at a release at sys scope, or at an exit; taking the trap clears RFAULT (R176, R244). -/
def State.raiseRemote (s : State) (r : SplitRef) (pc spc : W64) (lane : Bool) (kind : TrapKind) : State :=
  match s.group? r.g with
  | none => s
  | some g =>
    (s.takeTrap r { code := 10, lane, imp := true, pc, addr := g.rfault.va, info := g.rfault.word, kind, spc }).modGroup r.g
      (fun g => { g with rfault := RFault.zero })

end Sys2Proof.Machine
end

