-- ==== Sys2Proof/Machine/Fetch.lean ====
section
/-!
DEFINITION. Instruction fetch (R311, R327): words under X permission, lines of code asked of a peer home (R238), clauses read
and validated, and the start of a clause (R159, R162 to R164).
-/

namespace Sys2Proof.Machine

/-! ### Lines of peer memory that the device itself reads -/

/-- The answer to a line that was asked for. -/
def State.lineAnswer (s : State) (id : Nat) (x : RspResult) : State :=
  { s with ops := { s.ops with
    reqs := s.ops.reqs.filter (fun r => r.id != id)
    fetched := s.ops.fetched.map (fun f =>
      if f.req = some id then
        match x with
        | .ok d _ _ => { f with req := none, data := d }
        | .fault reason => { f with req := none, reason }
        | .nack => { f with req := none, reason := 12 }
      else f) } }

/-- A line of a peer, or of a rope member's window, is asked of its home (R238, R241); the answer stands in `ops.fetched` under
`name` until it is used. -/
def State.askAt (s : State) (pent : Nat) (slot : BitVec 7) (rope : Option W32) (line name : Nat) (key : BitVec 10) : CpRes State :=
  let id := s.ops.nextId
  let r : RemoteReq :=
    { id, src := s.fabric.slot.getD 0, dst := slot, part := partBits pent, sub := subBits pent, pgen := (s.partEnt pent).gen,
      rope, addr := BitVec.ofNat 64 (128 * line), key, lease := none, notime := false, kind := .load 128 false false }
  let rec_ : Request := { id, op := id, piece := 0, copy := false, req := r, pent, sentAt := s.now, stale := false }
  let s : State := { s with ops := { s.ops with
    nextId := id + 1, reqs := s.ops.reqs ++ [rec_]
    fetched := s.ops.fetched ++ [{ slot, line := name, req := some id, data := [], reason := 0 }] } }
  if s.isSelf slot rope.isSome then
    match s.serve r with
    | .answer s x => .ok (s.lineAnswer id x)
    | .late s => .ok s
    | .hold s page =>
      let s' : State := { s with ops := { s.ops with inbound := s.ops.inbound ++ [{ req := r, at_ := s.now, pent, page }] } }
      .ok s'
  else if s.linkUp slot then .ok (s.sendReq slot 1 pent false (.request r))
  else .ok (s.lineAnswer id (.fault 11))
def State.askLine (s : State) (pent : Nat) (slot : BitVec 7) (line : Nat) (key : BitVec 10) : CpRes State :=
  s.askAt pent slot none line line key
/-- Lines of a rope window are kept under names above those of peer PAs. -/
def ropeLine (line : Nat) : Nat := 2 ^ 45 + line

/-- Lines that have been used are given up. -/
def State.useLines (s : State) (l : List (BitVec 7 × Nat)) : State :=
  if l = [] then s
  else { s with ops := { s.ops with fetched := s.ops.fetched.filter (fun f => !l.contains (f.slot, f.line)) } }

/-! ### Fetching -/

/-- What a fetch of code gives: its bytes and the peer lines that they came from; a cause, a sub-code and the VA; a page
that is not resident; or a wait. -/
inductive Got where
  | ok (s : State) (bytes : List Byte) (used : List (BitVec 7 × Nat))
  | trap (code sub : Nat) (va : W64)
  | absent (page : W64)
  | lost (die : Nat)
  | wait (s : State)

/-- A faulty line of a core's instruction caches is fetched again, which corrects the fault (R264). -/
def State.refetch (s : State) (core : Nat × Nat) (line : Nat) : State :=
  let l : PoisonLoc := .icache core.1 core.2 line
  if s.store.marked l then
    ({ s with store := s.store.clearMark l } : State).countError 2 true (some core.1)
  else s

/-- Code in a line of a peer, or of a rope member's window (R238). The remote fault of a fetch is not stated: it is reported as a
PROTECTION without a valid translation, or as poisoned data (log entry 100). In a dual-run launch the access raises DUAL_RUN (R106). -/
def State.fetchFar (s : State) (a : AccEnv) (va : W64) (slot : BitVec 7) (rope : Option W32) (off name : Nat) (key : BitVec 10)
    (e : Option TlbEntry) : Got :=
  if a.ctx.lr.dual then .trap 12 0 va
  else
    match s.fetched? slot name with
    | some f =>
      if f.req.isSome then .wait s
      else if f.reason = 9 then .trap 13 0 va
      else if f.reason ≠ 0 then .trap 5 0 va
      else .ok (match e with | some e => s.markLeaf e va.toNat false | none => s) ((f.data.drop (off % 128)).take 4) [(slot, name)]
    | none =>
      match s.askAt a.ctx.pent slot rope (off / 128) name key with
      | .ok s | .wait s => .wait s
      | .fail _ => .trap 5 0 va

/-- Four bytes of code at an aligned VA (R311). -/
def State.fetch4 (s : State) (a : AccEnv) (va : W64) : Got :=
  match s.translate (some a.core) a.ctx.pent (s.ropeWin a.ctx) va .exec with
  | .prot sub => .trap 5 sub va
  | .key => .trap 6 0 va
  | .poison => .trap 13 0 va
  | .nonres p => .absent p
  | .follow p => .wait (s.startFollow a.ctx.pent p)
  | .ok (.mem pa) ca e =>
    if s.lost.getLsbD (8 + homeDie pa) then .lost (homeDie pa)
    else if s.store.poisoned (s.shadowed pa) 4 then .trap 13 0 va
    else if s.owned pa then .wait s
    else
      let s := match e with | some e => s.markLeaf e va.toNat false | none => s
      let s := (s.touchPa a.cn pa).refetch a.core (pa / 128)
      let (s, d) := s.homeRead a.ctx.pent (some a.cn) ca (ca == 1) pa 4
      .ok s d []
  | .ok (.host h) _ e =>
    .ok (match e with | some e => s.markLeaf e va.toNat false | none => s) (s.store.hostBytes h 4) []
  | .ok (.peer slot off key) _ e => s.fetchFar a va slot none off (off / 128) key e
  | .ok (.rope _ slot off) _ e => s.fetchFar a va slot (some a.ctx.ropeId) off (ropeLine (off / 128)) 0 e
  | .ok (.tile _ _ _) _ _ => .trap 5 0 va

/-- n words of code from an aligned VA on. -/
def State.fetchWords (s : State) (a : AccEnv) : (n : Nat) → (va : W64) → Got
  | 0, _ => .ok s [] []
  | n + 1, va =>
    match s.fetch4 a va with
    | .ok s b u =>
      match s.fetchWords a n (va + 4) with
      | .ok s b' u' => .ok s (b ++ b') (u ++ u')
      | r => r
    | r => r

/-! ### The start of a clause -/

/-- The address one past a clause (R326). -/
def clauseEnd (addr : W64) (len : BitVec 5) : W64 := addr + 12 * (len.zeroExtend 64 + 2)

/-- The failure of a clause before its start (R171, R327): PROTECTION, KEY_MISMATCH or DATA_POISON at its fetch. -/
def State.clauseFetchTrap (s : State) (r : SplitRef) (sp : Split) (addr end_ : W64) (code sub : Nat) (va : W64) : State :=
  s.takeTrap r { code, sub, lane := true, pc := addr, addr := va, info := 0, kind := .clause addr end_, spc := sp.pc }
def State.illegalClause (s : State) (r : SplitRef) (sp : Split) (addr end_ : W64) (info : Nat) : State :=
  s.takeTrap r { code := 2, pc := addr, addr := 0, info := BitVec.ofNat 64 info, kind := .clause addr end_, spc := sp.pc }

/-- The 96-bit words of a clause's bytes. -/
def wordsOf (bs : List Byte) : (n : Nat) → List W96
  | 0 => []
  | n + 1 => wordOf 96 (bs.take 12) :: wordsOf (bs.drop 12) n

/-- A lane instruction of a clause as validation reads it: none when it is illegal (R327 step 3). -/
def legalLane (c : LaneCfg) (w : W96) : Option Instr :=
  match decodeLane w with
  | .ok i => if laneLegal c i then some i else none
  | .error _ => none

/-- Whether a header is invalid with its instructions (R163): a load or a returning atomic without SET0. -/
def headerClash (h : ClauseHdr) (code : List Instr) : Bool := h.set0 == 15 && code.any isReturning

/-- What validation says of a clause (R327): TRAPINFO of its failure, the header before the first illegal instruction, or its
instructions. -/
def validate (c : LaneCfg) (h : Option ClauseHdr) (ws : List W96) : Except Nat (ClauseHdr × List Instr) :=
  match h with
  | none => .error 0x80
  | some h =>
    let seen := ws.filterMap (fun w => (decodeLane w).toOption)
    if headerClash h seen then .error 0x80
    else
      match indexOf? ws (fun w => match legalLane c w with | some i => mcloseClash h i | none => true) with
      | some i => .error i
      | none => .ok (h, ws.filterMap (legalLane c))

/-- The flag that a header's SET field names. -/
def setFlagOf (f : BitVec 4) : Option Nat := if f = 15 then none else some f.toNat

/-- Whether the waits of a clause hold (R159, R163): its wait mask is set and no flag that it produces is pending. -/
def Group.waitsHold (g : Group) (h : ClauseHdr) : Bool :=
  (g.flags &&& h.wait == h.wait) &&
  [h.set0, h.set1].all (fun f => match setFlagOf f with | some n => !g.pend.getLsbD n | none => true)

/-- Flags observed by a waiter: for a copy whose destination is memory, an acquire at dev scope by the group (R235). -/
def State.observe (s : State) (g : Nat) (flags : BitVec 12) : State :=
  match s.group? g with
  | some gr => if gr.mflags &&& flags = 0 then s else s.acquire g
  | none => s

/-- A legal clause starts: what its wait flags published becomes readable, its producers start, its entry leaves the front
of the queue for the clause in progress (R158, R159, R162, R164). -/
def State.startClause (s : State) (r : SplitRef) (e : RunEntry) (h : ClauseHdr) (code : List Instr) : State :=
  let id := s.ops.nextId
  let s : State := { s with ops := { s.ops with nextId := id + 1 } }
  let s := s.observe r.g h.wait
  s.modGroup r.g (fun g =>
    let g := g.publish (h.wait.zeroExtend 16)
    let g := match setFlagOf h.set0 with | some f => g.startFlag f | none => g
    let g := match setFlagOf h.set1 with | some f => g.startFlag f | none => g
    { g with
      clauses := g.clauses ++ [{ id, set0 := setFlagOf h.set0, set1 := setFlagOf h.set1, issued := false }]
      splits := modAt g.splits r.sp (fun sp => { sp with
        runq := sp.runq.tail
        clause := some { id, addr := e.addr, hdr := h, code, done := 0, mask := e.mask, snap := e.snap, since := e.since, heirs := e.heirs }
        age := s.now }) })

end Sys2Proof.Machine
end

