-- ==== Sys2Proof/Machine/Issue.lean ====
section
/-!
DEFINITION. What comes next (R103): which splits are ready, the fetch of the next scalar instruction (R311), scalar loads as
they return (R345), the passing of device time, evictions, and the model's own choice where its agenda is empty (log entry 3).
-/

namespace Sys2Proof.Machine

/-! ### Readiness -/

/-- A group may issue: resident, not descheduled, its team not halted, its context running (R103, R110, R114, R196), the
records of its inputs written (R279). -/
def State.mayIssue (s : State) (g : Nat) : Bool :=
  match s.group? g with
  | none => false
  | some gr =>
    gr.live && !gr.desched && s.power.on &&
    match s.team? gr.team with
    | none => false
    | some tm =>
      tm.state == .running && !tm.halted &&
      match s.ctx? tm.ctx with
      | none => false
      | some c => c.state == .running && c.start && !s.jrnlBusy c.pent c.lr.jrnl

/-- The scalar stream of the split awaits no page and no load. -/
def Split.awaitsNone (sp : Split) : Bool := sp.waitSc == [] && sp.waitOp.isNone

/-- The split may issue its next scalar instruction, or test again the flags that it waits for in WAITF. After a stop request it does not
enter its handler (R123, R174); an instruction of which the wait part alone is left completes all the same (R117). -/
def State.scalarReady (s : State) (r : SplitRef) : Bool :=
  match s.group? r.g with
  | none => false
  | some g =>
    let sp := g.split r.sp
    s.mayIssue r.g && (sp.status == .ready || sp.status == .waitf) && sp.awaitsNone &&
      (match g.stop with
       | some t => (t.scalar && !t.waits.contains r.sp || sp.status == .ready && sp.arrived) && sp.handler.isNone
       | none => true)

/-- The resident groups of a partition of a core, by number. -/
def State.residents (s : State) (die site part : Nat) : List (Nat × Group) :=
  (withIndex s.exec.groups).filter (fun p => p.2.live && p.2.part == part &&
    (match s.team? p.2.team with | some t => t.die == die && t.site == site && !t.halted | none => false))

/-- The window W of a partition (R105); all resident groups until the first interval ends. -/
def State.window (s : State) (die site part : Nat) : Nat :=
  match s.exec.windows.find? (fun w => w.1 == die && w.2.1 == site && w.2.2.1 == part) with
  | some w => w.2.2.2
  | none => (s.residents die site part).length

/-- Whether a group is one of the W oldest by residency. -/
def State.inWindow (s : State) (g : Nat) (gr : Group) : Bool :=
  let c := s.coreOf g
  decide ((s.residents c.1 c.2 gr.part).countP (fun p => decide (p.2.since < gr.since ∨ (p.2.since = gr.since ∧ p.1 < g))) < s.window c.1 c.2 gr.part)
/-- Whether a group holds the right to issue memory instructions: one of the W oldest, or one that was and has loads outstanding. -/
def State.holdsRight (s : State) (g : Nat) : Bool :=
  match s.group? g with
  | none => false
  | some gr => s.inWindow g gr || (gr.right && s.ops.mops.any (fun o => o.g == g && o.kind.loads))
/-- A group that is out of the window and has no loads outstanding has lost the right. -/
def State.settleRights (s : State) : State :=
  if s.exec.groups.any (·.right) then
    { s with exec := { s.exec with groups := (withIndex s.exec.groups).map (fun p =>
        if p.2.right then { p.2 with right := s.holdsRight p.1 } else p.2) } }
  else s

/-- The instruction at which a split's started clause stands, if it may run at all now. -/
def State.laneNext (s : State) (r : SplitRef) : Option Instr :=
  match s.group? r.g with
  | none => none
  | some g =>
    let sp := g.split r.sp
    match sp.clause with
    | none => none
    | some c =>
      if s.mayIssue r.g && sp.handler != some .lane && (match g.stop with
          | some t => decide (0 < t.lanes) && !t.held.contains r.sp
          | none => true)
      then c.code[c.done]? else none

/-- Whether that instruction must wait: for a page, for an earlier acquiring access (R404), for accesses of a clause that its split
inherits (R217), for the right of R105. -/
def State.laneWaits (s : State) (r : SplitRef) (i : Instr) : Bool :=
  (match s.group? r.g with | some g => (g.split r.sp).waitPg != [] | none => false) ||
  s.acquiring r.g r.sp || (isMemLane i && (!s.holdsRight r.g ||
    (match s.group? r.g, s.ctxOf? r.g with | some g, some (_, c) => s.inheritedMem c g r.sp | _, _ => false)))

/-- A split that would have to wait while a stop request stands stops there (R118): its clause, or its scalar stream. -/
def State.holdSplit (s : State) (r : SplitRef) (lane : Bool) : State :=
  let add (l : List Nat) : List Nat := if l.contains r.sp then l else r.sp :: l
  s.modGroup r.g (fun g => match g.stop with
    | some t => { g with stop := some (if lane then { t with held := add t.held } else { t with waits := add t.waits }) }
    | none => g)

/-! ### What an occurrence makes run -/

/-- A state, or a state in which an instruction or event runs. -/
inductive Due where
  | idle (s : State)
  | run (s : State) (i : Instr)

/-- A core first executes an instruction of a context on its die (R143). -/
def State.touchCore (s : State) (a : AccEnv) : State := s.touch a.cn a.core.1

/-- What a fetch of code that is not `ok` does to the split (R196, R311). A trap at a fetch is the scalar instruction that a stop request
allows (R118). -/
def State.fetchMiss (s : State) (r : SplitRef) (sp : Split) (a : AccEnv) (sopCode : Nat) : Got → State
  | .ok s _ _ => s
  | .wait s => s
  | .absent p => s.deschedule a [p] false 2
  | .lost d => s.endLost a.cn d
  | .trap code sub va =>
    (s.scalarTrap r sp code sub va sopCode).modGroup r.g (fun g => { g with stop := g.stop.map (fun q => { q with scalar := false }) })

/-- The instruction that two words hold: what the decoder rejects is an ILLEGAL_INSTR (R312, R315). -/
def instrOf (w w1 : W32) : Instr :=
  match decode w w1 with
  | .ok i => i
  | .error _ => .illegalInstr w

/-- An outstanding scalar load (R345) completes once it is performed: SD is written and the split goes on. A failed remote
load writes zero (R243, R346). -/
def State.scalarReturn (s : State) (r : SplitRef) : State :=
  match s.group? r.g with
  | none => s
  | some g =>
    match (g.split r.sp).waitOp with
    | none => s
    | some id =>
      let s := s.performAll id
      match s.op? id with
      | none => s
      | some o =>
        if !s.opDone id then s
        else
          let v : W64 := BitVec.ofNat 64 (o.value 0)
          let s := s.dropOp id
          match s.group? r.g with
          | none => s
          | some g =>
            let sp := { g.split r.sp with waitOp := none, fails := [] }
            s.finish r sp 4 o.sd v

/-- The instruction that two words hold runs, unless it reads a poisoned scalar register: DATA_POISON (R266). -/
def State.dueWord (s : State) (r : SplitRef) (g : Group) (sp : Split) (a : AccEnv) (w w1 : W32) : Due :=
  let i := instrOf w w1
  if g.readsPoison i then .idle ((s.touchCore a).scalarTrap r sp 13 0 0 (sop w).toNat) else .run { (s.touchCore a) with cur := some r } i

/-- The split fetches its next scalar instruction (R311); one blocked in WAITF tests its flags again. -/
def State.dueScalar (s : State) (r : SplitRef) : Due :=
  match s.group? r.g, s.accEnv r.g r.sp with
  | some g, some a =>
    let sp := g.split r.sp
    if sp.waitOp.isSome && s.mayIssue r.g then .idle (s.scalarReturn r)
    else if !s.scalarReady r then .idle s
    else if s.lost.getLsbD a.core.1 then .idle (s.endLostDie a.cn a.core.1)
    else if sp.status = .waitf then .run { s with cur := some r } (.waitf (sp.wflags.getLsbD 15) (sp.wflags.truncate 12))
    else
      match s.fetch4 a sp.pc with
      | .ok s b u =>
        let w : W32 := wordOf 32 b
        if isTwoWord w then
          match s.fetch4 a (sp.pc + 4) with
          | .ok s b' u' => (s.useLines (u ++ u')).dueWord r g sp a w (wordOf 32 b')
          | x => .idle (s.fetchMiss r sp a (sop w).toNat x)
        else (s.useLines u).dueWord r g sp a w 0
      | x => .idle (s.fetchMiss r sp a 0 x)
  | _, _ => .idle s

/-- The split issues the next lane instruction of its started clause. -/
def State.dueLane (s : State) (r : SplitRef) : Due :=
  match s.laneNext r, s.accEnv r.g r.sp with
  | some i, some a =>
    if s.lost.getLsbD a.core.1 then .idle (s.endLostDie a.cn a.core.1)
    else if s.laneWaits r i then .idle (s.holdSplit r true)
    else .run { (s.touchCore a) with cur := some r } i
  | _, _ => .idle s

/-! ### Time -/

/-- Whether the watchdog of a barrier runs for a team (R175): a split is blocked on it, no group that has not arrived is
descheduled for page service (a PAGEREQ counts, R444), no team of `teams` is halted, and no serialisation is in progress. -/
def State.dogRuns (s : State) (teams : List Team) (b : Barrier) (blocked : Split → Bool) : Bool :=
  let gs := teams.flatMap (·.groups)
  gs.any (fun g => match s.group? g with | some gr => gr.live && gr.splits.any blocked | none => false) &&
  !gs.any (fun g => !b.arrived.contains g && (match s.group? g with
    | some gr => gr.desched || gr.splits.any (fun sp => sp.status == .page && sp.wbar == 4)
    | none => false)) &&
  !teams.any (·.halted) &&
  !teams.any (fun t => match s.ctx? t.ctx with | some c => c.ser.isSome | none => false)

/-- The watchdogs advance by n ns. -/
def State.runDogs (s : State) (n : Nat) : State :=
  { s with exec := { s.exec with teams := (withIndex s.exec.teams).map (fun (i, t) =>
    { t with
        bars := (withIndex t.bars).map (fun kb =>
          if t.state == .running && s.dogRuns [t] kb.2 (·.waitsAt kb.1) then
            { kb.2 with dog := kb.2.dog + n }
          else kb.2)
        -- the cluster barrier stands in the record of the rank-0 team, retired or not
        cbar :=
          if t.lead = i ∧ s.dogRuns ((s.cluster i).map (·.2)) t.cbar (·.waitsAt 16) then
            { t.cbar with dog := t.cbar.dog + n }
          else t.cbar }) } }

/-- U grows by 20 ns per second in HOLDOVER (R16). -/
def Clock.pass (c : Clock) (n : Nat) : Clock :=
  let t := c.dtime.toNat
  let grown := 20 * (t + n) / 1000000000 - 20 * t / 1000000000
  { c with dtime := c.dtime + BitVec.ofNat 64 n, u := if c.tstate = .holdover then c.u.map (· + grown) else c.u }

/-- The copy engines that some copies keep busy (R77): one per core with a copy of a group that is not complete, and one per COPY
packet (log entry 110). -/
def State.busyEngines (s : State) (mine : Copy → Bool) : Nat :=
  let ks := s.ops.copies.filter mine
  (dedup ((ks.filter (fun k => k.g.isSome)).filterMap (fun k => (s.team? k.team).map (fun t => 32 * t.die + t.site)))).length +
    ks.countP (fun k => k.g.isNone)
/-- Engine time is charged to partitions and to their grids (R79, R92). -/
def State.runEngines (s : State) (n : Nat) : State :=
  if s.ops.copies = [] then s
  else { s with
    host := { s.host with spentPart := (withIndex s.host.spentPart).map (fun p =>
      { p.2 with etime := p.2.etime + n * s.busyEngines (fun k => k.pent == p.1) }) }
    exec := { s.exec with ctxs := (withIndex s.exec.ctxs).map (fun p =>
      { p.2 with spent := { p.2.spent with etime := p.2.spent.etime + n * s.busyEngines (fun k => k.ctx == some p.1) } }) } }

/-- The lowest-numbered split that waits at a barrier among groups. Across the teams of a cluster the model goes team by team, in the
order of its table (DESIGN CHOICE, log entry 124). -/
def State.firstBlocked (s : State) (gs : List Nat) (blocked : Split → Bool) : Option (Group × Nat × Split) :=
  gs.findSome? (fun g => (s.group? g).bind (fun gr =>
    (indexOf? gr.splits blocked).map (fun i => (gr, i, gr.split i))))

/-- BARRIER_TIMEOUT's TRAPINFO (R171). -/
def dogInfo (b : Barrier) (n : Nat) : W64 :=
  BitVec.ofNat 64 (b.lquota % 2 ^ 32 * 2 ^ 32 + b.larr % 2 ^ 16 * 2 ^ 16 + (if b.parity then 32 else 0) + n)

/-- The end of a context by the watchdog of a barrier of team t, of the cluster barrier with n = 16: once the clock in which its count
reached BTIMEOUT is over, for a completion of the phase in that clock wins (R459, R460). -/
def State.barrierTimeout (s : State) (t n : Nat) : State :=
  match s.team? t with
  | none => s
  | some tm =>
    match s.ctx? tm.ctx with
    | none => s
    | some c =>
      let clu := n == 16
      let b := if clu then tm.cbar else tm.bars.getD n Barrier.zero
      let gs := if clu then (s.cluster t).flatMap (·.2.groups) else tm.groups
      if b.dog ≤ 1000 * c.lr.btimeout then s
      else
        match s.firstBlocked gs (·.waitsAt n) with
        | none => s
        | some (g, i, sp) =>
          let linear := match s.team? g.team with | some t => t.linear | none => 0
          s.endCtx tm.ctx { FaultRec.none_ with
            code := 1, cause := 11, group := BitVec.ofNat 8 g.index, split := BitVec.ofNat 8 i, team := BitVec.ofNat 32 linear,
            trapPc := sp.pc, trapAddr := BitVec.ofNat 64 b.barr, trapInfo := dogInfo b n,
            aux := BitVec.ofNat 64 b.bquota, hfl := if tm.inst = 1 then 4 else 0 }

/-- The barriers of which the watchdog runs: the team, the number, and the time until the clock in which it reaches BTIMEOUT is over. -/
def State.runningDogs (s : State) : List (Nat × Nat × Nat) :=
  (withIndex s.exec.teams).flatMap (fun (i, t) =>
    match s.ctx? t.ctx with
    | none => []
    | some c =>
      let room (b : Barrier) : Nat := 1000 * c.lr.btimeout + 1 - b.dog
      (withIndex t.bars).filterMap (fun kb =>
        if t.state == .running && s.dogRuns [t] kb.2 (·.waitsAt kb.1) then some (i, kb.1, room kb.2) else none) ++
      (if t.lead = i ∧ s.dogRuns ((s.cluster i).map (·.2)) t.cbar (·.waitsAt 16) then [(i, 16, room t.cbar)] else []))

/-- The watchdogs, the engines and the clock advance. -/
def State.pass (s : State) (n : Nat) : State := { ((s.runDogs n).runEngines n) with clock := s.clock.pass n }
/-- Device time passes, and no context outlives its watchdog (R459). -/
def State.elapseN (s : State) : (fuel n : Nat) → State
  | 0, n => s.pass n
  | fuel + 1, n =>
    let s := (s.runningDogs.filter (·.2.2 == 0)).foldl (fun (s : State) d => s.barrierTimeout d.1 d.2.1) s
    match leastBy id (s.runningDogs.map (·.2.2)) with
    | some m => if m < n ∧ 0 < m then (s.pass m).elapseN fuel (n - m) else s.pass n
    | none => s.pass n
def State.elapse (s : State) (n : Nat) : State := s.elapseN (s.exec.ctxs.length + 1) n

/-! ### Evictions -/

/-- A core drops a line of its L1; its tag enters the victim tag array of 4096 entries with the group that brought it in
(R105). -/
def State.evictL1 (s : State) (die site line : Nat) : State :=
  match s.caches.l1.find? (fun l => l.die == die && l.site == site && l.line == line) with
  | none => s
  | some l =>
    let s := s.dropL1 (fun d i k => d == die && i == site && k == line)
    let tag := (line, l.g)
    let vs := s.exec.victims
    let old := ((vs.find? (fun v => v.die == die && v.site == site)).map (·.tags)).getD []
    let rest := vs.filter (fun v => !(v.die == die && v.site == site))
    { s with exec := { s.exec with victims := { die, site, tags := (tag :: old).take 4096 } :: rest } }

/-- Cached translations of a page are dropped. -/
def State.dropTlb (s : State) (page : Nat) : State :=
  { s with store := { s.store with tlb := s.store.tlb.filter (fun e => e.page != page * 65536 / 2 ^ offBits e.level) } }

/-- What the management controller and the time port do without the dies (R20, R22). -/
def managesAlone : Instr → Bool
  | .powerOn _ | .ptpMessage _ | .firmwareUpdate _ | .spdmRequest _ | .pldmRequest _ | .controllerRestart | .undervoltage
  | .mainInputRestored | .trip _ => true
  | _ => false

/-- What an occurrence makes run; the dies do nothing while they have no power (R22, R83). -/
def State.due (s : State) : Occurrence → Due
  | .event sel i => if s.power.on || managesAlone i then .run { s with sel, cur := none } i else .idle s
  | .scalar r => s.dueScalar r
  | .lane r => s.dueLane r
  | .perform o p => .idle (if s.power.on then (s.perform s.depth o p).getD s else s)
  | .elapse n => .idle (s.elapse n)
  | .evictL1 die site line => .idle (s.evictL1 die site line)
  | .evictMsc line => .idle (s.dropMscLine line)
  | .dropTlb page => .idle (s.dropTlb page)

/-! ### After an instruction -/

/-- The account of a stop request after an instruction of split r (R118), of its clause or of its scalar stream: s before it, t after. -/
def State.countStop (s t : State) (lane : Bool) : State :=
  match s.cur with
  | none => t
  | some r =>
    match s.group? r.g, t.group? r.g with
    | some g, some g' =>
      match g'.stop with
      | none => t
      | some q =>
        let a := g.split r.sp
        let b := g'.split r.sp
        if a.clause ≠ b.clause then t.modGroup r.g (fun g => { g with stop := some { q with lanes := q.lanes - 1 } })
        else if a ≠ b then t.modGroup r.g (fun g => { g with stop := some { q with scalar := false } })
        else t.holdSplit r lane
    | _, _ => t

/-- A split that has issued an instruction becomes ready again: from then on its age counts (R103). -/
def State.renew (s t : State) : State :=
  match s.cur with
  | none => t
  | some r =>
    match s.group? r.g, t.group? r.g with
    | some g, some g' =>
      if g.split r.sp = g'.split r.sp then t
      else t.modGroup r.g (fun g => { g with splits := modAt g.splits r.sp (fun sp => { sp with age := t.now }) })
    | _, _ => t

/-- A step ends: no split issues any longer. -/
def State.closeStep (s t : State) (lane : Bool) : State := { s.renew (s.countStop t lane) with cur := none }

/-! ### The model's own choice (R103) -/

/-- The splits of live groups, oldest first, ties by group and split number. -/
def State.splitsByAge (s : State) : List SplitRef :=
  let all := (withIndex s.exec.groups).flatMap (fun (i, g) =>
    if g.live then (List.range 4).filterMap (fun k => if (g.split k).status.present then some (SplitRef.mk i k, (g.split k).age) else none) else [])
  (sortBy (·.2) all).map (·.1)

/-- What the model tries, in order, when its agenda is empty (R169): memory operations complete, batches commit, chunks of copies land and
splits wake, so that no split that spins keeps them waiting; then lane instructions, starts of clauses, scalar instructions, oldest split
first, and releases that have waited for device time. -/
def State.choices (s : State) : List Occurrence :=
  let rs := s.splitsByAge
  s.ops.mops.flatMap (fun o => [.event ⟨o.id, 0, 0⟩ .loadReturn, .event ⟨o.id, 0, 0⟩ .storeAck]) ++
  (withIndex s.exec.groups).filterMap (fun p =>
    if p.2.live && (p.2.batches.head?.map (·.closed)).getD false then some (.event ⟨0, 0, 0⟩ (.batchCommit p.1 true true)) else none) ++
  s.ops.copies.flatMap (fun c => c.chunks.flatMap (fun k =>
    [.event ⟨0, 0, 0⟩ (.chunkLand c.id k .ask), .event ⟨0, 0, 0⟩ (.chunkLand c.id k .land)])) ++
  rs.map (fun r => .event ⟨r.g, r.sp, 0⟩ .sleepWake) ++
  rs.map .lane ++ rs.map (fun r => .event ⟨r.g, r.sp, 0⟩ .clauseStart) ++ rs.map .scalar ++
  rs.map (fun r => .event ⟨r.g, r.sp, 0⟩ .gwctPassed)

end Sys2Proof.Machine
end

