-- ==== Sys2Proof/Machine/LaneMem.lean ====
section
/-!
DEFINITION. Memory and tile instructions of the lanes: LD, ST, ATOM, ATOMN, CAS, PREF (R398 to R404), TLD, TST, TATOM (R405
to R407).
-/

namespace Sys2Proof.Machine

/-! ### What the instructions have in common -/

/-- What a memory or tile instruction asks for. -/
structure MemAsk where
  kind  : OpKind
  n     : Nat                  -- bytes of an element
  aop   : Nat := 0
  ty    : BitVec 4 := 0
  sx    : Bool := false
  ord   : Nat := 0
  scope : Nat := 3
  dst   : Nat := 255
  rmask : Nat := 0
  mis   : Bool := false
  str   : Bool := false
  srcs  : List (Src × Nat)     -- vector sources and the widths at which they are read
deriving DecidableEq, Repr

/-- The destination registers of a load. -/
def MemAsk.regs (m : MemAsk) : List Nat := if m.dst = 255 then [] else (List.range (max 1 (m.n / 4))).map (m.dst + ·)

/-- TRAPINFO of a lane trap (R171): an atomic sets the write bit too. -/
def MemAsk.info (m : MemAsk) (lane lop : Nat) : Nat :=
  lane + (if m.kind.stores then 64 else 0) +
    (match m.kind with | .atomic | .atomicN | .cas => 128 | _ => 0) + 256 * lop

/-- The mixing function of a dual-run signature (R106). -/
def mix64 (x : W64) : W64 :=
  let x := x ^^^ (x >>> 33)
  let x := x * 0xFF51AFD7ED558CCD
  let x := x ^^^ (x >>> 33)
  let x := x * 0xC4CEB9FE1A85EC53
  x ^^^ (x >>> 33)
/-- The signature of bytes written from a VA on. -/
def sigOf (va : W64) : List Byte → W64
  | [] => 0
  | b :: r => mix64 (va * 256 + b.zeroExtend 64) + sigOf (va + 1) r
/-- Bytes written by an instance of a dual-run launch are added to its signature. -/
def State.sign (s : State) (cn inst : Nat) (v : W64) : State :=
  s.modCtx cn (fun c => if inst = 0 then { c with siga := c.siga + v } else { c with sigb := c.sigb + v })

/-- A load's destinations are live and unpublished under SET0, its residency mask unpublished (R164, R195). -/
def Group.aim (g : Group) (gw : Nat) (flag : BitVec 4) (regs : List Nat) (rmask : Nat) : Group :=
  { g with
    vregs := regs.foldl (fun v n => modAt v n (·.target gw flag.toNat)) g.vregs
    munpub := if rmask = 0 then g.munpub else g.munpub.set rmask (some flag.toNat) }

/-- The issue of an access whose elements meet `m` and no obstacle: marks, POISON, destinations, and the operation itself. A
second instance of a dual-run launch performs no store (R106). -/
def State.laneIssue (s : State) (e : Env) (f : LaneWord) (q : MemAsk) (a : AccEnv) (m : Met) (ws : List Want) : State :=
  let dead := (q.srcs.flatMap (fun p => p.1.regs p.2)).any (fun n => !(e.g.vreg n).readable)
  let lanes := e.mask f
  let s := (s.lastUse e.r.g (lastUses q.srcs)).modGroup e.r.g (fun g =>
    { (g.aim e.gw e.c.hdr.set0 q.regs q.rmask) with poison := g.poison || dead || e.g.maskUnpub f.msk.toNat })
  let s := { s with store := q.regs.foldl (fun st n => st.cleanseReg e.r.g n lanes) s.store }
  let s := if a.ctx.lr.dual && q.kind == .store then
      s.sign a.cn a.tm.inst (ws.foldl (fun v w => v + sigOf w.va w.data) 0) else s
  let silent := a.ctx.lr.dual && q.kind == .store && a.tm.inst == 1 && ws != []
  let ps := if silent then [] else m.pieces.filter (fun p => !m.missed.contains p.lane)
  let ps := ps.map (fun p => if q.str && p.ca == 0 then { p with ca := 1 } else p)
  let o := { newOp a q.kind (some e.c.id) e.c.at_ e.c.lop with
    aop := q.aop, ty := q.ty, esize := q.n, sx := q.sx, ord := q.ord, scope := q.scope, dst := q.dst, rmask := q.rmask,
    lanes, missed := BitVec.ofNat 64 (maskOf m.missed), heirs := e.c.heirs, sets := setsOf e.c.hdr, since := e.c.since }
  let s := (s.issue a { m with pieces := ps } o).1
  (s.modGroup e.r.g (fun g => { g with splits := modAt g.splits e.r.sp (fun sp => { sp with fails := [] }) })).laneDone e.r

/-- What an instruction's elements meet decides (R172, R141, R144, R195, R196, R106): a fault, a lost die, page service, a
fetch that is awaited, a forbidden peer access, or the issue. -/
def State.laneMet (s : State) (e : Env) (f : LaneWord) (q : MemAsk) (a : AccEnv) (m : Met) (ws : List Want) : State :=
  match m.first with
  | some (code, lane, sub, va) => s.laneTrap e.r e.sp e.c code sub va (q.info lane e.c.lop)
  | none =>
    match m.lost with
    | some d => s.endLost a.cn d
    | none =>
      if q.kind.stores && m.absent != [] then s.deschedule a m.absent true 0
      else if m.follow ≠ [] then s.awaitFollow a m.follow false
      else
        match (if a.ctx.lr.dual then m.pieces.find? (fun p => p.place.remote) else none) with
        | some p => s.laneTrap e.r e.sp e.c 12 0 p.va (q.info p.lane e.c.lop)
        | none =>
          if q.kind.stores then
            match s.drainLoads a (some e.c.id) e.c.since m.pieces with
            | none => s
            | some s => s.laneIssue e f q a m ws
          else s.laneIssue e f q a m ws

/-- A memory instruction (R404): an empty mask has its marks alone (R168); DUAL_RUN for an atomic (R106); waits for earlier
loads into its destinations (R165), for its release condition (R220) and for the HBM budget (R81); a pending remote fault
at a sys release (R176); then what its elements meet. -/
def State.laneMem (s : State) (e : Env) (f : LaneWord) (q : MemAsk) (want : Nat → Want) : State :=
  let lanes := e.lanes (e.mask f)
  if lanes = [] then
    ((s.modGroup e.r.g (fun g => { g with poison := g.poison || e.g.maskUnpub f.msk.toNat })).lastUse e.r.g (lastUses q.srcs)).laneDone e.r
  else
    match s.accEnv e.r.g e.r.sp with
    | none => s
    | some a =>
      let atomic := match q.kind with | .atomic | .atomicN | .cas => true | _ => false
      let rel := q.ord = 2 ∨ q.ord = 3
      if a.ctx.lr.dual && atomic then s.laneTrap e.r e.sp e.c 12 0 0 (q.info (lanes.headD 0) e.c.lop)
      else if s.regsBusy e.r.g q.regs || s.loadIntoMask e.r.g q.rmask || s.hbmFull a.ctx.pent (some a.cn) then s
      else if rel ∧ s.released e.r.g q.scope = false then s
      else if rel ∧ q.scope = 4 ∧ e.g.rfault.pend = true then s.raiseRemote e.r e.c.at_ e.sp.pc true .lane
      else
        let s := if rel then s.performedAtGrp e.r.g else s
        let ws := lanes.map want
        let m := s.meet a e.sp.fails q.kind.acc (q.kind == .cas || q.aop == 0 || q.aop == 6) q.mis ws
        let regs := q.srcs.flatMap (fun p => p.1.regs p.2)
        let m := match s.spoiledLane e.r.g regs lanes with
          | some l => { m with faults := m.faults ++ [(13, l, 0, (want l).va)] }
          | none => m
        if a.switched && m.pieces.any (fun p => p.place.remote && !p.done) then s else s.laneMet e f q a m ws

/-! ### Addresses and fields (R323, R398) -/

def w64Of (f : LaneWord) : Bool := f.rm.getLsbD 1
/-- The VA of a lane. -/
def Env.va (e : Env) (f : LaneWord) (l : Nat) : W64 :=
  if w64Of f then BitVec.ofNat 64 (e.bits f (srcB f) 64 l) + f.imm.signExtend 64
  else BitVec.ofNat 64 (e.bits f (srcA f) 64 l) + (BitVec.ofNat 32 (e.bits f (srcB f) 32 l)).signExtend 64 + f.imm.signExtend 64
def addrSrc (f : LaneWord) : Src × Nat := (srcB f, if w64Of f then 64 else 32)
/-- Bytes of an LD or ST (R398), and the bits of registers that hold them. -/
def sizeOf_ (f : LaneWord) : Nat := 2 ^ modLow f 3
def heldBits (n : Nat) : Nat := if n ≤ 4 then 32 else 8 * n

/-! ### The instructions -/

def execLd (f : LaneWord) (s : State) : Res :=
  withEnv s (fun e => s.laneMem e f
    { kind := .load, n := sizeOf_ f, sx := f.mod.getLsbD 3, ord := memOrder f, scope := memScope f, dst := f.dst.toNat,
      rmask := f.sc.toNat % 8, mis := f.rm.getLsbD 0, str := f.rm.getLsbD 2, srcs := [addrSrc f] }
    (fun l => { lane := l, va := e.va f l, n := sizeOf_ f }))

def execSt (f : LaneWord) (s : State) : Res :=
  withEnv s (fun e => s.laneMem e f
    { kind := .store, n := sizeOf_ f, ord := memOrder f, scope := memScope f, mis := f.rm.getLsbD 0, str := f.rm.getLsbD 2,
      srcs := [addrSrc f, (srcC f, heldBits (sizeOf_ f))] }
    (fun l => { lane := l, va := e.va f l, n := sizeOf_ f,
                data := bytesOf (sizeOf_ f) (e.bits f (srcC f) (8 * sizeOf_ f) l) }))

/-- What ATOM and ATOMN ask for (R400, R401). -/
def atomAsk (f : LaneWord) (kind : OpKind) : MemAsk :=
  { kind, n := tyWidth f.ty / 8, aop := modLow f 4, ty := f.ty, ord := memOrder f, scope := memScope f,
    dst := if kind = .atomic then f.dst.toNat else 255, rmask := if kind = .atomic then f.fs.toNat else 0,
    srcs := [addrSrc f, (srcC f, tyHeld f.ty)] }
def atomWant (f : LaneWord) (e : Env) (l : Nat) : Want :=
  { lane := l, va := e.va f l, n := tyWidth f.ty / 8,
    data := bytesOf (tyWidth f.ty / 8) (e.bits f (srcC f) (tyWidth f.ty) l) }

def execAtom (f : LaneWord) (s : State) : Res := withEnv s (fun e => s.laneMem e f (atomAsk f .atomic) (atomWant f e))
def execAtomn (f : LaneWord) (s : State) : Res := withEnv s (fun e => s.laneMem e f (atomAsk f .atomicN) (atomWant f e))

def execCas (f : LaneWord) (s : State) : Res :=
  withEnv s (fun e =>
    let n := tyWidth f.ty / 8
    s.laneMem e f
      { kind := .cas, n, ty := f.ty, ord := memOrder f, scope := memScope f, dst := f.dst.toNat, rmask := f.fs.toNat,
        srcs := [addrSrc f, (srcC f, 16 * n)] }
      (fun l => { lane := l, va := e.va f l, n,
                  cmp := bytesOf n (e.g.vec f.sc.toNat l (n / 4)), data := bytesOf n (e.g.vec (f.sc.toNat + n / 4) l (n / 4)) }))

/-- PREF in one lane: a line of local memory is brought into the MSC, with STR as first victim (R323), and with LEVEL 0 into L1, but not with
STR; nothing else has an effect. No lease is taken, which the manual leaves free. -/
def State.prefetch (s : State) (a : AccEnv) (l1 str : Bool) (va : W64) : State :=
  match s.translate (some a.core) a.ctx.pent (s.ropeWin a.ctx) va .read with
  | .ok (.mem pa) ca e =>
    if 2 ≤ ca || s.owned pa || s.lost.getLsbD (8 + homeDie pa) || s.store.poisoned (s.shadowed (pa / 128 * 128)) 128 then s
    else
      let s := match e with | some e => s.markLeaf e va.toNat false | none => s
      let line := pa / 128 * 128
      let s := (s.touchPa a.cn pa).charge a.ctx.pent (.grid a.cn) line 128
      let s := if s.cachedAt line a.ctx.pent ca then s.touchLine line a.ctx.pent (some a.cn) (ca == 1 || str) else s
      if l1 && !str && ca == 0 then s.l1Local a.core a.ctx.pent a.g line else s
  | _ => s

/-- PREF never traps: a lane whose address register holds poisoned data does nothing (R403). -/
def execPref (f : LaneWord) (s : State) : Res :=
  withEnv s (fun e =>
    let lanes := e.lanes (e.mask f)
    let regs := (srcB f).regs (if w64Of f then 64 else 32)
    let dead := lanes != [] && regs.any (fun n => !(e.g.vreg n).readable)
    let ok := lanes.filter (fun l => (s.spoiledLane e.r.g regs [l]).isNone)
    let t := (s.lastUse e.r.g (lastUses [addrSrc f])).modGroup e.r.g (fun g => { g with
      poison := g.poison || dead || e.g.maskUnpub f.msk.toNat })
    (match t.accEnv e.r.g e.r.sp with
     | none => t
     | some a => ok.foldl (fun s l => s.prefetch a (!f.mod.getLsbD 0) (f.rm.getLsbD 2) (e.va f l)) t).laneDone e.r)

/-! ### Tiles (R405 to R407) -/

/-- The element of a tile that a coordinate word names: its logical byte offset; none where it fails R405. -/
def Tile.elem? (t : Tile) (word : Nat) : Option Nat :=
  let row := word / 65536
  let col := word % 65536
  if row < t.rows && col < t.cols then some (t.esize * (t.cols * row + col)) else none

/-- Whether TY agrees with a tile's ESIZE (R405). -/
def tileTyOk (atom : Bool) (ty : BitVec 4) (esize : Nat) : Bool :=
  if atom then esize * 8 == tyWidth ty else if tyWidth ty = 64 then esize == 8 else esize == 1 || esize == 2 || esize == 4

/-- A tile instruction: PROTECTION sub-code 5 for the lowest lane that fails (R405), DATA_POISON for a read of a poisoned
element, DUAL_RUN for TATOM on SIDE (R106); a write waits while the tile is a batch operand (R412). -/
def State.laneTile (s : State) (e : Env) (f : LaneWord) (q : MemAsk) (data : Nat → List Byte) : State :=
  let lanes := e.lanes (e.mask f)
  if lanes = [] then
    ((s.modGroup e.r.g (fun g => { g with poison := g.poison || e.g.maskUnpub f.msk.toNat })).lastUse e.r.g (lastUses q.srcs)).laneDone e.r
  else
    match s.accEnv e.r.g e.r.sp with
    | none => s
    | some a =>
      let t := e.g.team
      let h := f.sa.toNat
      let x? := (e.tm.tiles[h]?).join
      let coord (l : Nat) : Nat := e.bits f (srcB f) 32 l
      let place (l : Nat) : Option Nat :=
        x?.bind (fun x => if tileTyOk (q.kind == .atomic || q.kind == .atomicN) f.ty x.esize then x.elem? (coord l) else none)
      let regs := q.srcs.flatMap (fun p => p.1.regs p.2)
      match lanes.find? (fun l => (place l).isNone) with
      | some l => s.laneTrap e.r e.sp e.c 5 5 0 (q.info l e.c.lop)
      | none =>
        match x? with
        | none => s
        | some x =>
          let bad (l : Nat) : Bool := s.store.marked (.tileEntry t h) ||
            (q.kind != .store && (match place l with | some o => s.tilePoison t h x o | none => false))
          match (lanes.find? (fun l => bad l || (s.spoiledLane e.r.g regs [l]).isSome)) with
          | some l => s.laneTrap e.r e.sp e.c 13 0 0 (q.info l e.c.lop)
          | none =>
            if a.ctx.lr.dual && x.level == 2 && (q.kind == .atomic || q.kind == .atomicN) then
              s.laneTrap e.r e.sp e.c 12 0 0 (q.info (lanes.headD 0) e.c.lop)
            else if s.regsBusy e.r.g q.regs || (q.kind.stores && s.tileLocked t h) then s
            else
              let ps := lanes.filterMap (fun l => (place l).map (fun off =>
                let d := (data l).take x.esize
                ({ lane := l, va := BitVec.ofNat 64 off, place := .tile t h off, ca := 2, n := x.esize, sub := 0, data := d, cmp := [],
                   done := false, got := [], miss := false, lanes := [(l, d)] } : Piece)))
              -- the highest-numbered lane's value stands where several write one element
              let ps := if q.kind = .store then ps.filter (fun p => !ps.any (fun r => r.place == p.place && decide (p.lane < r.lane))) else ps
              let s := if x.level = 2 then s.touch a.cn (8 + baseBelow e.tm.die) else s
              let s := if q.kind = .store then { s with store := { s.store with poison := s.store.poison.filter (fun p =>
                  !ps.any (fun r => match r.place with | .tile t' h' off => p == .tile t' h' (off / x.esize) | _ => false)) } } else s
              s.laneIssue e f { q with n := x.esize } a { Met.none_ with pieces := ps } []

def execTld (f : LaneWord) (s : State) : Res :=
  withEnv s (fun e => s.laneTile e f
    { kind := .load, n := tyWidth f.ty / 8, sx := f.mod.getLsbD 3, scope := 1, dst := f.dst.toNat, srcs := [(srcB f, 32)] } (fun _ => []))

def execTst (f : LaneWord) (s : State) : Res :=
  withEnv s (fun e => s.laneTile e f
    { kind := .store, n := tyWidth f.ty / 8, scope := 1, srcs := [(srcB f, 32), (srcC f, tyHeld f.ty)] }
    (fun l => bytesOf 8 (e.bits f (srcC f) (tyWidth f.ty) l)))

def execTatom (f : LaneWord) (s : State) : Res :=
  withEnv s (fun e => s.laneTile e f
    { kind := if f.dst = 255 then .atomicN else .atomic, n := tyWidth f.ty / 8, aop := modLow f 4, ty := f.ty, scope := 1,
      dst := f.dst.toNat, srcs := [(srcB f, 32), (srcC f, tyHeld f.ty)] }
    (fun l => bytesOf (tyWidth f.ty / 8) (e.bits f (srcC f) (tyWidth f.ty) l)))

end Sys2Proof.Machine
end

