-- ==== Sys2Proof/Machine/Retire.lean ====
section
/-!
DEFINITION. The end of groups and teams (R155, R409).
-/

namespace Sys2Proof.Machine

/-- The word that a batch closed by the device itself records. -/
def noFlagClose : Instr := .mclose (laneFields 0xA4FFFFFFFF00000000000010)

/-- The open batch closed with an instruction and a flag; an empty batch where none is open. -/
def Group.closeBatch (g : Group) (i : Instr) (flag : Option Nat) : Group :=
  match g.batches.getLast? with
  | some b =>
    if b.closed then { g with batches := g.batches ++ [⟨[i], true, flag, []⟩] }
    else { g with batches := g.batches.dropLast ++ [⟨b.code ++ [i], true, flag, b.pcs⟩] }
  | none => { g with batches := [⟨[i], true, flag, []⟩] }
/-- The open batch of a group that exits is closed as by MCLOSE.NOFLAG (R409). -/
def Group.closeOpen (g : Group) : Group :=
  match g.batches.getLast? with
  | some b => if b.closed then g else g.closeBatch noFlagClose none
  | none => g

/-- Whether an incomplete copy names a tile of a team (R202). -/
def State.copyNames (s : State) (t h : Nat) : Bool :=
  s.ops.copies.any (fun c => match c.dir with
    | .m2t | .t2m => c.team == t && c.tile == h
    | .t2t => (c.team == t && c.tile == h) || (c.dteam == some t && c.dtile == h)
    | _ => false)

/-- A freed tile's poison marks are gone with it. -/
def State.freeTile (s : State) (t h : Nat) : State :=
  let s := s.modTeam t (fun tm => { tm with tiles := tm.tiles.set h none })
  { s with store := { s.store with poison := s.store.poison.filter (fun p => match p with | .tile t' h' _ | .tileEntry t' h' => !(t' == t && h' == h) | _ => true) } }

/-- The tiles of a team freed, but for those that an incomplete copy names (R202). -/
def State.freeTiles (s : State) (t : Nat) : State :=
  (List.range 64).foldl (fun (s : State) h =>
    match s.team? t with
    | some tm => if ((tm.tiles[h]?).join).isNone || s.copyNames t h then s else s.freeTile t h
    | none => s) s

/-- A group is done when all its splits have exited and its batches have committed (R155, R409); a team retires when all its
groups are done: its tiles are freed (R202). -/
def State.settleTeam (s : State) (t : Nat) : State :=
  match s.team? t with
  | none => s
  | some tm =>
    if tm.state == .running && tm.groups.all (fun g => match s.group? g with | some gr => !gr.live | none => true) then
      ((s.modTeam t (fun tm => { tm with state := .retired })).freeTiles t).modCtx tm.ctx
        (fun c => { c with retired := c.retired + 1 })
    else s

/-- The berths of a group are freed (R253); those that it has from elsewhere are released to their homes (R250). -/
def State.freeBerths (s : State) (g : Nat) : State :=
  { s with berths := { s.berths with
    slots := s.berths.slots.map (fun b => if b.g = some g then { b with state := .free, g := none, waiter := none, filled := false } else b)
    forwards := s.berths.forwards.map (fun f => if f.g = g then { f with freed := true, waiter := none } else f) } }

/-- A group of which no split is present and no batch is left is done: its ACC tiles are freed (R202). -/
def State.settleGroup (s : State) (g : Nat) : State :=
  match s.group? g with
  | none => s
  | some gr =>
    if gr.live && gr.splits.all (fun sp => !sp.status.present) && gr.batches == [] then
      ((s.freeBerths g).modGroup g (fun gr => { gr with live := false, acc := List.replicate 8 none, desched := false, stop := none })).settleTeam gr.team
    else s

end Sys2Proof.Machine
end

