-- ==== Sys2Proof/Machine/ScalarAlu.lean ====
section
/-!
DEFINITION. The scalar ALU group (R340, R341), immediates (R342, R343) and LIW (R344). The value of each operation is a
function of its operands; `scalarOp` does the rest (R339).
-/

namespace Sys2Proof.Machine

/-- Whether an instruction of a split that names these registers waits by R161. -/
def State.scalarWait (s : State) (r : SplitRef) (sp : Split) (rs : List SReg) : Bool :=
  match s.ctxOf? r.g with
  | none => false
  | some c => s.regBusy c.2 sp rs

/-- A scalar instruction of n bytes that writes SD from the scalar registers (R339): it waits by R161 on the registers that
it names. -/
def scalarOp (s : State) (rs : List SReg) (n : W64) (d : SReg) (val : Group → W64) : Res :=
  withIssuer s (fun r g sp => if s.scalarWait r sp rs then s else s.finish r sp n d (val g))

/-! ### Values (R340, R342) -/

def addVal (a b : W64) : W64 := a + b
def subVal (a b : W64) : W64 := a - b
def mulVal (a b : W64) : W64 := a * b
def mulhnVal (a b : W64) : W64 := BitVec.ofNat 64 (a.toNat * b.toNat / 2 ^ 64)
def mulhiVal (a b : W64) : W64 := BitVec.ofInt 64 (a.toInt * b.toInt / 2 ^ 64)
def divnVal (a b : W64) : W64 := if b = 0 then ~~~(0 : W64) else BitVec.ofNat 64 (a.toNat / b.toNat)
def diviVal (a b : W64) : W64 := if b = 0 then ~~~(0 : W64) else BitVec.ofInt 64 (a.toInt.tdiv b.toInt)
def remnVal (a b : W64) : W64 := if b = 0 then a else BitVec.ofNat 64 (a.toNat % b.toNat)
def remiVal (a b : W64) : W64 := if b = 0 then a else BitVec.ofInt 64 (a.toInt.tmod b.toInt)
def andVal (a b : W64) : W64 := a &&& b
def orVal (a b : W64) : W64 := a ||| b
def xorVal (a b : W64) : W64 := a ^^^ b
def andnVal (a b : W64) : W64 := a &&& ~~~b
def shlVal (a b : W64) : W64 := a <<< (b.toNat % 64)
def shrVal (a b : W64) : W64 := a >>> (b.toNat % 64)
def sraVal (a b : W64) : W64 := a.sshiftRight (b.toNat % 64)
def minnVal (a b : W64) : W64 := if a.toNat ≤ b.toNat then a else b
def miniVal (a b : W64) : W64 := if a.toInt ≤ b.toInt then a else b
def maxnVal (a b : W64) : W64 := if a.toNat ≤ b.toNat then b else a
def maxiVal (a b : W64) : W64 := if a.toInt ≤ b.toInt then b else a
def seqVal (a b : W64) : W64 := if a = b then 1 else 0
def sneVal (a b : W64) : W64 := if a = b then 0 else 1
def sltnVal (a b : W64) : W64 := if a.toNat < b.toNat then 1 else 0
def sltiVal (a b : W64) : W64 := if a.toInt < b.toInt then 1 else 0
/-- CLZ and POPC. -/
def clzVal (a : W64) : W64 := BitVec.ofNat 64 (clz 64 a.toNat)
def popcVal (a : W64) : W64 := BitVec.ofNat 64 (popc 64 a.toNat)

/-! ### The ALU group -/

def execAdd (d a b : SReg) (s : State) : Res := scalarOp s [d, a, b] 4 d (fun g => addVal (g.sreg a) (g.sreg b))
def execSub (d a b : SReg) (s : State) : Res := scalarOp s [d, a, b] 4 d (fun g => subVal (g.sreg a) (g.sreg b))
def execMul (d a b : SReg) (s : State) : Res := scalarOp s [d, a, b] 4 d (fun g => mulVal (g.sreg a) (g.sreg b))
def execMulhn (d a b : SReg) (s : State) : Res := scalarOp s [d, a, b] 4 d (fun g => mulhnVal (g.sreg a) (g.sreg b))
def execMulhi (d a b : SReg) (s : State) : Res := scalarOp s [d, a, b] 4 d (fun g => mulhiVal (g.sreg a) (g.sreg b))
def execDivn (d a b : SReg) (s : State) : Res := scalarOp s [d, a, b] 4 d (fun g => divnVal (g.sreg a) (g.sreg b))
def execDivi (d a b : SReg) (s : State) : Res := scalarOp s [d, a, b] 4 d (fun g => diviVal (g.sreg a) (g.sreg b))
def execRemn (d a b : SReg) (s : State) : Res := scalarOp s [d, a, b] 4 d (fun g => remnVal (g.sreg a) (g.sreg b))
def execRemi (d a b : SReg) (s : State) : Res := scalarOp s [d, a, b] 4 d (fun g => remiVal (g.sreg a) (g.sreg b))
def execAnd (d a b : SReg) (s : State) : Res := scalarOp s [d, a, b] 4 d (fun g => andVal (g.sreg a) (g.sreg b))
def execOr (d a b : SReg) (s : State) : Res := scalarOp s [d, a, b] 4 d (fun g => orVal (g.sreg a) (g.sreg b))
def execXor (d a b : SReg) (s : State) : Res := scalarOp s [d, a, b] 4 d (fun g => xorVal (g.sreg a) (g.sreg b))
def execAndn (d a b : SReg) (s : State) : Res := scalarOp s [d, a, b] 4 d (fun g => andnVal (g.sreg a) (g.sreg b))
def execShl (d a b : SReg) (s : State) : Res := scalarOp s [d, a, b] 4 d (fun g => shlVal (g.sreg a) (g.sreg b))
def execShr (d a b : SReg) (s : State) : Res := scalarOp s [d, a, b] 4 d (fun g => shrVal (g.sreg a) (g.sreg b))
def execSra (d a b : SReg) (s : State) : Res := scalarOp s [d, a, b] 4 d (fun g => sraVal (g.sreg a) (g.sreg b))
def execMinn (d a b : SReg) (s : State) : Res := scalarOp s [d, a, b] 4 d (fun g => minnVal (g.sreg a) (g.sreg b))
def execMini (d a b : SReg) (s : State) : Res := scalarOp s [d, a, b] 4 d (fun g => miniVal (g.sreg a) (g.sreg b))
def execMaxn (d a b : SReg) (s : State) : Res := scalarOp s [d, a, b] 4 d (fun g => maxnVal (g.sreg a) (g.sreg b))
def execMaxi (d a b : SReg) (s : State) : Res := scalarOp s [d, a, b] 4 d (fun g => maxiVal (g.sreg a) (g.sreg b))
def execSeq (d a b : SReg) (s : State) : Res := scalarOp s [d, a, b] 4 d (fun g => seqVal (g.sreg a) (g.sreg b))
def execSne (d a b : SReg) (s : State) : Res := scalarOp s [d, a, b] 4 d (fun g => sneVal (g.sreg a) (g.sreg b))
def execSltn (d a b : SReg) (s : State) : Res := scalarOp s [d, a, b] 4 d (fun g => sltnVal (g.sreg a) (g.sreg b))
def execSlti (d a b : SReg) (s : State) : Res := scalarOp s [d, a, b] 4 d (fun g => sltiVal (g.sreg a) (g.sreg b))
def execClz (d a : SReg) (s : State) : Res := scalarOp s [d, a] 4 d (fun g => clzVal (g.sreg a))
def execPopc (d a : SReg) (s : State) : Res := scalarOp s [d, a] 4 d (fun g => popcVal (g.sreg a))

/-! ### Immediates -/

def execAddi (d a : SReg) (i : BitVec 14) (s : State) : Res :=
  scalarOp s [d, a] 4 d (fun g => addVal (g.sreg a) (i.signExtend 64))
def execAndi (d a : SReg) (i : BitVec 14) (s : State) : Res :=
  scalarOp s [d, a] 4 d (fun g => andVal (g.sreg a) (i.signExtend 64))
def execOri (d a : SReg) (i : BitVec 14) (s : State) : Res :=
  scalarOp s [d, a] 4 d (fun g => orVal (g.sreg a) (i.signExtend 64))
def execXori (d a : SReg) (i : BitVec 14) (s : State) : Res :=
  scalarOp s [d, a] 4 d (fun g => xorVal (g.sreg a) (i.signExtend 64))
def execSltin (d a : SReg) (i : BitVec 14) (s : State) : Res :=
  scalarOp s [d, a] 4 d (fun g => sltnVal (g.sreg a) (i.signExtend 64))
def execSltii (d a : SReg) (i : BitVec 14) (s : State) : Res :=
  scalarOp s [d, a] 4 d (fun g => sltiVal (g.sreg a) (i.signExtend 64))
def execShli (d a : SReg) (n : BitVec 6) (s : State) : Res :=
  scalarOp s [d, a] 4 d (fun g => shlVal (g.sreg a) (n.zeroExtend 64))
def execShri (d a : SReg) (n : BitVec 6) (s : State) : Res :=
  scalarOp s [d, a] 4 d (fun g => shrVal (g.sreg a) (n.zeroExtend 64))
def execSrai (d a : SReg) (n : BitVec 6) (s : State) : Res :=
  scalarOp s [d, a] 4 d (fun g => sraVal (g.sreg a) (n.zeroExtend 64))

/-! ### LIW (R344) -/

def execLiwSx (d : SReg) (imm : W32) (s : State) : Res := scalarOp s [d] 8 d (fun _ => imm.signExtend 64)
def execLiwZx (d : SReg) (imm : W32) (s : State) : Res := scalarOp s [d] 8 d (fun _ => imm.zeroExtend 64)
def execLiwHi (d : SReg) (imm : W32) (s : State) : Res :=
  scalarOp s [d] 8 d (fun g => imm ++ (g.sreg d).extractLsb' 0 32)

end Sys2Proof.Machine
end

