-- ==== Sys2Proof/Machine/ScalarFlow.lean ====
section
/-!
DEFINITION. Scalar loads and stores (R345, R346), branches and jumps (R347 to R349), divergence, JOIN and EXIT (R350, R351),
RUN, WAITF and SEG (R352 to R356), and words that are no instruction (R315).
-/

namespace Sys2Proof.Machine

/-- A scalar instruction that names these registers (R161), in a context. -/
def scalarRun (s : State) (rs : List SReg) (f : SplitRef → Group → Split → State) : Res :=
  withIssuer s (fun r g sp => if s.scalarWait r sp rs then s else f r g sp)

/-! ### Loads and stores -/

/-- Whether a scalar access of a split must wait for accesses that precede it in program order (R217, R404). -/
def State.scalarHeldBy (s : State) (a : AccEnv) (r : SplitRef) : Bool :=
  match s.group? r.g with
  | some g => s.scalarHeld g r || s.inheritedMem a.ctx g r.sp
  | none => false

/-- The bytes that a scalar store writes are counted in a dual-run signature; the second instance stores nothing (R106). -/
def State.scalarStore (s : State) (r : SplitRef) (sp : Split) (sop : Nat) (a : AccEnv) (m : Met) (va : W64) (data : List Byte) : State :=
  match s.drainLoads a none 0 m.pieces with
  | none => s
  | some s =>
    let s := if a.ctx.lr.dual then s.sign a.cn a.tm.inst (sigOf va data) else s
    let s := if a.ctx.lr.dual && a.tm.inst == 1 then s
      else (s.issue a m { newOp a .scalarStore none sp.pc sop with esize := data.length }).1
    s.finish0 r { sp with fails := [] } 4

/-- A scalar load: local memory answers at once; else the split waits for what it has asked for. -/
def State.scalarLoad (s : State) (r : SplitRef) (sp : Split) (sop : Nat) (a : AccEnv) (m : Met) (d : SReg) (n : Nat) : State :=
  let p := s.issue a m { newOp a .scalarLoad none sp.pc sop with esize := n, sd := d }
  (p.1.modGroup r.g (fun g => { g with splits := modAt g.splits r.sp (fun _ => { sp with waitOp := some p.2 }) })).scalarReturn r

/-- A scalar access (R345): the HBM budget (R81), then what its one element meets (R171, R196, R141, R144, R106). -/
def State.scalarMem (s : State) (r : SplitRef) (sp : Split) (sop : Nat) (va : W64) (n : Nat) (store : Option (List Byte)) (d : SReg) : State :=
  match s.accEnv r.g r.sp with
  | none => s
  | some a =>
    if s.hbmFull a.ctx.pent (some a.cn) || s.scalarHeldBy a r then s
    else
      let acc : Acc := if store.isSome then .write else .read
      let m := s.meet a sp.fails acc true false [{ lane := 0, va, n, data := store.getD [] }]
      match m.first with
      | some (code, _, sub, va) => s.scalarTrap r sp code sub va sop
      | none =>
        match m.lost with
        | some die => s.endLost a.cn die
        | none =>
          if m.absent ≠ [] then s.deschedule a m.absent store.isSome 1
          else if m.follow ≠ [] then s.awaitFollow a m.follow true
          else if a.ctx.lr.dual && m.pieces.any (fun p => p.place.remote) then s.scalarTrap r sp 12 0 va sop
          else if a.switched && m.pieces.any (fun p => p.place.remote && !p.done) then s
          else
            match store with
            | some data => s.scalarStore r sp sop a m va data
            | none => s.scalarLoad r sp sop a m d n

def execSlw (d a : SReg) (i : BitVec 14) (s : State) : Res :=
  scalarRun s [d, a] (fun r g sp => s.scalarMem r sp 0x0C (g.sreg a + i.signExtend 64) 4 none d)
def execSld (d a : SReg) (i : BitVec 14) (s : State) : Res :=
  scalarRun s [d, a] (fun r g sp => s.scalarMem r sp 0x0D (g.sreg a + i.signExtend 64) 8 none d)
def execSsw (d a : SReg) (i : BitVec 14) (s : State) : Res :=
  scalarRun s [d, a] (fun r g sp =>
    s.scalarMem r sp 0x0E (g.sreg a + i.signExtend 64) 4 (some (bytesOf 4 (g.sreg d).toNat)) 63)
def execSsd (d a : SReg) (i : BitVec 14) (s : State) : Res :=
  scalarRun s [d, a] (fun r g sp =>
    s.scalarMem r sp 0x0F (g.sreg a + i.signExtend 64) 8 (some (bytesOf 8 (g.sreg d).toNat)) 63)

/-! ### Branches and jumps -/

/-- COND (R310): SA is the left operand; 6 and 7 are illegal. -/
def condHolds (c : BitVec 3) (a b : W64) : Option Bool :=
  match c.toNat with
  | 0 => some (a == b)
  | 1 => some (a != b)
  | 2 => some (decide (a.toNat < b.toNat))
  | 3 => some (decide (b.toNat ≤ a.toNat))
  | 4 => some (decide (a.toInt < b.toInt))
  | 5 => some (decide (b.toInt ≤ a.toInt))
  | _ => none

/-- A word offset in bytes. -/
def wordOff {w : Nat} (o : BitVec w) : W64 := 4 * o.signExtend 64

/-- The split goes on at an address. -/
def State.goTo (s : State) (r : SplitRef) (sp : Split) (pc : W64) : State := s.putSplit r { sp.advance 0 with pc }

/-- The same, at an address that must be 4-byte aligned (R311, R348). -/
def State.goToAligned (s : State) (r : SplitRef) (sp : Split) (pc : W64) : State :=
  if pc.extractLsb' 0 2 = (0 : BitVec 2) then s.goTo r sp pc else s.scalarTrap r sp 4 0 0 0

def execBrc (a b : SReg) (c : BitVec 3) (o : BitVec 11) (s : State) : Res :=
  scalarRun s [a, b] (fun r g sp =>
    match condHolds c (g.sreg a) (g.sreg b) with
    | none => s.illegal r sp 0x10
    | some true => s.goTo r sp (sp.pc + wordOff o)
    | some false => s.goTo r sp (sp.pc + 4))

def execJmp (o : BitVec 26) (s : State) : Res := scalarRun s [] (fun r _ sp => s.goTo r sp (sp.pc + wordOff o))

/-- The link register, s62 (R6). -/
def lk : SReg := 62

def execCall (o : BitVec 26) (s : State) : Res :=
  scalarRun s [] (fun r _ sp => (s.modGroup r.g (fun g => g.setSreg lk (sp.pc + 4))).goTo r sp (sp.pc + wordOff o))
def execRet (s : State) : Res := scalarRun s [] (fun r g sp => s.goToAligned r sp (g.sreg lk))
def execJmpr (a : SReg) (s : State) : Res := scalarRun s [a] (fun r g sp => s.goToAligned r sp (g.sreg a))
def execNop (s : State) : Res := scalarRun s [] (fun r _ sp => s.finish0 r sp 4)
def execIllegalInstr (w : W32) (s : State) : Res := withIssuer s (fun r _ sp => s.illegal r sp (sop w).toNat)

/-! ### Divergence (R152) -/

/-- The lowest split number that is not present. -/
def Group.freeSplit (g : Group) : Option Nat := indexOf? g.splits (fun sp => !sp.status.present)

/-- Whether a clause that the split enqueued earlier still writes mask register m (R350), or may, for all that can be read of it. -/
def State.maskBusy (s : State) (g : Nat) (sp : Split) (m : Nat) : Bool :=
  m != 0 && (match s.ctxOf? g with
    | some c => sp.runq.any (fun e => s.unreadClause c.2 e.addr) || (s.pendingCode c.2 sp).any (fun i => laneMaskDst i == some m)
    | none => false)

/-- Split n is formed from split r (R217): it inherits the place in program order of what the split has issued and enqueued. What its
number stood for before is over. -/
def State.inherit (s : State) (r : SplitRef) (n : Nat) : State :=
  let drop (l : List Nat) : List Nat := l.filter (· != n)
  let give (mine : Bool) (l : List Nat) : List Nat := if mine then n :: drop l else drop l
  let op (o : MOp) : MOp :=
    if o.g = r.g then
      { o with heirs := give (o.ofSplit r.g r.sp) o.heirs, fenced := give (o.fenced.contains r.sp) o.fenced, past := o.past || o.sp == n }
    else o
  let entry (own : Bool) (e : RunEntry) : RunEntry := { e with heirs := give (own || e.heirs.contains r.sp) e.heirs }
  let run (own : Bool) (c : ClauseRun) : ClauseRun :=
    { c with heirs := give (own || c.heirs.contains r.sp) c.heirs, fenced := give (c.fenced.contains r.sp) c.fenced }
  { s with
    ops := { s.ops with mops := s.ops.mops.map op }
    exec := { s.exec with groups := modAt s.exec.groups r.g (fun g => { g with splits := (withIndex g.splits).map (fun p =>
      { p.2 with runq := p.2.runq.map (entry (p.1 == r.sp)), clause := p.2.clause.map (run (p.1 == r.sp)) }) }) } }

/-- BSPL's effect. A split that it forms inherits the program order of its parent (R217). A lane of a mask that is not published is not
taken, inverted or not (R195, R350). -/
def State.bspl (s : State) (r : SplitRef) (g : Group) (sp : Split) (m : Nat) (inv : Bool) (tgt jn : W16) : State :=
  let sel := g.maskReg m sp.mask
  let taken := if g.maskUnpub m then 0 else sp.mask &&& (if inv then ~~~sel else sel)
  let nt := sp.mask &&& ~~~taken
  let target := sp.pc + wordOff tgt
  let next := sp.pc + 8
  let s := if g.maskUnpub m then s.modGroup r.g (fun g => { g with poison := true }) else s
  if taken = 0 then s.goTo r sp next
  else if nt = 0 then s.goTo r sp target
  else if sp.stack.length < 8 then
    match (if sp.stack = [] then g.freeSplit else none) with
    | some n =>
      let new : Split := { Split.absent with status := .ready, pc := target, mask := taken, age := s.now, fsc := sp.fsc }
      let s := s.inherit r n
      let sp := match s.group? r.g with | some g => g.split r.sp | none => sp
      (s.modGroup r.g (fun g => { g with splits := g.splits.set n new })).goTo r { sp with mask := nt } next
    | none =>
      s.goTo r { sp with mask := taken, stack := { join := sp.pc + wordOff jn, mask := nt, fall := next } :: sp.stack } target
  else s.scalarTrap r sp 3 1 0 0x13

def execBspl (m : BitVec 3) (inv : Bool) (tgt jn : W16) (s : State) : Res :=
  scalarRun s [] (fun r g sp => if s.maskBusy r.g sp m.toNat then s else s.bspl r g sp m.toNat inv tgt jn)

/-- A split waits at JOIN with its siblings (R153, R154). -/
def State.waitJoin (s : State) (r : SplitRef) (sp : Split) : State :=
  s.putSplit r { sp with status := .join, wval := sp.pc }

def execJoin (s : State) : Res :=
  scalarRun s [] (fun r _ sp =>
    if !sp.clausesIssued then s
    else
      match sp.stack with
      | [] => s.waitJoin r sp
      | e :: rest =>
        if e.join ≠ sp.pc then s.scalarTrap r sp 3 2 0 0
        else if !e.fall.getLsbD 0 then
          s.goTo r { sp with mask := e.mask, stack := { e with mask := sp.mask, fall := e.fall ||| 1 } :: rest } e.fall
        else
          let sp' := { sp with mask := sp.mask ||| e.mask, stack := rest }
          if rest = [] then s.waitJoin r sp' else s.goTo r sp' (sp.pc + 4))

/-- EXIT with an empty split stack: the last split of a group waits for the release counter and raises a pending remote
fault (R155). -/
def State.exitSplit (s : State) (r : SplitRef) (g : Group) (sp : Split) : State :=
  let gone := { sp with status := .exited, mask := 0 }
  let last := (withIndex g.splits).all (fun p => p.1 == r.sp || !p.2.status.present)
  if !last then s.putSplit r gone
  else if s.relCount r.g ≠ 0 then s
  else if g.rfault.pend then s.raiseRemote r sp.pc sp.pc false .scalar
  else ((s.putSplit r gone).modGroup r.g (·.closeOpen)).settleGroup r.g

def execExit (s : State) : Res :=
  scalarRun s [] (fun r g sp =>
    if sp.handler.isSome then s.illegal r sp 0
    else if !sp.clausesIssued then s
    else
      match sp.stack with
      | [] => s.exitSplit r g sp
      | e :: rest =>
        if !e.fall.getLsbD 0 then
          s.goTo r { sp with mask := e.mask, stack := { e with mask := 0, fall := e.fall ||| 1 } :: rest } e.fall
        else s.goTo r { sp with mask := e.mask, stack := rest } e.join)

/-! ### Clauses, flags, segments -/

/-- Entries of the RUN queue, the clause in progress among them (R158). -/
def Split.queued (sp : Split) : Nat := sp.runq.length + (if sp.clause.isSome then 1 else 0)

def execRun (i : BitVec 26) (s : State) : Res :=
  scalarRun s [] (fun r g sp =>
    if sp.handler.isSome then s.illegal r sp 0x14
    else if 4 ≤ sp.queued then s
    else
      match s.ctxOf? r.g with
      | none => s
      | some c =>
        let e : RunEntry := { addr := c.2.lr.lbase + 4 * i.zeroExtend 64, mask := sp.mask, snap := g.sregs.take 32, since := s.ops.nextId }
        s.finish0 r { sp with runq := sp.runq ++ [e] } 4)

/-- Whether a clause of the split that has not started names a flag of the mask in SET0 or SET1 (R353), or may, for all that can be read
of its header. -/
def State.flagAhead (s : State) (c : Ctx) (sp : Split) (m : BitVec 12) : Bool :=
  sp.runq.any (fun e => match s.peekHeader c e.addr with
    | some h => setsOf h &&& m != 0
    | none => m != 0 && (List.range 3).any (fun i => s.unread4 c (e.addr + 4 * BitVec.ofNat 64 i)))

def execWaitf (any : Bool) (m : BitVec 12) (s : State) : Res :=
  scalarRun s [] (fun r g sp =>
    match s.ctxOf? r.g with
    | none => s
    | some c =>
      let seen := g.flags &&& m
      let holds := m == 0 || (if any then seen != 0 else seen == m)
      if s.flagAhead c.2 sp m || !holds then
        s.putSplit r { sp with status := .waitf, wflags := (if any then (0x8000 : W16) else 0) ||| m.zeroExtend 16 }
      else
        let s := ((s.observe r.g seen).modGroup r.g (fun g => g.publish (seen.zeroExtend 16))).fencePassed r (fun sets => sets &&& seen != 0)
        let sp := match s.group? r.g with | some g => g.split r.sp | none => sp
        s.finish0 r { sp with age := if sp.status = .waitf then s.now else sp.age } 4)

def execSeg (w : BitVec 3) (s : State) : Res :=
  scalarRun s [] (fun r g sp =>
    match s.ctxOf? r.g with
    | none => s
    | some c =>
      if sp.handler.isSome ∨ w = 0 ∨ w = 7 ∨ c.2.lr.gw < 2 ^ w.toNat then s.illegal r sp 0x16
      else if g.splits.any (fun t => !t.clausesIssued) then s
      else (s.modGroup r.g (fun g => { g with segw := 2 ^ w.toNat })).finish0 r sp 4)

end Sys2Proof.Machine
end

