-- ==== Sys2Proof/Machine/Sync.lean ====
section
/-!
DEFINITION. Team and cluster barriers (R356 to R359), fences (R222, R360), tiles: TALLOC, TFREE, TINFO (R361 to R364).
-/

namespace Sys2Proof.Machine

/-! ### Team barriers -/

/-- The lanes of a split. -/
def Split.lanes (sp : Split) : Nat := popc 64 sp.mask.toNat

/-- Before an arrival: earlier clauses have issued, and the release condition holds at a scope (R357). -/
def State.mayArrive (s : State) (r : SplitRef) (scope : Nat) : Bool :=
  (match s.group? r.g with | some g => g.earlierIssued r.sp | none => false) && s.released r.g scope

/-- An arrival of a group's split on a barrier. -/
def Barrier.arrive (b : Barrier) (g lanes : Nat) : Barrier :=
  { b with larr := b.larr + lanes, arrived := if b.arrived.contains g then b.arrived else b.arrived ++ [g] }

/-- A split is replaced without a look at the JOINs of its group, which follows (R154). -/
def State.blockOn (s : State) (r : SplitRef) (sp : Split) : State := s.modGroup r.g (fun g => { g with splits := g.splits.set r.sp sp })
def State.settleJoins (s : State) (g : Nat) : State := s.modGroup g (·.settle s.now)

/-- A split blocked in the wait part of a barrier instruction. -/
def Split.onBar (sp : Split) (st : Status) (n : Nat) (par arrived : Bool) (d : SReg) : Split :=
  { sp with status := st, wbar := n, wpar := par, arrived, wreg := d }

/-- The wait part of a SYNC that is issued again after its arrival was counted, or of a WAIT that waits on for its phase (R447, R462): it
is over if the phase has completed since, and else the split blocks. -/
def State.rejoin (s : State) (r : SplitRef) (sp : Split) (b : Barrier) (st : Status) (n : Nat) (sync : Bool) (d : SReg) : State :=
  if b.parity = sp.wpar then s.putSplit r (sp.onBar st n sp.wpar sync d)
  else s.finish r sp 4 d (if b.lastErr then 1 else 0)

/-- A TBAR operation on barrier n of the split's team, with the registers that it names. -/
def tbarRun (s : State) (rs : List SReg) (n : BitVec 4) (f : SplitRef → Group → Split → Barrier → State) : Res :=
  scalarRun s rs (fun r g sp =>
    match s.team? g.team with
    | none => s
    | some tm => f r g sp (tm.bars.getD n.toNat Barrier.zero))

def execTbarArrive (d : SReg) (n : BitVec 4) (s : State) : Res :=
  tbarRun s [d] n (fun r g sp _ =>
    if !s.mayArrive r 1 then s
    else ((s.performedAtGrp r.g).finish r sp 4 d 0).barEvent g.team n.toNat (·.arrive r.g sp.lanes))

def execTbarWait (d : SReg) (n : BitVec 4) (s : State) : Res :=
  tbarRun s [d] n (fun r _ sp b =>
    if sp.arrived then s.rejoin r sp b .tbar n.toNat false d else s.putSplit r (sp.onBar .tbar n.toNat b.parity false d))

def execTbarSync (d : SReg) (n : BitVec 4) (s : State) : Res :=
  tbarRun s [d] n (fun r g sp b =>
    if sp.arrived then s.rejoin r sp b .tbar n.toNat true d
    else if !s.mayArrive r 1 then s
    else (((s.performedAtGrp r.g).blockOn r (sp.onBar .tbar n.toNat b.parity true d)).barEvent g.team n.toNat (·.arrive r.g sp.lanes)).settleJoins r.g)

def execTbarExpect (d a b : SReg) (n : BitVec 4) (s : State) : Res :=
  tbarRun s [d, a, b] n (fun r g sp bar =>
    let l := (g.sreg a).toNat
    let y := (g.sreg b).toNat
    if 2 ^ 32 ≤ l ∨ 2 ^ 32 ≤ bar.lquota + l ∨ 2 ^ 64 ≤ bar.bquota + y then s.finish r sp 4 d 2
    else (s.finish r sp 4 d 0).barEvent g.team n.toNat (fun bar => { bar with lquota := bar.lquota + l, bquota := bar.bquota + y }))

def execTbarAddb (d b : SReg) (n : BitVec 4) (s : State) : Res :=
  tbarRun s [d, b] n (fun r g sp _ =>
    (s.finish r sp 4 d 0).barEvent g.team n.toNat (fun bar => { bar with barr := bar.barr + (g.sreg b).toNat }))

/-- The state word of R358. -/
def Barrier.word (b : Barrier) (waiting : Nat) : W64 :=
  BitVec.ofNat 64 (b.larr % 2 ^ 32 * 2 ^ 32 + waiting % 2 ^ 16 * 2 ^ 16 + (if b.err then 2 else 0) + (if b.parity then 1 else 0))

def execTbarTest (d : SReg) (n : BitVec 4) (s : State) : Res :=
  tbarRun s [d] n (fun r g sp b =>
    s.finish r sp 4 d (b.word (match s.team? g.team with | some tm => s.waiting tm n.toNat | none => 0)))

/-! ### Cluster barriers -/

/-- A CBAR operation, with the team that holds the cluster barrier. -/
def cbarRun (s : State) (d : SReg) (f : SplitRef → Split → Nat → Barrier → State) : Res :=
  scalarRun s [d] (fun r g sp =>
    match s.team? g.team with
    | none => s
    | some tm =>
      match s.team? tm.lead with
      | none => s
      | some ld => f r sp tm.lead ld.cbar)

/-- An arrival on the cluster barrier, followed by what it completes. -/
def State.cbarArrive (s : State) (lead g lanes : Nat) : State :=
  (s.modTeam lead (fun tm => { tm with cbar := tm.cbar.arrive g lanes })).settleCbar lead

def execCbarArrive (d : SReg) (s : State) : Res :=
  cbarRun s d (fun r sp lead _ =>
    if !s.mayArrive r 2 then s else ((s.performedAtGrp r.g).finish r sp 4 d 0).cbarArrive lead r.g sp.lanes)

def execCbarWait (d : SReg) (s : State) : Res :=
  cbarRun s d (fun r sp _ b =>
    if sp.arrived then s.rejoin r sp b .cbar 0 false d else s.putSplit r (sp.onBar .cbar 0 b.parity false d))

def execCbarSync (d : SReg) (s : State) : Res :=
  cbarRun s d (fun r sp lead b =>
    if sp.arrived then s.rejoin r sp b .cbar 0 true d
    else if !s.mayArrive r 2 then s
    else (((s.performedAtGrp r.g).blockOn r (sp.onBar .cbar 0 b.parity true d)).cbarArrive lead r.g sp.lanes).settleJoins r.g)

/-! ### Fences (R222) -/

/-- The acquire part of a FENCE, once it may act: L1 (R220), the journal's 0x07 point (R278), and for SC at sys scope F
(R229). -/
def State.fenceAcquire (s : State) (r : SplitRef) (scope : Nat) (sc : Bool) : State :=
  let s := if 2 ≤ scope then s.acquire r.g else s
  let s := if scope = 4 then s.sysAcquire r.g r.sp else s
  if sc && scope == 4 then
    s.modGroup r.g (fun g => { g with splits := modAt g.splits r.sp (fun sp => { sp with fsc := s.now }) })
  else s

/-- A FENCE with a release part, an acquire part, or both; SC adds R229. It comes after every earlier clause, and after an acquiring access
has returned (R404). An acquire at sys scope waits for its record (R279). At sys scope a FENCE raises a pending remote fault (R176, R360;
of FENCE.ACQ R360 alone says so: log entry 36). -/
def fenceRun (s : State) (scope : BitVec 3) (rel acq sc : Bool) : Res :=
  scalarRun s [] (fun r g sp =>
    let n := scope.toNat
    let rel := rel || n == 0
    if 5 ≤ n then s.illegal r sp 0x1A
    else if !g.earlierIssued r.sp || s.acquiring r.g r.sp then s
    else if rel && !s.released r.g n then s
    else if n == 4 && g.rfault.pend then s.raiseRemote r sp.pc sp.pc false .scalar
    else if acq && !s.loadsFixed r.g r.sp then s
    else if acq && n == 4 && s.acquireHeld r.g then s
    else
      let s := if rel then s.performedAtGrp r.g else s
      let s := (if acq then s.fenceAcquire r n sc else s).fencePassed r (fun _ => true)
      match s.group? r.g with
      | none => s
      | some g => s.finish0 r (g.split r.sp) 4)

def execFenceAcq (x : BitVec 3) (s : State) : Res := fenceRun s x false true false
def execFenceRel (x : BitVec 3) (s : State) : Res := fenceRun s x true false false
def execFenceAr (x : BitVec 3) (s : State) : Res := fenceRun s x true true false
def execFenceSc (x : BitVec 3) (s : State) : Res := fenceRun s x true true true

/-! ### Tiles (R200 to R204) -/

def Tile.size (t : Tile) : Nat := t.rows * t.cols * t.esize
/-- What a tile draws on its capacity: whole chunks of 512 bytes. -/
def chunked (n : Nat) : Nat := (n + 511) / 512 * 512
def AccTile.size (a : AccTile) : Nat := a.rows * a.cols * a.esize

/-- What a team's tiles of a level draw. -/
def Team.drawn (t : Team) (level : Nat) : Nat :=
  (t.tiles.map (fun x => match x with | some x => if x.level = level then chunked x.size else 0 | none => 0)).sum
/-- What a group's ACC tiles draw. -/
def Group.accDrawn (g : Group) : Nat := (g.acc.map (fun a => match a with | some a => a.size | none => 0)).sum

/-- The SIDE pool of a partition on a base die (R203): 8 MiB for each way that both registers name. -/
def State.sidePool (s : State) (pent bd : Nat) : Nat :=
  popc 24 ((s.partEnt pent).mscways &&& (s.memctl.sideways.getD bd 0).truncate 24).toNat * 0x800000
/-- What the SIDE tiles of a partition's teams draw on a base die. -/
def State.sideDrawn (s : State) (pent bd : Nat) : Nat :=
  (s.exec.teams.map (fun t => match s.ctx? t.ctx with
    | some c => if c.pent = pent ∧ baseBelow t.die = bd then t.drawn 2 else 0
    | none => 0)).sum

/-- The shapes of R200. -/
def shapeOk (level rows cols esize : Nat) : Bool :=
  let dims := 1 ≤ rows && rows ≤ 4096 && 1 ≤ cols && cols ≤ 4096 && rows * cols * esize ≤ 0x100000
  if level = 1 then
    dims && rows % 16 == 0 && cols % 16 == 0 && rows ≤ 128 && cols ≤ 128 && (esize == 4 || esize == 8) && rows * cols * esize ≤ 0x10000
  else dims && (esize == 1 || esize == 2 || esize == 4 || esize == 8)

/-- The outcome of TALLOC (R201). -/
def State.tallocStatus (s : State) (g : Group) (tm : Team) (c : Ctx) (level h rows cols esize : Nat) : Nat :=
  let used := if level = 1 then h < 8 && ((g.acc[h]?).join).isSome else level != 3 && ((tm.tiles[h]?).join).isSome
  let size := rows * cols * esize
  let bd := baseBelow tm.die
  if used then 1
  else if level = 3 ∨ (level = 1 ∧ 8 ≤ h) ∨ shapeOk level rows cols esize = false then 2
  else if level = 2 ∧ (s.feat Config.featSide = false ∨ s.sidePool c.pent bd = 0) then 4
  else if level = 0 then (if c.lr.spmb < tm.drawn 0 + chunked size then 3 else 0)
  else if level = 1 then (if c.lr.accb < g.accDrawn + size then 3 else 0)
  else if s.sidePool c.pent bd < s.sideDrawn c.pent bd + chunked size then 3
  else 0

/-- A new tile: every element zero, the map clear (R202). -/
def newTile (level rows cols esize : Nat) : Tile := { level, rows, cols, esize, err := false, map := 0, data := [] }
def newAcc (rows cols esize : Nat) : AccTile := { rows, cols, esize, atype := 0, ctype := 0, data := [] }

/-- Whether the entry of the tile table that a tile instruction reads, at a level, is marked poisoned (R261, R266): it is not used. -/
def State.entrySpoiled (s : State) (t level h : Nat) : Bool := level != 1 && level != 3 && s.store.marked (.tileEntry t h)

def execTalloc (d a b : SReg) (l : BitVec 2) (h : SReg) (s : State) : Res :=
  scalarRun s [d, a, b] (fun r g sp =>
    match s.team? g.team, s.ctxOf? r.g with
    | some tm, some (cn, c) =>
      if !sp.clausesIssued then s
      else if s.entrySpoiled g.team l.toNat h.toNat then s.scalarTrap r sp 13 0 0 0x20
      else
        let rows := (g.sreg a).toNat / 2 ^ 32
        let cols := (g.sreg a).toNat % 2 ^ 32
        let esize := (g.sreg b).toNat
        let st := s.tallocStatus g tm c l.toNat h.toNat rows cols esize
        let s :=
          if st ≠ 0 then s
          else if l = 1 then s.modGroup r.g (fun g => { g with acc := g.acc.set h.toNat (some (newAcc rows cols esize)) })
          else
            let s := s.modTeam g.team (fun tm => { tm with tiles := tm.tiles.set h.toNat (some (newTile l.toNat rows cols esize)) })
            let s : State := { s with store := s.store.clearMark (.tileEntry g.team h.toNat) }
            if l = 2 then (s.touch cn (8 + baseBelow tm.die)).useFeat cn Config.featSide else s
        s.finish r sp 4 d (BitVec.ofNat 64 st)
    | _, _ => s)

/-- Whether a matrix batch of the group that has not committed uses an ACC tile. -/
def Group.accLocked (g : Group) (h : Nat) : Bool :=
  g.batches.any (fun b => b.code.any (fun i => match i with
    | .mma f | .fmma f | .aclr f | .ald f => f.dst.toNat == 64 + h
    | .mmac f => f.dst.toNat == 64 + h || f.sa.toNat == 64 + h
    | .acvt f => f.sa.toNat == 64 + h
    | _ => false))

/-- Whether an element of a tile is still to be accessed by an instruction that has issued: TFREE comes after it (R364). -/
def State.tileAsked (s : State) (t h : Nat) : Bool :=
  s.ops.mops.any (fun o => o.pieces.any (fun p => !p.done && (match p.place with | .tile t' h' _ => t' == t && h' == h | _ => false)))

def execTfree (d : SReg) (l : BitVec 2) (h : SReg) (s : State) : Res :=
  scalarRun s [d] (fun r g sp =>
    match s.team? g.team with
    | none => s
    | some tm =>
      let n := h.toNat
      if !sp.clausesIssued then s
      else if s.entrySpoiled g.team l.toNat n then s.scalarTrap r sp 13 0 0 0x21
      else if l = 3 ∨ (l = 1 ∧ 8 ≤ n) then s.finish r sp 4 d 2
      else if l = 1 then
        if ((g.acc[n]?).join).isNone then s.finish r sp 4 d 1
        else if g.accLocked n then s
        else
          let s : State := { s with store := s.store.clearAcc r.g n }
          (s.modGroup r.g (fun g => { g with acc := g.acc.set n none })).finish r sp 4 d 0
      else if ((tm.tiles[n]?).join).isNone then s.finish r sp 4 d 1
      else if s.copyNames g.team n || s.tileLocked g.team n || s.tileAsked g.team n then s
      else (s.freeTile g.team n).finish r sp 4 d 0)

/-- The description word of R363. -/
def tinfoWord (err : Bool) (level atype esize rows cols : Nat) : W64 :=
  BitVec.ofNat 64 ((if err then 2 ^ 49 else 0) + 2 ^ 48 + level * 2 ^ 40 + atype * 2 ^ 36 + esize * 2 ^ 32 + rows * 2 ^ 16 + cols)

def execTinfo (d : SReg) (l : BitVec 2) (h : SReg) (s : State) : Res :=
  scalarRun s [d] (fun r g sp =>
    match s.team? g.team with
    | none => s
    | some tm =>
      let n := h.toNat
      let v : W64 :=
        if l = 3 then 0
        else if l = 1 then
          match (g.acc[n]?).join with
          | some a => tinfoWord false 1 a.atype a.esize a.rows a.cols
          | none => 0
        else
          match (tm.tiles[n]?).join with
          | some t => tinfoWord t.err t.level 0 t.esize t.rows t.cols
          | none => 0
      if s.entrySpoiled g.team l.toNat n then s.scalarTrap r sp 13 0 0 0x22
      else s.finish r sp 4 d v)

end Sys2Proof.Machine
end

