-- ==== Sys2Proof/Machine/Copies.lean ====
section
/-!
DEFINITION. Copies (R233 to R235, R425 to R433): the tensor layout record, what a copy moves, the landing of a chunk, its
completion and its faults; and what the answer to a remote request does (R241, R243).
-/

namespace Sys2Proof.Machine

/-! ### The tensor layout record (R427, R428) -/

/-- The reduction of a rope-reduce FORMAT (R258): operation and type; none for 0 and for a code above 15. -/
def redFormat (n : Nat) : Option (Nat × BitVec 4) :=
  ([(0, 8), (0, 9), (0, 11), (0, 10), (0, 1), (0, 3), (1, 8), (2, 8), (1, 1), (2, 1), (1, 0), (2, 0), (3, 13), (4, 13), (5, 13)] :
    List (Nat × BitVec 4))[n - 1]?.bind (fun x => if n = 0 then none else some x)

/-- The fields of a record. -/
def Layout.ofBytes (b : List Byte) : Layout :=
  { base := wordOf 64 (b.take 8), spans := fieldAt b 8 1, esize := fieldAt b 9 1, format := fieldAt b 10 1, edge := fieldAt b 11 1,
    fill := BitVec.ofNat 32 (fieldAt b 12 4), extent := (List.range 5).map (fun i => fieldAt b (16 + 4 * i) 4),
    trans := fieldAt b 0x24 1 % 2 == 1, pitch := (List.range 4).map (fun i => BitVec.ofNat 64 (fieldAt b (0x28 + 8 * i) 8)),
    win := (List.range 5).map (fun i => fieldAt b (0x48 + 2 * i) 2) }

/-- WIN1 × … × WIN(SPANS − 1). -/
def Layout.outer (l : Layout) : Nat := ((l.win.take l.spans).drop 1).foldl (· * ·) 1

/-- Whether a record is valid for a direction (R427). -/
def layoutOk (red : Bool) (b : List Byte) : Bool :=
  let l := Layout.ofBytes b
  let inside (d : Nat) : Bool := decide (d < l.spans)
  decide (fieldAt b 0x24 1 < 2) && zeroAt b 0x25 3 && zeroAt b 0x52 46 &&
  decide (1 ≤ l.spans ∧ l.spans ≤ 5) && (l.esize == 1 || l.esize == 2 || l.esize == 4 || l.esize == 8) &&
  decide (l.edge ≤ 4) && !(l.edge == 1 && l.esize == 1) &&
  (if red then
     (match redFormat l.format with | some (_, t) => tyWidth t == 8 * l.esize | none => false) &&
     l.edge == 0 && !l.trans && l.spans == 1 && l.win.getD 0 0 == l.extent.getD 0 0
   else l.format == 0) &&
  (List.range 5).all (fun d => (l.extent.getD d 0 != 0) == inside d && (l.win.getD d 0 != 0) == inside d) &&
  (List.range 4).all (fun i => inside (i + 1) || l.pitch.getD i 0 == 0) &&
  l.base.toNat % l.esize == 0 && l.pitch.all (fun p => p.toNat % l.esize == 0) &&
  decide (l.win.getD 0 0 ≤ 4096) && decide (l.outer ≤ 4096)

/-- A window element: its row and column from ROWOFF 0, its VA, and whether it lies in the tensor. -/
structure WinElem where
  row : Nat
  col : Nat
  va  : W64
  inb : Bool
deriving DecidableEq, Repr

/-- The digits of a number in mixed radix, lowest first. -/
def digits : List Nat → Nat → List Nat
  | [], _ => []
  | w :: r, i => i % w :: digits r (i / w)

/-- Window element number i in window order, e0 running fastest (R428). -/
def Layout.elem (l : Layout) (coords : List W64) (i : Nat) : WinElem :=
  let e := digits (l.win.take l.spans) i
  let ext := l.extent.take l.spans
  let x := (withIndex e).map (fun p => ((coords.getD p.1 0).truncate 32 : W32).toInt + (p.2 : Int))
  let inb := (x.zip ext).all (fun p => decide (0 ≤ p.1 ∧ p.1 < (p.2 : Int)))
  let y := (x.zip ext).map (fun p =>
    if inb then p.1 else if l.edge = 3 then clampInt 0 ((p.2 : Int) - 1) p.1 else if l.edge = 4 then p.1 % (p.2 : Int) else p.1)
  let off := (withIndex y).foldl (fun (a : Int) p =>
    a + p.2 * (if p.1 = 0 then (l.esize : Int) else ((l.pitch.getD (p.1 - 1) 0).toNat : Int))) 0
  let e0 := e.headD 0
  let out := i / l.win.getD 0 1
  { row := if l.trans then e0 else out, col := if l.trans then out else e0, va := l.base + BitVec.ofInt 64 off, inb }

def Layout.elems (l : Layout) (coords : List W64) : List WinElem := (List.range (l.win.getD 0 0 * l.outer)).map (l.elem coords)

/-- The fill of an element outside the tensor. -/
def Layout.fillBytes (l : Layout) : List Byte :=
  match l.edge with
  | 1 => bytesOf l.esize (if l.esize = 2 then fmtF16.qnan else if l.esize = 4 then fmtF32.qnan else fmtF64.qnan)
  | 2 => bytesOf l.esize (l.fill.signExtend 64).toNat
  | _ => List.replicate l.esize 0

/-- Whether a tile takes a window from a row on (R428). -/
def Layout.fits (l : Layout) (t : Tile) (rowoff : Nat) : Bool :=
  let w := l.win.getD 0 0
  t.esize == l.esize &&
  (if l.trans then decide (l.outer ≤ t.cols ∧ rowoff + w ≤ t.rows) else decide (w ≤ t.cols ∧ rowoff + l.outer ≤ t.rows))

/-! ### What a copy moves -/

/-- One end of a move. -/
inductive MoveEnd where
  | mem (va : W64)
  | tile (off : Nat)
  | fill (b : List Byte)
deriving DecidableEq, Repr

/-- One element: from, to, its bytes, its chunk. -/
structure Move where
  src : MoveEnd
  dst : MoveEnd
  n   : Nat
  k   : Nat
deriving DecidableEq, Repr

/-- Of moves to one place in memory, the last stands (R428). -/
def lastOnly : List Move → List Move
  | [] => []
  | m :: r => if r.any (fun x => x.dst == m.dst) then lastOnly r else m :: lastOnly r

/-- The chunk of a byte of a destination in memory: by address, counted from the chunk of the first byte (log entry 20). -/
def memChunk (first va : W64) : Nat := va.toNat / 512 - first.toNat / 512

/-- The moves of a dray copy, in window order. -/
def State.plan (s : State) (c : Copy) : List Move :=
  match c.dir with
  | .m2t =>
    match s.tile? c.team c.tile, c.lay with
    | some t, some l => (l.elems c.coords).map (fun e =>
        let off := ((c.rowoff + e.row) * t.cols + e.col) * l.esize
        { src := if e.inb || l.edge == 3 || l.edge == 4 then .mem e.va else .fill l.fillBytes, dst := .tile off, n := l.esize, k := off / 512 })
    | _, _ => []
  | .t2m =>
    match s.tile? c.team c.tile, c.lay with
    | some t, some l => lastOnly (((l.elems c.coords).filter (fun e => e.inb || l.edge == 4)).map (fun e =>
        let off := ((c.rowoff + e.row) * t.cols + e.col) * l.esize
        { src := .tile off, dst := .mem e.va, n := l.esize, k := off / 512 }))
    | _, _ => []
  | .t2t =>
    match s.tile? c.team c.tile, c.dteam.bind (s.tile? · c.dtile) with
    | some a, some d => (List.range (a.rows * a.cols)).map (fun i =>
        let off := c.rowoff * d.cols * d.esize + i * a.esize
        { src := .tile (i * a.esize), dst := .tile off, n := a.esize, k := off / 512 })
    | _, _ => []
  | .red =>
    match c.lay with
    | some l => (List.range (l.extent.getD 0 0)).map (fun i =>
        let d := c.dest + BitVec.ofNat 64 (i * l.esize)
        { src := .mem (l.base + BitVec.ofNat 64 (i * l.esize)), dst := .mem d, n := l.esize, k := memChunk c.dest d })
    | none => []
  | .mem => []

/-- How many chunks a COPY packet's copy has. -/
def Copy.memChunks (c : Copy) : Nat := memChunk c.dest (c.dest + BitVec.ofNat 64 (c.len - 1)) + 1
/-- The moves of a chunk of a COPY packet's copy, byte by byte. -/
def Copy.memMoves (c : Copy) (k : Nat) : List Move :=
  let lo := max c.dest.toNat ((c.dest.toNat / 512 + k) * 512)
  let hi := min (c.dest.toNat + c.len) ((c.dest.toNat / 512 + k + 1) * 512)
  (List.range (hi - lo)).map (fun i =>
    { src := .mem (c.src + BitVec.ofNat 64 (lo - c.dest.toNat + i)), dst := .mem (BitVec.ofNat 64 (lo + i)), n := 1, k })

def moveBytes (l : List Move) : Nat := (l.map (·.n)).sum

/-- Whether chunk k is still to land, and none of it is on its way. -/
def Copy.awaits (c : Copy) (k : Nat) : Bool :=
  c.fault.isNone && c.page.isNone && !c.landed.contains k && !c.sent.contains k &&
  (match c.dir with | .mem => decide (k < c.memChunks) | _ => c.chunks.contains k)
/-- Whether every chunk has landed. -/
def Copy.allLanded (c : Copy) : Bool :=
  match c.dir with
  | .mem => c.landed.length == c.memChunks
  | _ => c.chunks.all c.landed.contains
/-- Whether the destination is memory (R235). -/
def Copy.toMem (c : Copy) : Bool := match c.dir with | .t2m | .red | .mem => true | _ => false

/-! ### Records of copies -/

def State.copy? (s : State) (id : Nat) : Option Copy := s.ops.copies.find? (fun c => c.id == id)
def State.modCopy (s : State) (id : Nat) (f : Copy → Copy) : State :=
  { s with ops := { s.ops with copies := s.ops.copies.map (fun c => if c.id = id then f c else c) } }
def State.dropCopy (s : State) (id : Nat) : State := { s with ops := { s.ops with copies := s.ops.copies.filter (fun c => c.id != id) } }

/-- The team whose barrier and, for a tile, whose chunk map a copy changes (R429). -/
def Copy.dstTeam (c : Copy) : Option Nat := match c.dir with | .t2t => c.dteam | .mem => none | _ => some c.team
/-- The destination tile of a copy. -/
def Copy.dstTile (c : Copy) : Option (Nat × Nat) :=
  match c.dir with
  | .m2t => some (c.team, c.tile)
  | .t2t => c.dteam.map (·, c.dtile)
  | _ => none

/-- The flag of a copy set at its completion (R162, R235). -/
def Group.copyFlag (g : Group) (f : Nat) (mem : Bool) : Group :=
  let g := g.setFlag f
  if mem then { g with mflags := g.mflags ||| BitVec.ofNat 12 (2 ^ f) } else g

/-- The tiles of a team that has retired go once no copy names them (R202). -/
def State.freeRetired (s : State) (t : Nat) : State :=
  match s.team? t with
  | some tm => if tm.state == .retired then s.freeTiles t else s
  | none => s

/-- The contributions to a rope reduce that is over are given up. -/
def State.dropParts (s : State) (c : Copy) : State :=
  match c.dir, c.ctx.bind s.ctx? with
  | .red, some x => { s with ropes := { s.ropes with parts := s.ropes.parts.filter (fun p => !(p.rope == x.ropeId && p.seq == c.seq)) } }
  | _, _ => s

/-- A member whose rope reduce has failed says so to the others, whose copies then end with COLLECTIVE (log entry 115). -/
def State.redFailed (s : State) (c : Copy) : State :=
  match c.dir, c.ctx.bind s.ctx? with
  | .red, some x =>
    let m : RedPart := { rope := x.ropeId, rank := BitVec.ofNat 8 x.rank, seq := c.seq, shape := [], unit := 0, data := [], pois := false, bad := true }
    ((s.ropeWin x).elim [] (·.2)).foldl (fun (s : State) d =>
      if s.fabric.slot != some d && s.linkUp d then s.sendAs (.part) d 0x01 (BitVec.ofNat 2 c.cls) (s.origin c.pent) false (.contribution m) else s) s
  | _, _ => s

/-- A copy is over: its GWCT joins the group's, its flag is set (R430). -/
def State.endCopy (s : State) (c : Copy) : State :=
  let s := (s.dropCopy c.id).dropParts c
  let s := match c.dir with
    | .mem => s
    | _ => (match c.dteam with | some t => (s.freeRetired c.team).freeRetired t | none => s.freeRetired c.team)
  match c.g with
  | none => s
  | some g => s.modGroup g (fun gr =>
      let gr := gr.passGwct c.gwct
      match c.flag with | some f => gr.copyFlag f c.toMem | none => gr)

/-- The bytes that a landed chunk adds to BAR: a restarted copy skips what it had counted (R433). -/
def State.countCopy (s : State) (c : Copy) (n : Nat) : State :=
  let add := n - c.prior
  let s := s.modCopy c.id (fun c => { c with counted := c.counted + add, prior := c.prior - n })
  match (if c.cnt then c.dstTeam else none) with
  | some t => s.barEvent t c.bar (fun b => { b with barr := b.barr + add })
  | none => s

/-- A fault ends a copy (R431, R432): the bytes not yet counted (none after LAYOUT) and ERR in BAR, the error bit of the chunk
map, the flag, the copy fault event. A COPY packet keeps its fault for COPY_COMPLETE. -/
def State.copyFault (s : State) (c : Copy) (reason : Nat) (va : W64) (aux : Nat) : State :=
  match c.dir with
  | .mem => s.modCopy c.id (fun c => { c with fault := some (reason, va, aux), owned := [], page := none })
  | _ =>
    let rest := if reason = 1 then 0 else c.total - c.counted
    let s := match (if c.cnt then c.dstTeam else none) with
      | some t => s.barEvent t c.bar (fun b => { b with barr := b.barr + rest, err := true })
      | none => s
    let s := match c.dstTile with
      | some (t, h) => s.modTile t h (fun x => { x with err := true })
      | none => s
    let (dir, tile) := match c.dir with | .m2t => (0, c.tile) | .t2m => (1, c.tile) | .t2t => (2, c.tile) | _ => (3, 0xFF)
    let linear := match s.team? c.team with | some t => t.linear | none => 0xFFFFFFFF
    let group := match c.g.bind s.group? with | some g => g.index | none => 0xFF
    let tag := match c.ctx.bind s.ctx? with | some x => x.tag | none => 0
    let s := s.event (s.fnOfQueue c.queue) 7 (partOf c.pent) (subOf c.pent)
      (bytesOf 8 s.now ++ bytesOf 1 reason ++ bytesOf 1 dir ++ bytesOf 1 tile ++ bytesOf 1 group ++ bytesOf 4 linear ++
        bytesOf 8 va.toNat ++ bytesOf 8 c.bytes ++ bytesOf 4 tag.toNat ++ bytesOf 2 c.queue ++ bytesOf 1 aux ++ List.replicate 9 0)
    (if reason = 5 && c.poison.isSome then s else s.redFailed c).endCopy c

/-- Whether bytes of a copy, or of a chunk of it, are on their way to a peer. -/
def State.copyFlying (s : State) (id : Nat) (k : Option Nat) : Bool :=
  s.ops.reqs.any (fun r => r.copy && r.op == id && (match k with | some k => r.piece == k | none => true))

/-- Where an end in memory lies, whatever owns its line. -/
def State.endPlace (s : State) (c : Copy) (va : W64) (k : Acc) : Option Place :=
  match s.translate none c.pent ((c.ctx.bind s.ctx?).bind s.ropeWin) va k with
  | .ok p _ _ => some p
  | _ => none

/-- Whether every chunk that holds bytes of a poisoned source sector read so far has landed (R431). -/
def State.poisonLanded (s : State) (c : Copy) : Bool :=
  let near := match c.dir with
    | .mem => (c.landed.flatMap (fun k => [k - 1, k, k + 1])).filter (· < c.memChunks)
    | _ => c.chunks
  let all := s.plan c
  let bad (m : Move) : Bool := match m.src with
    | .mem va => (match s.endPlace c va .read with | some p => c.seen.any (fun x => x.1 == p.key && x.2.2) | none => false)
    | _ => false
  near.all (fun k => c.landed.contains k ||
    !(match c.dir with | .mem => c.memMoves k | .red => [] | _ => all.filter (fun m => m.k == k)).any bad)

/-- A copy completes once every chunk has landed and every write is acknowledged (R430): with a POISON fault once the chunks of a
poisoned sector have landed (R431). A COPY packet's waits for COPY_COMPLETE. -/
def State.settleCopy (s : State) (id : Nat) : State :=
  match s.copy? id with
  | none => s
  | some c =>
    match c.poison with
    | some va => if c.fault.isNone && s.poisonLanded c then s.copyFault c 5 va 0 else s
    | none =>
      if c.allLanded && !s.copyFlying id none && !s.caches.held.any (fun h => h.id == id && h.rsp.result == .nack) && c.dir != .mem then
        s.endCopy c
      else s

/-- A chunk lands (R430): its bit, and its bytes. -/
def State.landChunk (s : State) (id k n : Nat) : State :=
  match s.copy? id with
  | none => s
  | some c =>
    let s := s.modCopy id (fun c => { c with landed := c.landed ++ [k], sent := c.sent.filter (· != k), bytes := c.bytes + n })
    let s := match c.dstTile with
      | some (t, h) => s.modTile t h (fun x => { x with map := x.map ||| 2 ^ k })
      | none => s
    (s.countCopy c n).settleCopy id

/-! ### Reading and writing the ends of a move -/

/-- What stops a chunk for now, or ends its copy. -/
inductive CopyStop where
  | fault (reason : Nat) (va : W64) (aux : Nat)
  | page (va : W64) (write : Bool)
  | follow (va : W64)
  | wait
  | dual
  | lost (die : Nat)
deriving DecidableEq, Repr

/-- Where an end in memory lies. A line that another copy owns is waited for: to read it in any case, to write it where that copy was
issued earlier, whose write comes first (R233). -/
def State.copySpot (s : State) (c : Copy) (va : W64) (k : Acc) : Except CopyStop (Place × Nat × Option TlbEntry) :=
  let ctx := c.ctx.bind s.ctx?
  match s.translate none c.pent (ctx.bind s.ropeWin) va k with
  | .prot sub => .error (.fault 3 va sub)
  | .key => .error (.fault 4 va 0)
  | .poison => .error (.fault 5 va 0)
  | .nonres p => .error (.page p k.writes)
  | .follow p => .error (.follow p)
  | .ok p ca e =>
    if p.remote && (match ctx with | some x => x.lr.dual | none => false) then .error .dual
    else
      match p with
      | .mem pa =>
        if s.lost.getLsbD (8 + homeDie pa) then .error (.lost (homeDie pa))
        else if s.ops.copies.any (fun d => (if k.writes then decide (d.id < c.id) else d.id != c.id) && inRanges d.owned (pa / 128)) then .error .wait
        else .ok (p, ca, e)
      | _ => .ok (p, ca, e)

/-- What the moves of a chunk have read so far. -/
structure CopyRun where
  s    : State
  seen : List ((Nat × Nat) × (List Byte × Bool))
  need : List (Place × W64)              -- the sectors of peers that have not come, with a VA in each
  dead : Bool                            -- a dead frame was read
  out  : List (List Byte × Option W64)   -- per move its bytes, and the VA where they were poisoned
  stop : Option CopyStop

def CopyRun.got (r : CopyRun) (b : List Byte) (bad : Option W64) : CopyRun := { r with out := r.out ++ [(b, bad)] }
def CopyRun.halt (r : CopyRun) (x : CopyStop) : CopyRun := { r with stop := some x }

/-- A request of chunk k of a copy to a peer. -/
def State.copyReq (s : State) (c : Copy) (k id : Nat) (p : Place) (kind : ReqKind) : RemoteReq :=
  { id, src := s.fabric.slot.getD 0, dst := p.slot, part := partBits c.pent, sub := subBits c.pent, pgen := (s.partEnt c.pent).gen,
    rope := (match p with | .rope .. => (c.ctx.bind s.ctx?).map (·.ropeId) | _ => none), addr := BitVec.ofNat 64 p.off,
    key := (match p with | .peer _ _ k => k | _ => 0), lease := none, notime := !s.leasing, kind, cls := BitVec.ofNat 2 c.cls, op := (c.id, k + 1) }

/-- Whose budgets a copy's traffic counts against (R81, R92). -/
def Copy.payer (c : Copy) : Payer := match c.ctx with | some cn => .grid cn | none => .part
/-- The sector of a remote place. -/
def Place.sector : Place → Place
  | .peer s off k => .peer s (off / 32 * 32) k
  | .rope r s off => .rope r s (off / 32 * 32)
  | p => p

/-- The source of one move read: a sector, of this device or of a peer, once for the whole copy (R234). A sector reached through a peer
address or a rope window that has not come is noted. -/
def State.copyRead (c : Copy) (r : CopyRun) (m : Move) : CopyRun :=
  if r.stop.isSome then r
  else
    let s := r.s
    match m.src with
    | .fill b => r.got b none
    | .tile off =>
      match s.tile? c.team c.tile with
      | none => r.got (List.replicate m.n 0) none
      | some t => r.got (t.bytes off m.n) (if s.tilePoison c.team c.tile t off then some 0 else none)
    | .mem va =>
      match s.copySpot c va .read with
      | .error x => r.halt x
      | .ok (p, ca, e) =>
        let mark (s : State) : State := match e with | some e => s.markLeaf e va.toNat false | none => s
        let take (l : List Byte) (a : Nat) : List Byte := (l.drop (a % 32)).take m.n
        match r.seen.find? (fun x => x.1 == p.key), p with
        | some x, .mem a | some x, .host a => r.got (take x.2.1 a) (if x.2.2 then some va else none)
        | some x, .peer _ a _ | some x, .rope _ _ a => r.got (take x.2.1 a) (if x.2.2 then some va else none)
        | none, .mem pa =>
          let bad := s.store.poisoned (s.shadowed pa) 1
          let dead := s.deadAt pa
          let s := (match c.ctx with | some cn => s.touchPa cn pa | none => s).charge c.pent c.payer pa 32
          let (s, d) := (mark s).homeRead c.pent c.ctx ca (ca == 1) (pa / 32 * 32) 32
          { r with s, dead := r.dead || dead, seen := r.seen ++ [(p.key, (d, bad))] }.got (take d pa) (if bad then some va else none)
        | none, .host h =>
          let d := s.store.hostBytes (h / 32 * 32) 32
          { r with s := mark s, seen := r.seen ++ [(p.key, (d, false))] }.got (take d h) none
        | none, .tile .. | some _, .tile .. => r.halt (.fault 3 va 0)
        | none, p =>
          { r with s := mark s, need := if r.need.any (fun x => x.1 == p.sector) then r.need else r.need ++ [(p.sector, va)] }.got
          (List.replicate m.n 0) none

/-- Where a destination in memory lies, with the bytes that go there. -/
structure PutAt where
  va  : W64
  p   : Place
  ca  : Nat
  e   : Option TlbEntry
  b   : List Byte
  bad : Bool
deriving DecidableEq, Repr

/-- The destinations of moves. -/
def State.copyPuts (s : State) (c : Copy) : List (Move × (List Byte × Option W64)) → Except CopyStop (List PutAt)
  | [] => .ok []
  | (m, b) :: r =>
    match m.dst with
    | .mem va =>
      match s.copySpot c va .write with
      | .error x => .error x
      | .ok (p, ca, e) =>
        match s.copyPuts c r with
        | .error x => .error x
        | .ok l => .ok ({ va, p, ca, e, b := b.1, bad := b.2.isSome } :: l)
    | _ => s.copyPuts c r

/-- The destinations at peers by sector: each sector is written as one event (R234). -/
def putSectors (ps : List PutAt) : List (List PutAt) :=
  let rs := ps.filter (·.p.remote)
  (dedup (rs.map (fun x => x.p.sector))).map (fun p => rs.filter (fun x => x.p.sector == p))
/-- What a sector's write asks of its home: its bytes by place and which of them, or where they lie side by side a store of them. -/
def sectorStore (xs : List PutAt) : Nat × ReqKind :=
  let ws := xs.flatMap (fun x => (withIndex x.b).map (fun ib => (x.p.off % 32 + ib.1, ib.2)))
  let data := (List.range 32).map (fun i => ((ws.filter (fun w => w.1 == i)).getLast?.map (·.2)).getD 0)
  let mask : W32 := BitVec.ofNat 32 (maskOf (ws.map (·.1)))
  match maskRuns mask 32 0 with
  | [(i, n)] => (i, .store ((data.drop i).take n) (n == 32))
  | _ => (0, .sector data mask)

/-- One destination in local or host memory written: GWCT of the write joins the copy's. None when the write must wait
(R147). -/
def State.copyPut (s : State) (c : Copy) (x : PutAt) : Option State :=
  let s := match x.e with | some e => s.markLeaf e x.va.toNat true | none => s
  match x.p with
  | .mem pa =>
    let s := (match c.ctx with | some cn => s.touchPa cn pa | none => s).charge c.pent c.payer pa x.b.length
    (s.homeWrite c.pent c.ctx x.ca (x.ca == 1) pa x.b).map (fun s =>
      let s := if !s.leasing && s.leasesOn (pa / 128) != [] then
          s.recall c.id 0 { id := c.id, src := s.fabric.slot.getD 0, part := partBits c.pent, sub := subBits c.pent, pgen := 0, result := .nack } (pa / 128)
        else s
      let g := if s.leasing then s.gwctAt pa else s.now
      s.modCopy c.id (fun c => { c with gwct := max c.gwct g }))
  | .host h => some { s with store := s.store.hostPut h x.b }
  | _ => some s

/-- Poison of the sectors written: cleared where a sector is covered whole, set where what came was poisoned (R266, R431). -/
def State.copyPoison (s : State) (ps : List PutAt) : State :=
  let mems := ps.filterMap (fun x => match x.p with | .mem pa => some (s.shadowed pa, x.b.length, x.bad) | _ => none)
  (dedup (mems.map (fun x => x.1 / 32))).foldl (fun s k =>
    let mine := mems.filter (fun x => x.1 / 32 == k)
    let st := if 32 ≤ (mine.map (·.2.1)).sum then s.store.cleanse (32 * k) 32 else s.store
    { s with store := if mine.any (·.2.2) then st.spoil (.sector (32 * k)) else st }) s

/-- The record of a request of a copy. -/
def State.keepReq (s : State) (c : Copy) (k : Nat) (r : RemoteReq) : State :=
  let s := match c.ctx with | some cn => s.useFeat cn Config.featFab | none => s
  { s with ops := { s.ops with reqs := s.ops.reqs ++
    [{ id := r.id, op := c.id, piece := k, copy := true, req := r, pent := c.pent, sentAt := s.now, cn := c.ctx, stale := false }] } }

/-- A request to this device itself waits, as one of a peer would (R240). -/
def State.holdOwn (s : State) (r : RemoteReq) (page : W64) : State :=
  { s with ops := { s.ops with inbound := s.ops.inbound ++ [{ req := r, at_ := s.now, pent := (s.reqPart r).getD 0, page }] } }

/-- The write of a sector of a peer, in the copy's class (R425), poisoned where its source was (R266): served at once at this device itself,
else listed for the message to its target. -/
def State.copySend (s : State) (c : Copy) (k : Nat) (xs : List PutAt) : State × List RemoteReq :=
  match xs with
  | [] => (s, [])
  | x :: _ =>
    let id := s.ops.nextId
    let w := sectorStore xs
    let base := s.copyReq c k id x.p.sector w.2
    let r : RemoteReq := { base with addr := base.addr + BitVec.ofNat 64 w.1, pois := xs.any (·.bad) }
    let s := { s with ops := { s.ops with nextId := id + 1 } }
    let s := s.dropAt x.p
    let s := xs.foldl (fun (s : State) x => match x.e with | some e => s.markLeaf e x.va.toNat true | none => s) s
    if s.selfPlace x.p then
      match s.serve r with
      | .answer s (.ok _ g _) => (s.modCopy c.id (fun c => { c with gwct := max c.gwct g.toNat }), [])
      | .answer s (.fault reason) => (match s.copy? c.id with | some c => s.copyFault c 6 x.va reason.toNat | none => s, [])
      | .answer s .nack => (match s.copy? c.id with | some c => s.copyFault c 6 x.va 12 | none => s, [])
      | .late s => (s.keepReq c k r, [])
      | .hold s page => ((s.keepReq c k r).holdOwn r page, [])
    else (s.keepReq c k r, [r])

/-- The lines that destinations in local memory lie on. -/
def putLines (ps : List PutAt) : List Nat :=
  dedup (ps.filterMap (fun x => match x.p with | .mem pa => some (pa / 128) | _ => none))
/-- A line taken out of ranges of lines. -/
def subRange (l : List (Nat × Nat)) (x : Nat) : List (Nat × Nat) :=
  l.flatMap (fun r => if r.1 ≤ x ∧ x < r.1 + r.2 then [(r.1, x - r.1), (x + 1, r.1 + r.2 - x - 1)].filter (fun q => 0 < q.2) else [r])

/-- Bytes written to a tile element, with its poison (R266). -/
def State.tilePut (s : State) (t h off : Nat) (b : List Byte) (bad : Bool) : State :=
  match s.tile? t h with
  | none => s
  | some x =>
    let s := s.modTile t h (fun x => x.put off b)
    let loc : PoisonLoc := .tile t h (off / x.esize)
    let st := { s.store with poison := s.store.poison.filter (· != loc) }
    { s with store := if bad then st.spoil loc else st }

/-! ### The landing of a chunk -/

/-- An element of a rope reduce (R258), from every member's source element by rank. -/
def redElem (fmt : Nat × BitVec 4) (esize : Nat) (xs : List (List Byte)) : List Byte :=
  bytesOf esize (canonReduce (fun a b => (redOp fmt.1 fmt.2 0 a b).1) 0 8 (xs.map natOf))

/-- What members must agree in (R258): reduction type, element size and extent. -/
def Copy.shape (c : Copy) : List Nat := match c.lay with | some l => [l.format, l.esize, l.extent.getD 0 0] | none => []
/-- A member's contribution to a rope reduce, if it has come (or, of this member, been made). -/
def State.redPart (s : State) (x : Ctx) (c : Copy) (rank unit : Nat) : Option RedPart :=
  s.ropes.parts.find? (fun p => p.rope == x.ropeId && p.rank.toNat == rank && p.seq == c.seq && p.unit == unit)
/-- Contributions are kept, one of each member and unit. -/
def State.addPart (s : State) (m : RedPart) : State :=
  { s with ropes := { s.ropes with parts := m :: s.ropes.parts.filter (fun p =>
      !(p.rope == m.rope && p.rank == m.rank && p.seq == m.seq && p.unit == m.unit)) } }
/-- A contribution is sent to every other member; none when a link to one of them is down. -/
def State.sendPart (s : State) (c : Copy) (slots : List (BitVec 7)) (m : RedPart) : Option State :=
  let others := slots.filter (fun d => s.fabric.slot != some d)
  if others.all s.linkUp then
    some (others.foldl (fun (s : State) d => s.sendAs c.payer d 0x01 (BitVec.ofNat 2 c.cls) (s.origin c.pent) m.pois (.contribution m)) s)
  else none

/-- What a stop does: a page request and a stall of this copy alone (R431), the fetch of a following page, the end of the
context, or a fault. -/
def State.copyStop (s : State) (c : Copy) (x : CopyStop) : State :=
  let names : W16 × W32 := match c.ctx.bind s.ctx? with
    | some ctx => (BitVec.ofNat 16 ctx.queue, ctx.index)
    | none => (BitVec.ofNat 16 c.queue, c.idx)
  match x with
  | .fault r va aux => s.copyFault c r va aux
  | .page p w => (s.pageRequest c.pent p w false names.1 names.2).modCopy c.id (fun c => { c with page := some p })
  | .follow p => (s.startFollow c.pent p).modCopy c.id (fun c => { c with page := some p })
  | .wait => s
  | .dual => match c.ctx with | some cn => s.endCtx cn { FaultRec.none_ with code := 1, cause := 12 } | none => s
  | .lost d => match c.ctx with | some cn => s.endLost cn d | none => s.copyFault c 5 0 0

/-- The moves that the landing of chunk k performs: its own, and those of other chunks to sectors of memory that it writes,
less what an earlier chunk wrote (R234). -/
def State.chunkMoves (s : State) (c : Copy) (k : Nat) : List Move × List Move :=
  match c.dir with
  | .mem => (c.memMoves k, c.memMoves k)
  | .t2m =>
    let all := s.plan c
    let key (m : Move) : Option (Nat × Nat) :=
      match m.dst with
      | .mem va => match s.copySpot c va .write with | .ok (p, _, _) => some p.key | .error _ => none
      | _ => none
    let own := all.filter (fun m => m.k == k)
    let keys := own.filterMap key
    (own, all.filter (fun m => m.k == k && (key m).isNone ||
      (match key m with | some x => keys.contains x && !c.wrote.contains x | none => false)))
  | _ => let own := (s.plan c).filter (fun m => m.k == k); (own, own)

/-- The lines of a copy's destination that are still to be written after the sectors `wrote`. -/
def State.linesLeft (s : State) (c : Copy) (wrote : List (Nat × Nat)) : List Nat :=
  match c.dir with
  | .t2m => dedup ((s.plan c).filterMap (fun m => match m.dst with
      | .mem va => match s.copySpot c va .write with
        | .ok (.mem pa, _, _) => if wrote.contains (Place.mem pa).key then none else some (pa / 128)
        | _ => none
      | _ => none))
  | _ => []

/-- What the moves of a chunk carry: bytes, and the VA where they were poisoned. -/
abbrev Carried := List (List Byte × Option W64)

/-- The result of one element of a rope reduce, from the members' contributions, and the VA of its source where one of them is poisoned. -/
def redMove (parts : List (List RedPart)) (fmt : Nat × BitVec 4) (l : Layout) (dest : W64) (m : Move) : List Byte × Option W64 :=
  let off := match m.dst with | .mem va => (va - dest).toNat | _ => 0
  let mine := parts.map (fun ps => ps.find? (fun p => p.unit == off / 512))
  (redElem fmt l.esize (mine.map (fun p => ((p.elim [] (·.data)).drop (off % 512)).take l.esize)),
    if mine.any (fun p => p.any (fun p => p.bads.getD (off % 512 / l.esize) p.pois)) then (match m.src with | .mem va => some va | _ => none) else none)

/-- What the members contribute to a chunk of a rope reduce: every part, by rank; not yet; or a mismatch. -/
inductive Collected where
  | parts (p : List (List RedPart))
  | wait
  | mismatch
/-- The units of the source that the moves of a chunk take. -/
def redUnits (c : Copy) (ms : List Move) : List Nat :=
  dedup (ms.map (fun m => match m.dst with | .mem va => (va - c.dest).toNat / 512 | _ => 0))
/-- A result chunk waits for its units of every member, and for every unit of this member: no result element reaches it before it has
read all of its source elements (R429). -/
def State.collect (s : State) (c : Copy) (x : Ctx) (ms : List Move) : Collected :=
  let us := redUnits c ms
  let mine := redUnits c (s.plan c)
  let of_ (rank : Nat) : List RedPart := s.ropes.parts.filter (fun p => p.rope == x.ropeId && p.rank.toNat == rank && p.seq == c.seq)
  let all := (List.range x.rcount).map of_
  if all.any (fun ps => ps.any (fun p => p.bad || p.shape != c.shape)) then .mismatch
  else if all.all (fun ps => us.all (fun u => ps.any (fun p => p.unit == u))) && mine.all (fun u => (s.redPart x c x.rank u).isSome) then .parts all
  else .wait

/-- The destinations of a chunk are written (R430): memory, then tiles, then what goes to peers. `count` is what is counted with the
write, once (R106, R199). -/
def State.writeChunk (s : State) (count : State → State) (c : Copy) (k : Nat) (own : List Move) (all : List (Move × (List Byte × Option W64)))
    (seen : List ((Nat × Nat) × (List Byte × Bool))) (ps : List PutAt) : State :=
  match ps.foldl (fun (a : Option State) (x : PutAt) => a.bind (fun s => s.copyPut c x)) (some s) with
  | none => s
  | some s =>
    let wrote := c.wrote ++ (ps.map (·.p.key))
    let keep := s.linesLeft c wrote
    let s := ((count s).copyPoison ps).modCopy c.id (fun c => { c with
      seen, wrote
      owned := (putLines ps).foldl (fun l x => if keep.contains x then l else subRange l x) c.owned
      poison := c.poison.or (all.findSome? (fun m => m.2.2)) })
    let s := match c.dstTile with
      | some (t, h) => all.foldl (fun (s : State) (m : Move × (List Byte × Option W64)) => match m.1.dst with
          | .tile off => s.tilePut t h off m.2.1 m.2.2.isSome
          | _ => s) s
      | none => s
    let y := (putSectors ps).foldl (fun (y : State × List RemoteReq) xs => let z := y.1.copySend c k xs; (z.1, y.2 ++ z.2)) (s, [])
    let s := y.1.sendRequests c.payer (BitVec.ofNat 2 c.cls) c.pent y.2
    if s.copyFlying c.id (some k) then s.modCopy c.id (fun c => { c with sent := c.sent ++ [k] })
    else s.landChunk c.id k (moveBytes own)

/-- The sources of moves read. -/
def State.readMoves (s : State) (c : Copy) (ms : List Move) : CopyRun :=
  ms.foldl (State.copyRead c) { s, seen := c.seen, need := [], dead := false, out := [], stop := none }

/-- What the moves of a chunk carry is written. In a dual-run launch the bytes written to memory are hashed, and the second instance
writes none (R106). -/
def State.putChunk (s : State) (dead : Bool) (c : Copy) (k : Nat) (own ms : List Move) (out : Carried)
    (seen : List ((Nat × Nat) × (List Byte × Bool))) : State :=
  match s.copyPuts c (ms.zip out) with
  | .error x => s.copyStop c x
  | .ok ps =>
    match ps.find? (fun x => x.p.remote && !s.selfPlace x.p && !s.linkUp x.p.slot) with
    | some x => s.copyFault c 6 x.va 11
    | none =>
      let counted (s : State) : State := if dead then s.countDead c.pent else s
      match c.ctx, c.ctx.bind s.ctx? with
      | some cn, some x =>
        if x.lr.dual && c.toMem then
          let inst := (s.team? c.team).elim 0 (·.inst)
          s.writeChunk (fun s => (counted s).sign cn inst (ps.foldl (fun (v : W64) (x : PutAt) => v + sigOf x.va x.b) 0))
            c k own (ms.zip out) seen (if inst = 1 then [] else ps)
        else s.writeChunk counted c k own (ms.zip out) seen ps
      | _, _ => s.writeChunk counted c k own (ms.zip out) seen ps

/-- Chunk k of a copy lands: it is read and written, once what it takes from peers, or from the members of a rope, has come. -/
def State.moveChunk (s : State) (c : Copy) (k : Nat) : State :=
  let (own, ms) := s.chunkMoves c k
  match c.dir, c.lay, c.ctx.bind s.ctx? with
  | .red, some l, some x =>
    match s.collect c x ms, redFormat l.format with
    | .parts ps, some fmt => s.putChunk false c k own ms (ms.map (redMove ps fmt l c.dest)) c.seen
    | .mismatch, _ => s.copyFault c 7 0 0
    | _, _ => s
  | _, _, _ =>
    let r := s.readMoves c ms
    match r.stop with
    | some x => s.copyStop c x
    | none =>
      if r.need ≠ [] then s
      else r.s.putChunk r.dead c k own ms r.out r.seen

/-- The answer to a write of a copy, or to a read of a source sector (R234, R430, R431). -/
def State.copyRsp (s : State) (q : Request) (x : RspResult) : State :=
  match s.copy? q.op with
  | none => s
  | some c =>
    let reads := match q.req.kind with | .load .. => true | _ => false
    let spot (e : MoveEnd) : Option (W64 × Place) := match e with
      | .mem va => match s.copySpot c va (if reads then .read else .write) with
        | .ok (p, _, _) => if p.remote && p.slot == q.req.dst && p.off / 32 == q.req.addr.toNat / 32 then some (va, p) else none
        | .error _ => none
      | _ => none
    let hit := (s.plan c ++ (if c.dir = .mem then c.memMoves q.piece else [])).findSome? (fun m => spot (if reads then m.src else m.dst))
    let bad (reason : Nat) : State := s.copyFault c 6 ((hit.map (·.1)).getD 0) reason
    match x with
    | .ok d g _ =>
      if reads then
        match hit with
        | some h => s.modCopy c.id (fun c => { c with seen := c.seen ++ [(h.2.key, (d, false))] })
        | none => s
      else
      let s := s.modCopy c.id (fun c => { c with gwct := max c.gwct g.toNat })
      if s.copyFlying c.id (some q.piece) then s
      else s.landChunk c.id q.piece (moveBytes (s.chunkMoves c q.piece).1)
    | .fault r => bad r.toNat
    | .nack => bad 12

/-- A read of a copy whose target is this device itself is served here, with the same checks (R238, R240). -/
def State.serveOwn (s : State) (r : RemoteReq) : State :=
  match s.serve r with
  | .answer s x =>
    match s.ops.reqs.find? (fun q => q.id == r.id) with
    | some q => { s with ops := { s.ops with reqs := s.ops.reqs.filter (fun q => q.id != r.id) } }.copyRsp q x
    | none => s
  | .late s => s
  | .hold s page => s.holdOwn r page

/-- Sectors of peers are asked for in the copy's class (R241), each once; LINKDOWN ends the copy. -/
def State.askSectors (s : State) (c : Copy) (k : Nat) (need : List (Place × W64)) : State :=
  let asked (p : Place) : Bool := s.ops.reqs.any (fun r => r.copy && r.op == c.id && r.req.dst == p.slot && r.req.addr.toNat == p.off &&
    (match r.req.kind with | .load .. => true | _ => false))
  let todo := need.filter (fun x => !asked x.1)
  match todo.find? (fun x => !s.selfPlace x.1 && !s.linkUp x.1.slot) with
  | some x => s.copyFault c 6 x.2 11
  | none =>
    let y := todo.foldl (fun (y : State × List RemoteReq) x =>
      let s := y.1
      let r := s.copyReq c k s.ops.nextId x.1 (.load 32 false false)
      let s : State := { s.keepReq c k r with ops := { (s.keepReq c k r).ops with nextId := s.ops.nextId + 1 } }
      if s.selfPlace x.1 then (s.serveOwn r, y.2) else (s, y.2 ++ [r])) (s, [])
    y.1.sendRequests c.payer (BitVec.ofNat 2 c.cls) c.pent y.2

/-- This member's part of a unit of a rope reduce: read, kept, and sent to the other members (R258). -/
def State.contribute (s : State) (c : Copy) (x : Ctx) (k unit : Nat) : State :=
  if (s.redPart x c x.rank unit).isSome then s
  else
    let ms := (s.plan c).filter (fun m => match m.dst with | .mem va => (va - c.dest).toNat / 512 == unit | _ => false)
    let r := s.readMoves c ms
    match r.stop with
    | some y => s.copyStop c y
    | none =>
      if r.need ≠ [] then s.askSectors c k r.need
      else
        let m : RedPart := { rope := x.ropeId, rank := BitVec.ofNat 8 x.rank, seq := c.seq, shape := c.shape, unit
                             data := r.out.flatMap (·.1), pois := r.out.any (·.2.isSome), bad := false, bads := r.out.map (·.2.isSome) }
        match r.s.sendPart c ((s.ropeWin x).elim [] (·.2)) m with
        | none => s.copyFault c 6 0 11
        | some s => ((if r.dead then s.countDead c.pent else s).modCopy c.id (fun c => { c with seen := r.seen })).addPart m

/-- Chunk k of a copy is prepared: its sectors at peers are asked for; of a rope reduce this member reads all of its source, and its parts
go out (R429). -/
def State.askChunk (s : State) (c : Copy) (k : Nat) : State :=
  let ms := (s.chunkMoves c k).2
  match c.dir, c.ctx.bind s.ctx? with
  | .red, some x =>
    (redUnits c (s.plan c)).foldl (fun (s : State) u => match s.copy? c.id with | some c => s.contribute c x k u | none => s) s
  | _, _ =>
    let r := s.readMoves c ms
    match r.stop with
    | some y => s.copyStop c y
    | none => s.askSectors c k r.need

/-! ### Answers to remote requests -/

/-- The compare and swap of a signal at a peer home answers (R65, R469); it is made again with what it read until it meets
no other update. -/
def State.sigRsp (s : State) (u : SigUpd) (q : Request) (x : RspResult) : State × Option W64 :=
  match x, q.req.kind with
  | .ok d _ _, .cas _ cmp _ => if wordOf 64 d = cmp then (s.sigEnd u, none) else (s, some (wordOf 64 d))
  | _, _ => (s.sigFailed u, none)

/-- The compare and swap of a signal at a peer home. -/
def State.sigReq (s : State) (u : SigUpd) (slot : BitVec 7) (off : Nat) (key : BitVec 10) (old new : W64) : RemoteReq :=
  { id := s.ops.nextId, src := s.fabric.slot.getD 0, dst := slot, part := partBits u.pent, sub := subBits u.pent,
    pgen := (s.partEnt u.pent).gen, rope := none, addr := BitVec.ofNat 64 off, key, lease := none, notime := !s.leasing,
    kind := .cas 8 old new }
/-- A request of a signal update is outstanding. -/
def State.sigWaits (s : State) (u : SigUpd) (r : RemoteReq) : State :=
  let q : Request := { id := r.id, op := r.id, piece := 0, copy := false, req := r, pent := u.pent, sentAt := s.now, stale := false }
  { s with ops := { s.ops with nextId := r.id + 1, reqs := s.ops.reqs ++ [q], sigs := s.ops.sigs ++ [{ u with req := some r.id }] } }

/-- A request of a signal update, with the value that it expects. The device's own copy of the line goes (R226). -/
def State.sigAsk (s : State) (u : SigUpd) (slot : BitVec 7) (off : Nat) (key : BitVec 10) (old : W64) : State :=
  match u.act.apply u.queue u.idx old with
  | none => s.sigEnd u
  | some v =>
    let r := s.sigReq u slot off key old v
    if s.linkUp slot then ((s.dropAt (.peer slot off key)).sigWaits u r).sendReq slot 1 u.pent false (.request r)
    else { s with ops := { s.ops with nextId := r.id + 1 } }.sigFailed u

/-- A signal whose home this device itself is, by its own slot: served with the checks of R240, a fault with its record (R246). -/
def State.sigOwn (s : State) (u : SigUpd) (slot : BitVec 7) (off : Nat) (key : BitVec 10) : State :=
  let old := wordOf 64 (s.store.bytes (s.shadowed off) 8)
  let new := u.act.apply u.queue u.idx old
  let r := s.sigReq u slot off key old (new.getD old)
  let s : State := { (s.markWrite u.pent u.va) with ops := { s.ops with nextId := r.id + 1 } }
  match s.serve r with
  | .answer s (.ok _ _ _) => s.sigEnd u
  | .answer s _ => s.sigFailed u
  | .late s => s.sigWaits u r
  | .hold s page => (s.sigWaits u r).holdOwn r page

/-- A signal update that waits is tried again: its page may have come, and at a peer home it is asked for; a home that is this
device itself is served at once. The first compare expects 0. -/
def State.sigRetry (s : State) (u : SigUpd) : State :=
  match s.cpPlace u.pent u.queue u.idx u.va .atomic with
  | .ok (.peer slot off key) =>
    if s.fabric.slot = some slot then s.sigOwn u slot off key
    else (s.markWrite u.pent u.va).sigAsk u slot off key 0
  | _ => s.sigUpdate u

/-- The signal updates that wait for no answer are tried again. -/
def State.sigsRetry (s : State) : State :=
  let todo := s.ops.sigs.filter (·.req.isNone)
  todo.foldl State.sigRetry { s with ops := { s.ops with sigs := s.ops.sigs.filter (·.req.isSome) } }

/-! ### Records that the command processor writes (R63, R468) -/

/-- The record goes on later. -/
def State.keepPut (s : State) (u : CpPut) : State := { s with ops := { s.ops with puts := s.ops.puts ++ [u] } }

/-- The record is written. The signal of a STAGE packet is a sys-scope release: it follows the GWCT of the record's writes (R65, R224). -/
def State.putEnd (s : State) (u : CpPut) : State :=
  match u.kind with
  | .mark => (s.modQueue u.queue (fun k => { k with mark := some u.idx })).workDone u.queue u.idx
  | .result sig => if s.leasing && decide (s.now ≤ u.gwct) then s.keepPut u else s.signalEnd u.queue u.idx u.tag sig .decrement
  | .slot | .event => s
  | .image cn => s.modCtx cn (fun c => { c with ser := c.ser.map (fun z => { z with phase := z.phase + 1 }) })
  | .drain e f => s.modSnap e (fun k => { k with drained := k.drained ++ [f] })
  | .drainImage e => s.modSnap e (fun k => { k with wrote := k.wrote + 1 })
  | .journal e => (s.jrnlWrote e (((s.journal e).pending.head?.map (·.data.length)).getD 0)).modJournal e (fun j => { j with pending := j.pending.tail })

/-- The write of a record failed (R468): of an event entry, it counts as one that could not be written (R74); of a journal record,
recording stops as where no room is left (log entry 126). -/
def State.putFail (s : State) (u : CpPut) : State :=
  match u.kind with
  | .mark => (s.queueError u.queue u.tag u.idx 9 0 0).workDone u.queue u.idx
  | .result sig => s.signalEnd u.queue u.idx u.tag sig (.error 3)
  | .slot => s
  | .event => s.modFn (s.fnOfPart u.pent) (fun f => { f with evq := { f.evq with ovf := true } })
  | .image cn => s.modCtx cn (fun c => { c with ser := c.ser.map (fun z => { z with phase := 5 }) })
  | .drain e _ | .drainImage e => s.modSnap e (fun k => { k with failed := true })
  | .journal e => s.modJournal e (fun j => { j with jctl := j.jctl ||| 4, stopped := true, pending := [] })

/-- A record's piece has been asked of its home: the record goes on with the answer. -/
def State.awaitPut (s : State) (u : CpPut) (r : RemoteReq) : State :=
  { s.keepPut u with ops := { (s.keepPut u).ops with
    reqs := s.ops.reqs ++ [{ id := r.id, op := r.id, piece := 0, copy := false, req := r, pent := u.pent, sentAt := s.now, stale := false }] } }
/-- The class in which a record travels, and whose budget it counts against: a snapshot's drain goes in class 3 as activity 1, a journal
record in class 3 as activity 3 (R40, R148, R279). -/
def PutKind.route : PutKind → BitVec 2 × Payer
  | .drain _ _ | .drainImage _ => (3, .act 1)
  | .image _ => (1, .act 4)
  | .journal _ => (3, .act 3)
  | _ => (1, .part)

/-- The request that writes a record's next n bytes to a peer. -/
def State.putReq (s : State) (u : CpPut) (id n : Nat) (slot : BitVec 7) (off : Nat) (key : BitVec 10) : RemoteReq :=
  { id, src := s.fabric.slot.getD 0, dst := slot, part := partBits u.pent, sub := subBits u.pent, pgen := (s.partEnt u.pent).gen,
    rope := none, addr := BitVec.ofNat 64 off, key, lease := none, notime := !s.leasing, kind := .store (u.data.take n) true
    cls := u.kind.route.1 }

/-- A record written, sector by sector, as far as it goes: the rest waits for a page, for a copy that owns the line, for a frame,
for the answers to RECALL (R232), or for a peer. -/
def State.putStep : (fuel : Nat) → (s : State) → (u : CpPut) → State
  | 0, s, _ => s
  | fuel + 1, s, u =>
    if u.data = [] then s.putEnd u
    else
      let n := min u.data.length (32 - u.va.toNat % 32)
      let u' : CpPut := { u with va := u.va + BitVec.ofNat 64 n, data := u.data.drop n, req := none }
      match s.cpPlace u.pent u.queue u.idx u.va .write with
      | .fail _ => s.putFail u
      | .wait s => s.keepPut u
      | .ok (.mem pa) =>
        if s.owned pa then s.keepPut u
        else
          let ca := s.cpCa u.pent u.va .write
          match (s.markWrite u.pent u.va).homeWrite u.pent none ca (ca == 1) pa (u.data.take n) with
          | none => s.keepPut u
          | some s =>
            if !s.leasing && s.leasesOn (pa / 128) != [] then
              let id := s.ops.nextId
              let r := s.putReq u id n (s.fabric.slot.getD 0) pa (s.store.frame pa).key
              let s : State := { s with ops := { s.ops with nextId := id + 1 } }
              (s.awaitPut { u' with req := some id } r).recall id r.src (s.rspFor r (.ok [] (BitVec.ofNat 64 s.now) none)) (pa / 128)
            else s.putStep fuel { u' with gwct := if s.leasing then max u.gwct (s.gwctAt pa) else u.gwct }
      | .ok (.host a) =>
        ((s.markWrite u.pent u.va).putPlace (.host a) (u.data.take n)).putStep fuel u'
      | .ok (.peer slot off key) =>
        let id := s.ops.nextId
        let r := s.putReq u id n slot off key
        let s : State := { ((s.markWrite u.pent u.va).dropAt (.peer slot off key)) with ops := { s.ops with nextId := id + 1 } }
        if s.fabric.slot = some slot then
          match s.serve r with
          | .answer s (.ok _ g _) => s.putStep fuel { u' with gwct := max u.gwct g.toNat }
          | .answer s _ => s.putFail u
          | .late s => s.awaitPut { u' with req := some id } r
          | .hold s page => (s.awaitPut { u' with req := some id } r).holdOwn r page
        else if s.linkUp slot then
          (s.awaitPut { u' with req := some id } r).sendAs u.kind.route.2 slot 0x01 u.kind.route.1 (s.origin u.pent) false (.request r)
        else s.putFail u
      | .ok _ => s.putFail u

/-- A record is written, after what it depends on. -/
def State.put (s : State) (u : CpPut) : State := s.putStep (u.data.length + 1) u

/-- The answer to a record's piece. -/
def State.putRsp (s : State) (u : CpPut) (x : RspResult) : State :=
  let s := { s with ops := { s.ops with puts := s.ops.puts.filter (fun v => v.req != u.req) } }
  match x with
  | .ok _ g _ => s.put { u with req := none, gwct := max u.gwct g.toNat }
  | _ => s.putFail u

/-- The journal records that wait are written, one after another (R279). -/
def State.journalsSend (s : State) : State :=
  ((withIndex s.host.journals).filter (fun p => p.2.pending != [])).foldl (fun (s : State) p =>
    match p.2.pending with
    | [] => s
    | x :: _ =>
      if s.ops.puts.any (fun u => u.kind == .journal p.1) then s
      else s.put { queue := x.queue, idx := x.idx, tag := 0, pent := p.1, va := p.2.jbase + p.2.jwr, data := x.data, kind := .journal p.1, req := none }) s

/-- The records that wait for no answer are written on. -/
def State.putsRetry (s : State) : State :=
  let todo := s.ops.puts.filter (·.req.isNone)
  todo.foldl State.put { s with ops := { s.ops with puts := s.ops.puts.filter (·.req.isSome) } }

/-- A request is answered: it leaves the outstanding ones, and what it served goes on. -/
def State.answerReq (s : State) (q : Request) (x : RspResult) : State :=
  let s := { s with ops := { s.ops with reqs := s.ops.reqs.filter (fun r => r.id != q.id) } }
  if q.copy then s.copyRsp q x
  else
    match s.op? q.op with
    | some o =>
      match o.pieces[q.piece]?, s.accEnv o.g o.sp with
      | some p, some a => (s.applyRsp a o q.piece p q.req x).sendPieces a o.id
      | _, _ => s
    | none =>
      match s.ops.sigs.find? (fun u => u.req == some q.id) with
      | some u =>
        let s : State := { s with ops := { s.ops with sigs := s.ops.sigs.filter (fun v => v.req != some q.id) } }
        let (s, again) := s.sigRsp { u with req := none } q x
        match again with
        | some old =>
          let u := { u with req := none }
          if s.fabric.slot = some q.req.dst then s.sigOwn u q.req.dst q.req.addr.toNat q.req.key
          else s.sigAsk u q.req.dst q.req.addr.toNat q.req.key old
        | none => s
      | none =>
        match s.ops.puts.find? (fun u => u.req == some q.id) with
        | some u => s.putRsp u x
        | none => s.lineAnswer q.id x

/-- A response of this device reaches its requester: over the fabric, or here when it is its own target (R26). -/
def State.deliverRsp (s : State) (dst : BitVec 7) (r : RemoteRsp) : State :=
  if s.fabric.slot.getD 0 = dst then
    match s.ops.reqs.find? (fun q => q.id == r.id) with
    | some q => s.answerReq q r.result
    | none => s
  else s.send dst 0x02 r.cls ⟨r.part, r.sub, r.pgen⟩ false (.response r)

/-- An inbound request that was held is served again (R233, R240). -/
def State.serveAgain (s : State) (i : Inbound) : State :=
  match s.serve i.req with
  | .answer s x => s.deliverRsp i.req.src (s.rspFor i.req x)
  | .late s => s
  | .hold s page => { s with ops := { s.ops with inbound := s.ops.inbound ++ [{ i with page }] } }

/-- The requests held for a page of a partition, or for a line that a copy owned (page 0), are served again. -/
def State.retryInbound (s : State) (p : Inbound → Bool) : State :=
  let todo := s.ops.inbound.filter p
  todo.foldl State.serveAgain { s with ops := { s.ops with inbound := s.ops.inbound.filter (fun i => !p i) } }

/-- A member's contribution arrives (R258): it is kept for a rope that is bound here, unless its reduce is over. -/
def State.contribution (s : State) (m : RedPart) : State :=
  match s.ropes.binds.find? (fun b => b.id == m.rope) with
  | none => s
  | some b =>
    let over_ : Bool := match s.ctx? b.ctx with | some x => decide (m.seq < x.redSeq) && x.load.isNone && !s.ops.copies.any (fun c => c.ctx == some b.ctx && c.dir == .red && c.seq == m.seq) | none => true
    if over_ then s else s.addPart m

/-- The drain limit of a claim: the default of R121 (log entry 59). -/
def claimDrain : Nat := 20000
/-- Whether a copy lands nothing now: it has been squashed by a serialisation (R122), or by the claim of the state of its destination's
team, after the drain limit (R115). -/
def State.copyHeld (s : State) (c : Copy) : Bool :=
  (match c.ctx.bind s.ctx? with
   | some x => (match x.ser with | some z => z.drained && !z.keep | none => false)
   | none => false) ||
  (match c.dstTile.bind (fun p => s.team? p.1) with | some t => t.gone.spm && decide (t.claimAt + claimDrain ≤ s.now) | none => false)

/-- CHUNK_LAND: the engine prepares a chunk, or the chunk lands. One that another team's tile-to-tile copy writes into an operand of a
batch is held (R412). -/
def execChunkLand (c k : Nat) (step : ChunkStep) (s : State) : Res :=
  match s.copy? c with
  | none => .next s
  | some x =>
    if !x.awaits k || s.copyHeld x then .next s
    else if (match x.dir, x.dteam with | .t2t, some t => t != x.team && s.tileLocked t x.dtile | _, _ => false) then .next s
    else
      match step with
      | .ask => .next (s.askChunk x k)
      | .land => .next (((s.moveChunk x k).retryInbound (fun i => i.page == 0)).sigsRetry.putsRetry)

end Sys2Proof.Machine
end

