-- ==== Sys2Proof/Machine/Dray.lean ====
section
/-!
DEFINITION. The dray instructions: DRAY in its four directions (R425, R426, R429) and DPROBE (R434).
-/

namespace Sys2Proof.Machine

/-! ### Records that an instruction reads whole (R426, step 3; R441) -/

inductive RecGot where
  | ok (s : State) (b : List Byte) (used : List (BitVec 7 × Nat))
  | bad (reason : Nat)                     -- coded as R245
  | poison                                 -- poisoned data of this device
  | wait (s : State)
  | absent (page : W64)
  | follow (page : W64)
  | lost (die : Nat)

/-- A line of a record that a home is asked for. -/
def State.recLine (s : State) (a : AccEnv) (slot : BitVec 7) (rope : Option W32) (line name : Nat) (key : BitVec 10) : RecGot :=
  match s.fetched? slot name with
  | some f =>
    if f.req.isSome then .wait s
    else if f.reason ≠ 0 then .bad f.reason.toNat
    else .ok s f.data [(slot, name)]
  | none => match s.askAt a.ctx.pent slot rope line name key with | .ok s | .wait s => .wait s | .fail r => .bad r

/-- The n bytes of a record within one line, as one relaxed scalar access at dev scope. A failed fetch of its following page is
no trap either. -/
def State.readRec (s : State) (a : AccEnv) (fails : List (W64 × Byte × Byte)) (va : W64) (n : Nat) : RecGot :=
  match s.translate (some a.core) a.ctx.pent (s.ropeWin a.ctx) va .read with
  | .prot 0 => .bad 1
  | .prot _ => .bad 2
  | .key => .bad 3
  | .poison => .poison
  | .nonres p => match fails.find? (fun f => f.1 == p) with | some f => .bad f.2.1.toNat | none => .absent p
  | .follow p => .follow p
  | .ok p ca e =>
    let mark (s : State) : State := match e with | some e => s.markLeaf e va.toNat false | none => s
    let part (off : Nat) : RecGot → RecGot
      | .ok s b u => .ok s ((b.drop (off % 128)).take n) u
      | x => x
    match p with
    | .mem pa =>
      if s.lost.getLsbD (8 + homeDie pa) then .lost (homeDie pa)
      else if s.store.poisoned (s.shadowed pa) n then .poison
      else if s.owned pa then .wait s
      else
        let s := ((mark s).touchPa a.cn pa).charge a.ctx.pent (.grid a.cn) pa n
        let (s, d) := s.homeRead a.ctx.pent (some a.cn) ca (ca == 1) pa n
        .ok s d []
    | .host h => .ok (mark s) (s.store.hostBytes h n) []
    | .peer slot off key => part off ((mark s).recLine a slot none (off / 128) (off / 128) key)
    | .rope _ slot off => part off (s.recLine a slot (some a.ctx.ropeId) (off / 128) (ropeLine (off / 128)) 0)
    | .tile .. => .bad 1

/-- Whether a record is read at a peer. -/
def State.recRemote (s : State) (a : AccEnv) (va : W64) : Bool :=
  match s.translate (some a.core) a.ctx.pent (s.ropeWin a.ctx) va .read with
  | .ok p _ _ => p.remote
  | _ => false

/-! ### Issue (R426) -/

/-- The fields of a DRAY. -/
structure DrayAsk where
  dir  : CopyDir
  tile : Nat
  sa   : W64                -- the layout record's VA, or the destination word of a T2T
  w    : DrayWord
deriving DecidableEq, Repr

/-- Copies of a core that are not complete. -/
def State.coreCopies (s : State) (core : Nat × Nat) : Nat :=
  s.ops.copies.countP (fun c => match c.g with | some g => s.coreOf g == core | none => false)

/-- The team of a rank in a team's cluster (R99). -/
def State.rankTeam (s : State) (tm : Team) (rank : Nat) : Option Nat :=
  ((s.cluster tm.lead).find? (fun p => p.2.crank == rank && p.2.ctx == tm.ctx)).map (·.1)

/-- The destination team of a T2T: none for a rank outside the cluster, and for a word with a bit above 13 (R429). -/
def State.t2tTeam (s : State) (tm : Team) (word : W64) : Option Nat :=
  if word.extractLsb' 14 50 ≠ (0 : BitVec 50) then none else s.rankTeam tm (word.extractLsb' 0 8).toNat
def t2tTile (word : W64) : Nat := (word.extractLsb' 8 6).toNat

/-- The lines in local memory that a copy's destinations lie on (R233), as ranges. -/
def State.ownLines (s : State) (c : Copy) (ms : List Move) : List (Nat × Nat) :=
  (dedup (ms.filterMap (fun m => match m.dst with
    | .mem va => match s.translate none c.pent ((c.ctx.bind s.ctx?).bind s.ropeWin) va .write with
      | .ok (.mem pa) _ _ => some (pa / 128)
      | _ => none
    | _ => none))).map (·, 1)

/-- Whether two ranges of n bytes overlap without being the same (R429). -/
def partOverlap (a b : W64) (n : Nat) : Bool := a != b && decide (a.toNat < b.toNat + n ∧ b.toNat < a.toNat + n)

/-- A copy as it is issued, before it begins. -/
def newCopy (r : SplitRef) (a : AccEnv) (g : Group) (q : DrayAsk) (id now : Nat) : Copy :=
  { id, ctx := some a.cn, g := some r.g, team := g.team, pent := a.ctx.pent, queue := a.ctx.queue, idx := a.ctx.index,
    dir := q.dir, tile := q.tile, dteam := none, dtile := 0, bar := q.w.bar.toNat, cnt := q.w.cnt,
    flag := if q.w.fv then some q.w.flag.toNat else none, cls := q.w.cls.toNat, rowoff := q.w.rowoff.toNat,
    coords := [], dest := 0, lay := none, raw := List.replicate 128 0, src := 0, len := 0, chunks := [], landed := [], sent := [],
    total := 0, counted := 0, prior := 0, bytes := 0, owned := [], seen := [], wrote := [], page := none, gwct := 0, seq := 0,
    at_ := now, poison := none, fault := none }

/-- Whether a copy reads or writes at a peer. -/
def State.copyRemote (s : State) (c : Copy) : Bool :=
  let at_ (k : Acc) (x : MoveEnd) : Bool := match x with
    | .mem va => (match s.translate none c.pent ((c.ctx.bind s.ctx?).bind s.ropeWin) va k with | .ok p _ _ => p.remote | _ => false)
    | _ => false
  (s.plan c).any (fun m => at_ .read m.src || at_ .write m.dst)

/-- Whether a copy's shape is right (R428, R429): else it completes with SHAPE, and for RED with COLLECTIVE. -/
def State.shapeFault (s : State) (c : Copy) : Option Nat :=
  match c.dir with
  | .t2t =>
    match s.tile? c.team c.tile, c.dteam.bind (s.tile? · c.dtile) with
    | some a, some d => if a.esize = d.esize ∧ a.cols = d.cols ∧ c.rowoff + a.rows ≤ d.rows then none else some 2
    | _, _ => some 2
  | .red => match c.lay with
    | some l => if partOverlap l.base c.dest (l.extent.getD 0 0 * l.esize) then some 7 else none
    | none => none
  | _ =>
    match s.tile? c.team c.tile, c.lay with
    | some t, some l => if l.fits t c.rowoff then none else some 2
    | _, _ => none

/-- The bytes that a copy would count had it completed (R431); a window that does not fit its tile counts all the same. -/
def State.copyTotal (s : State) (c : Copy) : Nat :=
  match c.dir with
  | .t2t => match s.tile? c.team c.tile with | some t => t.size | none => 0
  | _ => moveBytes (s.plan c)

/-- The use of a SIDE tile touches its base die (R143). -/
def State.touchSide (s : State) (t h : Nat) : State :=
  match s.team? t, s.tile? t h with
  | some tm, some x => if x.level = 2 then s.touch tm.ctx (8 + baseBelow tm.die) else s
  | _, _ => s

/-- A copy begins (R426, step 5, and R428): its chunks, their bits cleared, the lines that it owns; or it ends with a fault. A
copy that moves nothing is complete. `todo` selects the chunks of a restarted copy (R433). -/
def State.beginCopy (s : State) (c : Copy) (fresh : Bool) : State :=
  let c := { c with total := s.copyTotal c }
  let s := { s with ops := { s.ops with copies := s.ops.copies ++ [c] } }
  match s.shapeFault c with
  | some reason => s.copyFault c reason 0 0
  | none =>
    let ms := s.plan c
    let s := match c.dir with | .m2t | .t2m | .t2t => s.touchSide c.team c.tile | _ => s
    let s := match c.dteam with | some t => s.touchSide t c.dtile | none => s
    let set := match c.dstTile.bind (fun p => s.tile? p.1 p.2) with | some t => t.map | none => 0
    let ks := (dedup (ms.map (·.k))).filter (fun k => fresh || !set.testBit k)
    let s := match c.dstTile with
      | some (t, h) => s.modTile t h (fun x => { x with map := (List.range 2048).foldl (fun m k =>
          if ks.contains k && m.testBit k then m - 2 ^ k else m) x.map })
      | none => s
    let second := match c.ctx.bind s.ctx? with | some x => x.lr.dual && (s.team? c.team).elim 0 (·.inst) == 1 | none => false
    (s.modCopy c.id (fun c => { c with chunks := ks, owned := if second then [] else s.ownLines c ms })).settleCopy c.id

/-- What a DRAY reads of the split's registers beside SA (R426, step 4): coordinates, or the destination VA of a RED. -/
def drayRegs (g : Group) (dir : CopyDir) (b : SReg) : List W64 × W64 :=
  match dir with
  | .red => ([], g.sreg b)
  | .t2t => ([], 0)
  | _ => ((List.range 5).map (fun i => if b.toNat + i < 64 then g.sreg (BitVec.ofNat 6 (b.toNat + i)) else 0), 0)

/-- The issue of a DRAY once its record is there (none: LAYOUT): the copy, its flag, and the split goes on. -/
def State.drayStart (s : State) (r : SplitRef) (g : Group) (sp : Split) (a : AccEnv) (q : DrayAsk) (b : SReg)
    (raw : Option (List Byte)) : State :=
  let id := s.ops.nextId
  let regs := drayRegs g q.dir b
  let c := newCopy r a g q id s.now
  let red := match q.dir with | .red => true | _ => false
  let s := { s with ops := { s.ops with nextId := id + 1 } }
  let s := if red then s.modCtx a.cn (fun x => { x with redSeq := x.redSeq + 1 }) else s
  let s := match c.flag with | some f => s.modGroup r.g (·.startFlag f) | none => s
  let s := match s.group? r.g with
    | some g' => s.finish0 r { (g'.split r.sp) with fails := [] } 8
    | none => s
  match q.dir with
  | .t2t =>
    let d := s.t2tTeam a.tm q.sa
    s.beginCopy { c with dest := q.sa, dteam := d, dtile := t2tTile q.sa } true
  | _ =>
    let c := { c with coords := regs.1, dest := regs.2, seq := a.ctx.redSeq }
    match raw with
    | some raw =>
      if layoutOk red raw then s.beginCopy { c with raw, lay := some (Layout.ofBytes raw) } true
      else ({ s with ops := { s.ops with copies := s.ops.copies ++ [c] } }).copyFault c 1 q.sa 0
    | none => ({ s with ops := { s.ops with copies := s.ops.copies ++ [c] } }).copyFault c 1 q.sa 0

/-- DRAY (R425, R426): what makes it illegal, its waits, its tile, its record. In a dual-run launch a rope reduce, and a record at a peer,
raise DUAL_RUN (R106); after a PREEMPT's switch a DRAY that would ask something of a peer waits (R110). -/
def drayRun (s : State) (dir : CopyDir) (a b : SReg) (tile : BitVec 6) (w : DrayWord) : Res :=
  let many := match dir with | .m2t | .t2m => true | _ => false
  let rs := a :: (if many then ((List.range 5).filter (fun i => b.toNat + i < 64)).map (fun i => BitVec.ofNat 6 (b.toNat + i)) else [b])
  scalarRun s rs (fun r g sp =>
    match s.accEnv r.g r.sp with
    | none => s
    | some e =>
      let q : DrayAsk := { dir, tile := tile.toNat, sa := g.sreg a, w }
      let red := match dir with | .red => true | _ => false
      let t2t := match dir with | .t2t => true | _ => false
      let locked := match dir with
        | .m2t => s.tileLocked g.team tile.toNat
        | .t2t => match s.t2tTeam e.tm q.sa with | some t => s.tileLocked t (t2tTile q.sa) | none => false
        | _ => false
      let far := !t2t && s.recRemote e q.sa
      if (red || far) && e.ctx.lr.dual then s.scalarTrap r sp 12 0 0 0x24
      else if red && !e.ctx.lr.rope then s.illegal r sp 0x24
      else if (w.fv && g.pend.getLsbD w.flag.toNat) || locked || decide (64 ≤ s.coreCopies e.core) || s.etimeFull e.ctx.pent (some e.cn) ||
          s.hbmFull e.ctx.pent (some e.cn) || ((red || far) && e.switched) then s
      else if !red && s.entrySpoiled g.team 0 tile.toNat then s.scalarTrap r sp 13 0 0 0x24
      else if !red && (s.tile? g.team tile.toNat).isNone then s.scalarTrap r sp 5 5 0 0x24
      else if t2t then s.drayStart r g sp e q b none
      else
        match (if q.sa.toNat % 128 = 0 then s.readRec e sp.fails q.sa 128 else .bad 7) with
        | .ok s raw used =>
          let c := { newCopy r e g q 0 0 with coords := (drayRegs g dir b).1, lay := some (Layout.ofBytes raw) }
          if e.switched && layoutOk red raw && s.copyRemote c then s
          else (s.useLines used).drayStart r g sp e q b (some raw)
        | .poison => s.scalarTrap r sp 13 0 q.sa 0x24
        | .bad _ => s.drayStart r g sp e q b none
        | .wait s => s
        | .absent p => s.deschedule e [p] false 1
        | .follow p => s.awaitFollow e [p] true
        | .lost d => s.endLost e.cn d)

def execDrayM2t (a b : SReg) (tile : BitVec 6) (w : DrayWord) (s : State) : Res := drayRun s .m2t a b tile w
def execDrayT2m (a b : SReg) (tile : BitVec 6) (w : DrayWord) (s : State) : Res := drayRun s .t2m a b tile w
def execDrayT2t (a : SReg) (tile : BitVec 6) (w : DrayWord) (s : State) : Res := drayRun s .t2t a 0 tile w
def execDrayRed (a b : SReg) (w : DrayWord) (s : State) : Res := drayRun s .red a b 0 w

/-! ### DPROBE (R434) -/

/-- The chunks of a tile. -/
def Tile.chunks (t : Tile) : Nat := (t.size + 511) / 512
/-- The state of 64 chunks from c on: chunks that the tile does not have read as set. -/
def Tile.probe (t : Tile) (c : Nat) : W64 :=
  BitVec.ofNat 64 (maskOf ((List.range 64).filter (fun i => if c + i < t.chunks then t.map.testBit (c + i) else true)))

def execDprobe (d a b : SReg) (t : SReg) (s : State) : Res :=
  scalarRun s [d, a, b] (fun r g sp =>
    if s.entrySpoiled g.team 0 t.toNat then s.scalarTrap r sp 13 0 0 0x25
    else
    match s.tile? g.team t.toNat with
    | none => s.scalarTrap r sp 5 5 0 0x25
    | some x => s.finish r sp 4 d (x.probe (g.sreg a).toNat &&& g.sreg b))

end Sys2Proof.Machine
end

