-- ==== Sys2Proof/Machine/Berth.lean ====
section
/-!
DEFINITION. Berths (R247 to R253, R436 to R440): names, minting, resolution at the home and for a forwarded berth, and the berth
instructions and events.
-/

namespace Sys2Proof.Machine

/-! ### Names and slots (R247, R248) -/

def nameSlot (n : W64) : BitVec 7 := n.extractLsb' 57 7
def nameBd (n : W64) : Nat := (n.extractLsb' 55 2).toNat
def nameTslot (n : W64) : Nat := (n.extractLsb' 43 12).toNat

/-- The device's slot, or 0 when the fabric is absent. -/
def State.selfSlot (s : State) : BitVec 7 := s.fabric.slot.getD 0

/-- The name of a berth of this device. -/
def State.berthName (s : State) (b : Berth) : W64 :=
  let hi : BitVec 48 := s.selfSlot ++ BitVec.ofNat 2 b.bd ++ BitVec.ofNat 12 b.slot ++ b.gen
  hi ++ Config.berthCheck b.bd s.berths.epoch hi

def State.berth? (s : State) (bd slot : Nat) : Option Berth := s.berths.slots.find? (fun b => b.bd == bd && b.slot == slot)
def State.modBerth (s : State) (bd slot : Nat) (f : Berth → Berth) : State :=
  { s with berths := { s.berths with slots := s.berths.slots.map (fun b => if b.bd = bd ∧ b.slot = slot then f b else b) } }

/-- The LIVE or RESOLVED berth of this home that a name names in full. -/
def State.named (s : State) (n : W64) : Option Berth :=
  if n = 0 ∨ nameSlot n ≠ s.selfSlot then none
  else
    match s.berth? (nameBd n) (nameTslot n) with
    | some b => if b.state != .free && s.berthName b == n then some b else none
    | none => none

/-- The lowest free slot of a base die among n slots from i on. Which free slot BMINT takes is not stated. -/
def State.freeSlot (s : State) (bd : Nat) : (n i : Nat) → Option Nat
  | 0, _ => none
  | n + 1, i =>
    if s.berths.slots.any (fun b => b.bd == bd && b.slot == i && b.state != .free) then s.freeSlot bd n (i + 1) else some i

/-- A berth as it is minted: LIVE, with the next generation of its slot. The entry is new: no mark of an old one stays. DESIGN CHOICE (log
entry 49): GEN of a slot starts at 0, so that its first mint gives 1; R247 gives no value at reset. -/
def State.mint (s : State) (b : Berth) : State × W64 :=
  let gen := match s.berth? b.bd b.slot with | some o => o.gen + 1 | none => 1
  let b := { b with state := .live, gen }
  ({ s with
    berths := { s.berths with slots := b :: s.berths.slots.filter (fun o => !(o.bd == b.bd && o.slot == b.slot)) }
    store := s.store.clearMark (.berth b.bd b.slot) },
    s.berthName b)

/-- The fields with which every berth starts. -/
def newBerth (bd slot pent bytes expiry : Nat) : Berth :=
  { bd, slot, state := .live, gen := 0, g := none, queue := 0, idx := 0, pent, k := 0, bytes, expiry, status := 0, data := [],
    stage := false, loc := .resident, waiter := none, filled := false, ptime := 0, sentAt := none, acked := false, held := false,
    slotVa := none, res := 0, sig := 0, tag := 0 }

def Berth.freed (b : Berth) : Berth := { b with state := .free, g := none, waiter := none, filled := false, slotVa := none }
def State.freeBerth (s : State) (b : Berth) : State := s.modBerth b.bd b.slot Berth.freed

/-! ### Resolution (R249, R250) -/

/-- What a berth is resolved with. -/
structure Resolved where
  status : Byte
  data   : List Byte
  stage  : Bool
deriving DecidableEq, Repr

/-- Bytes cut or filled with zeros to a berth's size (R249). -/
def sized (n : Nat) (l : List Byte) : List Byte := (l ++ List.replicate (n - l.length) 0).take n

/-- The bound registers written, 8 bytes each; statuses 1 and 2 write none (R437). -/
def Group.bind (g : Group) (k bytes : Nat) (x : Resolved) : Group :=
  if x.status = 1 ∨ x.status = 2 then g
  else (List.range (bytes / 8)).foldl (fun g i => g.setSreg (BitVec.ofNat 6 (k + i)) (wordOf 64 ((x.data.drop (8 * i)).take 8))) g

/-- A BWAIT of a split returns a status: with 0 it is an acquire at sys scope (R252). -/
def State.bwaitDone (s : State) (g sp : Nat) (status : Byte) : State :=
  if status = 0 then (s.acquire g).sysAcquire g sp else s

/-- In a context that sets JRNL a resolution is delivered when BWAIT or BDROP reaches it (R280): it is recorded, and the registers are
written (R278, R279; log entry 121). -/
def State.takeRecorded (s : State) (g sp cn k bytes : Nat) (x : Resolved) : State :=
  (s.record cn (if x.stage then 5 else 4) (s.jsite g sp) (bytesOf 8 x.status.toNat ++ sized 32 x.data)).modGroup g (fun gr => gr.bind k bytes x)

/-- A resolution reaches a resident owner: the registers are written, and a waiting split wakes. In a context that sets JRNL its delivery
is left to BWAIT or BDROP; a waiting split executes its BWAIT again. -/
def State.resolveAt (s : State) (g k bytes : Nat) (waiter : Option Nat) (x : Resolved) : State :=
  match s.ctxOf? g with
  | none => s
  | some (_, c) =>
    if c.lr.jrnl then
      match waiter with
      | none => s
      | some i => s.modGroup g (fun gr => { gr with splits := modAt gr.splits i (fun sp => { sp with status := .ready, wval := 0, age := s.now }) })
    else
    let s := s.modGroup g (fun gr => gr.bind k bytes x)
    match waiter with
    | none => s
    | some i => (s.modGroup g (fun gr => gr.wake i (x.status.zeroExtend 64) s.now)).bwaitDone g i x.status

/-- Whether a waiting split consumes its berth as it wakes: not where BWAIT is executed again. -/
def State.wakes (s : State) (g : Nat) (waiter : Option Nat) : Bool :=
  waiter.isSome && (match s.ctxOf? g with | some (_, c) => !c.lr.jrnl | none => true)

/-- The result record of a STAGE packet (R63): its status and bytes, zeros after an expiry. -/
def resultBytes (b : Berth) (x : Resolved) : List Byte :=
  bytesOf 8 x.status.toNat ++ (if x.status = 1 then List.replicate b.bytes 0 else sized b.bytes x.data)

/-- The parked slot of a sealed image (R133). -/
def parkedBytes (status : Byte) (ptime : Nat) (data : List Byte) : List Byte :=
  [1, status] ++ List.replicate 6 0 ++ bytesOf 8 ptime ++ sized 32 data

/-- Whether a berth's entry is marked poisoned: what it holds is not used (R261, R264). -/
def State.berthSpoiled (s : State) (b : Berth) : Bool := s.store.marked (.berth b.bd b.slot)

/-- A forwarded resolution is sent, or held while the link is down (R250); never from a poisoned entry. -/
def State.sendResolution (s : State) (b : Berth) (slot : BitVec 7) : State :=
  if s.berthSpoiled b then s
  else if s.linkUp slot then
    (s.modBerth b.bd b.slot (fun b => { b with sentAt := some s.now })).sendCtl slot b.pent
      (.resolution { name := s.berthName b, src := s.selfSlot, origin := s.origin b.pent, status := b.status, data := b.data })
  else s.modBerth b.bd b.slot (fun b => { b with held := true })

/-- A LIVE berth resolves at its home. -/
def State.resolve (s : State) (b : Berth) (x : Resolved) : State :=
  let x := { x with data := sized b.bytes x.data }
  let b' : Berth := { b with state := .resolved, status := x.status, data := x.data, stage := x.stage, ptime := s.now }
  match b.loc, b.g with
  | .forwarding slot, _ => (s.modBerth b.bd b.slot (fun _ => b')).sendResolution b' slot
  | .parked, _ =>
    let b' := { b' with filled := true }
    let s := s.modBerth b.bd b.slot (fun _ => b')
    match b.slotVa with
    | some va => s.put { queue := b.queue, idx := b.idx, tag := 0, pent := b.pent, va, data := parkedBytes b'.status b'.ptime b'.data, kind := .slot, req := none }
    | none => s
  | .resident, some g =>
    let s := s.modBerth b.bd b.slot (fun _ => if s.wakes g b.waiter then b.freed else { b' with waiter := none })
    s.resolveAt g b.k b.bytes b.waiter x
  | .resident, none =>
    (s.freeBerth b).put { queue := b.queue, idx := b.idx, tag := b.tag, pent := b.pent, va := b.res, data := resultBytes b x,
                          kind := .result b.sig, req := none }

/-- Whether the owner of a berth takes its inputs from the journal: nothing from outside is delivered to it then (R280). -/
def State.berthReplays (s : State) (b : Berth) : Bool :=
  match b.g.bind s.ctxOf? with
  | some (cn, _) => b.loc == .resident && s.replays cn
  | none => false

/-- A delivery at its home (R249): accepted, or discarded with the record of R246, as it is when the entry is poisoned (log entry 116). -/
def State.deliver (s : State) (d : Delivery) : State × Bool :=
  let dead (s : State) : State × Bool :=
    (s.inboundFault (some (5 * d.part.toNat + d.sub.toNat)) (d.part.zeroExtend 8) (d.sub.zeroExtend 8) 13 d.src 4 0 0 d.name, false)
  match s.named d.name with
  | none => dead s
  | some b =>
    if b.state = .live ∧ s.now < b.expiry ∧ d.part = partBits b.pent ∧ s.berthReplays b = false ∧ s.berthSpoiled b = false then
      (s.resolve b { status := d.status, data := d.data, stage := d.stage }, true)
    else dead s

/-! ### The owner's device of a forwarded berth (R250) -/

def State.forward? (s : State) (n : W64) : Option Forward := s.berths.forwards.find? (fun f => f.name == n && !f.freed)
def State.modForward (s : State) (n : W64) (f : Forward → Forward) : State :=
  { s with berths := { s.berths with forwards := s.berths.forwards.map (fun x => if x.name = n then f x else x) } }
/-- Whether a release is on its way: queued, or not acknowledged by the link yet. -/
def State.releasing (s : State) (n : W64) : Bool :=
  match s.wave (nameSlot n) with
  | none => false
  | some w => (s.link w).tx.queue.any (fun m => m.msg == some (.release n)) || (s.link w).tx.retry.any (fun f => f.msg == some (.release n))
/-- The release of a consumed berth is sent to its home, or waits for the link. The record stays until the link has delivered it. -/
def State.releaseForward (s : State) (n : W64) : State :=
  let e := match s.berths.forwards.find? (fun f => f.name == n) with | some f => s.pentOf f.g | none => 0
  let s := s.modForward n (fun f => { f with freed := true, waiter := none, sentAt := s.now })
  if s.linkUp (nameSlot n) && !s.releasing n then s.sendCtl (nameSlot n) e (.release n) else s

/-- FORWARDED_RESOLUTION: applied as for a resident owner, once, and acknowledged; without a record of the berth the context
is said not to exist. -/
def execForwardedResolution (r : Resolution) (s : State) : Res :=
  match s.forward? r.name with
  | none => .next (s.sendAnswer r.src r.origin (.resolutionAck r.name false))
  | some f =>
    let s := s.sendAnswer r.src r.origin (.resolutionAck r.name true)
    -- in replay an outside input is not delivered (R280)
    if f.state = .resolved ∨ (match s.ctxOf? f.g with | some (cn, _) => s.replays cn | none => false) = true then .next s
    else
      let x : Resolved := { status := r.status, data := sized f.bytes r.data, stage := decide (3 ≤ r.status.toNat) }
      let s := s.modForward r.name (fun f => { f with state := .resolved, status := x.status, data := x.data, ptime := s.now })
      if f.parked then
        let s := s.modForward r.name (fun f => { f with filled := true })
        match f.slotVa, s.ctxOf? f.g with
        | some va, some (_, c) =>
          .next (s.put { queue := c.queue, idx := c.index, tag := 0, pent := c.pent, va, data := parkedBytes x.status s.now x.data, kind := .slot, req := none })
        | _, _ => .next s
      else
      let s := (s.modForward r.name (fun f => { f with waiter := none })).resolveAt f.g f.k f.bytes f.waiter x
      .next (if s.wakes f.g f.waiter then s.releaseForward r.name else s)

/-- RESOLUTION_ACK: the home need not send again; when the context no longer exists, the slot is freed. -/
def execResolutionAck (name : W64) (exists_ : Bool) (s : State) : Res :=
  match s.named name with
  | none => .next s
  | some b =>
    match b.loc with
    | .forwarding _ => .next (if exists_ then s.modBerth b.bd b.slot (fun b => { b with acked := true }) else s.freeBerth b)
    | _ => .next s

/-- RESOLUTION_RESEND. A resolution (sel.a = 0) of berth sel.c on base die sel.b that the home holds, or that no answer has
reached for 4 ms, goes out again, at most once every 100 µs; a release (sel.a = 1) of record sel.b goes out once the link is
up. -/
def execResolutionResend (s : State) : Res :=
  if s.sel.a = 0 then
    match s.berth? s.sel.b s.sel.c with
    | none => .next s
    | some b =>
      match b.loc with
      | .forwarding slot =>
        let late := match b.sentAt with
          | none => true
          | some t => decide (t + 4000000 ≤ s.now) || (b.held && decide (t + 100000 ≤ s.now))
        if b.state = .resolved ∧ b.acked = false ∧ late = true ∧ s.linkUp slot = true then
          let b' := { b with held := true }
          .next ((s.modBerth b.bd b.slot (fun _ => b')).sendResolution b' slot)
        else .next s
      | _ => .next s
  else
    match s.berths.forwards[s.sel.b]? with
    | some f => .next (if f.freed && s.linkUp (nameSlot f.name) then s.releaseForward f.name else s)
    | none => .next s

/-- BERTH_RELEASE: the release that a link brought frees the slot of a forwarded berth; the name's slot is sel.b, sel.c. -/
def State.takeRelease (s : State) (n : W64) : State :=
  match s.named n with
  | none => s
  | some b => match b.loc with | .forwarding _ => s.freeBerth b | _ => s
def execBerthRelease (s : State) : Res :=
  match s.berth? s.sel.b s.sel.c with
  | none => .next s
  | some b => .next (if b.state = .free then s else s.takeRelease (s.berthName b))

/-- FORWARDING_REGISTRATION (R138): the home's berth leaves the parked state for the owner's new device; a filled parked slot
is handed over. -/
def execForwardingRegistration (r : Registration) (s : State) : Res :=
  match s.named r.name with
  | none => .next s
  | some b =>
    let b' : Berth := { b with loc := .forwarding r.slot, g := none, waiter := none, slotVa := none, filled := false, acked := false, held := false, sentAt := none }
    let s := s.modBerth b.bd b.slot (fun _ => b')
    .next (if b.state = .resolved then s.sendResolution b' r.slot else s)

/-- BERTH_DELIVERY: a BPUT is answered, in class 0; a stage result is not. -/
def execBerthDelivery (d : Delivery) (s : State) : Res :=
  let (s, ok) := s.deliver d
  if d.stage then .next s
  else
    let r : RemoteRsp := { id := d.id, src := s.selfSlot, part := d.part, sub := d.sub, pgen := d.pgen,
                           cls := 0
                           result := if ok then .ok [] (BitVec.ofNat 64 s.now) none else .nack }
    .next (s.send d.src 0x02 0 ⟨d.part, d.sub, d.pgen⟩ false (.response r))

/-- A split that waits on a berth whose entry is poisoned executes its BWAIT again, which raises DATA_POISON (log entry 116). -/
def State.wakeSpoiled (s : State) (b : Berth) : State :=
  match b.g, b.waiter with
  | some g, some i =>
    (s.modBerth b.bd b.slot (fun b => { b with waiter := none })).modGroup g (fun gr =>
      { gr with splits := modAt gr.splits i (fun sp => { sp with status := .ready, wval := 0, age := s.now }) })
  | _, _ => s

/-- BERTH_EXPIRY of the berth in slot sel.b of base die sel.a. -/
def execBerthExpiry (s : State) : Res :=
  match s.berth? s.sel.a s.sel.b with
  | none => .next s
  | some b =>
    .next (if s.berthSpoiled b then s.wakeSpoiled b
      else if b.state = .live ∧ b.expiry ≤ s.now ∧ s.berthReplays b = false then s.resolve b { status := 1, data := [], stage := false } else s)

/-! ### The berth instructions -/

/-- A berth or stage word: illegal without the feature, DUAL_RUN in a dual-run launch (R435). -/
def berthRun (s : State) (feat sopCode : Nat) (rs : List SReg) (f : SplitRef → Group → Split → AccEnv → State) : Res :=
  scalarRun s rs (fun r g sp =>
    match s.accEnv r.g r.sp with
    | none => s
    | some a =>
      if s.feat feat = false then s.illegal r sp sopCode
      else if a.ctx.lr.dual then s.scalarTrap r sp 12 0 0 sopCode
      else f r g sp a)

/-- Registers that a size code names: 1, 2 or 4. -/
def sizeRegs (c : BitVec 2) : Nat := 2 ^ c.toNat

/-- Registers k to k + n − 1. -/
def regRange (k n : Nat) : List SReg := ((List.range n).filter (fun i => k + i < 64)).map (fun i => BitVec.ofNat 6 (k + i))

/-- BMINT's outcome and state (R436). -/
def State.bmint (s : State) (r : SplitRef) (a : AccEnv) (k n : Nat) (life : W64) : State × W64 × Nat :=
  let bd := baseBelow a.core.1
  if life.toNat < 1 ∨ 1000000 < life.toNat then (s, 0, 2)
  else
    match s.freeSlot bd 4096 0 with
    | none => (s, 0, 1)
    | some i =>
      let (s, name) := s.mint { newBerth bd i a.ctx.pent (8 * n) (s.now + 1000 * life.toNat) with
        g := some r.g, k, queue := a.ctx.queue, idx := a.ctx.index }
      ((s.touch a.cn (8 + bd)).useFeat a.cn Config.featBerth, name, 0)

def execBmint (d a : SReg) (z : BitVec 2) (k : SReg) (s : State) : Res :=
  let n := sizeRegs z
  berthRun s Config.featBerth 0x28 (d :: a :: regRange k.toNat n) (fun r g sp e =>
    if z = 3 ∨ 62 < k.toNat + n - 1 ∨ (k.toNat ≤ d.toNat ∧ d.toNat < k.toNat + n) then s.illegal r sp 0x28
    else
      let (s, name, st) := s.bmint r e k.toNat n (g.sreg a)
      let s := s.modGroup r.g (fun g => (List.range n).foldl (fun g i =>
        g.setSreg (BitVec.ofNat 6 (k.toNat + i)) (if i = 0 then name else 0)) g)
      s.finish r sp 4 d (BitVec.ofNat 64 st))

/-- A berth as its owner's instructions see it. -/
structure Owned where
  live   : Bool
  waiter : Option Nat
  k      : Nat
  bytes  : Nat
  status : Byte
  data   : List Byte
  stage  : Bool
  home   : Option (Nat × Nat)      -- at home here: base die and slot
deriving DecidableEq, Repr

/-- The berth of a group that a name names: by its forwarding record, or at its home here (R437). -/
def State.ownedBerth (s : State) (g : Nat) (n : W64) : Option Owned :=
  match s.forward? n with
  | some f =>
    if f.g = g then some { live := f.state == .live, waiter := f.waiter, k := f.k, bytes := f.bytes, status := f.status, data := f.data, stage := decide (3 ≤ f.status.toNat), home := none }
    else none
  | none =>
    match s.named n with
    | some b =>
      if b.g = some g ∧ b.loc = .resident then
        some { live := b.state == .live, waiter := b.waiter, k := b.k, bytes := b.bytes, status := b.status, data := b.data, stage := b.stage, home := some (b.bd, b.slot) }
      else none
    | none => none

/-- The use of a berth of this device touches its base die (R143). -/
def State.touchOwned (s : State) (cn : Nat) (o : Owned) : State :=
  match o.home with
  | some (bd, _) => s.touch cn (8 + bd)
  | none => s
/-- Whether the entry of a berth of this device is poisoned. -/
def State.ownedPoison (s : State) (o : Owned) : Bool := match o.home with | some (bd, slot) => s.store.marked (.berth bd slot) | none => false

/-- A berth is consumed or dropped: its slot is freed, at once at its home, or by the release. -/
def State.endOwned (s : State) (n : W64) (o : Owned) : State :=
  match o.home with
  | some (bd, slot) => s.modBerth bd slot Berth.freed
  | none => s.releaseForward n
/-- What a berth resolved with. -/
def Owned.resolved (o : Owned) : Resolved := { status := o.status, data := o.data, stage := o.stage }
/-- The split that waits on a berth is noted. -/
def State.waitOwned (s : State) (n : W64) (o : Owned) (sp : Nat) : State :=
  match o.home with
  | some (bd, slot) => s.modBerth bd slot (fun b => { b with waiter := some sp })
  | none => s.modForward n (fun f => { f with waiter := some sp })

/-- The next recorded resolution of a group in replay (R280): KIND 4 or 5, whichever lies first. -/
def State.nextResolution (s : State) (cn group : Nat) : Option (Nat × Resolved) :=
  match s.ctx? cn with
  | none => none
  | some c =>
    let j := s.journal c.pent
    ((s.records c.pent (j.jsize.toNat / 32) (c.jpos.getD j.jstart.toNat)).find? (fun r =>
      (r.kind == 4 || r.kind == 5) && r.group == group && r.seq == c.jcount r.kind group)).map (fun r =>
        (r.kind, { status := r.payload.getD 0 0, data := r.payload.drop 8, stage := r.kind == 5 }))

/-- A BWAIT of a replaying group takes the next recorded resolution, whatever has resolved the berth meanwhile (R280). -/
def State.bwaitReplay (s : State) (r : SplitRef) (sp : Split) (cn : Nat) (d : SReg) (n : W64) (o : Owned) : State :=
  let group := (s.jsite r.g r.sp).key
  match s.nextResolution cn group with
  | none => s.replayEnd cn
  | some (kind, x) =>
    let s := ((s.endOwned n o).modCtx cn (·.jbump kind group)).modGroup r.g (fun g => g.bind o.k o.bytes x)
    (s.finish r sp 4 d (x.status.zeroExtend 64)).bwaitDone r.g r.sp x.status

def execBwait (d a : SReg) (s : State) : Res :=
  berthRun s Config.featBerth 0x29 [d, a] (fun r g sp e =>
    let n := g.sreg a
    match s.ownedBerth r.g n with
    | none => s.finish r sp 4 d 2
    | some o =>
      if !o.live && s.jrnlHeld e.ctx.pent e.ctx.lr.jrnl then s
      else
      let s := s.touchOwned e.cn o
      if s.ownedPoison o then s.scalarTrap r sp 13 0 0 0x29
      else if o.waiter.isSome then s.finish r sp 4 d 2
      else if s.replays e.cn then s.bwaitReplay r sp e.cn d n o
      else if !o.live then
        let s := s.endOwned n o
        let s := if e.ctx.lr.jrnl then s.takeRecorded r.g r.sp e.cn o.k o.bytes o.resolved else s
        (s.finish r sp 4 d (o.status.zeroExtend 64)).bwaitDone r.g r.sp o.status
      else (s.waitOwned n o r.sp).putSplit r { sp with status := .bwait, wval := n, wreg := d })

/-- BDROP (R439): a waiting split returns 2. In a context that sets JRNL the resolution is recorded, of a LIVE berth as one with status 2
(log entry 121); in replay the recorded one is taken (R280). -/
def execBdrop (a : SReg) (s : State) : Res :=
  berthRun s Config.featBerth 0x2B [a] (fun r g sp e =>
    let n := g.sreg a
    match s.ownedBerth r.g n with
    | none => s.finish0 r sp 4
    | some o =>
      if s.jrnlHeld e.ctx.pent e.ctx.lr.jrnl then s
      else
      let s := s.touchOwned e.cn o
      if s.ownedPoison o then s.scalarTrap r sp 13 0 0 0x2B
      else
      let group := (s.jsite r.g r.sp).key
      if s.replays e.cn && (s.nextResolution e.cn group).isNone then s.replayEnd e.cn
      else
      let s :=
        if !e.ctx.lr.jrnl then s
        else if s.replays e.cn then
          match s.nextResolution e.cn group with
          | some (kind, x) => (s.modCtx e.cn (·.jbump kind group)).modGroup r.g (fun g => g.bind o.k o.bytes x)
          | none => s
        else s.takeRecorded r.g r.sp e.cn o.k o.bytes (if o.live then { status := 2, data := [], stage := false } else o.resolved)
      let s := (s.endOwned n o).finish0 r sp 4
      match o.waiter with
      | some i => if i = r.sp then s else s.modGroup r.g (fun g => g.wake i 2 s.now)
      | none => s)

/-- The bytes that BPUT sends (R438): s63 supplies zeros. -/
def Group.bputData (g : Group) (b n : Nat) : List Byte :=
  (List.range n).flatMap (fun i => bytesOf 8 (g.sreg (BitVec.ofNat 6 (b + i))).toNat)

/-- BPUT's delivery, as a memory operation of one piece that its answer completes (R438, R243). -/
def State.bput (s : State) (a : AccEnv) (pc n : W64) (data : List Byte) : State :=
  let s := (if nameSlot n = s.selfSlot then s.touch a.cn (8 + nameBd n) else s.useFeat a.cn Config.featFab).useFeat a.cn Config.featBerth
  let op := s.ops.nextId
  let id := op + 1
  let slot := nameSlot n
  let p : Piece := { lane := 0, va := n, place := .peer slot 0 0, ca := 2, n := data.length, sub := 0, data, cmp := [], done := false,
                     got := [], miss := false, lanes := [(0, data)] }
  let o : MOp := { newOp a .bput none pc 0x2A with id := op, esize := data.length, pieces := [p] }
  let d : Delivery := { name := n, src := s.selfSlot, part := partBits a.ctx.pent, sub := subBits a.ctx.pent,
                        pgen := (s.partEnt a.ctx.pent).gen, stage := false, status := 0, data, id }
  let r : RemoteReq := { id, src := s.selfSlot, dst := slot, part := d.part, sub := d.sub, pgen := d.pgen, rope := none, addr := n,
                         key := 0, lease := none, notime := false, kind := .store data true, cls := 0 }
  let s := { s with ops := { s.ops with nextId := op + 2, mops := s.ops.mops ++ [o] } }
  if slot = s.selfSlot then
    let (s, ok) := s.deliver d
    s.applyRsp a o 0 p r (if ok then .ok [] (BitVec.ofNat 64 s.now) none else .nack)
  else if s.linkUp slot then
    let q : Request := { id, op, piece := 0, copy := false, req := r, pent := a.ctx.pent, sentAt := s.now, cn := some a.cn, stale := false }
    ({ s with ops := { s.ops with reqs := s.ops.reqs ++ [q] } }).sendReq slot 0 a.ctx.pent false (.delivery d)
  else s.applyRsp a o 0 p r (.fault 11)

def execBput (a b : SReg) (z : BitVec 2) (s : State) : Res :=
  let n := sizeRegs z
  berthRun s Config.featBerth 0x2A (a :: regRange b.toNat n) (fun r g sp e =>
    if z = 3 ∨ 64 < b.toNat + n then s.illegal r sp 0x2A
    else if e.switched && nameSlot (g.sreg a) != s.selfSlot then s
    else (s.finish0 r sp 4).bput e sp.pc (g.sreg a) (g.bputData b.toNat n))

end Sys2Proof.Machine
end

