-- ==== Sys2Proof/Machine/LaneInt.lean ====
section
/-!
DEFINITION. Lane integer arithmetic, bit operations, compare, select and move (R365 to R376), PACK and UNPK (R388). Each
meaning computes one lane; `laneOp` does the rest.
-/

namespace Sys2Proof.Machine

/-! ### Integer arithmetic (R370 to R372) -/

/-- An exact result x under TY and SAT, with the codes C and V (R371). -/
def intOut (f : LaneWord) (x : Int) (c v : Bool) : LaneOut :=
  let w := tyWidth f.ty
  let y := if f.mod.getLsbD 0 then clampInt (tyLo f.ty) (tyHi f.ty) x else x
  let d := wrapInt w y
  { d := extendTo32 f.ty d, cc := ccInt w d c v }

/-- Whether a value lies outside a type's range. -/
def outsideTy (ty : BitVec 4) (x : Int) : Bool := decide (x < tyLo ty) || decide (tyHi ty < x)
/-- Signed overflow at a width, whatever TY says (R371). -/
def signedOver (w : Nat) (x : Int) : Bool := decide (x < -(2 ^ (w - 1) : Nat)) || decide ((2 ^ (w - 1) : Nat) ≤ x)

/-- The bits of a, b and c, at the width of TY. -/
def opA (f : LaneWord) (e : Env) (l : Nat) : Nat := e.opnd f (srcA f) f.ty l
def opB (f : LaneWord) (e : Env) (l : Nat) : Nat := e.opnd f (srcB f) f.ty l
def opC (f : LaneWord) (e : Env) (l : Nat) : Nat := e.opnd f (srcC f) f.ty l

/-- The sources of an instruction of one type. -/
def src1 (f : LaneWord) : List (Src × Nat) := [(srcA f, tyHeld f.ty)]
def src2 (f : LaneWord) : List (Src × Nat) := [(srcA f, tyHeld f.ty), (srcB f, tyHeld f.ty)]
def src3 (f : LaneWord) : List (Src × Nat) := [(srcA f, tyHeld f.ty), (srcB f, tyHeld f.ty), (srcC f, tyHeld f.ty)]

/-- Carry and signed overflow of a + b + cin at width w. -/
def addOut (f : LaneWord) (a b cin : Nat) : LaneOut :=
  let w := tyWidth f.ty
  intOut f (readTy f.ty a + readTy f.ty b + cin) (decide (2 ^ w ≤ a + b + cin)) (signedOver w (signedOf w a + signedOf w b + cin))
/-- The codes of a − b − bin: C set when there is no borrow. -/
def subOut (f : LaneWord) (a b bin : Nat) : LaneOut :=
  let w := tyWidth f.ty
  intOut f (readTy f.ty a - readTy f.ty b - bin) (decide (b + bin ≤ a)) (signedOver w (signedOf w a - signedOf w b - bin))

/-- The carry of a lane. -/
def Env.carry (e : Env) (l : Nat) : Nat := if ccC (e.g.ccs.getD l 0) then 1 else 0

def execIadd (f : LaneWord) (s : State) : Res :=
  laneOp s f (src2 f) (tyHeld f.ty) (fun e l => addOut f (opA f e l) (opB f e l) 0)
def execIsub (f : LaneWord) (s : State) : Res :=
  laneOp s f (src2 f) (tyHeld f.ty) (fun e l => subOut f (opA f e l) (opB f e l) 0)
def execIadc (f : LaneWord) (s : State) : Res :=
  laneOp s f (src2 f) (tyHeld f.ty) (fun e l => addOut f (opA f e l) (opB f e l) (e.carry l))
def execIsbc (f : LaneWord) (s : State) : Res :=
  laneOp s f (src2 f) (tyHeld f.ty) (fun e l => subOut f (opA f e l) (opB f e l) (1 - e.carry l))

/-- A product or a sum of magnitudes: C is 0 and V tells that x is outside the type's range. -/
def rangeOut (f : LaneWord) (x : Int) : LaneOut := intOut f x false (outsideTy f.ty x)

def execImul (f : LaneWord) (s : State) : Res :=
  laneOp s f (src2 f) (tyHeld f.ty) (fun e l => rangeOut f (readTy f.ty (opA f e l) * readTy f.ty (opB f e l)))
def execImulh (f : LaneWord) (s : State) : Res :=
  laneOp s f (src2 f) (tyHeld f.ty) (fun e l =>
    intOut f (readTy f.ty (opA f e l) * readTy f.ty (opB f e l) / (2 ^ tyWidth f.ty : Nat)) false false)
def execImad (f : LaneWord) (s : State) : Res :=
  laneOp s f (src3 f) (tyHeld f.ty) (fun e l =>
    rangeOut f (readTy f.ty (opA f e l) * readTy f.ty (opB f e l) + readTy f.ty (opC f e l)))

/-- IDIV (R372): all ones for a zero divisor whatever SAT says; V also for the signed overflow of N types. -/
def divOut (f : LaneWord) (a b : Nat) : LaneOut :=
  let w := tyWidth f.ty
  let ovf := signedOf w a == -(2 ^ (w - 1) : Nat) && signedOf w b == -1
  if b = 0 then { d := extendTo32 f.ty (2 ^ w - 1), cc := ccInt w (2 ^ w - 1) false true }
  else intOut f ((readTy f.ty a).tdiv (readTy f.ty b)) false ovf
/-- IREM (R372). -/
def remOut (f : LaneWord) (a b : Nat) : LaneOut :=
  if b = 0 then intOut f (readTy f.ty a) false true
  else intOut f ((readTy f.ty a).tmod (readTy f.ty b)) false false

def execIdiv (f : LaneWord) (s : State) : Res :=
  laneOp s f (src2 f) (tyHeld f.ty) (fun e l => divOut f (opA f e l) (opB f e l))
def execIrem (f : LaneWord) (s : State) : Res :=
  laneOp s f (src2 f) (tyHeld f.ty) (fun e l => remOut f (opA f e l) (opB f e l))
def execImin (f : LaneWord) (s : State) : Res :=
  laneOp s f (src2 f) (tyHeld f.ty) (fun e l => intOut f (min (readTy f.ty (opA f e l)) (readTy f.ty (opB f e l))) false false)
def execImax (f : LaneWord) (s : State) : Res :=
  laneOp s f (src2 f) (tyHeld f.ty) (fun e l => intOut f (max (readTy f.ty (opA f e l)) (readTy f.ty (opB f e l))) false false)
def execIabs (f : LaneWord) (s : State) : Res :=
  laneOp s f (src1 f) (tyHeld f.ty) (fun e l => rangeOut f ((readTy f.ty (opA f e l)).natAbs : Int))
def execIsad (f : LaneWord) (s : State) : Res :=
  laneOp s f (src3 f) (tyHeld f.ty) (fun e l =>
    rangeOut f (((readTy f.ty (opA f e l) - readTy f.ty (opB f e l)).natAbs : Int) + readTy f.ty (opC f e l)))

/-! ### Bit operations (R373, R374) -/

/-- A bit result of the width of TY, with C as given and V 0. -/
def bitOut (f : LaneWord) (d : Nat) (c : Bool := false) : LaneOut :=
  let w := tyWidth f.ty
  { d := d % 2 ^ w, cc := ccInt w (d % 2 ^ w) c false }

/-- BLUT's result bit by bit. -/
def blut (tt a b c : Nat) : (w : Nat) → Nat
  | 0 => 0
  | w + 1 => (tt / 2 ^ (a % 2 + 2 * (b % 2) + 4 * (c % 2))) % 2 + 2 * blut tt (a / 2) (b / 2) (c / 2) w

def execBlut (f : LaneWord) (s : State) : Res :=
  laneOp s f (src3 f) (tyHeld f.ty) (fun e l =>
    bitOut f (blut (f.imm.toNat % 256) (opA f e l) (opB f e l) (opC f e l) (tyWidth f.ty)))

/-- The last bit shifted out: bit i of a for 0 < n, where an index outside the string gives `out`. -/
def lastOut (w a n : Nat) (i : Int) (out : Bool) : Bool :=
  if n = 0 then false else if 0 ≤ i ∧ i < w then a.testBit i.toNat else out

def execLaneShl (f : LaneWord) (s : State) : Res :=
  laneOp s f (src2 f) (tyHeld f.ty) (fun e l =>
    let w := tyWidth f.ty; let a := opA f e l; let n := opB f e l % 256
    bitOut f (a * 2 ^ n) (lastOut w a n ((w : Int) - n) false))
def execLaneShr (f : LaneWord) (s : State) : Res :=
  laneOp s f (src2 f) (tyHeld f.ty) (fun e l =>
    let w := tyWidth f.ty; let a := opA f e l; let n := opB f e l % 256
    bitOut f (a / 2 ^ n) (lastOut w a n ((n : Int) - 1) false))
def execLaneSra (f : LaneWord) (s : State) : Res :=
  laneOp s f (src2 f) (tyHeld f.ty) (fun e l =>
    let w := tyWidth f.ty; let a := opA f e l; let n := opB f e l % 256
    bitOut f (wrapInt w (signedOf w a / (2 ^ n : Nat))) (lastOut w a n ((n : Int) - 1) (a.testBit (w - 1))))
def execFshl (f : LaneWord) (s : State) : Res :=
  laneOp s f (src3 f) (tyHeld f.ty) (fun e l =>
    let w := tyWidth f.ty
    bitOut f ((opA f e l * 2 ^ w + opB f e l) * 2 ^ (opC f e l % w) / 2 ^ w))
def execFshr (f : LaneWord) (s : State) : Res :=
  laneOp s f (src3 f) (tyHeld f.ty) (fun e l =>
    let w := tyWidth f.ty
    bitOut f ((opA f e l * 2 ^ w + opB f e l) / 2 ^ (opC f e l % w)))

/-- BFX (R374): the field of the unbounded reading of a. -/
def bfx (ty : BitVec 4) (a pl : Nat) : Nat :=
  let pos := pl % 256
  let len := pl / 256 % 256
  let fl := wrapInt len (readTy ty a / (2 ^ pos : Nat))
  if len = 0 then 0
  else if tySigned ty then wrapInt (tyWidth ty) (signedOf len fl) else fl % 2 ^ tyWidth ty

def execBfx (f : LaneWord) (s : State) : Res :=
  laneOp s f [(srcA f, tyHeld f.ty), (srcB f, 32)] (tyHeld f.ty) (fun e l =>
    bitOut f (bfx f.ty (opA f e l) (e.bits f (srcB f) 32 l)))
/-- BFI (R374). -/
def bfi (w ins base pl : Nat) : Nat :=
  let pos := pl % 256
  let len := pl / 256 % 256
  let field := (2 ^ len - 1) * 2 ^ pos
  ((ins * 2 ^ pos) &&& field ||| (base &&& ((2 ^ (w + pos + len) - 1) ^^^ field))) % 2 ^ w
def execBfi (f : LaneWord) (s : State) : Res :=
  laneOp s f [(srcA f, tyHeld f.ty), (srcB f, tyHeld f.ty), (srcC f, 32)] (tyHeld f.ty) (fun e l =>
    bitOut f (bfi (tyWidth f.ty) (opA f e l) (opB f e l) (e.bits f (srcC f) 32 l)))
def execLanePopc (f : LaneWord) (s : State) : Res :=
  laneOp s f (src1 f) (tyHeld f.ty) (fun e l => bitOut f (popc (tyWidth f.ty) (opA f e l)))
def execLaneClz (f : LaneWord) (s : State) : Res :=
  laneOp s f (src1 f) (tyHeld f.ty) (fun e l => bitOut f (clz (tyWidth f.ty) (opA f e l)))
/-- The low w bits in reverse. -/
def reverseBits : (w : Nat) → Nat → Nat
  | 0, _ => 0
  | w + 1, a => a % 2 * 2 ^ w + reverseBits w (a / 2)
def execBrev (f : LaneWord) (s : State) : Res :=
  laneOp s f (src1 f) (tyHeld f.ty) (fun e l => bitOut f (reverseBits (tyWidth f.ty) (opA f e l)))
/-- PRMT (R374). -/
def prmt (a b sel : Nat) : Nat :=
  let y := b * 2 ^ 32 + a
  natOf ((List.range 4).map (fun k =>
    let n := sel / 16 ^ k % 16
    let byte := y / 256 ^ (n % 8) % 256
    BitVec.ofNat 8 (if n < 8 then byte else if byte < 128 then 0 else 255)))
def execPrmt (f : LaneWord) (s : State) : Res :=
  laneOp s f (src3 f) (tyHeld f.ty) (fun e l => bitOut f (prmt (opA f e l) (opB f e l) (opC f e l)))

/-! ### Compare, select and move (R375, R376) -/

/-- The predicates CEQ to CGE on an order. -/
def predHolds (p : Nat) (o : Ordering) : Bool :=
  match p with
  | 0 => o == .eq
  | 1 => o != .eq
  | 2 => o == .lt
  | 3 => o != .gt
  | 4 => o == .gt
  | _ => o != .lt

/-- The result of a comparison: 1, all ones with ONES, or 0. -/
def setBits (f : LaneWord) (h : Bool) : Nat := if h then (if f.mod.getLsbD 3 then 2 ^ 32 - 1 else 1) else 0

def execIset (f : LaneWord) (s : State) : Res :=
  laneOp s f (src2 f) 32 (fun e l =>
    let a := opA f e l; let b := opB f e l
    { d := setBits f (predHolds (modLow f 3) (compare (readTy f.ty a) (readTy f.ty b))),
      cc := (subOut { f with mod := 0 } a b 0).cc })

/-- What SEL and MOV write: bits, with narrow integer types extended. -/
def moveOut (f : LaneWord) (d : Nat) : LaneOut :=
  let w := tyWidth f.ty
  { d := extendTo32 f.ty d, cc := ccInt w (d % 2 ^ w) false false }
/-- SEL: a where the bits of c are nonzero, else b; each source as R366 reads it. -/
def execSel (f : LaneWord) (s : State) : Res :=
  laneOp s f [(srcA f, tyHeld f.ty), (srcB f, tyHeld f.ty), (srcC f, 32)] (tyHeld f.ty) (fun e l =>
    moveOut f (e.opnd f (if e.bits f (srcC f) 32 l ≠ 0 then srcA f else srcB f) f.ty l))
def execMov (f : LaneWord) (s : State) : Res :=
  laneOp s f (src1 f) (tyHeld f.ty) (fun e l => moveOut f (opA f e l))

/-! ### PACK and UNPK (R388) -/

/-- The width of the fields. -/
def packWidth (f : LaneWord) : Nat := 4 * 2 ^ modLow f 2
def execPack (f : LaneWord) (s : State) : Res :=
  laneOp s f (src2 f) 32 (fun e l =>
    let k := packWidth f; let p := k * (f.imm.toNat % 8); let b := opB f e l
    bitOut f (b / 2 ^ (p + k) * 2 ^ (p + k) + opA f e l % 2 ^ k * 2 ^ p + b % 2 ^ p))
def execUnpk (f : LaneWord) (s : State) : Res :=
  laneOp s f (src1 f) 32 (fun e l =>
    let k := packWidth f; let d := opA f e l / 2 ^ (k * (f.imm.toNat % 8)) % 2 ^ k
    bitOut f (if f.mod.getLsbD 3 then wrapInt 32 (signedOf k d) else d))

end Sys2Proof.Machine
end

