-- ==== Sys2Proof/Machine/LaneFp.lean ====
section
/-!
DEFINITION. Lane floating-point arithmetic, functions, comparison, classification, rounding, scaling and conversions (R366
to R368, R377 to R387).
-/

namespace Sys2Proof.Machine

/-- An exact result rounded once into TY, in mode rm (R377). -/
def roundOut (f : LaneWord) (rm : Nat) (x : Num × Flags) : LaneOut :=
  let r := (fmtOf f.ty).round rm x.1
  { d := r.1, cc := ccFloat (fmtOf f.ty) r.1, fl := x.2 ||| r.2 }

def numA (f : LaneWord) (e : Env) (l : Nat) : Num := numOf f.ty (opA f e l)
def numB (f : LaneWord) (e : Env) (l : Nat) : Num := numOf f.ty (opB f e l)
def numC (f : LaneWord) (e : Env) (l : Nat) : Num := numOf f.ty (opC f e l)

/-! ### Arithmetic (R377, R378) -/

def execFadd (f : LaneWord) (s : State) : Res :=
  laneOp s f (src2 f) (tyHeld f.ty) (fun e l => roundOut f f.rm.toNat (addNum f.rm.toNat (numA f e l) (numB f e l)))
def execFsub (f : LaneWord) (s : State) : Res :=
  laneOp s f (src2 f) (tyHeld f.ty) (fun e l => roundOut f f.rm.toNat (addNum f.rm.toNat (numA f e l) (numB f e l).negate))
def execFmul (f : LaneWord) (s : State) : Res :=
  laneOp s f (src2 f) (tyHeld f.ty) (fun e l => roundOut f f.rm.toNat (mulNum (numA f e l) (numB f e l)))
def execFfma (f : LaneWord) (s : State) : Res :=
  laneOp s f (src3 f) (tyHeld f.ty) (fun e l => roundOut f f.rm.toNat (fmaNum f.rm.toNat (numA f e l) (numB f e l) (numC f e l)))
def execFmin (f : LaneWord) (s : State) : Res :=
  laneOp s f (src2 f) (tyHeld f.ty) (fun e l => roundOut f 0 (minMaxNum false (numA f e l) (numB f e l)))
def execFmax (f : LaneWord) (s : State) : Res :=
  laneOp s f (src2 f) (tyHeld f.ty) (fun e l => roundOut f 0 (minMaxNum true (numA f e l) (numB f e l)))

/-! ### Correctly rounded functions (R379, R380) -/

/-- A function value rounded into TY; F16 and BF16 go through F32 in the same mode (R380). -/
def funcOut (f : LaneWord) (x : Num × Flags) : LaneOut :=
  let rm := f.rm.toNat
  if f.ty = 8 ∨ f.ty = 9 then roundOut f rm x
  else
    let r32 := fmtF32.round rm x.1
    let r := (fmtOf f.ty).round rm (fmtF32.decode r32.1)
    { d := r.1, cc := ccFloat (fmtOf f.ty) r.1,
      fl := (x.2 &&& (fNV ||| fDZ)) ||| (r.2 &&& (fOF ||| fUF)) ||| ((r32.2 ||| r.2) &&& fNX) }

def execFdiv (f : LaneWord) (s : State) : Res :=
  laneOp s f (src2 f) (tyHeld f.ty) (fun e l => funcOut f (divNum (numA f e l) (numB f e l)))
def execFsqrt (f : LaneWord) (s : State) : Res :=
  laneOp s f (src1 f) (tyHeld f.ty) (fun e l => funcOut f (sqrtNum (numA f e l)))
def execFrcp (f : LaneWord) (s : State) : Res :=
  laneOp s f (src1 f) (tyHeld f.ty) (fun e l => funcOut f (divNum (.fin false 1 0) (numA f e l)))
def execFrsq (f : LaneWord) (s : State) : Res :=
  laneOp s f (src1 f) (tyHeld f.ty) (fun e l => funcOut f (rsqrtNum (numA f e l)))

/-- A transcendental function in every lane. -/
def transOp (s : State) (f : LaneWord) (fn : Num → Num × Flags) : Res :=
  laneOp s f (src1 f) (tyHeld f.ty) (fun e l => funcOut f (fn (numA f e l)))

def execFex2 (f : LaneWord) (s : State) : Res := transOp s f exp2Num
def execFlg2 (f : LaneWord) (s : State) : Res := transOp s f log2Num
def execFsinp (f : LaneWord) (s : State) : Res := transOp s f sinpNum
def execFcosp (f : LaneWord) (s : State) : Res := transOp s f cospNum

/-! ### Compare, classify, round and scale (R382 to R384) -/

/-- FSET in one lane. -/
def fsetOut (f : LaneWord) (a b : Num) : LaneOut :=
  let p := modLow f 3
  if a.isNan || b.isNan then
    { d := setBits f (p == 1 || p == 6), cc := ccOf false false true true,
      fl := flagIf ((2 ≤ p && p ≤ 5) || a.isSig || b.isSig) fNV }
  else
    let o := cmpNum a b
    { d := setBits f (if p = 6 then false else if p = 7 then true else predHolds p o),
      cc := match o with
        | .lt => ccOf true false false false
        | .eq => ccOf false true true false
        | .gt => ccOf false false true false }
def execFset (f : LaneWord) (s : State) : Res :=
  laneOp s f (src2 f) 32 (fun e l => fsetOut f (numA f e l) (numB f e l))

/-- The bit number of FCLASS. -/
def fclassBit (ty : BitVec 4) : Num → Nat
  | .nan sig => if sig then 0 else 1
  | .inf s => if s then 2 else 9
  | .fin s m e =>
    let sub := e + (bitLen m : Int) - 1 < (fmtOf ty).emin
    if m = 0 then (if s then 5 else 6)
    else if sub then (if s then 4 else 7)
    else if s then 3 else 8
def execFclass (f : LaneWord) (s : State) : Res :=
  laneOp s f (src1 f) 32 (fun e l =>
    let d := 2 ^ fclassBit f.ty (numA f e l)
    { d, cc := ccInt 32 d false false })

/-- FRND in one lane. -/
def frndOut (f : LaneWord) (x : Num) : LaneOut :=
  let rm := f.rm.toNat
  match x with
  | .nan sig => roundOut f rm (.nan sig, flagIf sig fNV)
  | .inf s => roundOut f rm (.inf s, 0)
  | .fin s m e =>
    let r := intOf rm s m e
    let o := roundOut f rm (.fin s r.1 0, 0)
    { o with fl := flagIf (f.mod.getLsbD 0 && !r.2) fNX }
/-- A finite value whose exponent says that it is an integer is unchanged. -/
def execFrnd (f : LaneWord) (s : State) : Res :=
  laneOp s f (src1 f) (tyHeld f.ty) (fun e l => frndOut f (numA f e l))
def execFscale (f : LaneWord) (s : State) : Res :=
  laneOp s f [(srcA f, tyHeld f.ty), (srcB f, 32)] (tyHeld f.ty) (fun e l =>
    let a := numA f e l
    roundOut f f.rm.toNat (a.scale (signedOf 32 (e.bits f (srcB f) 32 l)), flagIf a.isSig fNV))
def execFgete (f : LaneWord) (s : State) : Res :=
  laneOp s f (src1 f) 32 (fun e l =>
    let a := numA f e l
    match a.exponent with
    | some k => let d := wrapInt 32 k; { d, cc := ccInt 32 d false false }
    | none =>
      let d := if a.isZero then 0x80000000 else 0x7FFFFFFF
      { d, cc := ccInt 32 d false true, fl := fNV })

/-! ### Conversions (R385 to R387) -/

/-- A value converted to an integer type (R385): the bits, whether they differ from it, whether it saturated or was a NaN. -/
def toInteger (ty : BitVec 4) (rm : Nat) (x : Num) : Nat × Bool × Bool :=
  match x with
  | .nan _ => (0, false, true)
  | .inf s => (wrapInt (tyWidth ty) (if s then tyLo ty else tyHi ty), true, true)
  | .fin s m e =>
    if 130 < e + (bitLen m : Int) then (wrapInt (tyWidth ty) (if s then tyLo ty else tyHi ty), true, true)
    else
      let r := intOf rm s m e
      let t : Int := if s then -(r.1 : Int) else r.1
      if t < tyLo ty then (wrapInt (tyWidth ty) (tyLo ty), true, true)
      else if tyHi ty < t then (wrapInt (tyWidth ty) (tyHi ty), true, true)
      else (wrapInt (tyWidth ty) t, !r.2, false)

/-- An integer result of a conversion, and the codes of an integer destination. -/
def cvtIntOut (ty : BitVec 4) (d : Nat) (inexact sat : Bool) (fl : Flags) : LaneOut :=
  { d := extendTo32 ty d, cc := ccInt (tyWidth ty) d inexact sat, fl }

/-- A value encoded under a slot, and the codes of a SLOT destination (R385): C inexact, V saturated or NV. -/
def slotOut (sl : Slot) (rm : Nat) (x : Num) : LaneOut :=
  let r := slotEncode sl rm x
  let fl := r.2 ||| flagIf x.isSig fNV
  { d := r.1, cc := ccOf (sl.s && r.1.testBit (sl.w - 1)) (r.1 == 0) (fl.getLsbD 4) (fl.getLsbD 2 || fl.getLsbD 0), fl }

/-- CVT in one lane, from the bits of a: the result is inexact where it is not v (log entry 19). -/
def cvtOut (f : LaneWord) (sl : Slot) (a : Nat) : LaneOut :=
  let from_ := bType f
  let rm := f.rm.toNat
  if tyInt f.ty && tyInt from_ then
    let v := readTy from_ a
    let out := outsideTy f.ty v
    let d := wrapInt (tyWidth f.ty) (if f.mod.getLsbD 4 then clampInt (tyLo f.ty) (tyHi f.ty) v else v)
    cvtIntOut f.ty d out (out && f.mod.getLsbD 4) 0
  else
    let x := if from_ = 12 then slotDecode sl (a % 2 ^ sl.w) else if tyInt from_ then Num.ofInt (readTy from_ a) else numOf from_ a
    if tyInt f.ty then
      let (d, nx, nv) := toInteger f.ty rm x
      cvtIntOut f.ty d nx nv (flagIf (nx && !nv) fNX ||| flagIf nv fNV)
    else if f.ty = 12 then slotOut sl rm x
    else roundOut f rm (x, flagIf x.isSig fNV)

def execCvt (f : LaneWord) (s : State) : Res :=
  laneOp s f [(srcA f, tyHeld (bType f))] (tyHeld f.ty) (fun e l =>
    cvtOut f (e.cfg.slot f.fs) (e.opnd f (srcA f) (bType f) l))

/-- The block scale of an element of CVTS (R387): none for a NaN scale, 0 when the slot has no scale. -/
def cvtsScale (f : LaneWord) (e : Env) (l : Nat) : Option Int :=
  let sl := e.cfg.slot f.fs
  if sl.scale = 1 then e.scaleOf f.sb.toNat (f.imm.toNat % 4) ((f.imm.toNat / 256 * e.gw + l) / sl.block) else some 0

/-- Whether a lane's scale is read from a dead, unpublished or absent register: POISON (R336). -/
def cvtsPoison (f : LaneWord) (e : Env) : Bool :=
  let sl := e.cfg.slot f.fs
  sl.scale == 1 && (e.lanes (e.mask f)).any (fun l => e.scalePoison f.sb.toNat ((f.imm.toNat / 256 * e.gw + l) / sl.block))

/-- The registers that hold the scales read; a poisoned lane among them is consumed (R266). -/
def cvtsRegs (f : LaneWord) (e : Env) : List (Nat × Nat) :=
  let sl := e.cfg.slot f.fs
  if sl.scale = 1 then (e.lanes (e.mask f)).map (fun l =>
    let b := (f.imm.toNat / 256 * e.gw + l) / sl.block
    (f.sb.toNat + b / e.gw, b % e.gw)) else []

/-- CVTS in one lane. -/
def cvtsOut (f : LaneWord) (enc : Bool) (sl : Slot) (a : Nat) (sc : Option Int) : LaneOut :=
  let rm := f.rm.toNat
  if enc then
    let v := fmtF32.decode a
    slotOut sl rm (match sc with | none => .nan v.isSig | some k => v.scale (-k))
  else
    let v := slotDecode sl (a % 2 ^ sl.w)
    let x := match sc with | none => .nan false | some k => v.scale k
    let r := fmtF32.round rm x
    { d := r.1, cc := ccFloat fmtF32 r.1, fl := r.2 }

/-- CVTS: as `laneOp`, with the scale registers read beside source A. -/
def cvtsOp (s : State) (f : LaneWord) (enc : Bool) : Res :=
  withEnv s (fun e =>
    match (cvtsRegs f e).find? (fun p => s.store.poison.contains (.vreg e.r.g p.1 p.2)) with
    | some p => s.laneTrap e.r e.sp e.c 13 0 0 (p.2 + 256 * e.c.lop)
    | none => s.laneWrite e f [(srcA f, 32)] 32 (cvtsPoison f e) (fun l =>
        cvtsOut f enc (e.cfg.slot f.fs) (e.bits f (srcA f) 32 l) (cvtsScale f e l)))

def execCvtsEnc (f : LaneWord) (s : State) : Res := cvtsOp s f true
def execCvtsDec (f : LaneWord) (s : State) : Res := cvtsOp s f false

end Sys2Proof.Machine
end

