-- ==== Sys2Proof/Machine/LaneCross.lean ====
section
/-!
DEFINITION. Cross-lane instructions (R389 to R393), masks and condition codes (R394 to R397).
-/

namespace Sys2Proof.Machine

/-! ### Segments (R157, R389) -/

/-- The first lane of a lane's segment. -/
def Env.base (e : Env) (l : Nat) : Nat := l - e.special 1 l
/-- The segment number of a lane. -/
def Env.seg (e : Env) (l : Nat) : Nat := if e.g.segw = 0 then 0 else l / e.g.segw

/-- LXCH's source lane within the segment (R390). -/
def lxchFrom (mode i n w : Nat) : Option Nat :=
  match mode with
  | 0 => some n
  | 1 => if n ≤ i then some (i - n) else none
  | 2 => some (i + n)
  | 3 => some (i ^^^ n)
  | _ => if w = 0 then none else some ((i + n) % w)

def execLxch (f : LaneWord) (s : State) : Res :=
  withEnv s (fun e =>
    let m := e.mask f
    s.laneWrite e f [(srcA f, tyHeld f.ty), (srcB f, 32)] (tyHeld f.ty) false (fun l =>
      let w := tyWidth f.ty
      let src := match lxchFrom (modLow f 3) (e.special 1 l) (e.bits f (srcB f) 32 l) e.g.segw with
        | some j => if decide (j < e.g.segw) && m.getLsbD (e.base l + j) then some (e.base l + j) else none
        | none => none
      let d := opA f e (src.getD l)
      { d, cc := ccInt w d src.isSome false }))

/-- A scalar destination written instead of a vector register (R161, R325): `empty` for an empty mask (R168). -/
def State.laneScalar (s : State) (e : Env) (f : LaneWord) (srcs : List (Src × Nat)) (empty v : W64) (fl : Flags)
    (unread : Bool := false) : State :=
  let d : SReg := f.dst.truncate 6
  s.laneEffect e f srcs false unread (fun s => s.modGroup e.r.g (fun g => g.setSreg d empty))
    (fun s => s.modGroup e.r.g (fun g => { g.setSreg d v with fxf := g.fxf ||| fl }))

/-- LPOLL's condition codes. -/
def ccZero (d : Nat) : BitVec 4 := ccOf false (d == 0) false false

/-- LPOLL in one lane: the present lanes of the segment, and which of them hold a nonzero value. -/
def lpollOut (f : LaneWord) (e : Env) (m : W64) (l : Nat) : Nat :=
  let mode := modLow f 3
  let w := if mode = 3 then 32 else tyWidth f.ty
  let here := (e.lanes m).filter (fun k => e.seg k == e.seg l)
  let val (k : Nat) : Nat := e.bits f (srcA f) w k
  let one := if f.mod.getLsbD 3 then 2 ^ 32 - 1 else 1
  match mode with
  | 0 => if here.all (fun k => val k != 0) then one else 0
  | 1 => if here.any (fun k => val k != 0) then one else 0
  | 2 => if here.all (fun k => here.all (fun j => val j == val k)) then one else 0
  | 3 => maskOf ((here.filter (fun k => val k != 0)).map (fun k => k - e.base l)) % 2 ^ tyWidth f.ty
  | _ => here.countP (fun k => val k != 0)

def execLpoll (f : LaneWord) (s : State) : Res :=
  withEnv s (fun e =>
    let m := e.mask f
    let mode := modLow f 3
    let w := if mode = 3 then 32 else tyHeld f.ty
    if f.mod.getLsbD 8 then
      let set := (e.lanes m).filter (fun k => e.bits f (srcA f) w k != 0)
      s.laneScalar e f [(srcA f, w)] 0 (BitVec.ofNat 64 (if mode = 3 then maskOf set else set.length)) 0
    else
      s.laneWrite e f [(srcA f, w)] (if mode = 3 then tyHeld f.ty else 32) false (fun l =>
        let d := lpollOut f e m l
        { d, cc := ccZero d }))

/-! ### Reductions and scans (R392) -/

/-- The elements of a segment, absent ones as none. -/
def segElems (f : LaneWord) (e : Env) (m : W64) (base : Nat) : List (Option (Nat × Flags)) :=
  (List.range e.g.segw).map (fun j => if m.getLsbD (base + j) then some (opA f e (base + j), 0) else none)

/-- LRED over one segment. -/
def lredSeg (f : LaneWord) (e : Env) (m : W64) (base : Nat) : Option (Nat × Flags) :=
  canonReduce (redOpt (modLow f 3) f.ty f.rm.toNat) none 7 (segElems f e m base)

/-- A result of a reduction as it is written, with the codes of R367. -/
def redOut (f : LaneWord) (d : Nat) (fl : Flags) : LaneOut :=
  if tyFloat f.ty then { d, cc := ccFloat (fmtOf f.ty) d, fl }
  else { d := extendTo32 f.ty d, cc := ccInt (tyWidth f.ty) d false false, fl }

/-- The first lanes of the segments. -/
def Env.segBases (e : Env) : List Nat := (List.range e.gw).filter (fun l => e.special 1 l == 0)

def execLred (f : LaneWord) (s : State) : Res :=
  withEnv s (fun e =>
    let m := e.mask f
    if f.mod.getLsbD 8 then
      let ext (d : Nat) : W64 := BitVec.ofNat 64 (if tySigned f.ty then wrapInt 64 (signedOf (tyWidth f.ty) d) else d)
      let rs := e.segBases.map (fun b => (b, lredSeg f e m b))
      let fl := rs.foldl (fun a p => a ||| (p.2.getD (0, 0)).2) 0
      let id := ext (redIdent (modLow f 3) f.ty)
      let v := match (rs.headD (0, none)).2 with | some r => ext r.1 | none => id
      s.laneScalar e f (src1 f) id v fl
    else
      s.laneWrite e f (src1 f) (tyHeld f.ty) false (fun l =>
        let r := (lredSeg f e m (e.base l)).getD (0, 0)
        redOut f r.1 r.2))

/-- LSCAN over one segment: the elements that the lanes receive, and the flags. -/
def lscanSeg (f : LaneWord) (e : Env) (m : W64) (base : Nat) : List (Option (Nat × Flags)) × Flags :=
  let s := canonScan (redOpt (modLow f 3) f.ty f.rm.toNat) 7 1 (segElems f e m base)
  let fl := s.foldl (fun a x => a ||| (x.getD (0, 0)).2) 0
  (if f.mod.getLsbD 4 then none :: s.dropLast else s, fl)

def execLscan (f : LaneWord) (s : State) : Res :=
  withEnv s (fun e =>
    let m := e.mask f
    s.laneWrite e f (src1 f) (tyHeld f.ty) false (fun l =>
      let r := lscanSeg f e m (e.base l)
      let d := match r.1.getD (e.special 1 l) none with
        | some x => x.1
        | none => redIdent (modLow f 3) f.ty
      redOut f d r.2))

/-- LPEER in one lane (R393). -/
def lpeerOut (f : LaneWord) (e : Env) (m : W64) (l : Nat) : LaneOut :=
  let eq := (e.lanes m).filter (fun k => e.seg k == e.seg l && opA f e k == opA f e l)
  let d := if f.mod.getLsbD 1 then eq.headD l - e.base l
    else maskOf (eq.map (fun k => k - e.base l)) / 2 ^ (if f.mod.getLsbD 0 then 32 else 0) % 2 ^ 32
  { d, cc := ccOf false (eq.length ≤ 1) false false }
def execLpeer (f : LaneWord) (s : State) : Res :=
  withEnv s (fun e => let m := e.mask f; s.laneWrite e f (src1 f) 32 false (lpeerOut f e m))

/-! ### Masks (R394 to R396) -/

/-- A mask register written in the lanes of the execution mask: bits outside it keep their value. -/
def State.laneMask (s : State) (e : Env) (f : LaneWord) (srcs : List (Src × Nat)) (unread : Bool) (v : W64) : State :=
  let d := f.dst.toNat
  let m := e.mask f
  s.laneEffect e f srcs (s.loadIntoMask e.r.g d) unread (fun s => s)
    (fun s => s.modGroup e.r.g (fun g => g.setMask d ((g.masks.getD d 0 &&& ~~~m) ||| (v &&& m))))

/-- MOP's function (R395). -/
def mopFn (op : Nat) (a b : W64) : W64 :=
  match op with
  | 0 => a &&& b
  | 1 => a ||| b
  | 2 => a ^^^ b
  | 3 => a &&& ~~~b
  | 4 => ~~~a
  | 5 => a
  | 6 => ~~~(0 : W64)
  | _ => 0
def execMop (f : LaneWord) (s : State) : Res :=
  withEnv s (fun e =>
    let op := modLow f 3
    let a := if op ≤ 5 then f.sa.toNat else 0
    let b := if op ≤ 3 then f.sb.toNat else 0
    s.laneMask e f [] (e.g.maskUnpub a || e.g.maskUnpub b) (mopFn op (e.g.maskReg a e.c.mask) (e.g.maskReg b e.c.mask)))
def execMcopyV2m (f : LaneWord) (s : State) : Res :=
  withEnv s (fun e =>
    s.laneMask e f [(srcA f, 32)] false
      (BitVec.ofNat 64 (maskOf ((e.lanes (e.mask f)).filter (fun l => e.bits f (srcA f) 32 l != 0)))))
def execMcopyM2v (f : LaneWord) (s : State) : Res :=
  withEnv s (fun e =>
    let a := f.sa.toNat
    s.laneWrite e f [] 32 (e.g.maskUnpub a) (fun l => { d := if (e.g.maskReg a e.c.mask).getLsbD l then 1 else 0 }))
def execMcopyS2m (f : LaneWord) (s : State) : Res :=
  withEnv s (fun e => s.laneMask e f [] false (e.c.snap.getD f.sa.toNat 0))
/-- MCOPY.M2S is written also for an empty mask. -/
def execMcopyM2s (f : LaneWord) (s : State) : Res :=
  withEnv s (fun e =>
    let a := f.sa.toNat
    let v := e.g.maskReg a e.c.mask
    s.laneScalar e f [] v v 0 (e.g.maskUnpub a))

/-! ### Condition codes (R397) -/

def execCcget (f : LaneWord) (s : State) : Res :=
  withEnv s (fun e => s.laneWrite e f [] 32 false (fun l => { d := (e.g.ccs.getD l 0).toNat }))
def execCcput (f : LaneWord) (s : State) : Res :=
  withEnv s (fun e =>
    s.laneEffect e f [(srcA f, 32)] false false (fun s => s)
      (fun s => s.modGroup e.r.g (fun g => { g with ccs := (List.range e.gw).map (fun l =>
        if (e.mask f).getLsbD l then BitVec.ofNat 4 (e.bits f (srcA f) 32 l) else g.ccs.getD l 0) })))

end Sys2Proof.Machine
end

