-- ==== Sys2Proof/Machine/Spawn.lean ====
section
/-!
DEFINITION. New contexts, teams and groups in the state in which a grid starts (R94).
-/

namespace Sys2Proof.Machine

def LaunchRec.blank : LaunchRec :=
  { gw := 8, vregs := 1, entry := 0, lbase := 0, grid := (1, 1, 1), gpt := 1, crows := 1, ccols := 1, spmb := 0, accb := 0,
    args := 0, fslots := List.replicate 8 0, wslist := 0, wscount := 0, btimeout := 100000, dual := false, cores := false,
    jrnl := false, rope := false, prio := 0, bclass := 0, thoff := 0, csig := 0, reqfeat := 0, sinit := List.replicate 16 0 }

/-- A context as its packet is dispatched. -/
def newCtx (queue : Nat) (index tag : W32) (pent : Nat) (lr : LaunchRec) (raw : List Byte) : Ctx :=
  { queue, index, tag, pent, image := false, lr, raw, state := .staging, start := true, next := 0, next2 := 0, retired := 0,
    touched := 0, stage := [], ropeId := 0, rank := 0, rcount := 1, redSeq := 0, siga := 0, sigb := 0, ser := none,
    fault := none, slices := [], save := [], featUsed := lr.reqfeat, jseq := [], epoch := 0, yields := [], cores := [], spent := Spent.zero, jpos := none }

/-- A team as it becomes resident: no tiles, barriers with zero quotas and counts and phase parity 0 (R94). -/
def newTeam (ctx linear : Nat) (xyz : Nat × Nat × Nat) (crank lead inst die site : Nat) : Team :=
  { ctx, linear, xyz, crank, lead, inst, die, site, state := .running, bars := List.replicate 16 Barrier.zero,
    cbar := Barrier.zero, tiles := List.replicate 64 none, groups := [], halting := false, halted := false, gone := Claimed.none_, claimAt := 0, saved := false }

/-- The split with which a group starts: split 0, with all lanes, at ENTRY (R94). -/
def firstSplit (lr : LaunchRec) (now : Nat) : Split :=
  { Split.absent with status := .ready, pc := lr.entry, mask := lanesMask lr.gw, age := now }

/-- A group as it starts (R94): s0 to s15 hold SINIT; other registers, masks, flags, codes, FXF and POISON are zero; the
segment width is GW; every vector register is dead. -/
def newGroup (team index part : Nat) (lr : LaunchRec) (now : Nat) : Group :=
  { team, index, part, live := true, splits := firstSplit lr now :: List.replicate 3 Split.absent,
    sregs := (List.range 64).map (fun i => if i < 16 then lr.sinit.getD i 0 else 0), spois := 0,
    masks := List.replicate 8 0, munpub := List.replicate 8 none, flags := 0, pend := 0, mflags := 0, segw := lr.gw, fxf := 0,
    poison := false, rfault := RFault.zero, gwct := 0, vregs := List.replicate lr.vregs VReg.dead,
    ccs := List.replicate lr.gw 0, acc := List.replicate 8 none, batches := [], clauses := [], desched := false, since := now,
    hits := 0, stop := none }

/-- Where a probe of one instruction is placed: its VA, and the frame's leaf, which any access may use. -/
def probeVa : W64 := 0x10000
def probeLeaf (frame : Nat) : W64 := 0xE40F ||| BitVec.ofNat 64 (frame * 65536)

/-- A context of one group of 32 lanes with 255 vector registers is running on the first core, in partition table entry 0,
with translation enabled, the code page mapped by a cached translation, and these bytes at its PC. It stands for the launch of a program. -/
def State.plant (s : State) (code : List Byte) (clause : Option ClauseRun) : State × Nat :=
  let f := (s.freeFrame 0).getD 0
  let c := s.exec.ctxs.length
  let t := s.exec.teams.length
  let g := s.exec.groups.length
  let lr := { LaunchRec.blank with gw := 32, vregs := 255, entry := probeVa, lbase := probeVa }
  let gr := newGroup t 0 0 lr s.now
  let gr := { gr with splits := modAt gr.splits 0 (fun sp => { sp with clause }) }
  let e : TlbEntry := { core := some (0, 0), pent := 0, page := probeVa.toNat / 65536, leaf := probeLeaf f, level := 3, entry := 0 }
  let st := (s.store.takeFrame f 0).putBytes false (f * 65536) code
  let s := s.modPart 0 (fun p => { p with state := 1, keybase := 0, keycount := if p.keycount = 0 then 1 else p.keycount })
  ({ s with
    memctl := { s.memctl with xlat := modAt s.memctl.xlat 0 (fun x => { x with root := x.root ||| 1 }) }
    store := { st with tlb := e :: st.tlb }
    exec := { s.exec with
      ctxs := s.exec.ctxs ++ [{ newCtx 0 0 0 0 lr [] with state := .running, next := 1 }]
      teams := s.exec.teams ++ [{ newTeam c 0 (0, 0, 0) 0 t 0 0 0 with groups := [g] }]
      groups := s.exec.groups ++ [gr] } }, g)

end Sys2Proof.Machine
end

