-- ==== Sys2Proof/Machine/Stage.lean ====
section
/-!
DEFINITION. Stage chains (R254 to R257, R441): descriptors, the steps that run on this device, forwarding and delivery.
-/

namespace Sys2Proof.Machine

/-! ### Descriptors (R254) -/

/-- A descriptor's fields; none when it is invalid. -/
def stageDesc (b : List Byte) : Option StageDesc :=
  let off := (List.range 8).map (fun i => BitVec.ofNat 16 (fieldAt b (8 + 2 * i) 2))
  let d : StageDesc :=
    { mode := b.getD 0 0, steps := b.getD 1 0, hops := b.getD 2 0, rbytes := b.getD 3 0, off, pmask := BitVec.ofNat 64 (fieldAt b 0x18 8),
      key := BitVec.ofNat 64 (fieldAt b 0x20 8), nullv := BitVec.ofNat 64 (fieldAt b 0x28 8), cls := BitVec.ofNat 2 (fieldAt b 0x30 2) }
  let steps := d.steps.toNat
  let hops := d.hops.toNat
  let shape :=
    if d.mode = 0 then decide (1 ≤ steps ∧ steps ≤ 8 ∧ hops = 0) && zeroAt b (8 + 2 * steps) (16 - 2 * steps)
    else decide (d.mode = 1 ∧ steps = 0 ∧ 1 ≤ hops ∧ hops ≤ 64) && zeroAt b 0x0E 10
  if shape && (d.rbytes == 8 || d.rbytes == 16 || d.rbytes == 32) && zeroAt b 4 4 && decide (fieldAt b 0x30 2 ≤ 1) && zeroAt b 0x32 14
  then some d else none

/-! ### Loads of a step (R255) -/

/-- What a load of a step gives. -/
inductive StepGot where
  | ok (s : State) (b : List Byte)
  | bad (s : State) (code : Nat)
  | wait

/-- The event that a fault of a step writes at its target (R246). -/
def State.stageFault (s : State) (pent : Option Nat) (p : StagePkt) (code : Nat) (addr : W64) : State :=
  s.inboundFault pent (p.part.zeroExtend 8) (p.sub.zeroExtend 8) (BitVec.ofNat 8 code) p.src 3 p.rope (addr &&& 0xFFFFFFFFFFFF) p.name

/-- n bytes within one sector at an address of this member's window, with the checks of R240. -/
def State.stepPart (s : State) (pent : Nat) (va : W64) (n : Nat) : StepGot :=
  if (s.partEnt pent).state ≠ 1 then .bad s 12
  else
  match s.translate none pent none (va &&& 0xFFFFFFFFFFFF) .read with
  | .prot 0 => .bad s 1
  | .prot _ => .bad s 2
  | .key => .bad s 3
  | .poison => .bad s 9
  | .nonres _ | .follow _ => .bad s 4
  | .ok (.mem pa) ca e =>
    if s.lost.getLsbD (8 + homeDie pa) || s.store.poisoned (s.shadowed pa) n then .bad s 9
    else if s.owned pa then .wait
    else
      let s := match e with | some e => s.markLeaf e (va &&& 0xFFFFFFFFFFFF).toNat false | none => s
      let s := if s.deadAt pa then s.countDead pent else s
      let (s, d) := s.homeRead pent none ca false pa n
      .ok s d
  | .ok _ _ _ => .bad s 1

/-- n bytes at an address that must be 8-byte aligned, piece by piece (R213). -/
def State.stepLoad (s : State) (pent : Nat) (va : W64) (n : Nat) : StepGot :=
  if va.toNat % 8 ≠ 0 then .bad s 7
  else
    (piecesOf va n).foldl (fun (a : StepGot) p => match a with
      | .ok s b => match s.stepPart pent (va + BitVec.ofNat 64 p.1) p.2 with | .ok s d => .ok s (b ++ d) | x => x
      | x => x) (.ok s [])

/-! ### A chain on this device -/

/-- Where a chain on this device stands: over, with what it delivers; going to another member; or waiting for a copy that
owns a line. -/
inductive ChainEnd where
  | deliver (status : Byte) (data : List Byte)
  | hop (slot : BitVec 7) (p : StagePkt)
  | wait

/-- A FAULT delivery (R256). -/
def State.faultData (s : State) (va : W64) (code h : Nat) : List Byte :=
  bytesOf 8 va.toNat ++ bytesOf 8 (s.selfSlot.toNat * 65536 + code * 256 + h)

/-- The hop index that a fault reports: the result load of a PATH keeps that of the last step. -/
def pktHop (p : StagePkt) : Nat := if p.desc.mode = 0 then min p.h (p.desc.steps.toNat - 1) else p.h

/-- One load of a chain; its failure ends the chain with a FAULT. -/
def State.chainLoad (s : State) (b : Binding) (p : StagePkt) (va : W64) (n : Nat) (k : State → List Byte → State × ChainEnd) :
    State × ChainEnd :=
  match s.stepLoad b.pent va n with
  | .ok s d => k s d
  | .bad s code => (s.stageFault (some b.pent) p code va, .deliver 5 (s.faultData va code (pktHop p)))
  | .wait => (s, .wait)

def descOff (d : StageDesc) (i : Nat) : W64 := (d.off.getD i 0).signExtend 64

/-- The steps of a chain as far as they run here (R255). In a PATH, h counts the pointers loaded. -/
def State.chain (b : Binding) : (fuel : Nat) → (s : State) → (p : StagePkt) → State × ChainEnd
  | 0, s, _ => (s, .wait)
  | fuel + 1, s, p =>
    let d := p.desc
    if d.mode = 1 ∧ p.p = d.nullv then (s, .deliver 3 [])
    else if d.mode = 1 ∧ p.h = d.hops.toNat then (s, .deliver 4 (bytesOf 8 p.p.toNat))
    else
      let rank := (p.p.extractLsb' 48 7).toNat
      if !p.p.getLsbD 55 || decide (b.map.length ≤ rank) then (s, .deliver 5 (s.faultData p.p 5 (pktHop p)))
      else if rank ≠ b.rank then (s, .hop (b.map.getD rank 0) p)
      else if d.mode = 0 then
        if p.h = d.steps.toNat then s.chainLoad b p p.p d.rbytes.toNat (fun s x => (s, .deliver 0 x))
        else
          s.chainLoad b p (p.p + descOff d p.h) 8 (fun s x => s.chain b fuel { p with p := wordOf 64 x &&& d.pmask, h := p.h + 1 })
      else
        s.chainLoad b p (p.p + descOff d 0) 8 (fun s x =>
          if (wordOf 64 x : W64) = d.key then s.chainLoad b p (p.p + descOff d 2) d.rbytes.toNat (fun s x => (s, .deliver 0 x))
          else
            s.chainLoad b p (p.p + descOff d 1) 8 (fun s x => s.chain b fuel { p with p := wordOf 64 x &&& d.pmask, h := p.h + 1 }))

/-- The partition table entry of a packet. -/
def pktEntry (p : StagePkt) : Nat := 5 * p.part.toNat + p.sub.toNat

/-- A chain's result goes from this device to the berth's home, in class 0. -/
def State.sendResult (s : State) (p : StagePkt) (status : Byte) (data : List Byte) : State :=
  let d : Delivery := { name := p.name, src := s.selfSlot, part := p.part, sub := p.sub, pgen := (s.partEnt (pktEntry p)).gen, stage := true,
                        status, data, id := 0 }
  if nameSlot p.name = s.selfSlot then (s.deliver d).1
  else s.sendReq (nameSlot p.name) 0 (pktEntry p) false (.delivery d)

/-- A packet is sent on, and kept until the next device accepts it (R257). -/
def State.sendStage (s : State) (slot : BitVec 7) (p : StagePkt) (ctx : Option Nat) (g : Nat) : State :=
  if s.linkUp slot then
    let id := s.ops.nextId
    let p := { p with id, src := s.selfSlot, pgen := (s.partEnt (pktEntry p)).gen }
    let k : Stage := { pkt := p, dst := slot, sentAt := s.now, sent := true, ctx, g }
    let s : State := { s with ops := { s.ops with nextId := id + 1, stages := s.ops.stages ++ [k] } }
    s.sendReq slot p.desc.cls (pktEntry p) false (.stage p)
  else s.sendResult p 5 (s.faultData p.p 11 (pktHop p))

/-- A chain runs here from a packet on. What waits for a line that a copy owns is kept unsent. -/
def State.runChain (s : State) (p : StagePkt) (ctx : Option Nat) (g : Nat) : State :=
  match s.ropes.binds.find? (fun b => b.id == p.rope) with
  | none => (s.stageFault none p 6 p.p).sendResult p 5 (s.faultData p.p 6 (pktHop p))
  | some b =>
    match s.chain b 66 p with
    | (s, .deliver status data) => s.sendResult p status data
    | (s, .hop slot p) => s.sendStage slot p ctx g
    | (_, .wait) =>
      let id := s.ops.nextId
      { s with ops := { s.ops with nextId := id + 1, stages := s.ops.stages ++
          [{ pkt := p, dst := s.selfSlot, sentAt := s.now, sent := false, ctx, g }] } }

/-- The chains that wait on this device run on. -/
def State.stagesRetry (s : State) : State :=
  let todo := s.ops.stages.filter (fun k => !k.sent)
  todo.foldl (fun (s : State) (k : Stage) => s.runChain k.pkt k.ctx k.g) { s with ops := { s.ops with stages := s.ops.stages.filter (·.sent) } }

/-- The next device has accepted a packet. -/
def State.stageAccepted (s : State) (id : Nat) : State :=
  { s with ops := { s.ops with stages := s.ops.stages.filter (fun k => !(k.sent && k.pkt.id == id)) } }

/-- STAGE_STEP: the packet is accepted and runs. -/
def execStageStep (p : StagePkt) (s : State) : Res :=
  .next ((s.sendAnswer p.src ⟨p.part, p.sub, p.pgen⟩ (.stageAccept p.id)).runChain p none 0)

/-- STAGE_TIMEOUT of the packet with number sel.a: no acceptance within 4 ms, or the link is down. -/
def execStageTimeout (s : State) : Res :=
  match s.ops.stages.find? (fun k => k.sent && k.pkt.id == s.sel.a) with
  | none => .next s
  | some k =>
    let down := !s.linkUp k.dst
    if down || decide (k.sentAt + 4000000 ≤ s.now) then
      .next ((s.stageAccepted k.pkt.id).sendResult k.pkt 5 (s.faultData k.pkt.p (if down then 11 else 10) (pktHop k.pkt)))
    else .next s

/-! ### STAGE (R441) -/

/-- The packet with which a chain starts. -/
def State.newStage (s : State) (pent : Nat) (rope : W32) (start name : W64) (d : StageDesc) : StagePkt :=
  { desc := d, p := start, h := 0, rope, name, src := s.selfSlot, part := partBits pent, sub := subBits pent,
    pgen := (s.partEnt pent).gen, id := 0 }

/-- A descriptor of which nothing is known. -/
def blankDesc : StageDesc := { mode := 0, steps := 1, hops := 0, rbytes := 16, off := [], pmask := 0, key := 0, nullv := 0, cls := 0 }

/-- A chain that ends at hop 0 on this device with a FAULT at the descriptor's VA. -/
def State.stageBad (s : State) (pent : Nat) (rope : W32) (name desc : W64) (code : Nat) : State :=
  s.sendResult (s.newStage pent rope 0 name blankDesc) 5 (s.faultData desc code 0)

/-- A chain starts with its descriptor's bytes. -/
def State.startChain (s : State) (pent : Nat) (rope : W32) (start name desc : W64) (bytes : List Byte) (ctx : Option Nat) (g : Nat) : State :=
  match stageDesc bytes with
  | none => s.stageBad pent rope name desc 8
  | some d => s.runChain (s.newStage pent rope start name d) ctx g

def execStage (d a b : SReg) (s : State) : Res :=
  berthRun s Config.featStage 0x2C [d, a, b] (fun r g sp e =>
    if !e.ctx.lr.rope then s.illegal r sp 0x2C
    else if e.switched then s
    else
      let va := g.sreg b
      let done (s : State) : State := match s.group? r.g with
        | some g => (s.useFeat e.cn Config.featStage).finish0 r { (g.split r.sp) with fails := [] } 4
        | none => s
      if va.toNat % 64 ≠ 0 then (done s).stageBad e.ctx.pent e.ctx.ropeId (g.sreg d) va 7
      else
        match s.readRec e sp.fails va 64 with
        | .ok s x used =>
          (done (s.useLines used)).startChain e.ctx.pent e.ctx.ropeId (g.sreg a) (g.sreg d) va x (some e.cn) r.g
        | .bad code => (done s).stageBad e.ctx.pent e.ctx.ropeId (g.sreg d) va code
        | .poison => (done s).stageBad e.ctx.pent e.ctx.ropeId (g.sreg d) va 9
        | .wait s => s
        | .absent p => s.deschedule e [p] false 1
        | .follow p => s.awaitFollow e [p] true
        | .lost x => s.endLost e.cn x)

end Sys2Proof.Machine
end

