-- ==== Sys2Proof/Machine/Place.lean ====
section
/-!
DEFINITION. Placement and residency (R99 to R101), slices and halting in place (R114 to R116), the memory-issue window (R105).
-/

namespace Sys2Proof.Machine

/-! ### What fits where (R99, R100) -/

/-- The sites of a compute die that a partition may use. -/
def State.sitesOf (s : State) (e die : Nat) : List Nat :=
  let m := s.sites.getD die 0 &&& (s.partEnt e).sites.getD die 0
  (List.range 28).filter (m.getLsbD ·)

/-- Where a team's first group lies. -/
def State.teamH (s : State) (t : Team) : Nat :=
  match t.groups.head?.bind s.group? with | some g => (g.part + 4 - g.index % 4) % 4 | none => 0

/-- A team on a core: its launch record, its h, and what it has given up. -/
structure Occupant where
  lr   : LaunchRec
  h    : Nat
  gone : Claimed
deriving DecidableEq, Repr

/-- The indices of a team's groups that take a partition, but for some. -/
def Occupant.at_ (x : Occupant) (but : List Nat) (p : Nat) : List Nat :=
  (List.range x.lr.gpt).filter (fun i => (i + x.h) % 4 == p && !but.contains i)
/-- The groups that hold their register rows in a partition. -/
def Occupant.groups (x : Occupant) (p : Nat) : Nat := (x.at_ x.gone.regs p).length

/-- Whether teams fit together on one core (R100), resource by resource: the groups and register rows of a partition, -/
def rowsFit (l : List Occupant) (p : Nat) : Bool :=
  decide ((l.map (·.groups p)).sum ≤ 16) && decide ((l.map (fun x => x.groups p * (x.lr.gw * x.lr.vregs * 4))).sum ≤ 0x80000)
/-- the ACC banks of a partition, -/
def accFits (l : List Occupant) (p : Nat) : Bool :=
  decide ((l.map (fun x => (x.at_ x.gone.acc p).length * x.lr.accb)).sum ≤ 0x80000)
/-- and SPM. -/
def spmFits (l : List Occupant) : Bool := decide ((l.map (fun x => if x.gone.spm then 0 else x.lr.spmb)).sum ≤ 0x400000)
/-- All of them: a core has 64 groups when each of its partitions has 16. -/
def occupantsFit (l : List Occupant) : Bool := (List.range 4).all (fun p => rowsFit l p && accFits l p) && spmFits l
/-- The same for teams that have given nothing up. -/
def coreFits (l : List (LaunchRec × Nat)) : Bool := occupantsFit (l.map (fun x => { lr := x.1, h := x.2, gone := Claimed.none_ }))

/-- The running teams of a core, by number; a halted one without what has been claimed of it. -/
def State.occupants (s : State) (die site : Nat) : List (Nat × Team × Occupant) :=
  (withIndex s.exec.teams).filterMap (fun p =>
    if p.2.die = die ∧ p.2.site = site ∧ p.2.state = .running then
      (s.ctx? p.2.ctx).map (fun c => (p.1, p.2, { lr := c.lr, h := s.teamH p.2, gone := if p.2.halted then p.2.gone else Claimed.none_ }))
    else none)
/-- What a team to be placed finds on a core: all that is halted may be claimed (R115). -/
def State.unclaimable (s : State) (die site : Nat) : List (LaunchRec × Nat) :=
  ((s.occupants die site).filter (fun x => !x.2.1.halted)).map (fun x => (x.2.2.lr, x.2.2.h))

/-- An h with which a team fits on a core beside what counts there. The lowest is taken; the manual leaves it to the placer. -/
def State.fitsOn (s : State) (lr : LaunchRec) (die site : Nat) : Option Nat :=
  let here := s.unclaimable die site
  (List.range 4).find? (fun h => coreFits ((lr, h) :: here))

/-- The resident groups of a core. -/
def State.groupCount (s : State) (die site : Nat) : Nat :=
  ((s.occupants die site).map (fun x => ((List.range 4).map x.2.2.groups).sum)).sum

/-- The sites, by rank, of a cluster whose top-left site is (row, col); none where it leaves the mesh. -/
def rectangle (lr : LaunchRec) (row col : Nat) : Option (List Nat) :=
  if row + lr.crows ≤ 4 ∧ col + lr.ccols ≤ 7 then
    some ((List.range (lr.crows * lr.ccols)).map (fun k => 7 * (row + k / lr.ccols) + col + k % lr.ccols))
  else none

/-- The rectangles of a die for a cluster, by top-left site. -/
def rectangles (lr : LaunchRec) : List (List Nat) := (List.range 28).filterMap (fun i => rectangle lr (i / 7) (i % 7))

/-- Room for a team or a cluster on a die: site and h of each team, by rank. The site, or the rectangle, with the fewest
resident groups is taken, the lowest on a tie (R101). -/
def State.roomOn (s : State) (e : Nat) (lr : LaunchRec) (die : Nat) : Option (List (Nat × Nat)) :=
  let ok := s.sitesOf e die
  let cands := (rectangles lr).filterMap (fun r =>
    if r.all ok.contains then
      let hs := r.filterMap (fun site => (s.fitsOn lr die site).map (site, ·))
      if hs.length = r.length then some hs else none
    else none)
  leastBy (fun hs => (hs.map (fun x => s.groupCount die x.1)).sum) cands

/-! ### The two sets of dies of a dual-run launch (R106) -/

/-- The dies of a partition that have usable sites. -/
def State.diesOf (s : State) (e : Nat) : List Nat := (List.range (Config.computeDies s.part)).filter (fun k => s.sitesOf e k != [])

/-- A set of dies, as a mask, whose enabled count lies nearest to half; the lowest such mask. -/
def State.dualMask (s : State) (e : Nat) : Nat :=
  let ds := s.diesOf e
  let n (m : Nat) (inside : Bool) := ((ds.filter (fun k => m.testBit k == inside)).map (fun k => (s.sitesOf e k).length)).sum
  let cands := (List.range 256).filter (fun m => ds.any (m.testBit ·) && ds.any (fun k => !m.testBit k))
  (leastBy (fun m => (n m true - n m false) + (n m false - n m true)) cands).getD 0

/-- The dies on which an instance of a context is placed. -/
def State.diesFor (s : State) (c : Ctx) (inst : Nat) : List Nat :=
  if c.lr.dual then (s.diesOf c.pent).filter (fun k => (s.dualMask c.pent).testBit k == decide (inst = 0)) else s.diesOf c.pent

/-- The die for the next team or cluster of an instance (R101): a[k] / n[k] least among those with room, the lowest on a tie;
`ok` is what else a die must have. -/
def State.chooseDie (s : State) (cn : Nat) (c : Ctx) (inst : Nat) (ok : Nat → Bool) : Option (Nat × List (Nat × Nat)) :=
  let placed (k : Nat) : Nat := s.exec.teams.countP (fun t => t.ctx == cn && t.inst == inst && t.die == k)
  let cands := (s.diesFor c inst).filterMap (fun k => if ok k then (s.roomOn c.pent c.lr k).map (k, ·) else none)
  cands.foldl (fun best x =>
    match best with
    | none => some x
    | some b => if placed x.1 * (s.sitesOf c.pent b.1).length < placed b.1 * (s.sitesOf c.pent x.1).length then some x else some b) none

/-! ### Making teams resident (R94, R101) -/

def gridSize (lr : LaunchRec) : Nat := lr.grid.1 * lr.grid.2.1 * lr.grid.2.2
def xyzOf (lr : LaunchRec) (l : Nat) : Nat × Nat × Nat :=
  (l % lr.grid.1, l / lr.grid.1 % lr.grid.2.1, l / (lr.grid.1 * lr.grid.2.1))
def linearOf (lr : LaunchRec) (x y z : Nat) : Nat := x + lr.grid.1 * (y + lr.grid.2.1 * z)

/-- The corner of the cluster after the one whose corner has linear index l; the grid's size at the end. -/
def nextCorner (lr : LaunchRec) (l : Nat) : Nat :=
  let (x, y, z) := xyzOf lr l
  if x + lr.ccols < lr.grid.1 then linearOf lr (x + lr.ccols) y z
  else if y + lr.crows < lr.grid.2.1 then linearOf lr 0 (y + lr.crows) z
  else linearOf lr 0 0 (z + 1)

/-- More of a team's state is claimed. -/
def Team.claimed (t : Team) (now : Nat) (f : Claimed → Claimed) : Team :=
  let c := f t.gone
  { t with gone := c, claimAt := if c.spm && !t.gone.spm then now else t.claimAt, saved := false }

/-- What is claimed next on a core: of a resource of which what stands there does not fit, the part that the first halted team holds; none
when all fits, or there is none to claim. -/
def State.claimNext (s : State) (die site : Nat) : Option State :=
  let os := s.occupants die site
  let l := os.map (·.2.2)
  let halted := os.filter (·.2.1.halted)
  let first (but : Claimed → List Nat) (p : Nat) : Option (Nat × Nat) := halted.findSome? (fun x => (x.2.2.at_ (but x.2.2.gone) p).head?.map (x.1, ·))
  let take (t : Nat) (f : Claimed → Claimed) : State := s.modTeam t (·.claimed s.now f)
  match (List.range 4).find? (fun p => !rowsFit l p), (List.range 4).find? (fun p => !accFits l p) with
  | some p, _ => (first (·.regs) p).map (fun x => take x.1 (fun g => { g with regs := g.regs ++ [x.2] }))
  | none, some p => (first (·.acc) p).map (fun x => take x.1 (fun g => { g with acc := g.acc ++ [x.2] }))
  | none, none =>
    if spmFits l then none
    else (halted.find? (fun x => !x.2.2.gone.spm && x.2.2.lr.spmb != 0)).map (fun x => take x.1 (fun g => { g with spm := true }))

/-- Halted teams on a core give up state, only as much as is needed, until what stands there fits (R115). -/
def State.claims (s : State) : (fuel : Nat) → (die site : Nat) → State
  | 0, _, _ => s
  | fuel + 1, die, site =>
    match s.claimNext die site with
    | none => s
    | some s => s.claims fuel die site
def State.claim (s : State) (die site : Nat) : State := s.claims (2 * s.exec.groups.length + s.exec.teams.length) die site

/-- A context's slice on a core starts with its first team there (R114). -/
def Ctx.startSlice (c : Ctx) (die site now : Nat) : Ctx :=
  if c.slices.any (fun x => x.1 == die && x.2.1 == site) then c else { c with slices := c.slices ++ [(die, site, now)] }

/-- One team and its groups are added on a core, whose L1 is discarded before they start (R224). -/
def State.addTeam (s : State) (cn : Nat) (c : Ctx) (inst linear crank lead die site h : Nat) : State :=
  let t := s.exec.teams.length
  let g0 := s.exec.groups.length
  let tm := { newTeam cn linear (xyzOf c.lr linear) crank lead inst die site with groups := (List.range c.lr.gpt).map (g0 + ·) }
  let tm := { tm with cbar := { tm.cbar with lquota := if t = lead then c.lr.crows * c.lr.ccols * c.lr.gpt * c.lr.gw else 0 } }
  let gs := (List.range c.lr.gpt).map (fun i => newGroup t i ((i + h) % 4) c.lr s.now)
  let s : State := { s with exec := { s.exec with teams := s.exec.teams ++ [tm], groups := s.exec.groups ++ gs } }
  ((s.claim die site).flushL1 die site).modCtx cn (·.startSlice die site s.now)

/-- The next team or cluster of an instance becomes resident; none when it fits nowhere. -/
def State.placeNext (s : State) (cn inst : Nat) : Option State :=
  match s.ctx? cn with
  | none => none
  | some c =>
    let l := if inst = 0 then c.next else c.next2
    match s.chooseDie cn c inst (fun _ => true) with
    | none => none
    | some (die, room) =>
      let lead := s.exec.teams.length
      let (x, y, z) := xyzOf c.lr l
      let s := (withIndex room).foldl (fun (s : State) (k : Nat × Nat × Nat) =>
        s.addTeam cn c inst (linearOf c.lr (x + k.1 % c.lr.ccols) (y + k.1 / c.lr.ccols) z) k.1 lead die k.2.1 k.2.2) s
      some (s.modCtx cn (fun c => { c with
        state := .running
        next := if inst = 0 then nextCorner c.lr l else c.next
        next2 := if inst = 0 then c.next2 else nextCorner c.lr l }))

/-- The instance whose next team comes first: the one behind the other. -/
def Ctx.nextInst (c : Ctx) : Option Nat :=
  let n := gridSize c.lr
  if c.lr.dual then
    if c.next < n ∧ c.next ≤ c.next2 then some 0 else if c.next2 < n then some 1 else if c.next < n then some 0 else none
  else if c.next < n then some 0 else none

/-- All that is left of a grid becomes resident; none when some of it does not fit. -/
def State.placeAll (s : State) (cn : Nat) : (fuel : Nat) → Option State
  | 0 => some s
  | fuel + 1 =>
    match (s.ctx? cn).bind Ctx.nextInst with
    | none => some s
    | some inst => (s.placeNext cn inst).bind (fun s => s.placeAll cn fuel)

/-! ### Halted teams -/

/-- The halted teams of a context, by number. -/
def State.haltedOf (s : State) (cn : Nat) : List Nat :=
  ((withIndex s.exec.teams).filter (fun p => p.2.ctx == cn && p.2.halted && p.2.state == .running)).map (·.1)

/-- The copies into a team's tiles that its claim squashed are restarted: what they had read is read again (R115, R433). -/
def State.restartCopies (s : State) (t : Nat) : State :=
  { s with ops := { s.ops with copies := s.ops.copies.map (fun c =>
      if c.dstTile.any (·.1 == t) && s.copyHeld c then { c with seen := [], page := none } else c) } }

/-- Whether the base die below a compute die has room for SIDE bytes of a partition (R203). -/
def State.sideRoom (s : State) (e die n : Nat) : Bool :=
  n == 0 || decide (s.sideDrawn e (baseBelow die) + n ≤ s.sidePool e (baseBelow die))

/-- A halted team goes on (R115): on its core if it fits there, or, where it is a cluster of its own, where R101 places it and its SIDE tiles
have room. Records in the save area hold what the team holds: loaded, they leave it as it is. -/
def State.resumeTeam (s : State) (t : Nat) : Option State :=
  match s.team? t with
  | none => none
  | some tm =>
    match s.ctx? tm.ctx with
    | none => none
    | some c =>
      let back (s : State) (die site : Nat) (h : Option Nat) : State :=
        let s := (s.restartCopies t).modTeam t (fun tm => { tm with halted := false, halting := false, gone := Claimed.none_, saved := false, die, site })
        let s := tm.groups.foldl (fun (s : State) g => s.modGroup g (fun gr => { gr with
          stop := none, part := match h with | some h => (gr.index + h) % 4 | none => gr.part })) s
        ((s.claim die site).flushL1 die site).modCtx tm.ctx (·.startSlice die site s.now)
      if coreFits ((c.lr, s.teamH tm) :: s.unclaimable tm.die tm.site) then some (back s tm.die tm.site none)
      else if c.lr.crows * c.lr.ccols = 1 then
        match s.chooseDie tm.ctx c tm.inst (fun k => baseBelow k == baseBelow tm.die || s.sideRoom c.pent k (tm.drawn 2)) with
        | some (die, x :: _) => some (back s die x.1 (some x.2))
        | _ => none
      else none

/-- Whether a group has reached a point at which it stops (R117, R118). -/
def Group.atPoint (g : Group) : Bool :=
  g.desched || !g.live ||
  (withIndex g.splits).all (fun p =>
    p.2.waitOp.isNone &&
    (p.2.clause.isNone || p.2.handler == some .lane || p.2.waitPg != [] ||
      (match g.stop with | some t => t.lanes == 0 || t.held.contains p.1 | none => false)))

/-- Whether a split that is to perform only the wait part of a barrier instruction finds its phase over: that instruction has issued, and
is about to complete (R117). -/
def State.phaseOver (s : State) (g : Group) (sp : Split) : Bool :=
  sp.status == .ready && sp.arrived && sp.handler.isNone &&
  (match s.team? g.team with
   | some tm => (if sp.wbar = 16 then (match s.team? tm.lead with | some ld => ld.cbar | none => tm.cbar) else tm.bars.getD sp.wbar Barrier.zero).parity != sp.wpar
   | none => false)
/-- Whether a group, by number, has reached a point at which it stops (R117, R118). -/
def State.atPoint (s : State) (g : Nat) : Bool :=
  match s.group? g with
  | some gr => gr.atPoint && !gr.splits.any (s.phaseOver gr)
  | none => true

/-- Teams whose slice has expired halt once all their groups have stopped; a slice there is over. -/
def State.settleHalts (s : State) : State :=
  (withIndex s.exec.teams).foldl (fun (s : State) p =>
    if p.2.halting && p.2.groups.all s.atPoint then
      (s.modTeam p.1 (fun t => { t with halting := false, halted := true })).modCtx p.2.ctx (fun c => { c with
        slices := c.slices.filter (fun x => !(x.1 == p.2.die && x.2.1 == p.2.site)) })
    else s) s

/-! ### Who is served (R101) -/

/-- Whether a context waits for residency: required pages are staged, no serialisation is in progress, and a team of it is not
resident. The teams that its image records become resident all the same (log entry 118). The image of a rope RESUME is loaded once its
members agree. -/
def State.waitsRoom (s : State) (cn : Nat) (c : Ctx) : Bool :=
  (c.state == .staging || c.state == .running) && (c.ser.isNone || c.load.isSome) && !c.stage.any (·.required) &&
  (c.nextInst.isSome || s.haltedOf cn != [] || c.load.isSome) &&
  (c.load.isNone || !c.lr.rope || s.ropes.acts.any (fun a => a.ctx == some cn && a.agreed))

/-- The waiting contexts of a top-level partition, in the order in which they are served: PRIO, then dispatch order. -/
def State.waiters (s : State) (top : Nat) : List (Nat × Ctx) :=
  (withIndex s.exec.ctxs).filter (fun p => p.2.pent / 5 == top && s.waitsRoom p.1 p.2)
/-- Whether a context whose teams halted for others leaves these teams halted: one of the others still waits (log entry 58). -/
def State.yielding (s : State) (top : Nat) (c : Ctx) : Bool := c.yields.any (fun k => (s.waiters top).any (·.1 == k))
/-- The one that is served. Teams that it has not placed yet are never passed over; one of which only halted teams wait is, while it
yields. -/
def State.firstWaiter (s : State) (top : Nat) : Option (Nat × Ctx) :=
  leastBy (fun p => (15 - p.2.lr.prio) * 2 ^ 40 + p.2.epoch)
    ((s.waiters top).filter (fun p => p.2.nextInst.isSome || p.2.load.isSome || !s.yielding top p.2))

/-! ### Slices (R114) -/

/-- The dispatch number behind all others. -/
def State.lastEpoch (s : State) : Nat := (s.exec.ctxs.map (·.epoch)).foldl max 0 + 1

/-- The run of a handler is abandoned: the split stands at the handler's first instruction (R174). -/
def Split.abandon (sp : Split) (entry : W64) : Split :=
  if sp.handler.isNone then sp
  else { sp with status := .ready, pc := entry, arrived := false, wval := 0, waitOp := none, waitSc := [], fails := [] }

/-- A stop request to a group (R118): a running handler is abandoned (R174). -/
def State.stopGroup (s : State) (g : Nat) : State :=
  match s.group? g, s.ctxOf? g with
  | some gr, some (_, c) =>
    let inHandler := (List.range 4).filter (fun i => (gr.split i).handler.isSome)
    let s := inHandler.foldl (fun (s : State) i => s.unwait ⟨g, i⟩) s
    s.modGroup g (fun gr =>
      let sps := gr.splits.map (·.abandon c.lr.handler)
      { gr with stop := some { lanes := 32, scalar := true, held := [], waits := [] }, splits := sps, desched := gr.desched && sps.any (·.svc) })
  | _, _ => s

/-- The other contexts of the same top-level partition, with a PRIO at least equal, that wait for a core. -/
def State.wanting (s : State) (cn : Nat) (c : Ctx) (die site : Nat) : List Nat :=
  ((s.waiters (c.pent / 5)).filter (fun p =>
    p.1 != cn && decide (c.lr.prio ≤ p.2.lr.prio) && (s.sitesOf p.2.pent die).contains site)).map (·.1)

/-- A context gives way to others: they are served before it, whatever they gave way to it for. -/
def State.yieldTo (s : State) (cn : Nat) (others : List Nat) : State :=
  { s with exec := { s.exec with ctxs := (withIndex s.exec.ctxs).map (fun p =>
      if p.1 = cn then { p.2 with yields := others }
      else if others.contains p.1 then { p.2 with yields := p.2.yields.filter (· != cn) } else p.2) } }

/-- SLICE_EXPIRY of context sel.a on the core of die sel.b, site sel.c. Halting lets those go first for which it halts.
It is ignored during a serialisation (R123). -/
def execSliceExpiry (s : State) : Res :=
  match s.ctx? s.sel.a with
  | none => .next s
  | some c =>
    match c.slices.find? (fun x => x.1 == s.sel.b && x.2.1 == s.sel.c) with
    | none => .next s
    | some x =>
      if c.ser.isSome ∨ c.state ≠ .running ∨ s.now < x.2.2 + 1000 * (s.partEnt c.pent).slice.toNat then .next s
      else if s.wanting s.sel.a c x.1 x.2.1 ≠ [] then
        let mine := (withIndex s.exec.teams).filter (fun p =>
          p.2.ctx == s.sel.a && p.2.die == x.1 && p.2.site == x.2.1 && p.2.state == .running && !p.2.halted && !p.2.halting)
        let others := s.wanting s.sel.a c x.1 x.2.1
        let s := mine.foldl (fun (s : State) p =>
          p.2.groups.foldl (fun (s : State) g => s.stopGroup g) (s.modTeam p.1 (fun t => { t with halting := true }))) s
        .next ((if mine = [] then s else s.yieldTo s.sel.a others).settleHalts)
      else
        let again (y : Nat × Nat × Nat) : Nat × Nat × Nat := if y.1 = x.1 ∧ y.2.1 = x.2.1 then (y.1, y.2.1, s.now) else y
        .next (s.modCtx s.sel.a (fun c => { c with slices := c.slices.map again }))

/-! ### The memory-issue window (R105) -/

/-- The L1 misses of a partition of a core in the interval so far. -/
def State.missesOf (s : State) (die site part : Nat) : Nat :=
  ((s.exec.misses.find? (fun x => x.1 == die && x.2.1 == site && x.2.2.1 == part)).map (·.2.2.2)).getD 0

/-- MEMORY_ISSUE_WINDOW of a partition of a core, with its L1 misses in the interval: those that have been counted. -/
def execMemoryIssueWindow (die : BitVec 3) (site : BitVec 5) (p : BitVec 2) (misses : Nat) (s : State) : Res :=
  let d := die.toNat
  let i := site.toNat
  let rs := s.residents d i p.toNat
  let hits := (rs.map (·.2.hits)).sum
  let w := s.window d i p.toNat
  let w := if misses < 8 * hits then w - 1 else if 32 * hits < misses then w + 1 else w
  let w := min (max w (min 2 rs.length)) rs.length
  if misses ≠ s.missesOf d i p.toNat then .next s
  else
  let s := rs.foldl (fun (s : State) r => let h := s.holdsRight r.1; s.modGroup r.1 (fun g => { g with hits := 0, right := h })) s
  let rest := s.exec.windows.filter (fun x => !(x.1 == d && x.2.1 == i && x.2.2.1 == p.toNat))
  .next { s with exec := { s.exec with
    windows := (d, i, p.toNat, w) :: rest
    misses := s.exec.misses.filter (fun x => !(x.1 == d && x.2.1 == i && x.2.2.1 == p.toNat)) } }

end Sys2Proof.Machine
end

