-- ==== Sys2Proof/Machine/System.lean ====
section
/-!
DEFINITION. Time, page requests and yielding (R442 to R445), traps and handlers (R446 to R448), special registers (R449 to
R451).
-/

namespace Sys2Proof.Machine

/-! ### Time -/

/-- TIME (R442): recorded with KIND 0x03 in a journaled context, for whose journal it waits (R279); in replay the recorded value, and without a record the
context ends (R280). -/
def execTime (d : SReg) (s : State) : Res :=
  scalarRun s [d] (fun r _ sp =>
    let t : W64 := BitVec.ofNat 64 s.now
    match s.ctxOf? r.g with
    | none => s
    | some (cn, _) =>
      let w := s.jsite r.g r.sp
      if s.replays cn then
        match s.replayInput cn 3 w.key with
        | none => s.replayEnd cn
        | some p => (s.modCtx cn (·.jbump 3 w.key)).finish r sp 4 d (wordOf 64 p)
      else if s.recordHeld cn then s
      else (s.record cn 3 w (bytesOf 8 t.toNat)).finish r sp 4 d t)

def execSleept (a : SReg) (s : State) : Res :=
  scalarRun s [a] (fun r g sp =>
    let t := g.sreg a
    if t.toNat ≤ s.now then s.finish0 r sp 4 else s.putSplit r { sp with status := .sleep, wval := t })

/-! ### Page requests (R444) -/

/-- A split blocks in PAGEREQ until the page has been served. -/
def State.awaitPage (s : State) (r : SplitRef) (sp : Split) (a page : W64) : State :=
  s.putSplit r { sp with status := .page, wbar := 4, wval := a, waitSc := [page] }

def execPagereq (x : SReg) (s : State) : Res :=
  scalarRun s [x] (fun r g sp =>
    match s.accEnv r.g r.sp with
    | none => s
    | some a =>
      let va := g.sreg x
      let page : W64 := va &&& ~~~(0xFFFF : W64)
      if va.extractLsb' 56 8 ≠ (0 : Byte) then s.scalarTrap r sp 5 0 va 0
      else if va.getLsbD 55 && a.ctx.lr.rope then s.finish0 r sp 4
      else
        match s.look (some a.core) a.ctx.pent va.toNat false with
        | .fail => s.scalarTrap r sp 5 0 va 0
        | .poison => s.scalarTrap r sp 13 0 va 0
        | .hit _ => s.finish0 r sp 4
        | .absent w _ =>
          if 2 ≤ lfTier w then s.finish0 r sp 4
          else if s.following a.ctx.pent page then (s.startFollow a.ctx.pent page).awaitPage r sp va page
          else (s.pageRequest a.ctx.pent page false true (BitVec.ofNat 16 a.ctx.queue) a.ctx.index).awaitPage r sp va page)

def execYield (s : State) : Res := scalarRun s [] (fun r _ sp => s.finish0 r { sp with age := s.now } 4)

/-! ### Traps -/

def execTrap (a : SReg) (i : BitVec 14) (s : State) : Res :=
  scalarRun s [a] (fun r g sp =>
    s.takeTrap r { code := 8, pc := sp.pc + 4, addr := i.signExtend 64, info := g.sreg a, spc := sp.pc + 4 })
def execBrk (s : State) : Res :=
  scalarRun s [] (fun r _ sp => s.takeTrap r { code := 9, pc := sp.pc + 4, spc := sp.pc + 4 })

/-- RETT (R448): outside a handler, and for a TRAPPC that R173 does not accept, ILLEGAL_INSTR. A clause that it leaves at its
end has issued its last instruction. After a re-plant it waits until the faulted clause has been fetched again. -/
def execRett (s : State) : Res :=
  scalarRun s [] (fun r _ sp =>
    if sp.handler == some .lane && sp.clause.isNone && sp.runq.any (·.resume.isSome) then s
    else
    match sp.rett with
    | none => s.illegal r sp 0
    | some sp' =>
      let s := s.putSplit r { sp' with age := s.now }
      match sp.clause, sp'.clause with
      | some c, none => (s.modGroup r.g (fun g => { g with clauses := g.clauses.map (fun t =>
          if t.id = c.id then { t with issued := true } else t) })).settleClauses r.g
      | some _, some c => if sp.handler == some .lane then s.modGroup r.g (·.resumeFlags c) else s
      | _, _ => s)

/-! ### Special registers -/

/-- What SMR reads (R450); none for a number that the map does not list. -/
def State.special (s : State) (g : Group) (sp : Split) (tm : Team) (c : Ctx) (n : Nat) : Option W64 :=
  match n with
  | 0x001 => some (BitVec.ofNat 64 c.lr.gw)
  | 0x002 => some (BitVec.ofNat 64 g.index)
  | 0x003 => some (BitVec.ofNat 64 tm.linear)
  | 0x004 => some (BitVec.ofNat 64 g.segw)
  | 0x010 => some (g.fxf.zeroExtend 64)
  | 0x011 => some (if g.poison then 1 else 0)
  | 0x012 => some g.rfault.word
  | 0x020 => some (if c.lr.rope then BitVec.ofNat 64 c.rank else 0)
  | 0x021 => some (if c.lr.rope then BitVec.ofNat 64 c.rcount else 1)
  | 0x022 => some (if c.lr.rope then c.ropeId.zeroExtend 64 else 0)
  | 0x040 => some (sp.cause.zeroExtend 64)
  | 0x041 => some sp.tpc
  | 0x042 => some sp.taddr
  | 0x043 => some sp.tinfo
  | 0x044 => some (if sp.handler.isSome then sp.tspc else 0)
  | 0x100 => some (Config.feat0 s.part)
  | 0x101 | 0x102 | 0x103 => some 0
  | _ => none

/-- FXF and POISON are read and written once the split's earlier clauses have issued (R449). -/
def waitsForClauses (n : BitVec 14) : Bool := n == 0x010 || n == 0x011

def execSmr (d : SReg) (n : BitVec 14) (s : State) : Res :=
  scalarRun s [d] (fun r g sp =>
    match s.team? g.team, s.ctxOf? r.g with
    | some tm, some (_, c) =>
      match s.special g sp tm c n.toNat with
      | none => s.illegal r sp 0x1B
      | some v => if waitsForClauses n && !sp.clausesIssued then s else s.finish r sp 4 d v
    | _, _ => s)

/-- A write of a special register (R450); the zero bits of TRAPCAUSE stay zero (R171): the group and the split that it leaves; none where it is illegal. -/
def smwVal (g : Group) (sp : Split) (n : Nat) (v : W64) : Option (Group × Split) :=
  match n with
  | 0x010 => some ({ g with fxf := v.truncate 5 }, sp)
  | 0x011 => some ({ g with poison := v.getLsbD 0 }, sp)
  | 0x012 => some ({ g with rfault := RFault.zero }, sp)
  | 0x040 => if sp.handler.isSome then some (g, { sp with cause := v.truncate 16 &&& 0xF3FF }) else none
  | 0x041 => if sp.handler.isSome then some (g, { sp with tpc := v }) else none
  | 0x042 => if sp.handler.isSome then some (g, { sp with taddr := v }) else none
  | 0x043 => if sp.handler.isSome then some (g, { sp with tinfo := v }) else none
  | _ => none

def execSmw (a : SReg) (n : BitVec 14) (s : State) : Res :=
  scalarRun s [a] (fun r g sp =>
    match smwVal g sp n.toNat (g.sreg a) with
    | none => s.illegal r sp 0x1C
    | some (g', sp') =>
      if waitsForClauses n && !sp.clausesIssued then s else (s.modGroup r.g (fun _ => g')).finish0 r sp' 4)

end Sys2Proof.Machine
end

