-- ==== Sys2Proof/Machine/Progress.lean ====
section
/-!
DEFINITION. What goes on in a running grid beside its instructions: clauses start (R159, R327), loads return and stores are
acknowledged (R162, R221), sleepers wake (R443), releases that waited for device time (R220), the barrier watchdog (R459), the end
of contexts (R177) and of grids (R260).
-/

namespace Sys2Proof.Machine

/-! ### CLAUSE_START -/

/-- A clause that an image records as started goes on where it stood: its producers are pending already (R131, R138). -/
def State.resumeClause (s : State) (r : SplitRef) (e : RunEntry) (h : ClauseHdr) (code : List Instr) (d : Nat) : State :=
  let id := s.ops.nextId
  let s : State := { s with ops := { s.ops with nextId := id + 1 } }
  s.modGroup r.g (fun g => { g with
    clauses := g.clauses ++ [{ id, set0 := setFlagOf h.set0, set1 := setFlagOf h.set1, issued := false }]
    splits := modAt g.splits r.sp (fun sp => { sp with
      runq := sp.runq.tail
      clause := some { id, addr := e.addr, hdr := h, code, done := d, mask := e.mask, snap := e.snap, since := e.since, heirs := e.heirs } }) })

/-- The clause at the front of a split's queue, with its header word: its instructions are fetched, and it is validated and started, or not
legal (R327). -/
def State.runClause (s : State) (r : SplitRef) (sp : Split) (a : AccEnv) (e : RunEntry) (w : W96) : State :=
  let len : BitVec 5 := w.extractLsb' 83 5
  let n := len.toNat + 1
  let end_ := clauseEnd e.addr len
  match s.fetchWords a (3 * n) (e.addr + 12) with
  | .trap code sub va => s.clauseFetchTrap r sp e.addr end_ code sub va
  | .absent p => s.deschedule a [p] false 3
  | .lost d => s.endLost a.cn d
  | .wait s => s
  | .ok s b used =>
    let s := s.useLines used
    match validate a.ctx.lr.cfg (decodeHeader w) (wordsOf b n) with
    | .error info => s.illegalClause r sp e.addr end_ info
    | .ok (h, code) =>
      match e.resume with
      | none => s.startClause r e h code
      | some d => s.resumeClause r e h code d

/-- A queued clause whose header is valid waits until its waits hold; one whose header is not valid starts, and traps, at
once. -/
def State.tryClause (s : State) (r : SplitRef) (g : Group) (sp : Split) (a : AccEnv) (e : RunEntry) : State :=
  match s.fetchWords a 3 e.addr with
  | .trap code sub va => s.clauseFetchTrap r sp e.addr e.addr code sub va
  | .absent p => s.deschedule a [p] false 3
  | .lost d => s.endLost a.cn d
  | .wait s => s
  | .ok t b used =>
    let w : W96 := wordOf 96 b
    match decodeHeader w with
    | none => (t.useLines used).runClause r sp a e w
    | some h =>
      if e.resume.isNone && !headerClash h (s.peekClause a.ctx e.addr) && !g.waitsHold h then s
      else (t.useLines used).runClause r sp a e w

/-- CLAUSE_START of group sel.a, split sel.b: no clause of the split is in progress, no handler runs, no stop request stands. -/
def execClauseStart (s : State) : Res :=
  let r : SplitRef := ⟨s.sel.a, s.sel.b⟩
  match s.group? r.g, s.accEnv r.g r.sp with
  | some g, some a =>
    let sp := g.split r.sp
    match sp.runq with
    | [] => .next s
    | e :: _ =>
      if !s.mayIssue r.g || sp.clause.isSome || (sp.handler.isSome && e.resume.isNone) || (g.stop.isSome && e.resume.isNone) || sp.waitPg != [] then .next s
      else .next (s.tryClause r g sp a e)
  | _, _ => .next s

/-! ### Loads, stores, time -/

def execLoadReturn (s : State) : Res := .next (s.loadReturn s.sel.a)
def execStoreAck (s : State) : Res := .next (s.storeAck s.sel.a)

/-- SLEEP_WAKE of group sel.a, split sel.b, once device time has reached its wake time. -/
def execSleepWake (s : State) : Res :=
  let r : SplitRef := ⟨s.sel.a, s.sel.b⟩
  match s.group? r.g with
  | none => .next s
  | some g =>
    let sp := g.split r.sp
    if sp.status = .sleep ∧ sp.wval.toNat ≤ s.now ∧ s.mayIssue r.g = true ∧ g.stop = none then
      .next (s.putSplit r { sp.advance 4 with age := s.now })
    else .next s

/-- GWCT_PASSED: device time exceeds the GWCT of group sel.a, and the sys release at which split sel.b waits completes. -/
def execGwctPassed (s : State) : Res :=
  let r : SplitRef := ⟨s.sel.a, s.sel.b⟩
  match s.group? r.g, s.ctxOf? r.g with
  | some g, some (_, c) =>
    let sp := g.split r.sp
    if g.gwct < s.now ∧ s.scalarReady r = true ∧ sp.status = .ready then
      match (s.peek4 c sp.pc).map (fun b => instrOf (wordOf 32 b) 0) with
      | some (.fenceRel x) => execFenceRel x { s with cur := some r }
      | some (.fenceAr x) => execFenceAr x { s with cur := some r }
      | some (.fenceSc x) => execFenceSc x { s with cur := some r }
      | _ => .next s
    else .next s
  | _, _ => .next s

/-! ### The barrier watchdog (R175, R459) -/

/-- BARRIER_TIMEOUT of barrier sel.b of team sel.a; 16 is the cluster barrier, of which the team is the first. Which group is named of
those that wait in several teams: State.firstBlocked (log entry 124). -/
def execBarrierTimeout (s : State) : Res := .next (s.barrierTimeout s.sel.a s.sel.b)

/-! ### The end of a context (R177) -/

/-- Whether requests or accesses of a context are outstanding: sent ones, or stores that have not been performed. -/
def State.outstanding (s : State) (cn : Nat) : Bool :=
  s.ops.reqs.any (fun r => r.cn == some cn && !r.stale) ||
  s.ops.mops.any (fun o => s.inCtx cn o.g && o.kind.stores && o.pieces.any (fun p => !p.done))

/-- What a context leaves is given up: its operations, groups' records, rope binding (R239), and the frames of its save area. -/
def State.dropCtx (s : State) (cn : Nat) : State :=
  let gs := s.groupsOf cn
  let save := (s.ctx? cn).elim [] (·.save)
  let s : State := { s with store := save.foldl Store.freeFrame s.store }
  let s := s.modCtx cn (fun c => { c with state := .gone, ser := none, slices := [], save := [], stage := [] })
  { s with
    ops := { s.ops with mops := s.ops.mops.filter (fun o => !gs.contains o.g) }
    ropes := { s.ropes with binds := s.ropes.binds.filter (fun b => b.ctx != cn) } }

/-- A serialisation that a context's end meets (R123): RESULT 3 and REFUSED, or for a completion RESULT 5 and a decrement. -/
def State.endSerial (s : State) (c : Ctx) (complete : Bool) : State :=
  match c.ser with
  | none => s
  | some z =>
    match z.asker with
    | none => s
    | some f =>
      let p := (s.fn f).ser
      let e := c.pent
      let s := s.modFn f (fun x => { x with ser := { x.ser with result := if complete then 5 else 3, ctl := x.ser.ctl &&& 0xFFFFFFFE } })
      s.sigUpdate { queue := c.queue, idx := c.index, tag := c.tag, pent := e, va := p.sig, act := if complete then .decrement else .error 2, work := false, req := none }

/-- A fault record goes to the function bound to a context's queue (R178). -/
def State.faultEvent (s : State) (c : Ctx) (f : FaultRec) : State :=
  s.event (s.fnOfQueue c.queue) 2 (partOf c.pent) (subOf c.pent) (f.bytes c s.now)

/-- CONTEXT_END of context sel.a: once its requests are over, the code goes to CSIG and the fault record to the host. -/
def execContextEnd (s : State) : Res :=
  match s.ctx? s.sel.a with
  | none => .next s
  | some c =>
    let todo := s.ops.mops.filter (fun o => s.inCtx s.sel.a o.g && o.kind.stores)
    let s := todo.foldl (fun (s : State) (o : MOp) => s.performAll o.id) s
    if c.state ≠ .ending ∨ s.outstanding s.sel.a = true then .next s
    else
      let f := c.fault.getD FaultRec.none_
      let s := s.signalEnd c.queue c.index c.tag c.lr.csig (.error f.code)
      let s := if f.code = 8 then s else s.faultEvent c f
      .next ((s.endSerial c false).dropCtx s.sel.a)

/-! ### The completion of a grid (R260) -/

/-- Whether every condition of R260 holds. DESIGN CHOICE (log entry 66): a forwarded berth counts as freed when its group is done, also while
the message that releases it travels to the home (R437). -/
def State.gridDone (s : State) (cn : Nat) (c : Ctx) : Bool :=
  let gs := s.groupsOf cn
  c.state == .running && decide (c.retired = gridSize c.lr * (if c.lr.dual then 2 else 1)) &&
  !s.ops.mops.any (fun o => gs.contains o.g) && !s.ops.stages.any (fun k => k.ctx == some cn) &&
  gs.all (fun g => match s.group? g with | some gr => decide (gr.gwct < s.now) | none => true) &&
  !s.ops.copies.any (fun k => k.ctx == some cn)

/-- A grid completes: CSIG is decremented, or the signatures differ (R106). -/
def State.gridEnd (s : State) (cn : Nat) (c : Ctx) : State :=
  let bad := c.lr.dual && c.siga != c.sigb
  let s := s.signalEnd c.queue c.index c.tag c.lr.csig (if bad then .error 0xC else .decrement)
  let s := if bad then s.faultEvent c { FaultRec.none_ with code := 0xC, siga := c.siga, sigb := c.sigb } else s
  (s.endSerial c true).dropCtx cn

/-- GRID_COMPLETE of context sel.a. -/
def execGridComplete (s : State) : Res :=
  match s.ctx? s.sel.a with
  | none => .next s
  | some c => if s.gridDone s.sel.a c = false then .next s else .next (s.gridEnd s.sel.a c)

end Sys2Proof.Machine
end

