-- ==== Sys2Proof/Machine/Queues.lean ====
section
/-!
DEFINITION. Command queues (R58 to R71): binding, the doorbell, enabling and pausing, ring fetches (R468), what every dispatch does,
and the packets COPY, WAIT, SIGNAL, STAGE and MARK with their completion.
-/

namespace Sys2Proof.Machine

/-! ### States (R71) -/

/-- The state that a queue is in beside PAUSED. -/
def Queue.eff (k : Queue) : Nat := if k.state = 4 then k.back else k.state
def Queue.setEff (k : Queue) (n : Nat) : Queue := if k.state = 4 then { k with back := n } else { k with state := n }

/-- The packets that a queue holds. -/
def Queue.held (k : Queue) : Nat := (k.wridx.toNat + 2 ^ 32 - k.rdidx.toNat) % 2 ^ 32

/-- WRIDX more than 2^SIZE ahead of RDIDX (R60): every packet held is to be skipped, up to the last WRIDX that overran. ERRIDX names the
first of them. -/
def State.overrun (s : State) (q : Nat) : State :=
  let k := s.queue q
  if k.enable && decide (k.state ≠ 0 ∧ k.state ≠ 5 ∧ 2 ^ k.size.toNat < k.held) then
    (if k.overEnd.isNone then s.queueError q 0 k.unfetch.rdidx 0xA 0 0 else s).modQueue q (fun k => { k with overEnd := some k.wridx })
  else s

/-- Queues that are bound to a function. -/
def State.queuesOf (s : State) (fn : Nat) : List Nat := (List.range 256).filter (fun q => (s.queue q).func.toNat == fn)
/-- The i-th queue bound to a function, in order of binding (R54, R58). -/
def State.boundQueue (s : State) (fn i : Nat) : Option Nat := (sortBy (fun q => (s.queue q).order) (s.queuesOf fn))[i]?

/-- QUEUE_BIND, which is PF0's: not while PF0 is in reset (R90). A write that would bind more queues than a function or a partition may
have, or names no function or entry, is ignored. -/
def execQueueBind (q : Byte) (bind : W32) (s : State) : Res :=
  let f : W16 := bind.truncate 16
  let e : Byte := bind.extractLsb' 16 8
  let fn := f.toNat
  let others := (List.range 256).filter (fun i => i != q.toNat)
  let full := decide (fn ≠ 0 ∧ 16 ≤ others.countP (fun i => (s.queue i).func == f)) ||
    decide ((s.partEnt e.toNat).queues.toNat ≤ others.countP (fun i => (s.queue i).func != 0xFFFF && (s.queue i).pent == e))
  if !s.answers 0 then .next (s.emit .unsupported)
  else if f = 0xFFFF then .next (s.modQueue q.toNat (fun k => { k with func := f, pent := e }))
  else if 64 ≤ fn ∨ 40 ≤ e.toNat ∨ full = true then .next s
  else
    let n := ((List.range 256).map (fun i => (s.queue i).order)).foldl max 0 + 1
    .next (s.modQueue q.toNat (fun k => { k with func := f, pent := e, order := n }))

/-- A write of WRIDX is acted on. -/
def State.ring (s : State) (q : Byte) (wr : W32) : State :=
  (s.modQueue q.toNat (fun k => { k with wridx := wr, fetchOk := true })).overrun q.toNat
/-- A write of WRIDX from a function: from PF0 it is acted on after every earlier write through BAR2 has been performed (R230). -/
def State.ringFrom (s : State) (fn : Nat) (q : Byte) (wr : W32) : State :=
  if fn = 0 ∧ s.host.window ≠ [] then { s with host := { s.host with window := s.host.window ++ [.doorbell q wr] } } else s.ring q wr
/-- DOORBELL, from the function to which the queue is bound, if that answers (R90). -/
def execDoorbell (q : Byte) (wr : W32) (s : State) : Res :=
  let fn := s.fnOfQueue q.toNat
  .next (if s.answers fn then s.ringFrom fn q wr else s.emit .unsupported)

/-- A write of a queue's page, if the function to which it is bound answers (R90). -/
def State.queuePage (s : State) (q : Nat) (f : Queue → Queue) : State :=
  if s.answers (s.fnOfQueue q) then s.modQueue q f else s.emit .unsupported

/-- QUEUE_ENABLE of queue sel.a: ENABLE goes from 0 to 1. A write that finds the queue not IDLE yet is dropped, and a queue enabled with a
SIZE that is not valid stays IDLE until it is enabled again (DESIGN CHOICE, log entry 117). -/
def execQueueEnable (s : State) : Res :=
  .next (s.queuePage s.sel.a (fun k =>
    if k.enable || k.state != 0 then k
    else
      let k := { k with enable := true, errIdx := 0, errCode := 0, fetchOk := true, overEnd := none }
      if 6 ≤ k.size.toNat ∧ k.size.toNat ≤ 16 then
        let n := if k.barrier.isSome then 2 else 1
        { k with first := k.rdidx, mark := none, state := if k.pause then 4 else n, back := n }
      else k))

/-- QUEUE_DISABLE of queue sel.a: fetching stops, in any state but RESETTING. -/
def execQueueDisable (s : State) : Res :=
  .next (s.queuePage s.sel.a (fun k => if k.state = 5 then k else { k with enable := false }.rest))

/-- QUEUE_PAUSE of queue sel.a. -/
def execQueuePause (s : State) : Res :=
  .next (s.queuePage s.sel.a (fun k =>
    let k := { k with pause := true }
    if k.state = 1 ∨ k.state = 2 ∨ k.state = 3 then { k with back := k.state, state := 4 } else k))

/-- QUEUE_UNPAUSE of queue sel.a: it returns to the state that it left. -/
def execQueueUnpause (s : State) : Res :=
  .next (s.queuePage s.sel.a (fun k =>
    let k := { k with pause := false }
    if k.state = 4 then { k with state := k.back } else k))

/-! ### Packets (R61, R62) -/

def pktType (b : List Byte) : Nat := fieldAt b 0 1
def pktFlags (b : List Byte) : Nat := fieldAt b 1 1
def pktTag (b : List Byte) : W32 := BitVec.ofNat 32 (fieldAt b 4 4)
def pktBarrier (b : List Byte) : Bool := (pktFlags b).testBit 0
def pktRecovery (b : List Byte) : Bool := (pktFlags b).testBit 1
def pktImage (b : List Byte) : Bool := (pktFlags b).testBit 2
def pktVa (b : List Byte) (off : Nat) : W64 := BitVec.ofNat 64 (fieldAt b off 8)

/-- The header's checks, and the reserved bytes of a body. -/
def pktHeaderOk (b : List Byte) : Bool :=
  let t := pktType b
  decide (1 ≤ t ∧ t ≤ 7) && decide (pktFlags b < 8) && zeroAt b 2 2 && (!pktImage b || t == 1) &&
  (match t with
   | 1 => zeroAt b 0x10 48
   | 2 => zeroAt b 0x29 23
   | 3 => zeroAt b 0x24 28
   | 4 => zeroAt b 0x19 39
   | 5 => zeroAt b 0x18 40
   | 6 => zeroAt b 0x30 16
   | _ => zeroAt b 0x18 40)

/-- The signal VA of a packet that carries one. -/
def pktSig (b : List Byte) : W64 :=
  match pktType b with
  | 2 | 6 => pktVa b 0x20
  | 4 => pktVa b 0x08
  | 5 => pktVa b 0x10
  | _ => 0

/-- Whether a nonzero signal VA passes at dispatch: alignment, translation, R and W, and AtomicOps for a signal in host
memory (R62, R65). -/
def State.sigOk (s : State) (q : Nat) (va : W64) : Bool :=
  va == 0 ||
  (va.toNat % 8 == 0 &&
    (match s.translate none (s.queue q).pent.toNat none va .atomic with
     | .prot _ | .poison => false
     | .ok (.host _) _ _ => s.host.atomicReq
     | _ => true))

/-- A packet leaves the fetch buffer, dispatched: its work, and the hold of a BARRIER. -/
def State.dispatched (s : State) (q : Nat) (w : Work) (hold : Bool) : State :=
  s.modQueue q (fun k =>
    let k := { k with cur := none, work := k.work ++ [w] }
    if hold then { k.setEff 2 with barrier := some w.idx }.rest else k.rest)

/-- A packet that fails dispatch (R67, R70): its signal, and ERROR. -/
def State.refuse (s : State) (q : Nat) (idx tag : W32) (sig : W64) (code reason : Nat) (arg : Byte) : State :=
  let s := s.modQueue q (fun k => { k with cur := none })
  let s := s.signal q idx tag sig (.error (BitVec.ofNat 16 code))
  s.queueError q tag idx code reason arg

/-- PACKET_INVALID; a signal that is itself at fault is not written. DESIGN CHOICE (log entry 62): a LAUNCH packet that fails its format
checks writes no signal, since its CSIG stands in a launch record that is not read. -/
def State.invalidPacket (s : State) (q : Nat) (idx : W32) (b : List Byte) : State :=
  s.refuse q idx (pktTag b) (if s.sigOk q (pktSig b) then pktSig b else 0) 9 0 0

/-- The packet that a queue dispatches next, of a type. -/
def State.toDispatch (s : State) (q type : Nat) (image : Bool) : Option (W32 × List Byte) :=
  let k := s.queue q
  match k.cur with
  | some (i, b) => if pktType b = type ∧ pktImage b = image ∧ k.eff = 1 then some (i, b) else none
  | none => none

/-! ### Ring fetches (R60, R468) -/

/-- A packet that is passed over, skipped in ERROR (R70) or undispatched at a queue rung (R82): a code goes to its signal. The signal
of a LAUNCH stands in its launch record. -/
def State.skipped (s : State) (q : Nat) (idx : W32) (b : List Byte) (code : W16) : CpRes State :=
  let k := s.queue q
  let e := k.pent.toNat
  let prop (s : State) (va : W64) : State := s.signal q idx (pktTag b) va (.error code)
  if pktType b = 1 then
    if pktImage b then .ok s
    else if (pktVa b 8).toNat % 64 ≠ 0 then .ok s
    else
      match s.cpRead State.askLine e q idx 4 (pktVa b 8) 256 with
      | .wait s => .wait s
      | .fail _ => .ok s
      | .ok r => .ok (prop s.dropFetched (pktVa r 0x70))
  else .ok (if pktSig b = 0 then s else prop s (pktSig b))

/-- A RECOVERY packet ends ERROR (R70); a WAIT or a barrier dispatched before still holds. -/
def Queue.recover (k : Queue) : Queue := k.setEff (if k.wait.isSome || k.barrier.isSome then 2 else 1)
/-- RDIDX advances past a packet; the region of an overrun may end there. -/
def Queue.past (k : Queue) : Queue :=
  let r := k.rdidx + 1
  { k with rdidx := r, overEnd := if k.overEnd = some r then none else k.overEnd }

/-- What becomes of a packet as fetched. -/
def State.fetchedPacket (s : State) (q : Nat) (b : List Byte) : State :=
  let k := s.queue q
  let idx := k.rdidx
  if k.eff = 3 ∧ (k.overEnd.isSome = true ∨ pktRecovery b = false) then
    match s.skipped q idx b 6 with
    | .ok s => s.modQueue q Queue.past
    | .wait s => s
    | .fail _ => s
  else
    let s := s.modQueue q (fun k => (if k.eff = 3 then k.recover else k).past)
    if pktHeaderOk b then s.modQueue q (fun k => { k with cur := some (idx, b) })
    else s.invalidPacket q idx b

/-- RING_FETCH of queue sel.a. -/
def execRingFetch (s : State) : Res :=
  let q := s.sel.a
  let s := s.overrun q
  let k := s.queue q
  if !(k.enable && (k.state == 1 || k.state == 3) && k.cur.isNone && k.fetchOk && k.rdidx != k.wridx && (s.partEnt k.pent.toNat).state == 1) then .next s
  else
    let va := k.base + 64 * BitVec.ofNat 64 (k.rdidx.toNat % 2 ^ k.size.toNat)
    match s.cpRead State.askLine k.pent.toNat q k.rdidx 2 va 64 with
    | .wait s => .next s
    | .fail _ => .next ((s.queueError q 0 k.rdidx 9 0 0).modQueue q (fun k => { k with fetchOk := false }))
    | .ok b => .next (s.dropFetched.fetchedPacket q b)

/-! ### COPY (R63, R234) -/

/-- The lines of local memory that a COPY's destination lies on, page by page (R233). -/
def State.copyOwns (s : State) (e : Nat) : (fuel : Nat) → (va : W64) → (n : Nat) → List (Nat × Nat)
  | 0, _, _ => []
  | fuel + 1, va, n =>
    if n = 0 then []
    else
      let k := min n (65536 - va.toNat % 65536)
      let here := match s.translate none e none va .write with
        | .ok (.mem pa) _ _ => [(pa / 128, (pa + k - 1) / 128 - pa / 128 + 1)]
        | _ => []
      here ++ s.copyOwns e fuel (va + BitVec.ofNat 64 k) (n - k)

/-- COPY of queue sel.a. -/
def execCopy (s : State) : Res :=
  let q := s.sel.a
  match s.toDispatch q 2 false with
  | none => .next s
  | some (idx, b) =>
    let n := fieldAt b 0x18 8
    let cls := fieldAt b 0x28 1
    let e := (s.queue q).pent.toNat
    if n = 0 ∨ 2 ^ 40 < n ∨ (cls ≠ 2 ∧ cls ≠ 3) ∨ s.sigOk q (pktSig b) = false then .next (s.invalidPacket q idx b)
    else if s.hbmFull e none || s.etimeFull e none then .next s
    else
      let id := s.ops.nextId
      let c : Copy :=
        { id, ctx := none, g := none, team := 0, pent := e, queue := q, idx, dir := .mem, tile := 0, dteam := none, dtile := 0, bar := 0,
          cnt := false, flag := none, cls, rowoff := 0, coords := [], dest := pktVa b 0x10, lay := none, raw := [], src := pktVa b 8,
          len := n, chunks := [], landed := [], sent := [], total := n, counted := 0, prior := 0, bytes := 0,
          owned := s.copyOwns e (n / 65536 + 2) (pktVa b 0x10) n, seen := [], wrote := [], page := none, gwct := 0, seq := 0,
          at_ := s.now, poison := none, fault := none }
      let s := s.dispatched q { kind := .copy, idx, tag := pktTag b, sig := pktSig b } (pktBarrier b)
      .next { s with ops := { s.ops with nextId := id + 1, copies := s.ops.copies ++ [c] } }

/-- COPY_COMPLETE of the copy with number sel.a: every chunk has landed and every write is acknowledged, and a sys release is
performed; or the copy failed. -/
def execCopyComplete (s : State) : Res :=
  match s.copy? s.sel.a with
  | none => .next s
  | some c =>
    let sig := match (s.queue c.queue).work.find? (fun w => w.idx == c.idx && w.kind == .copy) with | some w => w.sig | none => 0
    let tag := match (s.queue c.queue).work.find? (fun w => w.idx == c.idx && w.kind == .copy) with | some w => w.tag | none => 0
    let busy := s.copyFlying c.id none || s.caches.held.any (fun h => h.id == c.id && h.rsp.result == .nack)
    let released := !s.leasing || decide (c.gwct < s.now)
    if c.dir != .mem || busy then .next s
    else if c.fault.isSome || (c.allLanded && c.poison.isSome) then .next ((s.dropCopy c.id).signalEnd c.queue c.idx tag sig (.error 3))
    else if c.allLanded && released then .next ((s.dropCopy c.id).signalEnd c.queue c.idx tag sig .decrement)
    else .next s

/-! ### WAIT (R69) -/

inductive WaitGot where
  | values (l : List W64)
  | wait (s : State)
  | failed

/-- The values of a WAIT's signals. -/
def State.waitRead (s : State) (q : Nat) (idx : W32) : List W64 → WaitGot
  | [] => .values []
  | va :: r =>
    if va = 0 then s.waitRead q idx r
    else
      match s.cpRead State.askLine (s.queue q).pent.toNat q idx 2 va 8 with
      | .wait s => .wait s
      | .fail _ => .failed
      | .ok b =>
        match s.waitRead q idx r with
        | .values l => .values (wordOf 64 b :: l)
        | x => x

/-- A WAIT has succeeded: it holds no more. A queue in ERROR stays there. -/
def Queue.waited (k : Queue) : Queue :=
  let k := { k with wait := none }
  (if k.eff = 2 && k.barrier.isNone then k.setEff 1 else k).rest

/-- One evaluation of the WAIT of a queue. All signals are read at one instant: while the page of one is not resident nothing is decided,
not even by another that is negative or by the timeout (DESIGN CHOICE, log entry 117). -/
def State.waitEval (s : State) (q : Nat) (w : WaitRec) : State :=
  let failed (s : State) (code : Nat) : State :=
    (s.modQueue q (fun k => { k with wait := none })).queueError q w.tag w.idx code 0 0
  match s.waitRead q w.idx w.sigs with
  | .wait s => s
  | .failed => failed s.dropFetched 4
  | .values l =>
    let s := s.dropFetched
    if l.any (·.getLsbD 63) then failed s 4
    else if l.all (· == 0) then s.modQueue q Queue.waited
    else
      match w.deadline with
      | some t => if t ≤ s.now then failed s 5 else s
      | none => s

/-- WAIT of queue sel.a: evaluated at once; until it succeeds the queue is held. -/
def execWait (s : State) : Res :=
  let q := s.sel.a
  match s.toDispatch q 3 false with
  | none => .next s
  | some (idx, b) =>
    let sigs := [pktVa b 8, pktVa b 0x10, pktVa b 0x18]
    if !sigs.all (s.sigOk q) then .next (s.invalidPacket q idx b)
    else
      let t := fieldAt b 0x20 4
      let w : WaitRec := { idx, tag := pktTag b, sigs, deadline := if t = 0 then none else some (s.now + 1000 * t) }
      .next ((s.modQueue q (fun k => { k.setEff 2 with cur := none, wait := some w })).waitEval q w)

/-- WAIT_POLL of queue sel.a. -/
def execWaitPoll (s : State) : Res :=
  match (s.queue s.sel.a).wait with
  | none => .next s
  | some w => .next (s.waitEval s.sel.a w)

/-- WAIT_TIMEOUT of queue sel.a, at its deadline. -/
def execWaitTimeout (s : State) : Res :=
  match (s.queue s.sel.a).wait with
  | none => .next s
  | some w => .next (match w.deadline with | some t => if t ≤ s.now then s.waitEval s.sel.a w else s | none => s)

/-! ### SIGNAL, MARK -/

/-- SIGNAL of queue sel.a. -/
def execSignal (s : State) : Res :=
  let q := s.sel.a
  match s.toDispatch q 4 false with
  | none => .next s
  | some (idx, b) =>
    let op := fieldAt b 0x18 1
    let va := pktVa b 8
    if 1 < op ∨ va = 0 ∨ s.sigOk q va = false then .next (s.invalidPacket q idx b)
    else
      let s := s.dispatched q { kind := .signal, idx, tag := pktTag b, sig := va } (pktBarrier b)
      .next (s.signalEnd q idx (pktTag b) va (if op = 0 then .add (pktVa b 0x10) else .set (pktVa b 0x10)))

/-- MARK of queue sel.a, once every earlier packet is complete; the queue is held until its record is written. -/
def execMark (s : State) : Res :=
  let q := s.sel.a
  match s.toDispatch q 7 false with
  | none => .next s
  | some (idx, b) =>
    let va := pktVa b 8
    let e := (s.queue q).pent.toNat
    let ok := match s.translate none e none va .atomic with
      | .prot _ | .poison => false
      | _ => true
    if va.toNat % 16 ≠ 0 ∨ ok = false then .next (s.invalidPacket q idx b)
    else if (s.queue q).work ≠ [] then .next s
    else
      let s := s.dispatched q { kind := .mark, idx, tag := pktTag b, sig := 0 } true
      .next (s.put { queue := q, idx, tag := pktTag b, pent := e, va, data := bytesOf 8 (pktVa b 0x10).toNat ++ bytesOf 8 idx.toNat,
                     kind := .mark, req := none })

/-! ### STAGE packets (R63) -/

/-- The base die whose command processor serves a queue (R58). -/
def State.cpDie (s : State) (q : Nat) : Nat := min (q / 64) (Config.baseDies s.part - 1)

/-- How many bytes the berth of a STAGE packet holds. -/
def stageBytes (w : StageWait) : Nat :=
  let r := fieldAt w.got 3 1
  if w.bad = 0 ∧ (r = 8 ∨ r = 16 ∨ r = 32) then r else 16

/-- The berth of a STAGE packet is minted and its chain starts; none when the table has no free slot. -/
def State.stageMint (s : State) (q : Nat) (w : StageWait) : Option State :=
  let bd := s.cpDie q
  let e := (s.queue q).pent.toNat
  let rope : W32 := BitVec.ofNat 32 (fieldAt w.pkt 0x28 4)
  let life := fieldAt w.pkt 0x2C 4
  (s.freeSlot bd 4096 0).map (fun i =>
    let (s, name) := s.mint { newBerth bd i e (stageBytes w) (s.now + 1000 * (if life = 0 then 1000000 else life)) with
      queue := q, idx := w.idx, tag := w.tag, res := pktVa w.pkt 0x18, sig := pktVa w.pkt 0x20 }
    if w.bad = 0 then s.startChain e rope (pktVa w.pkt 8) name (pktVa w.pkt 0x10) w.got none 0
    else s.stageBad e rope name (pktVa w.pkt 0x10) w.bad)

/-- STAGE_PACKET of queue sel.a. -/
def execStagePacket (s : State) : Res :=
  let q := s.sel.a
  match s.toDispatch q 6 false with
  | none => .next s
  | some (idx, b) =>
    let e := (s.queue q).pent.toNat
    let life := fieldAt b 0x2C 4
    if 1000000 < life ∨ s.sigOk q (pktSig b) = false then .next (s.invalidPacket q idx b)
    else
      let start (s : State) (got : List Byte) (bad : Nat) : State :=
        let w : StageWait := { idx, tag := pktTag b, pkt := b, got, bad, until_ := s.now + 1000 * (if life = 0 then 1000000 else life) }
        let s := s.dispatched q { kind := .stage, idx, tag := pktTag b, sig := pktSig b } (pktBarrier b)
        match s.stageMint q w with
        | some s => s
        | none => s.modQueue q (fun k => { k with stages := k.stages ++ [w] })
      if (pktVa b 0x10).toNat % 64 ≠ 0 then .next (start s [] 7)
      else
        match s.cpRead State.askLine e q idx 2 (pktVa b 0x10) 64 with
        | .wait s => .next s
        | .fail r => .next (start s [] r)
        | .ok got => .next (start s.dropFetched got 0)

/-- CP_BERTH_RETRY of the STAGE packet with index sel.b of queue sel.a: a slot is tried again; when LIFE has passed the packet
completes as though its berth had expired. -/
def execCpBerthRetry (s : State) : Res :=
  let q := s.sel.a
  match (s.queue q).stages.find? (fun w => w.idx.toNat == s.sel.b) with
  | none => .next s
  | some w =>
    let drop (s : State) : State := s.modQueue q (fun k => { k with stages := k.stages.filter (fun x => x.idx != w.idx) })
    if w.until_ ≤ s.now then
      let data := bytesOf 8 1 ++ List.replicate (stageBytes w) 0
      .next ((drop s).put { queue := q, idx := w.idx, tag := w.tag, pent := (s.queue q).pent.toNat, va := pktVa w.pkt 0x18, data,
                            kind := .result (pktVa w.pkt 0x20), req := none })
    else
      match s.stageMint q w with
      | some s => .next (drop s)
      | none => .next s

end Sys2Proof.Machine
end

