-- ==== Sys2Proof/Machine/Launch.lean ====
section
/-!
DEFINITION. Launching a grid (R91 to R98): the launch record and its checks, the working set, the save area, and what
dispatch does.
-/

namespace Sys2Proof.Machine

/-! ### The launch record (R91) -/

/-- The fields of a launch record. -/
def LaunchRec.ofBytes (b : List Byte) : LaunchRec :=
  let f (off n : Nat) : Nat := fieldAt b off n
  let shape := f 0x26 2
  { gw := 8 * 2 ^ (f 4 2 % 4), vregs := f 6 2, entry := pktVa b 8, lbase := pktVa b 0x10, grid := (f 0x18 4, f 0x1C 4, f 0x20 4),
    gpt := f 0x24 2, crows := if shape = 0 then 1 else shape / 256, ccols := if shape = 0 then 1 else shape % 256,
    spmb := f 0x28 4, accb := f 0x2C 4, args := pktVa b 0x30,
    fslots := (List.range 8).map (fun i => BitVec.ofNat 32 (f (0x38 + 4 * i) 4)), wslist := pktVa b 0x58, wscount := f 0x60 4,
    btimeout := if f 0x64 4 = 0 then 100000 else f 0x64 4, dual := (f 0x68 4).testBit 0, cores := (f 0x68 4).testBit 1,
    jrnl := (f 0x68 4).testBit 2, rope := (f 0x68 4).testBit 3, prio := f 0x6C 4 % 16, bclass := f 0x6C 4 / 16 % 16,
    thoff := BitVec.ofNat 24 (f 0x6C 4 / 256), csig := pktVa b 0x70, reqfeat := pktVa b 0x78,
    sinit := (List.range 16).map (fun i => pktVa b (0x80 + 8 * i)) }

/-- MAGIC and VERSION. -/
def recMagic (b : List Byte) : Bool := fieldAt b 0 2 == 0x4C52 && fieldAt b 2 2 == 3

/-- The ranges of R91 and R92, and the reserved bits of the record. -/
def LaunchRec.fieldsOk (l : LaunchRec) (b : List Byte) : Bool :=
  decide (fieldAt b 4 2 < 4) && decide (1 ≤ l.vregs ∧ l.vregs ≤ 255) && decide (l.entry.toNat % 4 = 0 ∧ l.lbase.toNat % 4 = 0) &&
  decide (1 ≤ l.grid.1 ∧ 1 ≤ l.grid.2.1 ∧ 1 ≤ l.grid.2.2 ∧ gridSize l < 2 ^ 32) &&
  decide (1 ≤ l.gpt ∧ l.gpt ≤ 16 ∧ l.gpt * l.gw ≤ 1024) && decide (l.spmb ≤ 4194304 ∧ l.accb ≤ 524288) &&
  decide (l.wscount ≤ 4096 ∧ l.btimeout ≤ 60000000) && decide (fieldAt b 0x68 4 < 16 ∧ l.bclass < 4) && decide (l.csig.toNat % 8 = 0)

/-- The feature bit that a record asks for without having it, or uses without asking (R93, reason 4): of several, the lowest that REQFEAT
asks for, then that of DUAL, JRNL, ROPE (DESIGN CHOICE, log entry 117). -/
def State.featLack (s : State) (l : LaunchRec) : Option Nat :=
  match lowBit 64 0 (l.reqfeat &&& ~~~(Config.feat0 s.part)).toNat with
  | some i => some i
  | none =>
    if l.dual && !l.reqfeat.getLsbD Config.featDual then some Config.featDual
    else if l.jrnl && !l.reqfeat.getLsbD Config.featJrnl then some Config.featJrnl
    else if l.rope && !l.reqfeat.getLsbD Config.featRope then some Config.featRope
    else none

/-- The shape of a cluster, and a rectangle for it on some die of the partition (R99). -/
def State.clusterOk (s : State) (e : Nat) (l : LaunchRec) : Bool :=
  decide (1 ≤ l.crows ∧ l.crows ≤ 4 ∧ 1 ≤ l.ccols ∧ l.ccols ≤ 7 ∧ l.crows * l.ccols ≤ 12) &&
  decide (l.grid.1 % l.ccols = 0 ∧ l.grid.2.1 % l.crows = 0) &&
  (s.diesOf e).any (fun k => (rectangles l).any (fun r => r.all (s.sitesOf e k).contains))

/-- One team fits on an empty core (R100). -/
def LaunchRec.fitsEmpty (l : LaunchRec) : Bool := (List.range 4).any (fun h => coreFits [(l, h)])

/-- The whole grid fits at once on the partition's cores when they are empty (R101). -/
def State.coresident (s : State) (c : Ctx) : Bool :=
  let n := gridSize c.lr * (if c.lr.dual then 2 else 1)
  let t : State := { s with exec := { s.exec with ctxs := [c], teams := [], groups := [] } }
  match t.placeAll 0 (n + 1) with
  | some t => (match t.ctx? 0 with | some c => c.nextInst.isNone | none => false)
  | none => false

/-! ### The working set (R96, R97) -/

/-- The entries of a working-set list, each as VA, pages, tier and REQUIRED; none when one breaks R96. -/
def wsEntries (b : List Byte) : (n : Nat) → Option (List (W64 × Nat × Nat × Bool))
  | 0 => some []
  | n + 1 =>
    let va := pktVa b 0
    let pages := fieldAt b 8 4
    let tier := fieldAt b 12 1
    let wfl := fieldAt b 13 1
    if va.toNat % 65536 ≠ 0 ∨ pages = 0 ∨ 1 < tier ∨ 1 < wfl ∨ fieldAt b 14 2 ≠ 0 then none
    else (wsEntries (b.drop 16) n).map ((va, pages, tier, wfl == 1) :: ·)

/-- The mapped leaf pages of a range that are to move to a tier: those whose leaf is resident in the other local tier. -/
def State.pagesToStage (s : State) (e : Nat) (x : W64 × Nat × Nat × Bool) : List StagePage :=
  (List.range x.2.1).filterMap (fun i =>
    let va := x.1 + BitVec.ofNat 64 (65536 * i)
    match s.walk e va.toNat with
    | .leaf w level _ =>
      let size := 2 ^ offBits level
      if lfRes w && decide (lfTier w < 2) && lfTier w != x.2.2.1 && (i == 0 || va.toNat % size == 0) then
        some { va := va &&& ~~~(BitVec.ofNat 64 (size - 1)), tier := x.2.2.1, required := x.2.2.2 }
      else none
    | .bad | .poison => none)

/-! ### The save area (R115) -/

/-- Bytes of a team's records (R127 to R132): its registers, ACC and SPM, with the fixed parts of its group records, and two pages of
4 KiB for the other parts (log entry 118). -/
def LaunchRec.teamBytes (l : LaunchRec) : Nat := l.gpt * (0x1D80 + l.gw * l.vregs * 4 + l.accb) + l.spmb + 0x2000

/-- How many teams of a grid one empty core holds. -/
def LaunchRec.perCore (l : LaunchRec) : (fuel : Nat) → List (LaunchRec × Nat) → Nat
  | 0, have_ => have_.length
  | fuel + 1, have_ =>
    match (List.range 4).find? (fun h => coreFits ((l, h) :: have_)) with
    | none => have_.length
    | some h => l.perCore fuel ((l, h) :: have_)

/-- How many frames hold the largest resident state of a grid. -/
def State.saveSize (s : State) (e : Nat) (l : LaunchRec) : Nat :=
  let cores := ((s.diesOf e).map (fun k => (s.sitesOf e k).length)).sum
  let teams := min (gridSize l * (if l.dual then 2 else 1)) (cores * l.perCore 64 [])
  (teams * l.teamBytes + 65535) / 65536
/-- The frames of the save area of a grid, in the fast tier (R115); none when there are not so many. -/
def State.saveFrames (s : State) (e : Nat) (l : LaunchRec) : Option (List Nat) :=
  (s.freeRuns 64 (s.saveSize e l) []).map (fun rs => rs.flatMap (fun r => (List.range r.2).map (r.1 + ·)))

/-! ### The checks (R93) -/

/-- What checking a record gives. -/
inductive Checked where
  | ok (s : State) (l : LaunchRec) (stage : List StagePage) (save : List Nat)
  | wait (s : State)
  | refused (s : State) (reason : Nat) (arg : Byte)

/-- The checks of R93 after FORMAT, in their order. ARG names the lowest of several invalid slots (DESIGN CHOICE, log entry 117). -/
def State.checkRecord (s : State) (q : Nat) (idx : W32) (b : List Byte) (rope : Bool) : Checked :=
  let l := LaunchRec.ofBytes b
  let e := (s.queue q).pent.toNat
  let dies := (s.diesOf e).length
  if !recMagic b then .refused s 1 0
  else if !l.fieldsOk b then .refused s 2 0
  else
    match indexOf? l.fslots (fun d => !slotOk d) with
    | some i => .refused s 3 (BitVec.ofNat 8 i)
    | none =>
      match s.featLack l with
      | some i => .refused s 4 (BitVec.ofNat 8 i)
      | none =>
        if !s.clusterOk e l then .refused s 5 0
        else if !l.fitsEmpty then .refused s 6 0
        else if l.cores && !s.coresident (newCtx q idx 0 e l b) then .refused s 7 0
        else if l.dual && (l.rope || decide (dies < 2)) then .refused s 8 0
        else if l.rope != rope then .refused s 9 0
        else if l.wslist.toNat % 16 ≠ 0 then .refused s 10 0
        else
          match s.cpRead State.askLine e q idx (l.wscount / 8 + 2) l.wslist (16 * l.wscount) with
          | .wait s => .wait s
          | .fail _ => .refused s.dropFetched 10 0
          | .ok ws =>
            let s := s.dropFetched
            match wsEntries ws l.wscount with
            | none => .refused s 10 0
            | some es =>
              match s.saveFrames e l with
              | none => .refused s 11 0
              | some save => .ok s l (es.flatMap (s.pagesToStage e)) save

/-! ### Dispatch -/

/-- The argument block as the command processor reads it at dispatch (R278, R468): 4096 bytes, ending early at a page that is not
mapped, or cannot be read (log entry 126). -/
def State.argBlock (s : State) (e q : Nat) (idx : W32) (va : W64) : CpRes (List Byte) :=
  let first := min 4096 (65536 - va.toNat % 65536)
  match s.cpRead State.askLine e q idx 34 va first with
  | .wait s => .wait s
  | .fail _ => .ok []
  | .ok a =>
    match s.cpRead State.askLine e q idx 34 (va + BitVec.ofNat 64 first) (4096 - first) with
    | .wait s => .wait s
    | .fail _ => .ok a
    | .ok b => .ok (a ++ b)

/-- What the journal takes at the dispatch of a launch: its argument block. It waits while a record has to wait (R279). -/
def State.launchArgs (s : State) (q : Nat) (idx : W32) (l : LaunchRec) : CpRes (List Byte) :=
  let e := (s.queue q).pent.toNat
  if s.jrnlHeld e l.jrnl then .wait s
  else if l.jrnl && (s.journal e).taking && l.args != 0 then s.argBlock e q idx l.args
  else .ok []

/-- A context that sets JRNL takes its inputs from the journal (R280), or its launch is recorded (R278). `pos`: in an
image, where replay starts, and the source's queue and index. -/
def State.startJournal (s : State) (cn : Nat) (pkt raw args : List Byte) (pos : Option (Nat × Nat × Nat)) : State :=
  match s.ctx? cn with
  | none => s
  | some c =>
    let j := s.journal c.pent
    if !c.lr.jrnl then s
    else if j.enabled && j.replaying && j.replay.isNone then
      let jseq := match pos with | some (p, q, i) => s.countsBefore c.pent p q i | none => []
      (s.modJournal c.pent (fun j => { j with replay := some cn, used := [] })).modCtx cn (fun c => { c with
        jpos := some ((pos.map (·.1)).getD j.jstart.toNat), jseq })
    else
      let s := s.record cn 1 {} (pkt ++ raw)
      if c.lr.args = 0 then s else s.record cn 2 {} args

/-- A context enters the machine, behind the others in dispatch order; the base die of the command processor has acted for it
(R143). -/
def State.addCtx (s : State) (c : Ctx) : State × Nat :=
  let cn := s.exec.ctxs.length
  let e := s.lastEpoch
  (({ s with exec := { s.exec with ctxs := s.exec.ctxs ++ [{ c with epoch := e }] } }).touch cn (8 + s.cpDie c.queue), cn)

/-- A packet that a launch refuses (R93): REFUSED to CSIG when the record was read and CSIG is one that can be written. -/
def State.refuseLaunch (s : State) (q : Nat) (idx tag : W32) (raw : List Byte) (reason : Nat) (arg : Byte) : State :=
  let sig := pktVa raw 0x70
  s.refuse q idx tag (if sig.toNat % 8 = 0 then sig else 0) 2 reason arg

/-- LAUNCH of queue sel.a: its record is read and checked, and the grid is dispatched. -/
def execLaunch (s : State) : Res :=
  let q := s.sel.a
  match s.toDispatch q 1 false with
  | none => .next s
  | some (idx, b) =>
    let tag := pktTag b
    let e := (s.queue q).pent.toNat
    if (pktVa b 8).toNat % 64 ≠ 0 then .next (s.refuseLaunch q idx tag [] 2 0)
    else
      match s.cpRead State.askLine e q idx 3 (pktVa b 8) 256 with
      | .wait s => .next s
      | .fail _ => .next (s.dropFetched.refuseLaunch q idx tag [] 1 0)
      | .ok raw =>
        match s.checkRecord q idx raw false with
        | .wait s => .next s
        | .refused s reason arg => .next (s.refuseLaunch q idx tag raw reason arg)
        | .ok t l stage save =>
          match s.launchArgs q idx l with
          | .wait s => .next s
          | .fail _ => .next s
          | .ok args =>
          let s := t.dispatched q { kind := .launch, idx, tag, sig := l.csig } (pktBarrier b)
          let (s, cn) := s.addCtx { newCtx q idx tag e l raw with stage, save }
          .next (s.startJournal cn b raw args none)

/-! ### STAGING (R97, R98) -/

def State.modXlat (s : State) (e : Nat) (f : Xlat → Xlat) : State :=
  { s with memctl := { s.memctl with xlat := modAt s.memctl.xlat e f } }

/-- Whether an operation in flight still has to touch a range of memory. -/
def State.rangeBusy (s : State) (pa n : Nat) : Bool :=
  s.ops.mops.any (fun o => o.pieces.any (fun p => !p.done &&
    (match p.place with | .mem a => decide (pa ≤ a ∧ a < pa + n) | _ => false))) ||
  s.ops.copies.any (fun c => c.owned.any (fun r => decide (r.1 * 128 < pa + n ∧ pa < (r.1 + r.2) * 128)))

/-- Cached translations of k pages of 64 KiB from a VA on are dropped on every core of a partition, with what the walk caches hold of
them: those of leaves that meet them. -/
def Store.dropLeaves (m : Store) (e va k : Nat) : Store :=
  { m with tlb := m.tlb.filter (fun t => !(t.pent == e && lfLeaf t.leaf && decide (t.page * 2 ^ offBits t.level < va + 65536 * k ∧
      va < (t.page + 1) * 2 ^ offBits t.level))) }

/-- A leaf page moves to frames of the same size, with its contents and its poison, under its KEYID; its entry is rewritten, the old
translation dropped, and the old frames are freed. -/
def State.moveLeaf (s : State) (e : Nat) (va : W64) (w : W64) (entry k new_ tier : Nat) : State :=
  let old := lfFrame w / 65536
  let move (m : Store) (i : Nat) : Store :=
    let m := m.takeFrame (new_ + i) (lfKey w)
    let from_ := s.shadowed (65536 * (old + i))
    if (s.store.frame from_).live then
      (m.putBytes false (65536 * (new_ + i)) (s.store.bytes from_ 65536)).carryPoison from_ 65536 (65536 * (new_ + i))
    else m
  let st := (List.range k).foldl (fun (m : Store) i => m.freeFrame (old + i)) ((List.range k).foldl move s.store)
  let w' := (w &&& ~~~(0x000FFFFFFFFF0300 : W64)) ||| BitVec.ofNat 64 (65536 * new_ + 256 * tier)
  let s := ({ s with store := st.dropLeaves e va.toNat k } : State).dropL1 (fun _ _ l => decide (old ≤ l / 512 ∧ l / 512 < old + k))
  s.devWrite entry (bytesOf 8 w'.toNat)

/-- One page is no longer to be staged for a context. -/
def State.stagedPage (s : State) (cn : Nat) (va : W64) : State :=
  s.modCtx cn (fun c => { c with stage := c.stage.filter (fun p => p.va != va) })

/-- Whether a staging copy of k frames meets poison or fails its key check (R468): then the page stays where it is. -/
def State.stagingFails (s : State) (e : Nat) (w : W64) (k : Nat) : Bool :=
  !s.keyInRange e (lfKey w) || (List.range k).any (fun i =>
    let pa := s.shadowed (lfFrame w + 65536 * i)
    (s.store.frame pa).key != lfKey w || s.store.poisoned pa 65536)

/-- STAGING of the page at a VA, for a context: as units of the activity the page is copied to the wanted tier, and moves once all of it is.
Without a free frame, or where the copy fails, STAGESHORT counts and the page stays (R98, R468). -/
def execStaging (c : Nat) (va : W64) (s : State) : Res :=
  match s.ctx? c with
  | none => .next s
  | some x =>
    match x.stage.find? (fun p => p.va == va) with
    | none => .next s
    | some p =>
      match s.walk x.pent va.toNat with
      | .bad | .poison => .next (s.stagedPage c va)
      | .leaf w level entry =>
        let k := 2 ^ offBits level / 65536
        if !lfRes w || decide (2 ≤ lfTier w) || lfTier w == p.tier || leafValid s.part w level == false then .next (s.stagedPage c va)
        else if !s.mayUnit 0 || s.rangeBusy (lfFrame w) (65536 * k) then .next s
        else
          match (if s.stagingFails x.pent w k then none else s.freeRun p.tier k k []) with
          | none =>
            .next ((s.stagedPage c va).modXlat x.pent (fun t => { t with stageshort := t.stageshort + 1 }))
          | some f =>
            let (s, all) := s.work 0 (65536 * k)
            .next (if all then (s.moveLeaf x.pent va w entry k f p.tier).stagedPage c va else s)

end Sys2Proof.Machine
end

