-- ==== Sys2Proof/Machine/Matrix.lean ====
section
/-!
DEFINITION. The matrix unit (R408 to R424): the issue checks, batches, what a batch computes, and its commit.
-/

namespace Sys2Proof.Machine

/-! ### Shapes and issue checks (R408, R413, R414, R420, R423) -/

/-- ESIZE of a tile whose elements have a type; a slot code is one byte. -/
def matSize (ty : BitVec 4) : Nat := if ty = 12 then 1 else tyWidth ty / 8
/-- KB of a type (R413). -/
def matBlock (ty : BitVec 4) : Nat :=
  match ty.toNat with
  | 8 => 8
  | 9 => 4
  | 10 | 11 => 16
  | _ => 32
/-- The ACC type of an A type: I32, F64 or F32. -/
def matAcc (ty : BitVec 4) : Nat := if ty = 6 ∨ ty = 7 then 1 else if ty = 9 then 9 else 8
def accSize (t : Nat) : Nat := if t = 9 then 8 else 4

def Team.tile? (t : Team) (h : BitVec 8) : Option Tile := (t.tiles[h.toNat]?).join
def Group.acc? (g : Group) (n : BitVec 8) : Option AccTile := (g.acc[n.toNat - 64]?).join

/-- Operands of a product: D is M × N, A is given by its rows, its columns in elements and ESIZE, B is a tile. -/
def productOk (d : AccTile) (at_ aRows aCols aSize aWant kb : Nat) (b : Tile) (bSize : Nat) (bPk : Bool) : Bool :=
  aRows == d.rows && aSize == aWant && b.esize == bSize && b.rows == aCols &&
  (if bPk then 2 * b.cols else b.cols) == d.cols && aCols % kb == 0 && d.esize == accSize at_ && (d.atype == 0 || d.atype == at_)

/-- The source type of an ACVT target (R423); F32 is also accepted from F64. -/
def acvtFrom (ty : BitVec 4) (atype : Nat) : Bool :=
  atype == 0 ||
  match ty.toNat with
  | 8 => atype == 8 || atype == 9
  | 10 | 11 | 12 => atype == 8
  | 9 => atype == 9
  | _ => atype == 1

/-- The issue checks of a matrix instruction: PROTECTION sub-code 5 where they fail. -/
def matOk (g : Group) (tm : Team) : Instr → Bool
  | .mma f =>
    match g.acc? f.dst, tm.tile? f.sa, tm.tile? f.sb with
    | some d, some a, some b =>
      productOk d (matAcc f.ty) a.rows (if f.imm.getLsbD 4 then 2 * a.cols else a.cols) a.esize (matSize f.ty) (matBlock f.ty) b
        (matSize (bType f)) (f.imm.getLsbD 5)
    | _, _, _ => false
  | .mmac f =>
    match g.acc? f.dst, g.acc? f.sa, tm.tile? f.sb with
    | some d, some a, some b =>
      (a.atype == 0 || a.atype == 8) && productOk d 8 a.rows a.cols a.esize 4 (matBlock f.ty) b (matSize (bType f)) (f.imm.getLsbD 5)
    | _, _, _ => false
  | .fmma f =>
    match g.acc? f.dst, tm.tile? f.sa, tm.tile? f.sb with
    | some d, some a, some b => productOk d 9 a.rows a.cols a.esize 8 4 b 8 false
    | _, _, _ => false
  | .aclr f => match g.acc? f.dst with | some d => d.esize == matSize f.ty | none => false
  | .ald f =>
    match g.acc? f.dst, tm.tile? f.sa with
    | some d, some t => d.esize == matSize f.ty && t.rows == d.rows && t.cols == d.cols && t.esize == d.esize
    | _, _ => false
  | .acvt f =>
    match tm.tile? f.dst, g.acc? f.sa with
    | some t, some a => t.rows == a.rows && t.cols == a.cols && t.esize == matSize f.ty && acvtFrom f.ty a.atype
    | _, _ => false
  | _ => true

/-- What the first matrix instruction that writes an ACC tile makes of its ATYPE (R414, R423). -/
def matType : Instr → Option (Nat × Nat)
  | .mma f => some (f.dst.toNat - 64, matAcc f.ty)
  | .mmac f => some (f.dst.toNat - 64, 8)
  | .fmma f => some (f.dst.toNat - 64, 9)
  | .aclr f | .ald f => some (f.dst.toNat - 64, f.ty.toNat)
  | _ => none
def Group.typed (g : Group) (i : Instr) : Group :=
  match matType i with
  | some (n, t) => { g with acc := modAt g.acc n (fun a => a.map (fun a => { a with atype := t })) }
  | none => g

/-! ### Elements -/

/-- The element at a row and column of a tile, as bits. -/
def Tile.elem (t : Tile) (r c : Nat) : Nat := natOf ((List.range t.esize).map (fun k => sget 0 t.data ((r * t.cols + c) * t.esize + k)))
/-- An element of an ACC tile as the batch leaves it; a tile of no type reads as zero. -/
def AccTile.elem (a : AccTile) (r c : Nat) : Nat := if a.ctype = 0 then 0 else (sget 0 a.data (r * a.cols + c)).toNat
/-- Every element of an ACC tile written. -/
def AccTile.fill (a : AccTile) (ty : Nat) (f : Nat → Nat → Nat) : AccTile :=
  { a with ctype := ty, data := (List.range (a.rows * a.cols)).filterMap (fun k =>
      let v := BitVec.ofNat 64 (f (k / a.cols) (k % a.cols))
      if v = 0 then none else some (k, v)) }

/-- What a batch reads beside its ACC tiles: scales, tiles, the launch's slots. -/
structure MatEnv where
  g  : Group
  tm : Team
  lr : LaunchRec

def MatEnv.slot (e : MatEnv) (n : BitVec 3) : Slot := Slot.ofWord (e.lr.fslots.getD n.toNat 0)

/-- One operand of a product: its tile, type, slot, whether it is packed, its scale register and selector, and its M or N. -/
structure MatOpnd where
  t     : Tile
  ty    : BitVec 4
  slot  : Slot
  pk    : Bool
  sreg  : Nat
  sel   : Nat
  span  : Nat

def MatOpnd.scaled (o : MatOpnd) : Bool := o.ty == 12 && o.slot.scale == 1
/-- The bits of the element at a row and column, a packed one from its half of a byte (R414). -/
def MatOpnd.bits (o : MatOpnd) (r c : Nat) : Nat :=
  if o.pk then o.t.elem r (c / 2) / 16 ^ (c % 2) % 16 else o.t.elem r c
/-- Its value: k is its place along the sum, x along the other side (R415, R418). -/
def MatOpnd.num (o : MatOpnd) (e : MatEnv) (r c k x : Nat) : Num :=
  let b := o.bits r c
  if o.ty = 12 then
    let v := slotDecode o.slot (b % 2 ^ o.slot.w)
    if o.scaled then
      match e.g.scaleAt e.lr o.sreg o.sel (k / o.slot.block * o.span + x) with
      | none => .nan false
      | some n => v.scale n
    else v
  else numOf o.ty b
/-- Whether one of the scales is read as poison. -/
def MatOpnd.dead (o : MatOpnd) (e : MatEnv) (k : Nat) : Bool :=
  o.scaled && (List.range (o.slot.blocks k * o.span)).any (e.g.scaleDead e.lr o.sreg ·)

/-! ### Products (R418, R419, R422) -/

/-- The exact sum of a block of products with its special values (R419). -/
def blockSum (rm : Nat) (l : List (Num × Flags)) : Num × Flags :=
  let fl := l.foldl (fun a p => a ||| p.2) 0
  let xs := l.map (·.1)
  let pos := xs.any (fun x => match x with | .inf s => !s | _ => false)
  let neg := xs.any (fun x => match x with | .inf s => s | _ => false)
  if pos && neg then (.nan false, fl ||| fNV)
  else if xs.any Num.isNan then (.nan false, fl)
  else if pos || neg then (.inf neg, fl)
  else
    let z := xs.all (fun x => x.isZero && x.neg) || (rm == 3 && !xs.all (fun x => x.isZero && !x.neg))
    match xs.foldl (fun (a x : Num) => match a, x with
        | .fin s m d, .fin t n f => addFin 0 s m d t n f
        | a, _ => a) (Num.fin false 0 0) with
    | .fin s m d => (if m = 0 then .fin z 0 0 else .fin s m d, fl)
    | x => (x, fl)

/-- One element of a floating product: acc, then block by block two roundings (R418). -/
def mmaFloat (rm kb : Nat) (va vb : Nat → Num) (acc : Nat) (blocks : List Nat) : Nat × Flags :=
  blocks.foldl (fun a q =>
    let (x, f0) := blockSum rm ((List.range kb).map (fun j => mulNum (va (q * kb + j)) (vb (q * kb + j))))
    let (b, f1) := fmtF32.round rm x
    let (y, f2) := addNum rm (fmtF32.decode a.1) (fmtF32.decode b)
    let (r, f3) := fmtF32.round rm y
    (r, a.2 ||| f0 ||| f1 ||| f2 ||| f3)) (acc, 0)

/-- One element of an integer product. -/
def mmaInt (va vb : Nat → Int) (acc k : Nat) : Nat :=
  wrapInt 32 ((acc : Int) + (List.range k).foldl (fun a j => a + va j * vb j) 0)

/-- One element of an F64 product: fused steps (R422). -/
def fmmaElem (rm : Nat) (va vb : Nat → Num) (acc k : Nat) : Nat × Flags :=
  (List.range k).foldl (fun a j =>
    let (x, f0) := fmaNum rm (va j) (vb j) (fmtF64.decode a.1)
    let (r, f1) := fmtF64.round rm x
    (r, a.2 ||| f0 ||| f1)) (acc, 0)

/-! ### The conversion of chained products (R420, R421) -/

/-- The E8 scale of a block of A elements; none for the NaN scale. -/
def chooseScale (f : Slot) (xs : List Num) : Option Nat :=
  if xs.any (fun x => match x with | .fin _ _ _ => false | _ => true) then none
  else
    let top := slotDecode f (slotMax f)
    let fits (s : Nat) : Bool := xs.all (fun x =>
      match x with
      | .fin _ m e => cmpNum (.fin false m (e + 127 - (s : Int))) top != .gt
      | _ => true)
    some (((List.range 255).find? fits).getD 254)

/-- One row of A converted to the target type: values and flags. -/
def convRow (ty : BitVec 4) (f : Slot) (rm : Nat) (xs : List Num) : List (Num × Flags) :=
  let nv (x : Num) : Flags := flagIf x.isSig fNV
  if ty = 12 then
    (List.range xs.length).map (fun k =>
      let x := xs.getD k (.fin false 0 0)
      let s := if f.scale = 1 then chooseScale f ((xs.drop (k / f.block * f.block)).take f.block) else some 127
      match s with
      | none => let r := slotEncode f rm (.nan false); (.nan false, r.2 ||| nv x)
      | some s =>
        let r := slotEncode f rm (x.scale (127 - (s : Int)))
        ((slotDecode f r.1).scale ((s : Int) - 127), r.2 ||| nv x))
  else xs.map (fun x => let r := (fmtOf ty).round rm x; (numOf ty r.1, r.2 ||| nv x))

/-! ### ACVT (R423) -/

/-- One converted element: bits and flags. -/
def acvtElem (f : LaneWord) (slot : Slot) (atype v : Nat) : Nat × Flags :=
  if atype = 0 then (0, 0)
  else if f.ty.toNat = atype then (v, 0)
  else if atype = 1 then
    let x := signedOf 32 v
    (wrapInt (tyWidth f.ty) (if f.mod.getLsbD 0 then clampInt (tyLo f.ty) (tyHi f.ty) x else x), 0)
  else
    let x := numOf (BitVec.ofNat 4 atype) v
    let r := if f.ty = 12 then slotEncode slot f.rm.toNat x else (fmtOf f.ty).round f.rm.toNat x
    (r.1, r.2 ||| flagIf x.isSig fNV)

/-! ### Running a batch -/

/-- What a batch has made so far: the ACC tiles, the flags, and the tiles that it writes at commit, by handle. -/
structure MatRun where
  acc    : List (Option AccTile)
  fl     : Flags
  writes : List (Nat × List Byte)
  dead   : Bool

def MatRun.acc? (m : MatRun) (n : BitVec 8) : Option AccTile := (m.acc[n.toNat - 64]?).join
/-- An ACC tile given every element with flags. -/
def MatRun.put (m : MatRun) (n : BitVec 8) (d : AccTile) (ty : Nat) (f : Nat → Nat → Nat × Flags) : MatRun :=
  { m with acc := m.acc.set (n.toNat - 64) (some (d.fill ty (fun i j => (f i j).1)))
           fl := (List.range (d.rows * d.cols)).foldl (fun a k => a ||| (f (k / d.cols) (k % d.cols)).2) m.fl }

/-- One matrix instruction on the ACC contents that the ones before it left (R409). -/
def matStep (e : MatEnv) (m : MatRun) : Instr → MatRun
  | .mma f =>
    match m.acc? f.dst, e.tm.tile? f.sa, e.tm.tile? f.sb with
    | some d, some ta, some tb =>
      let a : MatOpnd := { t := ta, ty := f.ty, slot := e.slot f.fs, pk := f.imm.getLsbD 4, sreg := f.sc.toNat,
                           sel := (f.imm.extractLsb' 0 2).toNat, span := d.rows }
      let b : MatOpnd := { t := tb, ty := bType f, slot := e.slot (bSlot f), pk := f.imm.getLsbD 5, sreg := (bscReg f).toNat,
                           sel := (f.imm.extractLsb' 2 2).toNat, span := d.cols }
      let k := tb.rows
      let m := { m with dead := m.dead || a.dead e k || b.dead e k }
      if f.ty = 6 ∨ f.ty = 7 then
        m.put f.dst d 1 (fun i j => (mmaInt (fun k => readTy f.ty (a.bits i k)) (fun k => readTy (bType f) (b.bits k j)) (d.elem i j) k, 0))
      else
        m.put f.dst d 8 (fun i j => mmaFloat f.rm.toNat (matBlock f.ty) (fun k => a.num e i k k i) (fun k => b.num e k j k j)
          (d.elem i j) (List.range (k / matBlock f.ty)))
    | _, _, _ => m
  | .mmac f =>
    match m.acc? f.dst, m.acc? f.sa, e.tm.tile? f.sb with
    | some d, some ta, some tb =>
      let b : MatOpnd := { t := tb, ty := bType f, slot := e.slot (bSlot f), pk := f.imm.getLsbD 5, sreg := (bscReg f).toNat,
                           sel := (f.imm.extractLsb' 2 2).toNat, span := d.cols }
      let k := ta.cols
      let rows := (List.range ta.rows).map (fun i => convRow f.ty (e.slot f.fs) f.rm.toNat
        ((List.range k).map (fun c => fmtF32.decode (ta.elem i c))))
      let va (i k : Nat) : Num := ((rows.getD i []).getD k (.fin false 0 0, 0)).1
      let m := { m with dead := m.dead || b.dead e k, fl := rows.flatten.foldl (fun (y : Flags) (p : Num × Flags) => y ||| p.2) m.fl }
      m.put f.dst d 8 (fun i j => mmaFloat f.rm.toNat (matBlock f.ty) (va i) (fun k => b.num e k j k j) (d.elem i j)
        (List.range (k / matBlock f.ty)))
    | _, _, _ => m
  | .fmma f =>
    match m.acc? f.dst, e.tm.tile? f.sa, e.tm.tile? f.sb with
    | some d, some ta, some tb =>
      m.put f.dst d 9 (fun i j => fmmaElem f.rm.toNat (fun k => fmtF64.decode (ta.elem i k)) (fun k => fmtF64.decode (tb.elem k j))
        (d.elem i j) tb.rows)
    | _, _, _ => m
  | .aclr f => match m.acc? f.dst with | some d => m.put f.dst d f.ty.toNat (fun _ _ => (0, 0)) | none => m
  | .ald f =>
    match m.acc? f.dst, e.tm.tile? f.sa with
    | some d, some t => m.put f.dst d f.ty.toNat (fun i j => (t.elem i j, 0))
    | _, _ => m
  | .acvt f =>
    match m.acc? f.sa, e.tm.tile? f.dst with
    | some a, some t =>
      let outs := (List.range (t.rows * t.cols)).map (fun k => acvtElem f (e.slot f.fs) a.ctype (a.elem (k / t.cols) (k % t.cols)))
      { m with writes := m.writes ++ [(f.dst.toNat, outs.flatMap (fun p => bytesOf t.esize p.1))],
               fl := outs.foldl (fun x p => x ||| p.2) m.fl }
    | _, _ => m
  | _ => m

/-- The tiles whose elements the unit reads. -/
def matReads : Instr → List Nat
  | .mma f | .fmma f => [f.sa.toNat, f.sb.toNat]
  | .mmac f => [f.sb.toNat]
  | .ald f => [f.sa.toNat]
  | _ => []

/-- The ACC tiles that an instruction reads, and the one that it writes whole. -/
def accReads : Instr → List Nat
  | .mma f | .fmma f => [f.dst.toNat - 64]
  | .mmac f => [f.dst.toNat - 64, f.sa.toNat - 64]
  | .acvt f => [f.sa.toNat - 64]
  | _ => []
def accWhole : Instr → Option Nat
  | .aclr f | .ald f => some (f.dst.toNat - 64)
  | _ => none

/-- Whether the unit would read a poisoned tile element or scale, or an entry of the tile table, also of the tile that an ACVT writes (R266,
R419). -/
def State.matSpoiled (s : State) (g : Nat) (gr : Group) (i : Instr) : Bool :=
  (matReads i).any (fun h => s.store.poison.any (fun p => match p with | .tile t' h' _ | .tileEntry t' h' => t' == gr.team && h' == h | _ => false)) ||
  (matTiles i).any (fun h => s.store.marked (.tileEntry gr.team h)) ||
  (s.scaleLanes gr i).any (fun x => s.store.marked (.vreg g x.1 x.2))

/-- Whether an ACC tile of a group holds a poisoned element. -/
def State.accPoison (s : State) (g n : Nat) : Bool := s.store.poison.any (fun p => match p with | .acc g' n' _ => g' == g && n' == n | _ => false)
/-- The first instruction of a batch that would read poisoned data: an ACC tile that the batch has written whole is not poisoned any more. -/
def State.firstSpoiled (s : State) (g : Nat) (gr : Group) : (clean : List Nat) → (k : Nat) → List Instr → Option Nat
  | _, _, [] => none
  | clean, k, i :: r =>
    if s.matSpoiled g gr i || (accReads i).any (fun n => !clean.contains n && s.accPoison g n) then some k
    else s.firstSpoiled g gr ((accWhole i).elim clean (· :: clean)) (k + 1) r

/-! ### Issue (R408, R409, R412) -/

/-- Closed batches that have not completed. -/
def Group.closedCount (g : Group) : Nat := g.batches.countP (·.closed)
/-- An instruction added, with its address, to the open batch, or to a new one. -/
def Group.addBatch (g : Group) (i : Instr) (pc : W64) : Group :=
  match g.batches.getLast? with
  | some b =>
    if b.closed then { g with batches := g.batches ++ [⟨[i], false, none, [pc]⟩] }
    else { g with batches := g.batches.dropLast ++ [⟨b.code ++ [i], false, none, b.pcs ++ [pc]⟩] }
  | none => { g with batches := [⟨[i], false, none, [pc]⟩] }
/-- Whether the open batch holds 255 instructions. -/
def Group.batchFull (g : Group) : Bool :=
  match g.batches.getLast? with | some b => !b.closed && decide (255 ≤ b.code.length) | none => false

/-- Neither mask nor condition: MSK is m0, MNOT is 0 and CND is 0. -/
def plainWord (f : LaneWord) : Bool := f.msk == 0 && !f.mnot && f.cnd == 0
/-- The conditions of R408: one present split, every lane, no mask and no condition. -/
def Env.converged (e : Env) (f : LaneWord) : Bool :=
  e.g.splits.countP (·.status.present) == 1 && (e.lanes (e.mask f)).length == e.gw && plainWord f

/-- The trap of a matrix instruction: the lowest lane of its mask and LOP. -/
def State.matTrap (s : State) (e : Env) (f : LaneWord) (code sub : Nat) : State :=
  s.laneTrap e.r e.sp e.c code sub 0 ((e.lanes (e.mask f)).headD 0 + 256 * e.c.lop)

/-- A closed batch that holds no instruction but its MCLOSE. -/
def Batch.isEmpty (b : Batch) : Bool := b.closed && decide (b.code.length ≤ 1)

/-- Empty batches at the head of the queue commit at once and complete their flags (R424). -/
def State.commitEmpty (s : State) (g : Nat) : State :=
  s.modGroup g (fun gr =>
    let done := gr.batches.takeWhile Batch.isEmpty
    done.foldl (fun gr b => match b.flag with | some f => gr.setFlag f | none => gr)
      { gr with batches := gr.batches.dropWhile Batch.isEmpty })

/-- The issue of a matrix instruction other than MCLOSE: R408, R172's order of causes, the fifth closed batch (R409), and the
batch that it enters. -/
def State.matIssue (s : State) (e : Env) (f : LaneWord) (i : Instr) : State :=
  if !e.converged f then s.matTrap e f 3 3
  else if !matOk e.g e.tm i then s.matTrap e f 5 5
  else if s.matSpoiled e.r.g e.g i then s.matTrap e f 13 0
  else if e.g.batchFull && decide (4 ≤ e.g.closedCount) then s
  else
    let s := match i with | .fmma _ => s.useFeat e.tm.ctx Config.featX0 | _ => s
    let s := if (matTiles i).any (fun h => match (e.tm.tiles[h]?).join with | some t => t.level == 2 | none => false)
      then s.touch e.tm.ctx (8 + baseBelow e.tm.die) else s
    (s.modGroup e.r.g (fun g => ((if g.batchFull then g.closeBatch noFlagClose none else g).addBatch i e.c.at_).typed i)).laneDone e.r

def execMma (f : LaneWord) (s : State) : Res := withEnv s (fun e => s.matIssue e f (.mma f))
def execMmac (f : LaneWord) (s : State) : Res := withEnv s (fun e => s.matIssue e f (.mmac f))
/-- Whether EMUL is needed for FMMA and cannot run: both of its banks failed their self-test (R456). -/
def State.emulDead (s : State) : Bool := !s.feat Config.featX0 && !(s.mgmt.fw.getD 3 Firmware.reset).ok
/-- A context ends because EMUL cannot run: cause EMULATION and AUX 0x45 (R456). -/
def State.endEmul (s : State) (r : SplitRef) (t : Trap) : State :=
  match s.group? r.g with
  | none => s
  | some g =>
    match s.team? g.team with
    | some tm => s.endCtx tm.ctx { (t.record g r tm 0x45 0) with cause := 7 }
    | none => s

/-- FMMA: on a part without X0 it is emulated bit for bit by EMUL (R140, R331), which makes the checks itself (R454): where EMUL cannot run
the context ends before them. -/
def execFmma (f : LaneWord) (s : State) : Res :=
  withEnv s (fun e =>
    if s.emulDead then s.endEmul e.r { code := 7, lane := true, pc := e.c.at_, info := BitVec.ofNat 64 (256 * e.c.lop), spc := e.sp.pc }
    else s.matIssue e f (.fmma f))
def execAclr (f : LaneWord) (s : State) : Res := withEnv s (fun e => s.matIssue e f (.aclr f))
def execAld (f : LaneWord) (s : State) : Res := withEnv s (fun e => s.matIssue e f (.ald f))
def execAcvt (f : LaneWord) (s : State) : Res := withEnv s (fun e => s.matIssue e f (.acvt f))

/-- MCLOSE (R424). -/
def execMclose (f : LaneWord) (s : State) : Res :=
  withEnv s (fun e =>
    let flag := if f.imm.getLsbD 4 then none else some (f.imm.extractLsb' 0 4).toNat
    if !e.converged f then s.matTrap e f 3 3
    else if 4 ≤ e.g.closedCount ∨ (match flag with | some n => e.g.pend.getLsbD n | none => false) = true then s
    else
      let s := s.modGroup e.r.g (fun g =>
        (match flag with | some n => g.startFlag n | none => g).closeBatch (.mclose f) flag)
      (s.commitEmpty e.r.g).laneDone e.r)

/-! ### Commit (R265, R410) -/

/-- The bytes of a whole tile written: its poison is gone. -/
def State.writeTile (s : State) (t h : Nat) (bs : List Byte) : State :=
  let s := s.modTeam t (fun tm => { tm with tiles := modAt tm.tiles h (fun x => x.map (fun x =>
    { x with data := (withIndex bs).filter (fun p => p.2 != 0) })) })
  { s with store := { s.store with poison := s.store.poison.filter (fun p =>
      match p with | .tile t' h' _ => !(t' == t && h' == h) | _ => true) } }

/-- A context ends with DATA_POISON for what its matrix unit met at instruction k of a batch (R171, R265, R419). -/
def State.matPoison (s : State) (g : Nat) (gr : Group) (tm : Team) (b : Batch) (k : Nat) : State :=
  let t : Trap := { code := 13, lane := true, pc := b.pcs.getD k 0, info := BitVec.ofNat 64 (256 * ((b.code[k]?).elim 0 lopOf)), spc := 0 }
  s.endCtx tm.ctx (t.record gr ⟨g, 0xFF⟩ tm 0 0)

/-- ACC tiles that a batch wrote whole are poisoned no more. -/
def Store.clearAccs (m : Store) (g : Nat) (code : List Instr) : Store :=
  { m with poison := m.poison.filter (fun p => match p with | .acc g' n _ => !(g' == g && (code.filterMap accWhole).contains n) | _ => true) }

/-- The oldest closed batch of a group commits in one step: ACC contents, ACVT tiles, FXF, and the flag; a failed residue
check executes the batch once more, a second failure ends the context (R265). -/
def execBatchCommit (g : Nat) (residueOk retryOk : Bool) (s : State) : Res :=
  match s.group? g, s.ctxOf? g with
  | some gr, some (cn, c) =>
    match gr.batches, s.team? gr.team with
    | b :: rest, some tm =>
      if !(b.closed && gr.live) then .next s
      else
      let residueOk := residueOk || s.rasOff 4          -- the mechanism of row 4 is turned off (R263)
      if !residueOk && !retryOk then .next ((s.countError 4 false (some tm.die)).matPoison g gr tm b 0)
      else
      match s.firstSpoiled g gr [] 0 b.code with
      | some k => .next (s.matPoison g gr tm b k)
      | none =>
        let e : MatEnv := { g := gr, tm, lr := c.lr }
        let m := b.code.foldl (matStep e) { acc := gr.acc, fl := 0, writes := [], dead := false }
        let s := if residueOk then s else s.countError 4 true (some tm.die)
        let s : State := { s with store := s.store.clearAccs g b.code }
        let s := s.modGroup g (fun gr =>
          let gr := { gr with acc := m.acc, batches := rest, fxf := gr.fxf ||| m.fl, poison := gr.poison || m.dead }
          match b.flag with | some f => gr.setFlag f | none => gr)
        let s := m.writes.foldl (fun s w => s.writeTile gr.team w.1 w.2) s
        let s := if m.writes.any (fun w => match (tm.tiles[w.1]?).join with | some t => t.level == 2 | none => false)
          then s.touch cn (8 + baseBelow tm.die) else s
        .next ((s.commitEmpty g).settleGroup g)
    | _, _ => .next s
  | _, _ => .next s

end Sys2Proof.Machine
end

