-- ==== Sys2Proof/Machine/Image.lean ====
section
/-!
DEFINITION. The canonical context image (R124 to R136): its records, written from the state of a context.
-/

namespace Sys2Proof.Machine

/-- A record padded to a 64-byte boundary (R124). -/
def pad64 (l : List Byte) : List Byte := l ++ List.replicate ((64 - l.length % 64) % 64) 0
def zeros (n : Nat) : List Byte := List.replicate n 0
def byteOf (n : Nat) : Byte := BitVec.ofNat 8 n
def boolByte (b : Bool) : Byte := if b then 1 else 0

/-! ### Splits and groups (R130, R131) -/

/-- The codes of STATUS. -/
def Status.code : Status → Nat
  | .absent => 0 | .ready => 1 | .join => 2 | .tbar => 3 | .cbar => 4 | .waitf => 5 | .bwait => 6 | .sleep => 7 | .trapped => 8
  | .exited => 9 | .page => 10

/-- The STATUS with which a split is recorded: 8 while it runs its handler (R174); one that is to perform only a wait part is recorded as
waiting (R447, R462). -/
def Split.statusCode (sp : Split) : Nat :=
  if sp.handler.isSome then 8
  else if sp.status = .ready ∧ sp.arrived = true then (if sp.wbar = 16 then 4 else 3)
  else sp.status.code

/-- A split record (64 bytes) and its stack. -/
def Split.record (sp : Split) : List Byte :=
  let st := sp.statusCode
  let at_ : W64 × Nat := match sp.clause, sp.runq with
    | some k, _ => (k.addr, k.done)
    | none, e :: _ => (match e.resume with | some d => (e.addr, d) | none => (0, 0))
    | none, [] => (0, 0)
  let wval : W64 := if st = 8 then sp.tspc else if st = 10 then (if sp.status = .page then sp.wval else 0) else if st = 2 ∨ st = 6 ∨ st = 7 then sp.wval else 0
  let body := bytesOf 8 (if st = 8 then sp.tspc else sp.pc).toNat ++ bytesOf 8 sp.mask.toNat ++ bytesOf 8 at_.1.toNat ++
    [byteOf at_.2, byteOf sp.stack.length, byteOf st, byteOf (if st = 3 ∨ st = 10 then sp.wbar else 0)] ++
    bytesOf 2 (if st = 5 then sp.wflags.toNat else 0) ++ bytesOf 2 sp.cause.toNat ++ bytesOf 8 wval.toNat ++
    bytesOf 8 sp.taddr.toNat ++ bytesOf 8 sp.tinfo.toNat ++ bytesOf 8 sp.tpc.toNat
  let stack := sp.stack.reverse.flatMap (fun e => bytesOf 8 e.join.toNat ++ bytesOf 8 e.mask.toNat ++ bytesOf 8 e.fall.toNat ++ zeros 8)
  if sp.status = .absent then zeros 320 else body ++ stack ++ zeros (256 - stack.length)

/-- The RUN queue of a split as it is recorded: the clause in progress first. -/
def Split.runEntries (sp : Split) : List RunEntry :=
  (match sp.clause with | some k => [{ addr := k.addr, mask := k.mask, snap := k.snap }] | none => []) ++ sp.runq

/-- Four RUN queue entries of split i. -/
def runRecs (i : Nat) (sp : Split) : List Byte :=
  let one (p : Nat × RunEntry) : List Byte :=
    bytesOf 8 p.2.addr.toNat ++ bytesOf 8 p.2.mask.toNat ++ [byteOf i, byteOf p.1, 1] ++ zeros 13 ++
      (List.range 32).flatMap (fun k => bytesOf 8 (p.2.snap.getD k 0).toNat) ++ zeros 32
  let l := (withIndex (sp.runEntries.take 4)).flatMap one
  l ++ zeros (1280 - l.length)

/-- The segment and group width codes. -/
def log2 : (fuel : Nat) → Nat → Nat
  | 0, _ => 0
  | f + 1, n => if n ≤ 1 then 0 else 1 + log2 f (n / 2)

/-- The contents of an ACC tile, row-major. -/
def AccTile.bytes (a : AccTile) : List Byte :=
  (List.range (a.rows * a.cols)).flatMap (fun k => bytesOf a.esize (if a.ctype = 0 then 0 else (sget 0 a.data k).toNat))

/-- ACC descriptors with the offsets of their contents, and the contents. -/
def accRecs (base : Nat) : List (Option AccTile) → (h : Nat) → List Byte × List Byte
  | [], _ => ([], [])
  | none :: r, h =>
    let x := accRecs base r (h + 1)
    ([0xFF] ++ zeros 31 ++ x.1, x.2)
  | some a :: r, h =>
    let d := a.bytes
    let x := accRecs (base + d.length) r (h + 1)
    ([byteOf (64 + h), byteOf a.ctype] ++ bytesOf 2 a.rows ++ bytesOf 2 a.cols ++ zeros 2 ++ bytesOf 8 base ++ zeros 16 ++ x.1, d ++ x.2)

/-- The 96-bit word of a lane instruction. -/
def laneWordOf (i : Instr) : W96 := match encode i with | some (.lane w) => w | _ => 0

/-- The words of the batches that have not committed, in issue order (R132, R411). -/
def Group.batchWords (g : Group) : List Instr := g.batches.flatMap (·.code)

/-- A 4-bit field for each element of a list, two to a byte. -/
def nibbles : List Nat → List Byte
  | [] => []
  | [a] => [byteOf a]
  | a :: b :: r => byteOf (a + 16 * b) :: nibbles r

/-- A group record (R130), at an offset of the image. -/
def State.groupRec (s : State) (c : Ctx) (g : Group) (base : Nat) : List Byte :=
  let gw := c.lr.gw
  let live := (withIndex g.vregs).filter (fun p => p.2.live)
  let vregs := live.flatMap (fun p => (List.range gw).flatMap (fun l => bytesOf 4 (p.2.vals.getD l 0).toNat))
  let (accd, accc) := accRecs (base + 0x1D80 + vregs.length) g.acc 0
  let words := g.batchWords
  let batch := (withIndex words).flatMap (fun p => bytesOf 12 (laneWordOf p.2).toNat ++ bytesOf 2 p.1 ++ zeros 2)
  let offb := if words = [] then 0 else base + 0x1D80 + vregs.length + accc.length
  let size := 0x1D80 + vregs.length + accc.length + batch.length
  let opened := match g.batches.getLast? with | some b => !b.closed | none => false
  let gfl := (if g.splits.any (fun sp => sp.status == .page) then 1 else 0) + (if g.rfault.pend then 2 else 0) + (if opened then 4 else 0)
  let head := bytesOf 2 g.index ++ [byteOf (log2 7 gw - 3), byteOf (log2 7 g.segw), byteOf (g.splits.countP (fun sp => sp.status.present)),
    byteOf c.lr.vregs, boolByte g.poison, byteOf gfl] ++ bytesOf 4 g.fxf.toNat ++ bytesOf 2 g.flags.toNat ++ bytesOf 2 g.pend.toNat ++
    bytesOf 8 g.gwct ++ bytesOf 8 offb ++ bytesOf 4 words.length ++ bytesOf 4 size ++ zeros 24
  head ++ (List.range 4).flatMap (fun i => (g.split i).record) ++ (List.range 4).flatMap (fun i => runRecs i (g.split i)) ++
    (List.range 64).flatMap (fun i => bytesOf 8 (if i = 63 then 0 else (g.sregs.getD i 0).toNat)) ++
    (List.range 7).flatMap (fun i => bytesOf 8 ((g.masks.getD (i + 1) 0) &&& lanesMask gw).toNat) ++ zeros 8 ++
    (nibbles ((List.range 64).map (fun l => if l < gw then (g.ccs.getD l 0).toNat else 0)) ++ zeros 32) ++ accd ++
    bytesOf 32 (maskOf (live.map (·.1))) ++
    bytesOf 32 (maskOf ((live.filter (fun p => p.2.unpub.isSome)).map (·.1))) ++
    nibbles ((List.range 256).map (fun n => match g.vregs[n]? with
      | some v => if v.live then v.unpub.getD 0 else 0
      | none => 0)) ++ vregs ++ accc ++ batch

/-! ### Teams (R126 to R129) -/

/-- A barrier record; a cluster barrier has no byte counts. -/
def barRec (b : Barrier) (waiting : Nat) (team : Bool) : List Byte :=
  bytesOf 4 b.lquota ++ bytesOf 4 b.larr ++ bytesOf 8 (if team then b.bquota else 0) ++ bytesOf 8 (if team then b.barr else 0) ++
    [boolByte b.parity, boolByte b.err] ++ bytesOf 2 waiting ++ zeros 4

/-- Tile table entries with the offsets of contents and maps, and these. -/
def tileRecs (base : Nat) : List (Option Tile) → (h : Nat) → List Byte × List Byte
  | [], _ => ([], [])
  | none :: r, h =>
    let x := tileRecs base r (h + 1)
    ([byteOf h, 0xFF] ++ zeros 30 ++ x.1, x.2)
  | some t :: r, h =>
    let d := pad64 (t.bytes 0 t.size)
    let m := pad64 (bytesOf ((t.chunks + 7) / 8) t.map)
    let x := tileRecs (base + d.length + m.length) r (h + 1)
    ([byteOf h, byteOf t.level, byteOf t.esize, boolByte t.err] ++ bytesOf 2 t.rows ++ bytesOf 2 t.cols ++ bytesOf 8 base ++
      bytesOf 8 (base + d.length) ++ zeros 8 ++ x.1, d ++ m ++ x.2)

/-- Group records one after another, with their offsets by group index. -/
def State.groupRecs (s : State) (c : Ctx) (base : Nat) : List Group → List (Nat × Nat) × List Byte
  | [] => ([], [])
  | g :: r =>
    let b := pad64 (s.groupRec c g base)
    let x := s.groupRecs c (base + b.length) r
    ((g.index, base) :: x.1, b ++ x.2)

/-- Whether a team's record holds a cluster barrier: rank 0 of a cluster of more than one team, or a barrier that has been
used. -/
def State.holdsCbar (s : State) (c : Ctx) (tm : Team) : Bool :=
  tm.crank == 0 && (decide (1 < c.lr.crows * c.lr.ccols) || tm.cbar.larr != 0 || tm.cbar.parity ||
    tm.groups.any (fun g => match s.group? g with | some gr => gr.splits.any (·.waitsAt 16) | none => false))

/-- How many splits are blocked on a cluster barrier. -/
def State.cwaiting (s : State) (lead : Nat) : Nat :=
  (((s.cluster lead).flatMap (·.2.groups)).map (fun g => match s.group? g with
    | some gr => gr.splits.countP (·.waitsAt 16) | none => 0)).sum

/-- A team record (R127) with all that belongs to it, at an offset of the image; `st` is its STATE. -/
def State.teamRec (s : State) (c : Ctx) (tm : Team) (st base : Nat) : List Byte :=
  let hold := s.holdsCbar c tm
  let offt := base + 640
  let offg := offt + 2048
  let offc := offg + 128
  let cbar := if hold then pad64 (barRec tm.cbar (s.cwaiting tm.lead) false) else []
  let off0 := offc + cbar.length
  let (tbl, cont) := tileRecs off0 tm.tiles 0
  let gs := if st = 2 then [] else (tm.groups.filterMap s.group?).filter (·.live)
  let (offs, recs) := s.groupRecs c (off0 + cont.length) gs
  let head := bytesOf 4 tm.xyz.1 ++ bytesOf 4 tm.xyz.2.1 ++ bytesOf 4 tm.xyz.2.2 ++ [byteOf st, byteOf gs.length, byteOf tm.crank, boolByte hold] ++
    bytesOf 4 (tm.drawn 0) ++ bytesOf 4 (tm.drawn 2) ++ bytesOf 8 (base + 128) ++ bytesOf 8 offt ++ bytesOf 8 offg ++
    bytesOf 8 (if hold then offc else 0) ++ bytesOf 8 (off0 + cont.length + recs.length - base) ++ zeros 64
  head ++ (withIndex tm.bars).flatMap (fun p => barRec p.2 (s.waiting tm p.1) true) ++ tbl ++
    (List.range 16).flatMap (fun i => bytesOf 8 (((offs.find? (fun o => o.1 == i)).map (·.2)).getD 0)) ++ cbar ++ cont ++ recs

/-- A team that was placed and has not started: its context has not (R110), and every group stands as it was formed. -/
def State.notStarted (s : State) (c : Ctx) (tm : Team) : Bool :=
  !c.start && tm.groups.all (fun g => match s.group? g with
    | some gr => gr.splits == (newGroup gr.team gr.index gr.part c.lr gr.since).splits
    | none => false)

/-- The teams that an image records, in ascending LINEAR order, with their STATE: those placed and not started, those that run, and a
retired one that holds the barrier of a cluster that still runs. -/
def State.imageTeams (s : State) (cn : Nat) (c : Ctx) : List (Nat × Team × Nat) :=
  let all := (withIndex s.exec.teams).filter (fun p => p.2.ctx == cn)
  let l := all.filterMap (fun p =>
    if p.2.state = .running then some (p.1, p.2, if s.notStarted c p.2 then 0 else 1)
    else if p.2.lead = p.1 ∧ (s.cluster p.1).any (fun q => q.2.state == .running) then some (p.1, p.2, 2)
    else none)
  sortBy (fun x => x.2.1.linear) l

/-- Team table entries and team records. -/
def State.teamRecs (s : State) (c : Ctx) (base : Nat) : List (Nat × Team × Nat) → List Byte × List Byte
  | [] => ([], [])
  | (_, tm, st) :: r =>
    let b := pad64 (s.teamRec c tm st base)
    let x := s.teamRecs c (base + b.length) r
    (bytesOf 4 tm.linear ++ [byteOf st, 0, 0, 0] ++ bytesOf 8 base ++ x.1, b ++ x.2)

/-! ### Pending operations (R133) -/

def dirCode : CopyDir → Nat
  | .m2t => 0 | .t2m => 1 | .t2t => 2 | .red => 3 | .mem => 0

def State.teamLinear (s : State) (t : Nat) : Nat := match s.team? t with | some t => t.linear | none => 0xFFFFFFFF

/-- A copy entry. -/
def State.copyRec (s : State) (k : Copy) : List Byte :=
  let group := match k.g.bind s.group? with | some g => g.index | none => 0
  let bfl := k.bar + (if k.cnt then 16 else 0) + (if k.flag.isSome then 32 else 0) + 64 * k.cls
  [1, byteOf (dirCode k.dir), byteOf k.tile, byteOf bfl, byteOf (k.flag.getD 0), byteOf group] ++ bytesOf 2 k.rowoff ++
    bytesOf 4 (s.teamLinear k.team) ++ zeros 4 ++ (List.range 5).flatMap (fun i => bytesOf 4 (k.coords.getD i 0).toNat) ++ zeros 4 ++
    bytesOf 8 k.counted ++ bytesOf 8 k.dest.toNat ++ zeros 8 ++ (if k.dir = .t2t then zeros 128 else sized 128 k.raw)

/-- The 64 bytes of a stage descriptor (R254). -/
def descBytes (d : StageDesc) : List Byte :=
  [d.mode, d.steps, d.hops, d.rbytes] ++ zeros 4 ++ (List.range 8).flatMap (fun i => bytesOf 2 (d.off.getD i 0).toNat) ++
    bytesOf 8 d.pmask.toNat ++ bytesOf 8 d.key.toNat ++ bytesOf 8 d.nullv.toNat ++ [byteOf d.cls.toNat] ++ zeros 15

/-- A stage entry. -/
def State.stageRec (s : State) (k : Stage) : List Byte :=
  let gr := s.group? k.g
  let group := match gr with | some g => g.index | none => 0
  let team := match gr with | some g => s.teamLinear g.team | none => 0
  [2, byteOf group, 0, 0] ++ bytesOf 4 team ++ bytesOf 8 k.pkt.p.toNat ++ bytesOf 8 k.pkt.name.toNat ++ zeros 40 ++ descBytes k.pkt.desc

/-- What a berth entry records of a berth, whether its home is here or elsewhere. -/
structure BerthView where
  g      : Nat
  k      : Nat
  bytes  : Nat
  name   : W64
  expiry : Nat
  waiter : Option Nat
  filled : Bool
  status : Byte
  ptime  : Nat
  data   : List Byte
deriving DecidableEq, Repr

/-- The LIVE and RESOLVED berths of a context (R253). -/
def State.berthViews (s : State) (cn : Nat) : List BerthView :=
  let gs := s.groupsOf cn
  s.berths.slots.filterMap (fun b => match b.g with
    | some g => if gs.contains g && b.state != .free then
        some { g, k := b.k, bytes := b.bytes, name := s.berthName b, expiry := b.expiry, waiter := b.waiter,
               filled := b.state == .resolved, status := b.status, ptime := b.ptime, data := b.data }
      else none
    | none => none) ++
  s.berths.forwards.filterMap (fun f =>
    if gs.contains f.g && !f.freed then
      some { g := f.g, k := f.k, bytes := f.bytes, name := f.name, expiry := f.expiry, waiter := f.waiter, filled := f.state == .resolved,
             status := f.status, ptime := f.ptime, data := f.data }
    else none)

/-- A berth entry. -/
def State.berthRec (s : State) (b : BerthView) : List Byte :=
  let gr := s.group? b.g
  let group := match gr with | some g => g.index | none => 0
  let team := match gr with | some g => s.teamLinear g.team | none => 0
  [3, byteOf group, byteOf b.k, byteOf (log2 4 (b.bytes / 8))] ++ bytesOf 4 team ++ bytesOf 8 b.name.toNat ++ bytesOf 8 b.expiry ++
    [byteOf (b.waiter.getD 0xFF)] ++ zeros 39 ++
    (if b.filled then parkedBytes b.status b.ptime b.data else zeros 48) ++ zeros 16

/-! ### The page list (R135) -/

/-- The leaves of a table that are fast-tier or capacity-tier pages, and those that are not resident, in ascending VA order: VA, leaf and
level. -/
def State.leavesFrom (s : State) : (n level table : Nat) → (va : Nat) → List (Nat × W64 × Nat)
  | 0, _, _, _ => []
  | n + 1, level, table, va =>
    (List.range 1024).flatMap (fun i =>
      let v := va + i * 2 ^ (46 - 10 * level)
      match s.pte (table + 8 * i) with
      | none => []
      | some w =>
        if !lfV w then []
        else if lfLeaf w then
          (if level ≠ 0 ∧ (lfRes w = false ∨ lfTier w < 2 ∧ leafValid s.part w level = true) then [(v, w, level)] else [])
        else s.leavesFrom n (level + 1) ((w.extractLsb' 13 39).toNat * 8192) v)

def State.allLeaves (s : State) (e : Nat) : List (Nat × W64 × Nat) :=
  let root := (s.memctl.xlat.getD e Xlat.reset).root
  if root.getLsbD 0 then s.leavesFrom 4 0 ((root.extractLsb' 13 39).toNat * 8192) 0 else []
/-- The resident ones. -/
def State.leaves (s : State) (e : Nat) : List (Nat × W64 × Nat) := (s.allLeaves e).filter (fun l => lfRes l.2.1)

/-- A range of the page list. -/
structure PageRange where
  va     : Nat
  pages  : Nat
  okind  : Nat
  tier   : Nat
  origin : Nat
  leaf   : W64
deriving DecidableEq, Repr

/-- A leaf entry with FRAME, TIER, RES, A and D zero. -/
def bareLeaf (w : W64) : W64 := w &&& ~~~(0x000FFFFFFFFF6700 : W64)

def rangeOf (p : Nat × W64 × Nat) : PageRange :=
  { va := p.1, pages := 2 ^ offBits p.2.2 / 65536, okind := 2, tier := lfTier p.2.1, origin := lfFrame p.2.1, leaf := bareLeaf p.2.1 }

/-- The range of a leaf of the page list: one that is resident, or a following page, whose ORIGIN is that of the image that it came with
(R141). Of another page that is not resident, TIER and FRAME are not examined (R184): it has no entry. -/
def State.leafRange (s : State) (e : Nat) (l : Nat × W64 × Nat) : Option PageRange :=
  if lfRes l.2.1 then some (rangeOf l)
  else
    (s.store.follow.find? (fun f => f.pent == e && f.va.toNat == l.1 && f.state < 2)).map (fun f =>
      { rangeOf l with okind := f.okind.toNat, tier := f.tier.toNat, origin := f.origin.toNat, leaf := bareLeaf f.leaf })
/-- The ranges of a partition's page list, page by page. -/
def State.leafRanges (s : State) (e : Nat) : List PageRange := (s.allLeaves e).filterMap (s.leafRange e)

/-- Ranges that follow on from each other are one. -/
def mergeRanges (l : List PageRange) : List PageRange :=
  (l.foldl (fun (a : List PageRange) (r : PageRange) =>
    match a with
    | p :: rest =>
      if p.va + 65536 * p.pages = r.va ∧ p.origin + 65536 * p.pages = r.origin ∧ p.okind = r.okind ∧ p.tier = r.tier ∧ p.leaf = r.leaf then
        { p with pages := p.pages + r.pages } :: rest
      else r :: p :: rest
    | [] => [r]) []).reverse

def pageRec (r : PageRange) : List Byte :=
  bytesOf 8 r.va ++ bytesOf 4 r.pages ++ [byteOf r.okind, byteOf r.tier, 0, 0] ++ bytesOf 8 r.origin ++ bytesOf 8 r.leaf.toNat

/-- The page list. -/
def pageList (rs : List PageRange) : List Byte := bytesOf 4 rs.length ++ zeros 60 ++ rs.flatMap pageRec

/-! ### The image (R124, R125, R136) -/

/-- An image in its two parts: the header, and everything after it; with TOTAL and the offsets of the berth entries. -/
structure Image where
  header : List Byte
  body   : List Byte
  total  : Nat
  slots  : List (W64 × Nat)        -- berth name, offset of its entry
  pages  : Nat                     -- OFFPAGES
deriving DecidableEq, Repr

def Image.bytes (i : Image) : List Byte := i.header ++ i.body

/-- The bytes over which DIGEST is computed: its own field and the parked slots as zero. -/
def digestInput (hdr body : List Byte) (slots : List Nat) (total : Nat) : List Byte :=
  let all := overlay hdr 0xC0 (zeros 48) ++ body
  (slots.foldl (fun (b : List Byte) o => overlay b (o + 0x40) (zeros 64)) all).take total

/-- The image of a context at its canonical point, as sealed now. -/
def State.imageOf (s : State) (cn : Nat) (c : Ctx) (inplace sealed : Bool) : Image :=
  let ts := s.imageTeams cn c
  let offTeams := 512
  let tblLen := (64 + 16 * ts.length + 63) / 64 * 64
  let (ents, trecs) := s.teamRecs c (offTeams + tblLen) ts
  let tbl := pad64 (bytesOf 4 c.next ++ bytesOf 4 ts.length ++ zeros 56 ++ ents)
  let offPend := offTeams + tblLen + trecs.length
  let copies := s.ops.copies.filter (fun k => k.ctx == some cn)
  let stages := s.ops.stages.filter (fun k => k.ctx == some cn && !k.sent)
  let berths := s.berthViews cn
  let pend := bytesOf 4 copies.length ++ bytesOf 4 stages.length ++ bytesOf 4 berths.length ++ zeros 52 ++ copies.flatMap s.copyRec ++
    stages.flatMap s.stageRec ++ berths.flatMap s.berthRec
  let offB := offPend + 64 + 192 * copies.length + 128 * stages.length
  let offQueue := offPend + pend.length
  let queue := bytesOf 2 c.queue ++ [byteOf (c.pent / 5), byteOf (c.pent % 5)] ++ bytesOf 4 c.index.toNat ++ bytesOf 4 c.tag.toNat ++ zeros 4 ++
    bytesOf 8 (if c.lr.jrnl then (s.journal c.pent).jwr.toNat else 0) ++ zeros 40
  let total := offQueue + 64
  let slots := (withIndex berths).map (fun p => (p.2.name, offB + 128 * p.1))
  let body := sized 256 c.raw ++ tbl ++ trecs ++ pend ++ queue ++ pageList (mergeRanges (s.leafRanges c.pent))
  let ifl := (if sealed then 1 else 0) + (if inplace then 2 else 0) + (if c.lr.rope then 4 else 0)
  let hdr (digest : List Byte) : List Byte :=
    bytesOf 4 0x33494343 ++ bytesOf 2 1 ++ bytesOf 2 ifl ++ bytesOf 8 c.featUsed.toNat ++ bytesOf 8 Config.serial.toNat ++ bytesOf 8 s.now ++
      bytesOf 4 (gridSize c.lr) ++ bytesOf 4 c.retired ++ bytesOf 8 256 ++ bytesOf 8 offTeams ++ bytesOf 8 offPend ++ bytesOf 8 total ++
      bytesOf 8 offQueue ++ bytesOf 4 total ++ bytesOf 4 c.ropeId.toNat ++ bytesOf 2 (if c.lr.rope then c.rank else 0) ++
      bytesOf 2 (if c.lr.rope then c.rcount else 0) ++ zeros 100 ++ digest ++ zeros 16
  let digest := sha384 (digestInput (hdr (zeros 48)) body (slots.map (·.2)) total)
  { header := hdr digest, body, total, slots, pages := total }

/-- The first of some groups that holds poisoned state: no image may take it (R261). -/
def State.spoiledGroup (s : State) (gs : List Nat) : Option Nat :=
  gs.find? (fun g =>
    match s.group? g with
    | none => false
    | some gr => gr.live && (gr.spois != 0 || s.store.poison.any (fun p =>
        match p with
        | .vreg g' n _ => g' == g && (gr.vreg n).live
        | .acc g' _ _ => g' == g
        | .tile t _ _ | .tileEntry t _ => t == gr.team
        | .berth bd n => s.berths.slots.any (fun b => b.bd == bd && b.slot == n && b.g == some g && b.state != .free)
        | _ => false)))
/-- Its context ends with DATA_POISON, the serialiser being what consumes the data (log entry 116). -/
def State.endSpoiled (s : State) (g : Nat) : State :=
  match s.group? g with
  | none => s
  | some gr =>
    let i := gr.firstSplit
    s.takeTrap { g, sp := i } { code := 13, lane := false, pc := (gr.split i).pc, addr := 0, spc := 0, info := 0 }

/-! ### The save area (R115) -/

/-- The frames of a save area hold these bytes, from its start on; what does not fit is not kept (log entry 118). They have the first key
id of the partition. -/
def State.writeSave (s : State) (c : Ctx) (data : List Byte) : State :=
  let key := BitVec.ofNat 10 (s.partEnt c.pent).keybase.toNat
  { s with store := (withIndex c.save).foldl (fun (m : Store) p =>
      (m.tag p.2 key).putBytes false (65536 * p.2) ((data.drop (65536 * p.1)).take 65536)) s.store }

/-- A halted team of which something is claimed. -/
def Team.spilled (t : Team) : Bool := t.state == .running && t.halted && t.gone != Claimed.none_

/-- A team whose claim is to be written now: the copies into its tiles are over or squashed when its SPM is claimed, and its groups' loads,
stores and other requests are over (R122, steps 2 and 3). -/
def State.toSave (s : State) (t : Nat) (tm : Team) : Bool :=
  tm.spilled && !tm.saved && !(tm.gone.spm && s.ops.copies.any (fun k => k.dstTile.any (·.1 == t) && !s.copyHeld k)) &&
  !s.ops.mops.any (fun o => tm.groups.contains o.g) && !s.ops.stages.any (fun k => k.ctx.isSome && k.sent && tm.groups.contains k.g) &&
  tm.groups.all (fun g => match s.group? g with | some gr => gr.splits.all (·.waitOp.isNone) | none => true)

/-- A team as far as it has been claimed: the groups of which something is claimed, and its tiles in SPM. -/
def Team.claimedPart (t : Team) : Team :=
  { t with
    tiles := t.tiles.map (fun x => x.bind (fun y => if t.gone.spm && y.level == 0 then some y else none))
    groups := ((withIndex t.groups).filter (fun p => t.gone.regs.contains p.1 || t.gone.acc.contains p.1)).map (·.2) }
/-- A group as far as it has been claimed. -/
def Group.claimedPart (g : Group) (c : Claimed) : Group :=
  let g := if c.regs.contains g.index then g else { g with vregs := g.vregs.map (fun v => { v with live := false }) }
  if c.acc.contains g.index then g else { g with acc := g.acc.map (fun _ => none), batches := [] }

/-- The records of the claimed state of a context, as they are written to its save area: team records in ascending LINEAR order, their
offsets those of the area (log entry 58). Unclaimed state is not in them (R115). -/
def State.claimRecs (s : State) (cn : Nat) (c : Ctx) : List Byte :=
  let ts := (withIndex s.exec.teams).filter (fun p => p.2.ctx == cn && p.2.spilled)
  let part : State := { s with exec := { s.exec with groups := s.exec.groups.map (fun g =>
    match s.team? g.team with | some t => g.claimedPart t.gone | none => g) } }
  (part.teamRecs c 0 (sortBy (fun x => x.2.1.linear) (ts.map (fun p => (p.1, p.2.claimedPart, 1))))).2

/-- The claims of a context are written (R115, R120), out of the budget of serialisation (R122, step 5). -/
def State.writeClaims (s : State) (cn : Nat) (c : Ctx) : State :=
  if !(withIndex s.exec.teams).any (fun p => p.2.ctx == cn && s.toSave p.1 p.2) then s
  else
  match s.spoiledGroup ((s.exec.teams.filter (fun t => t.ctx == cn && t.spilled)).flatMap (·.claimedPart.groups)) with
  | some g => s.endSpoiled g
  | none =>
    let recs := s.claimRecs cn c
    let (s, all) := s.work 4 recs.length
    if !all then s
    else
      let s' := s.writeSave c recs
      { s' with exec := { s'.exec with teams := (withIndex s.exec.teams).map (fun p =>
          if p.2.ctx == cn && s.toSave p.1 p.2 then { p.2 with saved := true } else p.2) } }
/-- The claims of every context that can be written are. -/
def State.settleClaims (s : State) : State :=
  (withIndex s.exec.ctxs).foldl (fun (s : State) p => s.writeClaims p.1 p.2) s

/-- The claims that a placement makes on halted teams, without the placement. -/
def State.takeClaims (s t : State) : State :=
  { s with exec := { s.exec with teams := (withIndex s.exec.teams).map (fun p =>
      match t.team? p.1 with
      | some x => if p.2.halted && x.halted then { p.2 with gone := x.gone, claimAt := x.claimAt, saved := x.saved } else p.2
      | none => p.2) } }
/-- Whether claimed state that is not written yet stands on a core on which a placement makes a team resident. -/
def State.unsaved (s t : State) : Bool :=
  let came := (withIndex t.exec.teams).filter (fun p => p.2.state == .running && !p.2.halted && (match s.team? p.1 with | some x => x.halted | none => true))
  t.exec.teams.any (fun x => x.spilled && !x.saved && came.any (fun p => p.2.die == x.die && p.2.site == x.site))
/-- A placement, once what it claims is written: before a claimed resource is reused, what it held is in the save area (R115). -/
def State.placing (s : State) (place : State → Option State) : State :=
  match place s with
  | none => s
  | some t =>
    if s.unsaved t then
      let s' := (s.takeClaims t).settleClaims
      match place s' with
      | none => s'
      | some t' => if s'.unsaved t' then s' else t'
    else t

end Sys2Proof.Machine
end

