-- ==== Sys2Proof/Machine/Serialise.lean ====
section
/-!
DEFINITION. The serialiser (R120 to R123, R134, R136) and the snapshots that rest on it (R145 to R148).
-/

namespace Sys2Proof.Machine

/-! ### Stopping and going on -/

/-- The owners of a context's berths become parked (R134). -/
def State.parkBerths (s : State) (cn : Nat) : State :=
  let gs := s.groupsOf cn
  { s with berths := { s.berths with
    slots := s.berths.slots.map (fun b => match b.g with
      | some g => if gs.contains g && b.state != .free && b.loc == .resident then { b with loc := .parked } else b
      | none => b)
    forwards := s.berths.forwards.map (fun f => if gs.contains f.g then { f with parked := true } else f) } }

/-- A parked slot is applied to its resident owner: the registers are written and a waiting split wakes (R134). -/
def State.unparkSlot (s : State) (b : Berth) : State :=
  let live : Berth := { b with loc := .resident, filled := false, slotVa := none }
  match b.filled, b.g with
  | true, some g =>
    (s.modBerth b.bd b.slot (fun _ => if s.wakes g b.waiter then live.freed else { live with waiter := none })).resolveAt g b.k b.bytes b.waiter
      { status := b.status, data := b.data, stage := b.stage }
  | _, _ => s.modBerth b.bd b.slot (fun _ => live)

/-- The same for a berth whose home is elsewhere. -/
def State.unparkForward (s : State) (f : Forward) : State :=
  let s := s.modForward f.name (fun f => { f with parked := false, filled := false, slotVa := none })
  if f.filled then
    let s := s.resolveAt f.g f.k f.bytes f.waiter { status := f.status, data := f.data, stage := decide (3 ≤ f.status.toNat) }
    if s.wakes f.g f.waiter then s.releaseForward f.name else s.modForward f.name (fun f => { f with waiter := none })
  else s

/-- The owners of a context's berths are resident again. -/
def State.unparkBerths (s : State) (cn : Nat) : State :=
  let gs := s.groupsOf cn
  let s := (s.berths.slots.filter (fun b => b.loc == .parked && b.state != .free && (match b.g with | some g => gs.contains g | none => false))).foldl
    State.unparkSlot s
  (s.berths.forwards.filter (fun f => f.parked && gs.contains f.g)).foldl State.unparkForward s

/-- The groups of a context may issue again, but for those of halted teams. -/
def State.unstop (s : State) (cn : Nat) : State :=
  let ts := s.exec.teams.filter (fun t => t.ctx == cn && !t.halted && !t.halting)
  (ts.flatMap (·.groups)).foldl (fun (s : State) g => s.modGroup g (fun gr => { gr with stop := none })) s

/-- The serialisation of a registered context for a snapshot (R147). -/
def Serial.ofSnap (e now : Nat) : Serial :=
  { asker := none, rope := false, snap := some e, keep := true, start := now, drainTo := now, drained := true, phase := 0, hdr := [] }

/-- Step 1 of a serialisation (R122). -/
def State.startSerial (s : State) (cn : Nat) (z : Serial) : State :=
  let s := s.modCtx cn (fun c => { c with ser := some z })
  ((s.groupsOf cn).foldl (fun (s : State) g => match s.group? g with
    | some gr => if gr.live then s.stopGroup g else s
    | none => s) s).parkBerths cn

/-- The context goes on from its canonical point; one that a snapshot meanwhile triggered is waiting for is then serialised for it. -/
def State.resumeSerial (s : State) (cn : Nat) : State :=
  let s := ((s.modCtx cn (fun c => { c with ser := none })).unstop cn).unparkBerths cn
  match s.ctx? cn with
  | none => s
  | some c => if (s.snap c.pent).status == 1 && (s.snap c.pent).ctxs.contains cn then s.startSerial cn (Serial.ofSnap c.pent s.now) else s

/-- The answer to a request of the context control page (R121): RESULT, GO, and SIG. -/
def State.serAnswer (s : State) (fn : Nat) (c : Ctx) (result : W32) : State :=
  let sig := (s.fn fn).ser.sig
  let s := s.modFn fn (fun x => { x with ser := { x.ser with result, ctl := x.ser.ctl &&& 0xFFFFFFFE } })
  s.sigUpdate { queue := c.queue, idx := c.index, tag := c.tag, pent := c.pent, va := sig,
                act := if result = 0 ∨ result = 5 then .decrement else .error 2, work := false, req := none }

/-- A context by the queue and index of its LAUNCH packet, as a function may name it. -/
def State.ctxNamed (s : State) (fn : Nat) (q : W16) (idx : W32) : Option (Nat × Ctx) :=
  (withIndex s.exec.ctxs).find? (fun p => p.2.queue == q.toNat && p.2.index == idx && p.2.state != .gone &&
    (fn == 0 || (s.queue p.2.queue).func.toNat == fn))

/-- SERIALISE: CTL of a context control page is written. A DRAIN above 1000 counts as 1000. -/
def execSerialise (fn : BitVec 6) (ctl : W32) (s : State) : Res :=
  let n := fn.toNat
  let p := (s.fn n).ser
  let set (s : State) (f : SerPage → SerPage) : State := s.modFn n (fun x => { x with ser := f x.ser })
  if !ctl.getLsbD 0 then .next (if p.ctl.getLsbD 0 then s else set s (fun p => { p with ctl := ctl &&& 2 }))
  else if p.ctl.getLsbD 0 then .next (set s (fun p => { p with result := 4 }))
  else
    let s := set s (fun p => { p with ctl := ctl &&& 3 })
    match s.ctxNamed n p.queue p.index with
    | none =>
      .next (s.serAnswer n { newCtx p.queue.toNat p.index 0 (s.queue p.queue.toNat).pent.toNat LaunchRec.blank [] with state := .gone } 1)
    | some (cn, c) =>
      if c.ser.isSome then .next (s.serAnswer n c 4)
      else
        let keep := ctl.getLsbD 1
        let drain := if p.drain = 0 then 20 else min 1000 p.drain.toNat
        let z : Serial := { asker := some n, rope := false, snap := none, keep, start := s.now, drainTo := s.now + 1000 * drain,
                            drained := keep, phase := 0, hdr := [] }
        .next (s.startSerial cn z)

/-- COPY_DRAIN_EXPIRY of context sel.a: the copies still running are squashed. They keep their records, and land no chunk while the
serialisation goes on (R122, step 2). -/
def execCopyDrainExpiry (s : State) : Res :=
  .next (s.modCtx s.sel.a (fun c => { c with ser := c.ser.map (fun z => if z.drainTo ≤ s.now then { z with drained := true } else z) }))

/-! ### Sealing (R122, steps 3 to 6) -/

/-- Whether every team of a grid has retired: its completion comes before a serialisation that has not reached step 5 (R123). -/
def Ctx.allRetired (c : Ctx) : Bool := decide (c.retired = gridSize c.lr * (if c.lr.dual then 2 else 1))

/-- Whether a context has come to its canonical point with step 3 done: every group stopped, copies drained or squashed, nothing
outstanding, no page service of a scalar access in mid course. With KEEP the copies run on, with what they have outstanding. The teams
that an image records are all resident. -/
def State.canSeal (s : State) (cn : Nat) (c : Ctx) (z : Serial) : Bool :=
  let gs := s.groupsOf cn
  gs.all s.atPoint &&
  (z.drained || !s.ops.copies.any (fun k => k.ctx == some cn)) &&
  (z.phase != 0 || !c.allRetired) && c.load.isNone &&
  !s.ops.mops.any (fun o => gs.contains o.g) && !s.ops.reqs.any (fun r => r.cn == some cn && !r.stale && !(z.keep && r.copy)) &&
  !s.ops.stages.any (fun k => k.ctx == some cn && k.sent) &&
  (z.keep || !s.ops.copies.any (fun k => k.ctx == some cn && s.copyFlying k.id none)) &&
  (match c.state with | .staging | .running => true | _ => false)

/-- Where the image of a context goes, and how much room there is. -/
def State.imageArea (s : State) (cn : Nat) (z : Serial) : Option (W64 × Option Nat) :=
  match z.asker with
  | some f => some ((s.fn f).ser.imgva, some (s.fn f).ser.imgsize.toNat)
  | none =>
    if z.rope then (s.ropes.acts.find? (fun a => a.ctx == some cn && a.action == 2)).map (fun a => (a.imgva, none))
    else none

/-- The end of a serialisation without an image: the context goes on, and the asker hears of it. -/
def State.abandonSerial (s : State) (cn : Nat) (c : Ctx) (z : Serial) (result : W32) : State :=
  let s := s.resumeSerial cn
  match z.asker with
  | some f => s.serAnswer f c result
  | none => s

/-- The member's ROPE packet is complete: its image is sealed (R112). -/
def State.ropeSealed (s : State) (cn : Nat) : State :=
  match s.ropes.acts.find? (fun a => a.ctx == some cn && a.action == 2) with
  | none => s
  | some a =>
    let s : State := { s with ropes := { s.ropes with acts := s.ropes.acts.filter (fun b => !(b.id == a.id && b.action == 2)) } }
    s.signalEnd a.queue a.idx a.tag a.sig .decrement

/-- A sealed context without KEEP leaves the machine (R122, step 6): its packet counts as complete, CSIG stays as it is, its berths
stay in their tables with the places of their parked slots. -/
def State.retireSealed (s : State) (cn : Nat) (c : Ctx) (slots : List (W64 × Nat)) (va : W64) : State :=
  let gs := s.groupsOf cn
  let slotOf (name : W64) : Option W64 := (slots.find? (fun p => p.1 == name)).map (fun p => va + BitVec.ofNat 64 (p.2 + 0x40))
  let mine (b : Berth) : Bool := match b.g with | some g => gs.contains g && b.state != .free | none => false
  let late := s.berths.slots.filter (fun b => mine b && b.filled)
  let s : State := late.foldl (fun (s : State) b => match slotOf (s.berthName b) with
    | some a => s.put { queue := c.queue, idx := c.index, tag := 0, pent := c.pent, va := a, data := parkedBytes b.status b.ptime b.data, kind := .slot, req := none }
    | none => s) s
  let lateF := s.berths.forwards.filter (fun f => gs.contains f.g && f.parked && f.filled && !f.freed)
  let s : State := lateF.foldl (fun (s : State) f => match slotOf f.name with
    | some a => s.put { queue := c.queue, idx := c.index, tag := 0, pent := c.pent, va := a, data := parkedBytes f.status f.ptime f.data, kind := .slot, req := none }
    | none => s) s
  let named := s.berths.slots.map (fun b => if mine b then
    { b with slotVa := slotOf (s.berthName b), g := none, waiter := none, queue := c.queue, idx := c.index } else b)
  let s : State := { s with
    exec := { s.exec with
      groups := (withIndex s.exec.groups).map (fun (i, g) => if gs.contains i then { g with live := false, batches := [], desched := false, stop := none } else g)
      teams := s.exec.teams.map (fun t => if t.ctx = cn then { t with state := .retired, tiles := List.replicate 64 none } else t) }
    ops := { s.ops with
      copies := s.ops.copies.filter (fun k => k.ctx != some cn)
      stages := s.ops.stages.filter (fun k => k.ctx != some cn) }
    berths := { s.berths with
      slots := named
      forwards := s.berths.forwards.map (fun f => if gs.contains f.g then { f with slotVa := slotOf f.name, waiter := none } else f) } }
  (s.workDone c.queue c.index).dropCtx cn

/-- What follows when the image stands in memory. -/
def State.sealed (s : State) (cn : Nat) (c : Ctx) (z : Serial) (slots : List (W64 × Nat)) (va : W64) : State :=
  let s := if z.rope then s.ropeSealed cn else s
  let s := if z.keep then s.resumeSerial cn else s.retireSealed cn c slots va
  match z.asker with
  | some f => s.serAnswer f c 0
  | none => s

/-- Step 5 goes on: when the records are written the header is, and when it is the image is sealed. An area that cannot be written is
too small. -/
def State.sealOn (s : State) (cn : Nat) (va : W64) (slots : List (W64 × Nat)) : (fuel : Nat) → State
  | 0 => s
  | fuel + 1 =>
    match s.ctx? cn with
    | none => s
    | some c =>
      match c.ser with
      | none => s
      | some z =>
        if z.phase = 2 then
          let s := s.modCtx cn (fun c => { c with ser := some { z with phase := 3 } })
          (s.put { queue := c.queue, idx := c.index, tag := c.tag, pent := c.pent, va, data := z.hdr, kind := .image cn, req := none }).sealOn cn va slots fuel
        else if z.phase = 4 then s.sealed cn c z slots va
        else if z.phase = 5 then s.abandonSerial cn c z 2
        else s

/-- Whether a rope member may seal: it holds STOPPED from all others, or SEAL (R111, R113). -/
def State.ropeMaySeal (s : State) (cn : Nat) : Bool :=
  match s.ropes.acts.find? (fun a => a.ctx == some cn && a.action == 2) with
  | none => false
  | some a => (if a.mode == some true then (List.range a.count).all (fun r => r == a.rank || a.stopped.contains r) else a.sealOk)

/-- A member that reaches its canonical point says STOPPED: to all others, or in MESSAGE mode to rank 0 (R111, R113). -/
def State.ropeStopped (s : State) (cn : Nat) : State :=
  match s.ropes.acts.find? (fun a => a.ctx == some cn && a.action == 2) with
  | none => s
  | some a =>
    if a.started then s
    else
      let msg : FabMsg := .stopped a.id (BitVec.ofNat 8 a.rank)
      let s : State := { s with ropes := { s.ropes with acts := s.ropes.acts.map (fun b =>
        if b.id = a.id ∧ b.action = 2 then { b with started := true, stopped := if b.stopped.contains b.rank then b.stopped else b.rank :: b.stopped } else b) } }
      if a.mode = some true then s.sendAll a.map a.pent msg else s.sendAll (a.map.take 1) a.pent msg

/-! ### Snapshots (R145 to R148) -/

/-- The registered contexts of a partition: those launched from a queue in QMASK; one in a serialisation without KEEP is skipped, one in a
serialisation with KEEP is sealed for the snapshot after it (R123, R147). -/
def State.registered (s : State) (e : Nat) : List Nat :=
  let m := (s.snap e).qmask
  ((withIndex s.exec.ctxs).filter (fun p => p.2.pent == e && (p.2.state == .staging || p.2.state == .running) &&
    m.getLsbD p.2.queue && (match p.2.ser with | some z => z.keep | none => true))).map (·.1)

/-- A snapshot is triggered (R147). -/
def State.trigger (s : State) (e level : Nat) : State :=
  let cs := s.registered e
  let s := s.modSnap e (fun k => { Snapshot.reset with
    thresh := k.thresh, tkind := k.tkind, status := 1, level := BitVec.ofNat 8 level, count := k.count, tbase := k.tbase, tsize := k.tsize,
    sig := k.sig, qmask := k.qmask, rise := false, ctxs := cs })
  cs.foldl (fun (s : State) cn => if (s.ctx? cn).any (fun c => c.ser.isNone) then s.startSerial cn (Serial.ofSnap e s.now) else s) s

/-- The signal of a snapshot. -/
def State.snapSignal (s : State) (e : Nat) (act : SigAct) : State :=
  s.sigUpdate { queue := 0, idx := 0, tag := 0, pent := e, va := (s.snap e).sig, act, work := false, req := none }

/-- A shadow becomes the primary frame: the leaf of its page is rewritten; within a larger leaf its contents go back. -/
def State.endShadow (s : State) (e : Nat) (old new_ : Nat) : State :=
  match (s.leaves e).find? (fun l => l.2.2 == 3 && lfFrame l.2.1 == 65536 * old) with
  | some l =>
    match s.walk e l.1 with
    | .leaf w _ entry =>
      let w' := (w &&& ~~~(0x000FFFFFFFFF0000 : W64)) ||| BitVec.ofNat 64 (65536 * new_)
      let s := ({ s with store := (s.store.dropLeaves e l.1 1).freeFrame old }).dropL1 (fun _ _ l => l / 512 == old)
      s.devWrite entry (bytesOf 8 w'.toNat)
    | .bad | .poison => s
  | none =>
    let st := (((s.store.putBytes false (65536 * old) (s.store.bytes (65536 * new_) 65536)).cleanse (65536 * old) 65536).carryPoison
      (65536 * new_) 65536 (65536 * old)).freeFrame new_
    { s with store := st }.dropL1 (fun _ _ l => l / 512 == old)

/-- The shadows become the primary frames, and the old frames are freed (R148). -/
def State.endShadows (s : State) (e : Nat) : State :=
  let sh := (s.snap e).shadows
  let s := s.modSnap e (fun k => { k with shadows := [], pages := [] })
  sh.foldl (fun (s : State) p => s.endShadow e p.1 p.2) s

/-- A snapshot fails: SIG receives REFUSED, the shadows become primary (R148). -/
def State.snapFail (s : State) (e : Nat) : State :=
  ((s.snapSignal e (.error 2)).endShadows e).modSnap e (fun k => { k with
    status := 0, ctxs := [], images := [], copies := [], dests := [], asked := [], drained := [] })

/-- The pages of a range that are one leaf page of 64 KiB after another: VA and frame. -/
def PageRange.frames (r : PageRange) : List (W64 × Nat) :=
  (List.range r.pages).map (fun i => (BitVec.ofNat 64 (r.va + 65536 * i), r.origin / 65536 + i))

/-- The origin of a place in the target area: kind and address (R135). -/
def State.targetOrigin (s : State) (e : Nat) (va : W64) : Nat × Nat :=
  match s.translate none e none va .write with
  | .ok (.host a) _ _ => (1, a)
  | .ok (.peer slot off _) _ _ => (0, 2 ^ 51 + slot.toNat * 2 ^ 44 + off)
  | .ok (.mem pa) _ _ => (2, pa)
  | _ => (2, 0)

/-- The page list of an image with SNAP pages, each a range of its own whose ORIGIN is its copy in the target area; a page that is still
following keeps its own. -/
def State.snapPages (s : State) (e : Nat) (dest : Nat → Option W64) (ls : List (Nat × W64 × Nat)) : List PageRange :=
  ls.flatMap (fun l =>
    let r := rangeOf l
    if lfRes l.2.1 && lfSnap l.2.1 then
      r.frames.map (fun p => match dest p.2 with
        | some va => let o := s.targetOrigin e va
                     { r with va := p.1.toNat, pages := 1, okind := o.1, origin := o.2 }
        | none => { r with va := p.1.toNat, pages := 1, origin := 65536 * p.2 })
    else (s.leafRange e l).toList)

/-- Every registered context is sealed: the SNAP pages enter shadow mode, and the target area is laid out (R147, R148): for each context
its image on a 64 KiB boundary, then its SNAP pages in page-list order. -/
def State.snapDrain (s : State) (e : Nat) : State :=
  let k := s.snap e
  let ls := s.allLeaves e
  let pages := ls.flatMap (fun l => if lfRes l.2.1 && lfSnap l.2.1 then (rangeOf l).frames else [])
  let n := pages.length
  let up (x : Nat) : Nat := (x + 65535) / 65536 * 65536
  let dummy := (pageList (s.snapPages e (fun _ => none) ls)).length
  let place (acc : Nat × List (W64 × List Byte) × List (Nat × W64)) (x : Nat × List Byte) : Nat × List (W64 × List Byte) × List (Nat × W64) :=
    let total := fieldAt x.2 0x50 4
    let base := acc.1
    let first := up (base + total + dummy)
    let dests := (withIndex pages).map (fun p => (p.2.2, k.tbase + BitVec.ofNat 64 (first + 65536 * p.1)))
    let look (f : Nat) : Option W64 := (dests.find? (fun d => d.1 == f)).map (·.2)
    let img := overlay (x.2.take total) 6 [x.2.getD 6 0 &&& 0xFE] ++ pageList (s.snapPages e look ls)
    (first + 65536 * n, acc.2.1 ++ [(k.tbase + BitVec.ofNat 64 base, img)], acc.2.2 ++ dests)
  let r := k.images.foldl place (0, [], [])
  if k.tsize.toNat < r.1 then s.snapFail e
  else
    s.modSnap e (fun k => { k with
      status := 2, pages := if k.images = [] then [] else pages, copies := r.2.1, dests := r.2.2, drained := [], asked := [], wrote := 0, marks := 0, failed := false, begun := false })

/-- A registered context that has ended since no longer counts. -/
def State.snapLive (s : State) (e : Nat) : List Nat :=
  (s.snap e).ctxs.filter (fun cn => match s.ctx? cn with
    | some c => c.ser.isSome
    | none => false)

/-- The write of a record of a snapshot. -/
def State.snapPut (s : State) (e : Nat) (va : W64) (data : List Byte) (kind : PutKind) : State :=
  s.put { queue := 0, idx := 0, tag := 0, pent := e, va, data, kind, req := none }

/-- The writes with which a drain begins: the images, not yet SEALED, as units of the drain (R148). -/
def State.snapImages (s : State) (e : Nat) : State :=
  let (s, all) := s.work 1 (((s.snap e).copies.map (·.2.length)).sum)
  if all then (s.snap e).copies.foldl (fun (s : State) p => s.snapPut e p.1 p.2 (.drainImage e)) (s.modSnap e (fun k => { k with begun := true }))
  else s

/-- Every registered context is sealed: the SNAP pages enter shadow mode at once, and the target area is laid out. -/
def State.snapSealed (s : State) (e : Nat) : State :=
  if (s.snap e).status = 1 ∧ s.snapLive e = [] then s.snapDrain e else s

/-- The image of a registered context of a snapshot goes to its save area, and the context goes on (R147): the last of them once the SNAP
pages are in shadow mode. -/
def State.snapSeal (s : State) (cn : Nat) (c : Ctx) (e : Nat) : State :=
  let img := (s.imageOf cn c true true).bytes
  let (s, all) := s.work 4 img.length
  if !all then s
  else
    let s := (s.writeSave c img).modSnap e (fun k => { k with images := k.images ++ [(cn, img)], ctxs := k.ctxs.filter (· != cn) })
    (s.snapSealed e).resumeSerial cn

/-- SERIALISE_SEAL of context sel.a: steps 4 to 6 of R122 once step 3 is done. An area that is not aligned counts as too small. -/
def execSerialiseSeal (s : State) : Res :=
  let cn := s.sel.a
  match s.ctx? cn with
  | none => .next s
  | some c =>
    match c.ser with
    | none => .next s
    | some z =>
      if s.canSeal cn c z = false then .next s
      else
        match s.spoiledGroup (s.groupsOf cn) with
        | some g => .next (s.endSpoiled g)
        | none =>
        match z.snap with
        | some e => .next (s.snapSeal cn c e)
        | none =>
          let s := if z.rope then s.ropeStopped cn else s
          if z.rope && !s.ropeMaySeal cn then .next s
          else
            match s.imageArea cn z with
            | none => .next s
            | some (va, size) =>
              let img := s.imageOf cn c false true
              if z.phase = 0 then
                if va.toNat % 65536 ≠ 0 ∨ (match size with | some n => decide (n < img.bytes.length) | none => false) = true then
                  .next (s.abandonSerial cn c z 2)
                else
                  let (s, all) := s.work 4 img.bytes.length
                  if !all then .next s
                  else
                  let s := s.modCtx cn (fun c => { c with ser := some { z with phase := 1, hdr := img.header } })
                  .next ((s.put { queue := c.queue, idx := c.index, tag := c.tag, pent := c.pent, va := va + 256, data := img.body, kind := .image cn,
                                  req := none }).sealOn cn va img.slots 3)
              else .next (s.sealOn cn va img.slots 3)

/-- One old frame drains: to each of its places in the target area. -/
def State.drainFrame (s : State) (e f : Nat) : State :=
  let data := s.store.bytes (65536 * f) 65536
  let ds := (s.snap e).dests.filter (fun d => d.1 == f)
  let s := s.modSnap e (fun k => { k with asked := f :: k.asked })
  (withIndex ds).foldl (fun (s : State) p =>
    s.snapPut e p.2.2 data (if p.1 + 1 = ds.length then .drain e f else .slot)) s

/-- SNAPSHOT_DRAINED of partition entry sel.a. While contexts are being sealed it looks whether all are; then the images go to the target
area, within the budget of the drain; then the frame that sel.b names drains; and when every frame has drained, the shadows become primary, the images are marked
SEALED, COUNT and SIG follow, and STATUS returns to 0. -/
def execSnapshotDrained (s : State) : Res :=
  let e := s.sel.a
  let k := s.snap e
  if k.status = 0 ∨ 40 ≤ e then .next s
  else if k.status = 1 then
    .next (s.snapSealed e)
  else if k.failed then .next (s.snapFail e)
  else if !k.begun then .next (s.snapImages e)
  else if k.wrote < k.copies.length then .next s
  else
    match k.pages.find? (fun p => !k.asked.contains p.2 && (p.2 == s.sel.b || s.sel.b == 0)) with
    | some p =>
      let (s, all) := s.work 1 65536
      .next (if all then s.drainFrame e p.2 else s)
    | none =>
      if k.pages.any (fun p => !k.drained.contains p.2) then .next s
      else if k.marks = 0 ∧ k.copies ≠ [] then
        let s := (s.endShadows e).modSnap e (fun k => { k with marks := k.copies.length })
        .next (k.copies.foldl (fun (s : State) p => s.snapPut e (p.1 + 6) [p.2.getD 6 0 ||| 1] (.drainImage e)) s)
      else if k.wrote < 2 * k.copies.length then .next s
      else
        let s := (s.endShadows e).modSnap e (fun k => { k with
          status := 0, count := k.count + 1, ctxs := [], images := [], copies := [], dests := [], asked := [], drained := [] })
        .next (s.snapSignal e .decrement)

end Sys2Proof.Machine
end

