-- ==== Sys2Proof/Machine/Replant.lean ====
section
/-!
DEFINITION. The replant loader (R137, R138), following pages (R141), and how teams become resident (R101).
-/

namespace Sys2Proof.Machine

/-! ### The records of an image -/

/-- A split's STATUS by its code. -/
def statusOfCode : Nat → Status
  | 0 => .absent | 9 => .exited | _ => .ready

/-- A RUN queue entry, if it is valid. -/
def imgRun (b : List Byte) (o : Nat) : Option (Nat × Nat × RunEntry) :=
  if fieldAt b (o + 0x12) 1 = 0 then none
  else some (fieldAt b (o + 0x10) 1, fieldAt b (o + 0x11) 1,
    { addr := pktVa b o, mask := pktVa b (o + 8), snap := (List.range 32).map (fun k => pktVa b (o + 0x20 + 8 * k)) })

/-- What a trapped split's handler returns to (R173), by its CAUSE: after a lane trap (LANE set) the clause in progress, or the clause at
the front of its queue, as after ILLEGAL_CLAUSE; else the scalar stream. `end_` is the end of the clause at an address. -/
def imgKind (end_ : W64 → W64) (clause : W64) (cause : Nat) (front : Option RunEntry) : TrapKind :=
  if cause.testBit 8 = true ∧ clause ≠ 0 then .lane
  else if clause = 0 ∧ (cause % 256 = 2 ∨ cause.testBit 8 = true) then
    match front with
    | some e => .clause e.addr (end_ e.addr)
    | none => .scalar
  else .scalar

/-- A split from its record (R131): what blocked it is executed again, a barrier instruction only in its wait part, for the phase of which
the parity is recorded (R462); a sleeper sleeps until its recorded wake time (R443), and a trapped one enters its handler. `par` gives a barrier's parity (16: the cluster's). -/
def imgSplit (b : List Byte) (o : Nat) (runs : List RunEntry) (handler : W64) (end_ : W64 → W64) (par : Nat → Bool) (now : Nat) : Split :=
  let st := fieldAt b (o + 0x1A) 1
  let clause := pktVa b (o + 0x10)
  let tpc := pktVa b (o + 0x38)
  let cause := fieldAt b (o + 0x1E) 2
  let wbar := fieldAt b (o + 0x1B) 1
  let runq := match runs with
    | e :: r => if clause ≠ 0 then { e with resume := some (fieldAt b (o + 0x18) 1) } :: r else e :: r
    | [] => []
  let stack := ((List.range (fieldAt b (o + 0x19) 1)).map (fun k =>
    ({ join := pktVa b (o + 64 + 32 * k), mask := pktVa b (o + 72 + 32 * k), fall := pktVa b (o + 80 + 32 * k) } : StackEntry))).reverse
  let sp : Split := { Split.absent with
    status := statusOfCode st, pc := pktVa b o, mask := pktVa b (o + 8), stack, runq, cause := BitVec.ofNat 16 cause, tpc,
    taddr := pktVa b (o + 0x28), tinfo := pktVa b (o + 0x30), age := now }
  if st = 8 then { sp with pc := handler, tspc := pktVa b (o + 0x20), handler := some (imgKind end_ clause cause runs.head?) }
  else if st = 3 then { sp with arrived := true, wbar, wpar := par wbar }
  else if st = 4 then { sp with arrived := true, wbar := 16, wpar := par 16 }
  else if st = 7 then { sp with status := .sleep, wval := pktVa b (o + 0x20) }
  else sp

/-- A bit of a map of bytes. -/
def bitAt (b : List Byte) (o n : Nat) : Bool := (fieldAt b (o + n / 8) 1).testBit (n % 8)
/-- A 4-bit field of a map. -/
def nibbleAt (b : List Byte) (o n : Nat) : Nat := fieldAt b (o + n / 2) 1 / 16 ^ (n % 2) % 16

/-- The ACC tiles of a group record. ESIZE, which the descriptor does not hold, follows from the type, and for a tile of no type from
the length of its contents. -/
def imgAcc (b : List Byte) (o : Nat) : List (Option AccTile) :=
  let descs := (List.range 8).map (fun h => o + 0x1BC0 + 32 * h)
  let last := if fieldAt b (o + 0x20) 4 = 0 then o + fieldAt b (o + 0x24) 4 else fieldAt b (o + 0x18) 8
  let ends := last :: (descs.filter (fun d => fieldAt b d 1 ≠ 0xFF)).map (fun d => fieldAt b (d + 8) 8)
  descs.map (fun d =>
    if fieldAt b d 1 = 0xFF then none
    else
      let rows := fieldAt b (d + 2) 2
      let cols := fieldAt b (d + 4) 2
      let off := fieldAt b (d + 8) 8
      let ty := fieldAt b (d + 1) 1
      let room := ((leastBy id (ends.filter (fun e => off < e))).getD off) - off
      let esize := if ty = 9 then 8 else if ty = 8 ∨ ty = 1 then 4 else if 8 * (rows * cols) ≤ room then 8 else 4
      some { rows, cols, esize, atype := ty, ctype := ty, data := (List.range (rows * cols)).filterMap (fun k =>
        let v : W64 := BitVec.ofNat 64 (fieldAt b (off + esize * k) esize)
        if v = 0 then none else some (k, v)) })

/-- The vector registers of a group record: the live ones one after another. -/
def imgVregs (b : List Byte) (o gw : Nat) : (n i at_ : Nat) → List VReg
  | 0, _, _ => []
  | n + 1, i, at_ =>
    if bitAt b (o + 0x1CC0) i then
      { live := true, unpub := if bitAt b (o + 0x1CE0) i then some (nibbleAt b (o + 0x1D00) i) else none,
        vals := (List.range gw).map (fun l => BitVec.ofNat 32 (fieldAt b (at_ + 4 * l) 4)) } :: imgVregs b o gw n (i + 1) (at_ + 4 * gw)
    else VReg.dead :: imgVregs b o gw n (i + 1) at_

/-- The batch words of a group record. -/
def imgBatch (b : List Byte) (o : Nat) : List W96 :=
  let off := fieldAt b (o + 0x18) 8
  (List.range (fieldAt b (o + 0x20) 4)).map (fun k => BitVec.ofNat 96 (fieldAt b (off + 16 * k) 12))

/-- A group from its record (R130 to R132). `gwct` says whether GWCT is restored (R227). -/
def imgGroup (b : List Byte) (o : Nat) (lr : LaunchRec) (gwct : Bool) (end_ : W64 → W64) (par : Nat → Bool) (now : Nat) : Group :=
  let g := newGroup 0 (fieldAt b o 2) 0 lr now
  let runs := (List.range 16).filterMap (fun k => imgRun b (o + 0x540 + 320 * k))
  let runsOf (i : Nat) : List RunEntry := (sortBy (fun x => x.2.1) (runs.filter (fun x => x.1 == i))).map (·.2.2)
  let pend := (fieldAt b (o + 7) 1).testBit 1
  { g with
    splits := (List.range 4).map (fun i => imgSplit b (o + 0x40 + 320 * i) (runsOf i) lr.handler end_ par now)
    sregs := (List.range 64).map (fun i => if i = 63 then 0 else pktVa b (o + 0x1940 + 8 * i))
    masks := (List.range 8).map (fun i => if i = 0 then 0 else pktVa b (o + 0x1B38 + 8 * i))
    flags := BitVec.ofNat 12 (fieldAt b (o + 0x0C) 2)
    pend := BitVec.ofNat 12 (fieldAt b (o + 0x0E) 2)
    segw := 2 ^ fieldAt b (o + 3) 1
    fxf := BitVec.ofNat 5 (fieldAt b (o + 8) 4)
    poison := (fieldAt b (o + 6) 1).testBit 0
    rfault := if pend then { RFault.zero with pend := true, starget := 0xFF, sreason := 0xFF } else RFault.zero
    gwct := if gwct then fieldAt b (o + 0x10) 8 else 0
    vregs := imgVregs b o lr.gw lr.vregs 0 (o + 0x1D80)
    ccs := (List.range lr.gw).map (fun l => BitVec.ofNat 4 (nibbleAt b (o + 0x1B80) l))
    acc := imgAcc b o }

/-- A barrier from its record. -/
def imgBar (b : List Byte) (o : Nat) : Barrier :=
  { Barrier.zero with
    lquota := fieldAt b o 4, larr := fieldAt b (o + 4) 4, bquota := fieldAt b (o + 8) 8, barr := fieldAt b (o + 0x10) 8,
    parity := fieldAt b (o + 0x18) 1 ≠ 0, err := fieldAt b (o + 0x19) 1 ≠ 0 }

/-- A tile from its entry. -/
def imgTile (b : List Byte) (o : Nat) : Option Tile :=
  if fieldAt b (o + 1) 1 = 0xFF then none
  else
    let rows := fieldAt b (o + 4) 2
    let cols := fieldAt b (o + 6) 2
    let esize := fieldAt b (o + 2) 1
    let n := rows * cols * esize
    let data := (withIndex ((b.drop (fieldAt b (o + 8) 8)).take n)).filter (fun p => p.2 != 0)
    some { level := fieldAt b (o + 1) 1, rows, cols, esize, err := (fieldAt b (o + 3) 1).testBit 0,
           map := fieldAt b (fieldAt b (o + 0x10) 8) (((n + 511) / 512 + 7) / 8) % 2 ^ ((n + 511) / 512), data }

/-- A recorded team: its linear index, STATE and the offset of its record. -/
structure ImgTeam where
  linear : Nat
  st     : Nat
  off    : Nat
deriving DecidableEq, Repr

def imgTeams (b : List Byte) : List ImgTeam :=
  let o := fieldAt b 0x30 8
  (List.range (fieldAt b (o + 4) 4)).map (fun i =>
    { linear := fieldAt b (o + 64 + 16 * i) 4, st := fieldAt b (o + 68 + 16 * i) 1, off := fieldAt b (o + 72 + 16 * i) 8 })

/-- The group records of a team: index and offset. -/
def imgGroups (b : List Byte) (t : ImgTeam) : List (Nat × Nat) :=
  if t.st = 2 then []
  else
    let o := fieldAt b (t.off + 0x28) 8
    (List.range 16).filterMap (fun i => let g := fieldAt b (o + 8 * i) 8; if g = 0 then none else some (i, g))

/-- A team as its record gives it. -/
def imgTeamInto (b : List Byte) (t : ImgTeam) (tm : Team) : Team :=
  let ob := fieldAt b (t.off + 0x18) 8
  let ot := fieldAt b (t.off + 0x20) 8
  { tm with
    bars := (List.range 16).map (fun i => imgBar b (ob + 32 * i))
    cbar := if (fieldAt b (t.off + 0x0F) 1).testBit 0 then imgBar b (fieldAt b (t.off + 0x30) 8) else tm.cbar
    tiles := (List.range 64).map (fun i => imgTile b (ot + 32 * i)) }

/-! ### The checks (R137) -/

/-- Whether every reserved field of an image and of its page list is zero. -/
def imgReserved (b pl : List Byte) : Bool :=
  let z (o n : Nat) : Bool := zeroAt b o n
  let ol := fieldAt b 0x28 8
  let ot := fieldAt b 0x30 8
  let op := fieldAt b 0x38 8
  let oq := fieldAt b 0x48 8
  let nc := fieldAt b op 4
  let ns := fieldAt b (op + 4) 4
  let nb := fieldAt b (op + 8) 4
  let bar (o : Nat) : Bool := z (o + 0x1C) 4
  let group (g : Nat) : Bool :=
    z (g + 0x28) 24 && z (g + 0x1B78) 8 &&
    -- bits 11:10 of TRAPCAUSE are zero (R171)
    (List.range 4).all (fun i => fieldAt b (g + 0x40 + 320 * i + 0x1E) 2 / 1024 % 4 == 0) &&
    (List.range 4).all (fun i => (List.range 8).all (fun k => z (g + 0x80 + 320 * i + 32 * k + 24) 8)) &&
    (List.range 16).all (fun k => z (g + 0x540 + 320 * k + 0x13) 13 && z (g + 0x540 + 320 * k + 0x120) 32) &&
    (List.range 8).all (fun k => z (g + 0x1BC0 + 32 * k + 6) 2 && z (g + 0x1BC0 + 32 * k + 0x10) 16) &&
    (List.range (fieldAt b (g + 0x20) 4)).all (fun k => z (fieldAt b (g + 0x18) 8 + 16 * k + 14) 2)
  let team (t : ImgTeam) : Bool :=
    z (t.off + 0x40) 64 && (List.range 16).all (fun i => bar (fieldAt b (t.off + 0x18) 8 + 32 * i)) &&
    (List.range 64).all (fun i => z (fieldAt b (t.off + 0x20) 8 + 32 * i + 0x18) 8) &&
    (!(fieldAt b (t.off + 0x0F) 1).testBit 0 || bar (fieldAt b (t.off + 0x30) 8)) && (imgGroups b t).all (fun p => group p.2)
  decide (fieldAt b 6 2 < 8) && z 0x5C 100 && z 0xF0 16 && decide (fieldAt b (ol + 4) 2 < 4 ∧ fieldAt b (ol + 0x68) 4 < 16) && z (ot + 8) 56 &&
  (List.range (fieldAt b (ot + 4) 4)).all (fun i => z (ot + 64 + 16 * i + 5) 3) && (imgTeams b).all team && z (op + 12) 52 &&
  (List.range nc).all (fun i => let o := op + 64 + 192 * i; z (o + 0x0C) 4 && z (o + 0x24) 4 && z (o + 0x38) 8 &&
    -- the reserved bytes of the layout record (R427)
    decide (fieldAt b (o + 0x40 + 0x24) 1 < 2) && z (o + 0x40 + 0x25) 3 && z (o + 0x40 + 0x52) 46) &&
  (List.range ns).all (fun i => let o := op + 64 + 192 * nc + 128 * i; z (o + 2) 2 && z (o + 0x18) 40 &&
    z (o + 0x44) 4 && decide (fieldAt b (o + 0x70) 2 < 4) && z (o + 0x72) 14) &&
  (List.range nb).all (fun i => let o := op + 64 + 192 * nc + 128 * ns + 128 * i; z (o + 0x19) 39 && z (o + 0x42) 6 && z (o + 0x70) 16) &&
  z (oq + 0x0C) 4 && z (oq + 0x18) 40 && zeroAt pl 4 4 && zeroAt pl 0x10 48 &&
  (List.range (fieldAt pl 0 4)).all (fun i => zeroAt pl (64 + 32 * i + 0x0E) 2)

/-- The offsets of the berth entries. -/
def imgBerths (b : List Byte) : List Nat :=
  let op := fieldAt b 0x38 8
  let first := op + 64 + 192 * fieldAt b op 4 + 128 * fieldAt b (op + 4) 4
  (List.range (fieldAt b (op + 8) 4)).map (fun i => first + 128 * i)

/-- MAGIC, VERSION, SEALED and DIGEST. -/
def imgSound (b : List Byte) : Bool :=
  fieldAt b 0 4 == 0x33494343 && fieldAt b 4 2 == 1 && (fieldAt b 6 2).testBit 0 &&
  (b.drop 0xC0).take 48 == sha384 (digestInput (b.take 256) (b.drop 256) (imgBerths b) (fieldAt b 0x50 4))

/-- The batch words of a group re-issued: the batches as they stood; none when a word does not decode. -/
def Group.reissue (g : Group) : List W96 → Option Group
  | [] => some g
  | w :: r =>
    match decodeLane w with
    | .error _ => none
    | .ok (.mclose f) => (g.closeBatch (.mclose f) (if f.imm.getLsbD 4 then none else some (f.imm.extractLsb' 0 4).toNat)).reissue r
    | .ok i => ((g.addBatch i 0).typed i).reissue r

/-- The fields of a matrix instruction. -/
def matWord : Instr → Option LaneWord
  | .mma f | .mmac f | .fmma f | .aclr f | .ald f | .acvt f | .mclose f => some f
  | _ => none

/-- Whether the batch words of a group pass the issue checks of their instructions, in order. -/
def batchOk (tm : Team) (g : Group) : List W96 → Bool
  | [] => true
  | w :: r =>
    match decodeLane w with
    | .ok i => (match matWord i with | some f => plainWord f | none => false) && matOk g tm i && batchOk tm (g.typed i) r
    | .error _ => false

/-- The same for every group of an image. -/
def imgBatchesOk (b : List Byte) (lr : LaunchRec) : Bool :=
  (imgTeams b).all (fun t =>
    let tm := imgTeamInto b t (newTeam 0 0 (0, 0, 0) 0 0 0 0 0)
    (imgGroups b t).all (fun p =>
      let g := imgGroup b p.2 lr false id (fun _ => false) 0
      batchOk tm g (imgBatch b p.2)))

/-- An image and its page list as they are read. -/
def State.readImage (s : State) (e q : Nat) (idx : W32) (va : W64) : CpRes (List Byte × List Byte) :=
  let rd (va : W64) (n : Nat) : CpRes (List Byte) := s.cpRead State.askLine e q idx (n / 128 + 2) va n
  match rd va 256 with
  | .wait s => .wait s
  | .fail r => .fail r
  | .ok h =>
    if fieldAt h 0 4 ≠ 0x33494343 then .ok (h, [])
    else
      match rd va (fieldAt h 0x50 4) with
      | .wait s => .wait s
      | .fail r => .fail r
      | .ok b =>
        let pv := va + pktVa h 0x40
        match rd pv 64 with
        | .wait s => .wait s
        | .fail r => .fail r
        | .ok p0 =>
          match rd pv (64 + 32 * fieldAt p0 0 4) with
          | .wait s => .wait s
          | .fail r => .fail r
          | .ok pl => .ok (b, pl)

/-- The SIDE bytes that recorded teams use (R127). -/
def imgSide (b : List Byte) (ts : List ImgTeam) : Nat := (ts.map (fun t => fieldAt b (t.off + 0x14) 4)).sum

/-- The checks of R137 in their order, after the read: reason and argument. -/
def State.checkImage (s : State) (e : Nat) (b pl : List Byte) (rope : Bool) : Option (Nat × Byte) :=
  let lr := LaunchRec.ofBytes ((b.drop (fieldAt b 0x28 8)).take 256)
  if !(imgSound b && imgReserved b pl && imgBatchesOk b lr) then some (13, 0)
  else if (fieldAt b 6 2).testBit 2 != rope then some (9, 0)
  else
    match lowBit 64 0 (pktVa b 8 &&& ~~~(Config.feat0 s.part ||| 1)).toNat with
    | some i => some (4, BitVec.ofNat 8 i)
    | none =>
      match indexOf? lr.fslots (fun d => !slotOk d) with
      | some i => some (3, BitVec.ofNat 8 i)
      | none =>
        if !s.clusterOk e lr then some (5, 0)
        else if !lr.fitsEmpty then some (6, 0)
        else if !(imgTeams b).all (fun t => (s.diesOf e).any (fun k => s.sideRoom e k (imgSide b [t]))) then some (6, 0)
        else if (s.saveFrames e lr).isNone then some (11, 0)
        else none

/-! ### Following pages (R141) -/

/-- An entry of a partition's tables for a VA, with the tables that it needs; none while the partition has no tables, or where a
larger leaf stands. -/
def State.tableFor (s : State) (va : Nat) : (n level table : Nat) → Option (State × Nat)
  | 0, _, _ => none
  | n + 1, level, table =>
    let entry := table + 8 * (va / 2 ^ (46 - 10 * level) % 1024)
    if level = 3 then some (s, entry)
    else
      match s.pte entry with
      | none => none
      | some w =>
        if lfV w && lfLeaf w then none
        else if lfV w then s.tableFor va n (level + 1) ((w.extractLsb' 13 39).toNat * 8192)
        else
          match s.freeFrame 0 with
          | none => none
          | some f =>
            let s : State := { s with store := (s.store.takeFrame f 0).putBytes false (65536 * f) (zeros 8192) }
            (s.devWrite entry (bytesOf 8 (65536 * f + 1))).tableFor va n (level + 1) (65536 * f)

/-- A listed page entered into a partition's tables where no valid leaf stands: non-resident, and following. -/
def State.enterPage (s : State) (e cn : Nat) (va origin leaf : W64) (okind tier : Byte) : State :=
  let root := (s.memctl.xlat.getD e Xlat.reset).root
  if !root.getLsbD 0 then s
  else
    match s.tableFor va.toNat 4 0 ((root.extractLsb' 13 39).toNat * 8192) with
    | none => s
    | some (s, entry) =>
      if (match s.pte entry with | some w => lfV w | none => true) then s
      else
        let w := bareLeaf leaf ||| 0x8001 ||| BitVec.ofNat 64 (256 * (tier.toNat % 4))
        let s := s.devWrite entry (bytesOf 8 w.toNat)
        { s with store := { s.store with follow := s.store.follow ++ [{ pent := e, va, origin, okind, tier, leaf, state := 0, ctx := cn }] } }

/-- The following table of a planted context is done when every page has arrived or failed: FSIG is decremented. -/
def State.settleFollow (s : State) (cn : Nat) : State :=
  match s.store.follows.find? (fun f => f.ctx == cn && !f.done), s.ctx? cn with
  | some f, some c =>
    if s.store.follow.any (fun p => p.ctx == cn && p.state < 2) then s
    else
      let st := { s.store with follows := s.store.follows.map (fun x => if x.ctx = cn then { x with done := true } else x) }
      ({ s with store := st }).sigUpdate
        { queue := c.queue, idx := c.index, tag := c.tag, pent := c.pent, va := f.fsig, act := .decrement, work := false, req := none }
  | _, _ => s

/-- The page list of an image entered into the following table. -/
def State.enterList (s : State) (e cn : Nat) (pl : List Byte) : State :=
  let s : State := { s with store := { s.store with follows := s.store.follows ++ [{ ctx := cn, fsig := pktVa pl 8, done := false, err := false }] } }
  let s := (List.range (fieldAt pl 0 4)).foldl (fun (s : State) i =>
    let o := 64 + 32 * i
    (List.range (fieldAt pl (o + 8) 4)).foldl (fun (s : State) k =>
      let d : W64 := BitVec.ofNat 64 (65536 * k)
      s.enterPage e cn (pktVa pl o + d) (pktVa pl (o + 0x10) + d) (pktVa pl (o + 0x18)) (BitVec.ofNat 8 (fieldAt pl (o + 0x0C) 1))
        (BitVec.ofNat 8 (fieldAt pl (o + 0x0D) 1))) s) s
  s.settleFollow cn

/-- A split no longer waits for a page; one with STATUS 10 is ready again when what it was recorded for waits for none (R196, R444). -/
def Split.pageIn (sp : Split) (page : W64) (now : Nat) : Split :=
  let pg := sp.waitPg.filter (· != page)
  let sc := sp.waitSc.filter (· != page)
  let over_ := sp.status == .page && (if sp.wbar = 0 ∨ sp.wbar = 3 then pg == [] else sc == [])
  let sp := { sp with waitPg := pg, waitSc := sc }
  if over_ then { sp with svc := false, status := .ready, wbar := 255, wval := 0, age := now } else sp

/-- Everything that waits for a page of a partition looks again (R196, R240, R431, R468). -/
def State.wakePage (s : State) (e : Nat) (page : W64) : State :=
  let mine (i : Nat) : Bool := match s.ctxOf? i with | some (_, c) => c.pent == e | none => false
  let s : State := { s with
    exec := { s.exec with groups := (withIndex s.exec.groups).map (fun (i, g) =>
      if mine i then
        let sps := g.splits.map (·.pageIn page s.now)
        { g with splits := sps, desched := g.desched && sps.any (·.svc) }
      else g) }
    ops := { s.ops with copies := s.ops.copies.map (fun c => if c.pent = e ∧ c.page = some page then { c with page := none } else c) } }
  ((s.retryInbound (fun i => i.pent == e && i.page == page)).sigsRetry.putsRetry).stagesRetry

/-- FOLLOWING_PULL of partition entry sel.a: the command processor begins to fetch its following page of lowest VA. -/
def execFollowingPull (s : State) : Res :=
  let e := s.sel.a
  match leastBy (fun (f : FollowPage) => f.va.toNat) (s.store.follow.filter (fun f => f.pent == e && f.state == 0)) with
  | none => .next s
  | some f =>
    let (s, all) := s.work 0 65536
    .next (if all then s.startFollow e f.va else s)

/-- A page's bytes at its origin: this device's own memory and host memory are read here. -/
def State.originBytes (s : State) (f : FollowPage) (got : List (Nat × Byte)) : Except Byte (List Byte) :=
  if f.okind = 2 then
    if !isLocal s.part f.origin.toNat || s.store.poisoned f.origin.toNat 65536 then .error 9 else .ok (s.store.bytes f.origin.toNat 65536)
  else if f.okind = 1 then .ok (s.store.hostBytes f.origin.toNat 65536)
  else .ok ((List.range 65536).map (fun i => sget 0 got i))

/-- The fetch of a following page failed: those that wait for it are faulted, the page is an ordinary non-resident one (R141). -/
def State.followFail (s : State) (f : FollowPage) (reason : Byte) : State :=
  let slot : Byte := if f.okind = 0 then BitVec.ofNat 8 ((f.origin.toNat / 2 ^ 44) % 128) else 0xFF
  let mine (i : Nat) : Bool := match s.ctxOf? i with | some (_, c) => c.pent == f.pent | none => false
  let st := { s.store with follow := s.store.follow.map (fun x => if x.pent = f.pent ∧ x.va = f.va then { x with state := 3 } else x) }
  let s : State := { s with
    store := st
    exec := { s.exec with groups := (withIndex s.exec.groups).map (fun (i, g) =>
      if mine i then { g with splits := g.splits.map (fun sp =>
        if sp.waitPg.contains f.va || sp.waitSc.contains f.va then { sp with fails := (f.va, reason, slot) :: sp.fails } else sp) }
      else g) } }
  let hit := s.ops.copies.filter (fun c => c.pent == f.pent && c.page == some f.va)
  let s := hit.foldl (fun (s : State) c => s.copyFault c 6 f.va reason.toNat) s
  let ins := s.ops.inbound.filter (fun i => i.pent == f.pent && i.page == f.va)
  let s : State := { s with ops := { s.ops with inbound := s.ops.inbound.filter (fun i => !(i.pent == f.pent && i.page == f.va)) } }
  let s := ins.foldl (fun (s : State) i => match s.refuseReq i.req (some i.pent) reason with
    | .answer s x => s.deliverRsp i.req.src (s.rspFor i.req x)
    | _ => s) s
  let first := s.store.follows.any (fun x => x.ctx == f.ctx && !x.err && !x.done)
  let s := match first, s.ctx? f.ctx, s.store.follows.find? (fun x => x.ctx == f.ctx) with
    | true, some c, some x =>
      ({ s with store := { s.store with follows := s.store.follows.map (fun (x : Following) => if x.ctx = f.ctx then { x with err := true } else x) } }).sigUpdate
        { queue := c.queue, idx := c.index, tag := c.tag, pent := c.pent, va := x.fsig, act := .error 3, work := false, req := none }
    | _, _, _ => s
  (s.wakePage f.pent f.va).settleFollow f.ctx

/-- FOLLOWING_FETCH: what the origin of a following page returned. The page becomes resident in a frame of the wanted tier, under the
key id of its leaf; without a free frame it goes on following. -/
def execFollowingFetch (e : Nat) (va : W64) (got : FetchResult) (s : State) : Res :=
  match s.store.follow.find? (fun f => f.pent == e && f.va == va && f.state == 1) with
  | none => .next s
  | some f =>
    match got with
    | .failed reason => .next (s.followFail f reason)
    | .page bytes =>
      match s.originBytes f bytes with
      | .error reason => .next (s.followFail f reason)
      | .ok data =>
        let tier := if f.tier = 1 ∧ Config.capSize s.part ≠ 0 then 1 else 0
        match s.freeFrame tier, s.walk e va.toNat with
        | some fr, .leaf w _ entry =>
          if lfRes w then .next s
          else
            let st := (s.store.takeFrame fr (lfKey f.leaf)).putBytes false (65536 * fr) data
            let st := { st with follow := st.follow.map (fun x => if x.pent = e ∧ x.va = va then { x with state := 2 } else x) }
            let w' := bareLeaf f.leaf ||| 0x8401 ||| BitVec.ofNat 64 (65536 * fr + 256 * tier)
            .next ((((({ s with store := st }).devWrite entry (bytesOf 8 w'.toNat)).wakePage e va)).settleFollow f.ctx)
        | _, _ => .next s

/-! ### Planting (R138) -/

/-- The corner of the cluster in which a team lies. -/
def cornerOf (lr : LaunchRec) (l : Nat) : Nat :=
  let (x, y, z) := xyzOf lr l
  linearOf lr (x / lr.ccols * lr.ccols) (y / lr.crows * lr.crows) z

/-- A cluster placed for its recorded teams, on a die whose base die has the SIDE room that they need (R203): all of them become resident,
those without a record are done. -/
def State.placeUnit (s : State) (cn : Nat) (b : List Byte) (corner : Nat) : Option State :=
  match s.ctx? cn with
  | none => none
  | some c =>
    let side := imgSide b ((imgTeams b).filter (fun t => cornerOf c.lr t.linear == corner))
    match s.chooseDie cn c 0 (fun k => s.sideRoom c.pent k side) with
    | none => none
    | some (die, room) =>
      let lead := s.exec.teams.length
      let (x, y, z) := xyzOf c.lr corner
      some ((withIndex room).foldl (fun (s : State) (k : Nat × Nat × Nat) =>
        s.addTeam cn c 0 (linearOf c.lr (x + k.1 % c.lr.ccols) (y + k.1 / c.lr.ccols) z) k.1 lead die k.2.1 k.2.2) s)

/-- The end of a clause in memory, for a split that trapped at its start: its own address where the header cannot be read here. -/
def State.clauseEndAt (s : State) (c : Ctx) (addr : W64) : W64 :=
  match s.peekHeader c addr with
  | some h => clauseEnd addr h.len
  | none => addr

/-- The records of an image go into a placed team: one without a record is done, a group without one is done, or of a team that has not
started stands at its entry. -/
def State.fillTeam (s : State) (c : Ctx) (b : List Byte) (t : Nat) : State :=
  match s.team? t with
  | none => s
  | some tm =>
    let done (s : State) : State :=
      tm.groups.foldl (fun (s : State) g => s.modGroup g (fun gr => { gr with live := false, splits := List.replicate 4 Split.absent }))
        (s.modTeam t (fun tm => { tm with state := .retired }))
    match (imgTeams b).find? (fun x => x.linear == tm.linear) with
    | none => done s
    | some x =>
      if x.st = 2 then done (s.modTeam t (fun tm => { imgTeamInto b x tm with tiles := List.replicate 64 none }))
      else
        let s := s.modTeam t (imgTeamInto b x)
        let bars := (imgTeamInto b x tm).bars
        let par (n : Nat) : Bool := if n = 16 then ((s.team? tm.lead).map (·.cbar.parity)).getD false else (bars.getD n Barrier.zero).parity
        let recs := imgGroups b x
        (withIndex tm.groups).foldl (fun (s : State) p =>
          match recs.find? (fun r => r.1 == p.1) with
          | some r =>
            let g := imgGroup b r.2 c.lr s.leasing (s.clauseEndAt c) par s.now
            s.modGroup p.2 (fun gr => { g with team := t, index := p.1, part := gr.part, since := gr.since })
          | none => if x.st = 0 then s else s.modGroup p.2 (fun gr => { gr with live := false, splits := List.replicate 4 Split.absent })) s

/-- Clusters placed one after another as far as they find room, each with its records, and whether all were. -/
def State.placeUnits (s : State) (cn : Nat) (c : Ctx) (b : List Byte) : List Nat → State × Bool
  | [] => (s, true)
  | u :: r =>
    let first := s.exec.teams.length
    match s.placeUnit cn b u with
    | none => (s, false)
    | some t =>
      (((List.range (t.exec.teams.length - first)).map (first + ·)).foldl (fun (s : State) t => s.fillTeam c b t) t).placeUnits cn c b r

/-- The group of an entry: by the team's linear index and the group's index. -/
def State.groupAt (s : State) (cn linear index : Nat) : Option Nat :=
  match s.exec.teams.find? (fun t => t.ctx == cn && t.linear == linear && t.state == .running) with
  | some t => t.groups[index]?
  | none => none

/-- A parked slot, as an image holds it, or as the home does. -/
def imgParked (b : List Byte) (o : Nat) : Option Resolved :=
  if fieldAt b (o + 0x40) 1 = 0 then none
  else
    let st : Byte := BitVec.ofNat 8 (fieldAt b (o + 0x41) 1)
    some { status := st, data := (b.drop (o + 0x50)).take 32, stage := decide (3 ≤ st.toNat) }

/-- A berth entry planted (R138): the home learns the new location; what the parked slot holds is applied. -/
def State.plantBerth (s : State) (cn : Nat) (b : List Byte) (o : Nat) : State :=
  match s.groupAt cn (fieldAt b (o + 4) 4) (fieldAt b (o + 1) 1) with
  | none => s
  | some g =>
    let name := pktVa b (o + 8)
    let k := fieldAt b (o + 2) 1
    let bytes := 8 * 2 ^ fieldAt b (o + 3) 1
    let held := imgParked b o
    match s.named name with
    | some h =>
      let h' : Berth := { h with loc := .resident, g := some g, k, bytes, waiter := none, filled := false, slotVa := none }
      let s := (s.touch cn (8 + h.bd)).modBerth h.bd h.slot (fun _ => h')
      if h.state = .resolved then s.resolveAt g k bytes none { status := h.status, data := h.data, stage := h.stage } else s
    | none =>
      let f : Forward :=
        { name, g, k, bytes, expiry := fieldAt b (o + 0x10) 8, state := if held.isSome then .resolved else .live, status := (held.map (·.status)).getD 0,
          data := (held.map (·.data)).getD [], waiter := none, freed := false, parked := false, filled := false, ptime := 0, slotVa := none,
          sentAt := s.now }
      let s : State := { s with berths := { s.berths with forwards := f :: s.berths.forwards.filter (fun x => x.name != name) } }
      let s := if nameSlot name = s.selfSlot then s else s.sendCtl (nameSlot name) (s.pentOf g) (.registration { name, slot := s.selfSlot })
      match held with
      | some x => s.resolveAt g k bytes none x
      | none => s

/-- The offsets of the copy entries of an image, in issue order. -/
def imgCopies (b : List Byte) : List Nat := let op := fieldAt b 0x38 8; (List.range (fieldAt b op 4)).map (fun i => op + 64 + 192 * i)
/-- The direction of a copy entry, and those that are rope reduces. -/
def imgDir (b : List Byte) (o : Nat) : CopyDir := match fieldAt b (o + 1) 1 with | 0 => .m2t | 1 => .t2m | 2 => .t2t | _ => .red
def imgReds (b : List Byte) : List Nat := (imgCopies b).filter (imgDir b · == .red)

/-- A copy entry as the copy that it restarts, of a group where its team has a record. A rope reduce keeps its place among those of the
image, which every member's image has (R258, R433). -/
def imgCopy (cn : Nat) (c : Ctx) (b : List Byte) (o id now team : Nat) (g dteam : Option Nat) : Copy :=
  let bfl := fieldAt b (o + 3) 1
  let dir := imgDir b o
  let raw := (b.drop (o + 0x40)).take 128
  let counted := fieldAt b (o + 0x28) 8
  let dest := pktVa b (o + 0x30)
  { id, ctx := some cn, g, team, pent := c.pent, queue := c.queue, idx := c.index, dir, tile := fieldAt b (o + 2) 1,
    dteam, dtile := t2tTile dest, bar := bfl % 16, cnt := bfl.testBit 4, flag := if bfl.testBit 5 then some (fieldAt b (o + 4) 1) else none,
    cls := bfl / 64, rowoff := fieldAt b (o + 6) 2, coords := (List.range 5).map (fun i => BitVec.ofNat 64 (fieldAt b (o + 0x10 + 4 * i) 4)),
    dest, lay := match dir with | .t2t => none | _ => some (Layout.ofBytes raw)
    raw, src := 0, len := 0, chunks := [], landed := [], sent := [], total := 0, counted,
    prior := match dir with | .t2m | .red => counted | _ => 0
    bytes := 0, owned := [], seen := [], wrote := [], page := none, gwct := 0, seq := (imgReds b).countP (· < o), at_ := now, poison := none,
    fault := none }

/-- A copy entry restarted (R433). -/
def State.plantCopy (s : State) (cn : Nat) (c : Ctx) (b : List Byte) (o : Nat) : State :=
  match s.groupAt cn (fieldAt b (o + 8) 4) (fieldAt b (o + 5) 1) with
  | none => s
  | some g =>
    match s.group? g, s.accEnv g 0 with
    | some gr, some a =>
      let id := s.ops.nextId
      let dteam := match imgDir b o with | .t2t => s.t2tTeam a.tm (pktVa b (o + 0x30)) | _ => none
      ({ s with ops := { s.ops with nextId := id + 1 } } : State).beginCopy (imgCopy cn c b o id s.now gr.team (some g) dteam) false
    | _, _ => s

/-- A rope reduce that a team started which is done, and has no record: it needs nothing of the team (log entry 98). `team` is one of the
context. -/
def State.plantRed (s : State) (cn : Nat) (c : Ctx) (b : List Byte) (team o : Nat) : State :=
  let id := s.ops.nextId
  let k := imgCopy cn c b o id s.now team none none
  ({ s with ops := { s.ops with nextId := id + 1 } } : State).beginCopy { k with cnt := false, flag := none } false

/-- A stage entry sent. -/
def State.plantStage (s : State) (cn : Nat) (c : Ctx) (b : List Byte) (o : Nat) : State :=
  match s.groupAt cn (fieldAt b (o + 4) 4) (fieldAt b (o + 1) 1) with
  | none => s
  | some g => s.startChain c.pent c.ropeId (pktVa b (o + 8)) (pktVa b (o + 0x10)) 0 ((b.drop (o + 0x40)).take 64) (some cn) g

/-- The entries of recorded teams among some of an image, whose TEAM field lies at `at_`. -/
def ofTeams (b : List Byte) (ts : List Nat) (at_ : Nat) (os : List Nat) : List Nat := os.filter (fun o => ts.contains (fieldAt b (o + at_) 4))

/-- The batch of a group issued again (R138): an FMMA among its words needs EMUL on a part without X0 (R456). -/
def State.reissueBatch (s : State) (g : Nat) (ws : List W96) : State :=
  let fmma (w : W96) : Bool := match decodeLane w with | .ok (.fmma _) => true | _ => false
  if s.emulDead && ws.any fmma then
    match s.group? g with
    | some gr => let i := gr.firstSplit; s.endEmul { g, sp := i } { code := 7, lane := true, pc := (gr.split i).pc, info := 0xE000, spc := (gr.split i).pc }
    | none => s
  else (s.modGroup g (fun gr => (gr.reissue ws).getD gr)).commitEmpty g

/-- The loader's steps 2 to 5 (R138) for the teams that have just been placed and hold their records, from team number `first` on; the page
list is entered with the first of them. -/
def State.plantTeams (s : State) (cn : Nat) (c : Ctx) (b pl : List Byte) (first : Nat) (all : Bool) : State :=
  let new_ := (List.range (s.exec.teams.length - first)).map (first + ·)
  let s := s.modCtx cn (fun c => { c with state := .running, load := if all then none else some (b, pl) })
  let ls := new_.filterMap (fun t => (s.team? t).map (·.linear))
  let op := fieldAt b 0x38 8
  let nc := fieldAt b op 4
  let ns := fieldAt b (op + 4) 4
  let s := (ofTeams b ls 4 (imgBerths b)).foldl (fun (s : State) o => s.plantBerth cn b o) s
  let s := if c.state = .staging then s.enterList c.pent cn pl else s
  let s := ((imgTeams b).filter (fun t => ls.contains t.linear)).foldl (fun (s : State) t => (imgGroups b t).foldl (fun (s : State) r =>
    match s.groupAt cn t.linear r.1 with
    | some g => s.reissueBatch g (imgBatch b r.2)
    | none => s) s) s
  let s := (ofTeams b ls 8 (imgCopies b)).foldl (fun (s : State) o => s.plantCopy cn c b o) s
  let lost := (imgReds b).filter (fun o => !(imgTeams b).any (fun t => t.linear == fieldAt b (o + 8) 4 && t.st != 2))
  let s := if c.state = .staging then lost.foldl (fun (s : State) o => s.plantRed cn c b first o) s else s
  let s := (ofTeams b ls 4 ((List.range ns).map (fun i => op + 64 + 192 * nc + 128 * i))).foldl (fun (s : State) o => s.plantStage cn c b o) s
  let gs := new_.flatMap (fun t => (s.team? t).elim [] (·.groups))
  let s := gs.foldl State.settleGroup s
  -- a serialisation that has begun meanwhile stops them as well
  if c.ser.isSome then (gs.foldl State.stopGroup s).parkBerths cn else s

/-- The loader (R138): clusters of recorded teams that are not placed yet find room as R101 gives it, those of a CORES grid all at once;
none while there is no room. -/
def State.plantImage (s : State) (cn : Nat) (b pl : List Byte) : Option State :=
  match s.ctx? cn with
  | none => none
  | some c =>
    let units := sortBy id (dedup ((imgTeams b).map (fun t => cornerOf c.lr t.linear)))
    let todo := units.filter (fun u => !s.exec.teams.any (fun t => t.ctx == cn && cornerOf c.lr t.linear == u))
    let first := s.exec.teams.length
    let (t, all) := s.placeUnits cn c b todo
    if !all && (c.lr.cores || t.exec.teams.length == first) then none else some (t.plantTeams cn c b pl first all)

/-- The launch record in an image. -/
def imgLaunch (b : List Byte) : LaunchRec := LaunchRec.ofBytes ((b.drop (fieldAt b 0x28 8)).take 256)

/-- A context with its image enters the machine; its teams find room as R101 gives it (TEAM_RESIDENT). -/
def State.addImage (s : State) (q : Nat) (idx tag : W32) (b pl pkt args : List Byte) (start : Bool) : State × Nat :=
  let raw := (b.drop (fieldAt b 0x28 8)).take 256
  let lr := LaunchRec.ofBytes raw
  let e := (s.queue q).pent.toNat
  let oq := fieldAt b 0x48 8
  let jpos := (fieldAt b (oq + 0x10) 8, fieldAt b oq 2, fieldAt b (oq + 4) 4)
  let rope := lr.rope
  let (s, cn) := s.addCtx { newCtx q idx tag e lr raw with
    image := true, start, save := (s.saveFrames e lr).getD [], retired := fieldAt b 0x24 4, next := fieldAt b (fieldAt b 0x30 8) 4, featUsed := pktVa b 8
    ropeId := if rope then BitVec.ofNat 32 (fieldAt b 0x54 4) else 0
    rank := if rope then fieldAt b 0x58 2 else 0
    rcount := if rope then fieldAt b 0x5A 2 else 1
    redSeq := (imgReds b).length
    load := some (b, pl) }
  (s.startJournal cn pkt raw args (some jpos), cn)

/-- LAUNCH_IMAGE of queue sel.a: the image is read and checked, and the loader begins. An image of a grid whose teams have all retired
completes at once. -/
def execLaunchImage (s : State) : Res :=
  let q := s.sel.a
  match s.toDispatch q 1 true with
  | none => .next s
  | some (idx, pkt) =>
    let tag := pktTag pkt
    let e := (s.queue q).pent.toNat
    match s.readImage e q idx (pktVa pkt 8) with
    | .wait s => .next s
    | .fail _ => .next (s.dropFetched.refuse q idx tag 0 2 13 0)
    | .ok (b, pl) =>
      let t := s.dropFetched
      let csig := pktVa b (fieldAt b 0x28 8 + 0x70)
      match t.checkImage e b pl false with
      | some (13, arg) => .next (t.refuse q idx tag 0 2 13 arg)
      | some (reason, arg) => .next (t.refuse q idx tag (if csig.toNat % 8 = 0 then csig else 0) 2 reason arg)
      | none =>
        let s' := t.dispatched q { kind := .launch, idx, tag, sig := csig } (pktBarrier pkt)
        if fieldAt b 0x24 4 = fieldAt b 0x20 4 then .next (s'.workDone q idx)
        else
          match s.launchArgs q idx (imgLaunch b) with
          | .wait s => .next s
          | .fail _ => .next s
          | .ok args => .next (s'.addImage q idx tag b pl pkt args true).1

/-- TEAM_RESIDENT for top-level partition sel.a: the next team or cluster of the first waiting context becomes resident: recorded teams
of its image, a halted team, then a new one; a CORES grid as one step. -/
def execTeamResident (s : State) : Res :=
  let s := s.settleHalts
  match s.firstWaiter s.sel.a with
  | none => .next s
  | some (cn, c) =>
    let again (s : State) : Option State := if c.ser.isSome || s.yielding s.sel.a c then none else (s.haltedOf cn).head?.bind s.resumeTeam
    match c.load with
    | some (b, pl) => .next (s.placing (fun s => (s.plantImage cn b pl).orElse (fun _ => again s)))
    | none =>
      if s.haltedOf cn ≠ [] ∧ s.yielding s.sel.a c = false then .next (s.placing again)
      else
        match c.nextInst with
        | none => .next s
        | some inst => .next (s.placing (fun s => if c.lr.cores then s.placeAll cn (gridSize c.lr + 1) else s.placeNext cn inst))

end Sys2Proof.Machine
end

