-- ==== Sys2Proof/Machine/Rope.lean ====
section
/-!
DEFINITION. Ropes: records, ARM, the switch, stragglers, MESSAGE mode (R108 to R113) and bindings (R239).
-/

namespace Sys2Proof.Machine

/-! ### Actions by rope -/

/-- The action of a rope that its messages concern: the one dispatched last. -/
def State.ropeAct? (s : State) (id : W32) : Option RopeAct := (s.ropes.acts.filter (fun a => a.id == id)).getLast?
/-- The PREEMPT of a rope. -/
def State.preempt? (s : State) (id : W32) : Option RopeAct := s.ropes.acts.find? (fun a => a.id == id && a.action == 2)
def State.modAct (s : State) (a : RopeAct) (f : RopeAct → RopeAct) : State :=
  { s with ropes := { s.ropes with acts := s.ropes.acts.map (fun b => if b.id = a.id ∧ b.action = a.action then f b else b) } }
def State.dropAct (s : State) (a : RopeAct) : State :=
  { s with ropes := { s.ropes with acts := s.ropes.acts.filter (fun b => !(b.id == a.id && b.action == a.action)) } }

/-- The rope context of a ROPEID on this member. -/
def State.ropeCtx? (s : State) (id : W32) : Option (Nat × Ctx) :=
  (withIndex s.exec.ctxs).find? (fun p => p.2.lr.rope && p.2.ropeId == id && (p.2.state == .staging || p.2.state == .running))

/-! ### Abandonment (R109, R112) -/

/-- ROPE_ABANDONED to the packet's signal, and the event; the packet is complete. -/
def State.ropeFail (s : State) (a : RopeAct) (reason : Nat) (rank : Nat) : State :=
  let s := s.signalEnd a.queue a.idx a.tag a.sig (.error 7)
  s.queueErrorEvent a.queue a.tag a.idx reason (BitVec.ofNat 8 rank) (errorValue a.queue a.idx 7)

/-- A prepared context that never starts leaves the machine. -/
def State.unprepare (s : State) (a : RopeAct) : State :=
  match a.action, a.ctx with
  | 2, _ => s
  | _, some cn => match s.ctx? cn with
    | some c => if c.state = .ending then s else (s.stopCtx cn).dropCtx cn
    | none => s
  | _, none => s

/-- The members disagree, or one of them says so (R109). -/
def State.ropeDisagree (s : State) (a : RopeAct) (rank : Nat) : State := ((s.dropAct a).unprepare a).ropeFail a 15 rank

/-- A straggler ends the action (R112): under PREEMPT the context goes on; else it runs on, and a straggler starts as well. -/
def State.ropeStraggle (s : State) (a : RopeAct) (rank : Nat) : State :=
  let s := s.ropeFail a 14 rank
  if a.action = 2 then
    let s := s.dropAct a
    match a.ctx with
    | some cn =>
      let s : State := { s with ops := { s.ops with puts := s.ops.puts.filter (fun u => u.kind != .image cn) } }
      if (match s.ctx? cn with | some c => (match c.ser with | some z => z.rope | none => false) | none => false) then s.resumeSerial cn else s
    | none => s
  else if a.started then s.dropAct a
  else s.modAct a (fun a => { a with abandoned := true })

/-! ### The record (R108, R109) -/

/-- A rope record's fields, with RANKMAP's bytes. -/
def ropeActOf (b map : List Byte) (rank : Nat) : RopeAct :=
  let w := fieldAt b 0x18 4
  { id := BitVec.ofNat 32 (fieldAt b 0 4), count := fieldAt b 4 1, action := fieldAt b 5 1, policy := fieldAt b 6 1,
    map := map.map (·.truncate 7), rank, t := fieldAt b 0x10 8, window := if w = 0 then 50000 else w, imgva := pktVa b 0x20,
    queue := 0, idx := 0, tag := 0, sig := 0, pent := 0,
    digest := Config.ropeDigest (b.take 7 ++ (b.drop 0x10).take 12 ++ map), arms := [], ready := [], stopped := [], agreed := false,
    mode := none, said := false, switched := none, started := false, extended := false, abandoned := false, sealOk := false, ctx := none }

/-- Whether a record breaks R108 or R109. The rope context that a RESUME names is one of this member, or the one that
its image `img` holds (log entry 75); none stands for an image that has not been read yet, and one that cannot be read has no context. -/
def State.ropeBad (s : State) (b map : List Byte) (img : Option (List Byte)) : Bool :=
  let id : W32 := BitVec.ofNat 32 (fieldAt b 0 4)
  let act := fieldAt b 5 1
  id == 0 || decide (act < 1 ∨ 3 < act) || decide (1 < fieldAt b 6 1) || !zeroAt b 7 1 || !zeroAt b 0x1C 4 || !zeroAt b 0x30 16 ||
  (dedup (map.map (·.toNat))).length != map.length || map.any (fun m => 128 ≤ m.toNat) ||
  !(match s.fabric.slot with | some d => map.contains (d.zeroExtend 8) | none => false) ||
  decide (fieldAt b 0x10 8 < s.now + 20000) ||
  (match act with
   | 1 => (s.ropeCtx? id).isSome
   | 2 => (s.ropeCtx? id).isNone
   | _ => (s.ropeCtx? id).isNone && (match img with | some m => fieldAt m 0x54 4 != id.toNat | none => false))

/-- ARM to every other member; those that were here before the packet count (R109). -/
def State.sendArms (s : State) (a : RopeAct) : State :=
  let m : ArmMsg := { rope := a.id, rank := BitVec.ofNat 8 a.rank, digest := a.digest, tstate := s.clock.tstate, u := s.clock.u.getD (2 ^ 32 - 1) }
  let mine := s.ropes.early.filter (fun m => m.rope == a.id)
  let s : State := { s with ropes := { s.ropes with
    early := s.ropes.early.filter (fun m => m.rope != a.id)
    acts := s.ropes.acts ++ [{ a with arms := mine.map (fun m => (m.rank.toNat, m)) }] } }
  s.sendAll a.map a.pent (.arm m)

/-- A preparation that fails: REFUSED to CSIG and to the packet's signal; this member never starts. -/
def State.ropeRefuse (s : State) (a : RopeAct) (csig : W64) (reason : Nat) (arg : Byte) : State :=
  let s := (s.dropAct a).workDone a.queue a.idx
  let s := s.signal a.queue a.idx a.tag (if csig.toNat % 8 = 0 then csig else 0) (.error 2)
  let s := s.signal a.queue a.idx a.tag a.sig (.error 2)
  (s.queueError a.queue a.tag a.idx 2 reason arg).modQueue a.queue Queue.rest

/-- The context of a prepared LAUNCH or RESUME: it belongs to the rope and does not start yet (R110). -/
def RopeAct.join (a : RopeAct) (c : Ctx) : Ctx := { c with ropeId := a.id, rank := a.rank, rcount := a.count, start := false }

/-- What a member holds when it has read all that its action needs. -/
inductive RopePrep where
  | none_                                            -- PREEMPT
  | launch (raw : List Byte) (l : LaunchRec) (stage : List StagePage) (save : List Nat) (args : List Byte)
  | image (b pl args : List Byte)
  | bad (csig : W64) (reason : Nat) (arg : Byte)

/-- The launch record of a rope LAUNCH read and checked (R93), or the image of a RESUME (R137), with what the journal takes of it. -/
def State.ropeRead (s : State) (q : Nat) (idx : W32) (rec_ : List Byte) : CpRes (State × RopePrep × List Byte) :=
  let e := (s.queue q).pent.toNat
  match fieldAt rec_ 5 1 with
  | 1 =>
    let va := pktVa rec_ 0x28
    if va.toNat % 64 ≠ 0 then .ok (s, .bad 0 2 0, [])
    else
      match s.cpRead State.askLine e q idx 3 va 256 with
      | .wait s => .wait s
      | .fail _ => .ok (s, .bad 0 1 0, [])
      | .ok raw =>
        match s.checkRecord q idx raw true with
        | .wait s => .wait s
        | .refused s reason arg => .ok (s, .bad (pktVa raw 0x70) reason arg, [])
        | .ok t l stage save =>
          match s.launchArgs q idx l with
          | .ok args => .ok (t, .launch raw l stage save args, [])
          | .wait s => .wait s
          | .fail r => .fail r
  | 3 =>
    match s.readImage e q idx (pktVa rec_ 0x20) with
    | .wait s => .wait s
    | .fail _ => .ok (s, .bad 0 13 0, [])
    | .ok (b, pl) =>
      match s.checkImage e b pl true with
      | none =>
        match s.launchArgs q idx (imgLaunch b) with
        | .ok args => .ok (s, .image b pl args, b)
        | .wait s => .wait s
        | .fail r => .fail r
      | some (13, arg) => .ok (s, .bad 0 13 arg, b)
      | some (reason, arg) => .ok (s, .bad (pktVa b (fieldAt b 0x28 8 + 0x70)) reason arg, b)
  | _ => .ok (s, .none_, [])

/-- The preparation that the packet begins. -/
def State.ropePrepare (s : State) (a : RopeAct) (pkt : List Byte) (p : RopePrep) : State :=
  match p with
  | .bad csig reason arg => s.ropeRefuse a csig reason arg
  | .none_ => s.modAct a (fun b => { b with ctx := (s.ropeCtx? a.id).map (·.1) })
  | .launch raw l stage save args =>
    let (s, cn) := s.addCtx (a.join { newCtx a.queue a.idx a.tag a.pent l raw with stage, save })
    (s.startJournal cn pkt raw args none).modAct a (fun b => { b with ctx := some cn })
  | .image b pl args =>
    if fieldAt b 0x24 4 = fieldAt b 0x20 4 then (s.dropAct a).signalEnd a.queue a.idx a.tag a.sig .decrement
    else
    let (s, cn) := s.addImage a.queue a.idx a.tag b pl pkt args false
    (s.modCtx cn a.join).modAct a (fun b => { b with ctx := some cn })

/-- ROPE of queue sel.a: all that the action needs is read first; then the record's checks, ARM, and the preparation. -/
def execRope (s : State) : Res :=
  let q := s.sel.a
  match s.toDispatch q 5 false with
  | none => .next s
  | some (idx, pkt) =>
    let tag := pktTag pkt
    let e := (s.queue q).pent.toNat
    if s.sigOk q (pktVa pkt 0x10) = false then .next (s.invalidPacket q idx pkt)
    else
      let bad (s : State) : Res := .next (s.dropFetched.refuse q idx tag (pktVa pkt 0x10) 2 12 0)
      match s.cpRead State.askLine e q idx 2 (pktVa pkt 8) 64 with
      | .wait s => .next s
      | .fail _ => bad s
      | .ok b =>
        let n := fieldAt b 4 1
        if n < 1 ∨ 128 < n then bad s
        else
          match s.cpRead State.askLine e q idx 3 (pktVa b 8) n with
          | .wait s => .next s
          | .fail _ => bad s
          | .ok map =>
            if s.ropeBad b map none then bad s
            else
              match s.ropeRead q idx b with
              | .wait s => .next s
              | .fail _ => bad s
              | .ok (s, prep, img) =>
                if s.ropeBad b map (some img) then bad s
                else
                  let s := s.dropFetched
                  let rank := (indexOf? map (fun m => m == s.selfSlot.zeroExtend 8)).getD 0
                  let a := { ropeActOf b map rank with queue := q, idx, tag, sig := pktVa pkt 0x10, pent := e }
                  let s := s.dispatched q { kind := .rope, idx, tag, sig := a.sig } (pktBarrier pkt)
                  .next ((s.sendArms a).ropePrepare a pkt prep)

/-! ### ARM and ABANDON (R109) -/

/-- ARM: kept by rank. Its digest is compared at T − 5 µs. -/
def execArm (m : ArmMsg) (s : State) : Res :=
  match s.ropeAct? m.rope with
  | some a =>
    if a.switched.isNone then
      .next (s.modAct a (fun a => { a with arms := (m.rank.toNat, m) :: a.arms.filter (fun x => x.1 != m.rank.toNat) }))
    else .next s
  | none =>
    .next { s with ropes := { s.ropes with early := m :: s.ropes.early.filter (fun x => !(x.rope == m.rope && x.rank == m.rank)) } }

/-- The members, but for this one, whose ARM is missing or differs. -/
def RopeAct.unequal (a : RopeAct) : List Nat :=
  (List.range a.count).filter (fun r => r != a.rank &&
    (match a.arms.find? (fun x => x.1 == r) with | some x => x.2.digest != a.digest | none => true))

/-- ROPE_ARM_DEADLINE of rope sel.a. -/
def execRopeArmDeadline (s : State) : Res :=
  match s.ropeAct? (BitVec.ofNat 32 s.sel.a) with
  | none => .next s
  | some a =>
    if a.agreed ∨ a.switched.isSome = true ∨ s.now + 5000 < a.t then .next s
    else
      match a.unequal with
      | [] => .next (s.modAct a (fun a => { a with agreed := true }))
      | r :: _ => .next ((s.ropeDisagree a r).sendAll a.map a.pent (.abandon a.id (BitVec.ofNat 8 a.rank)))

/-- ABANDON: before the switch nothing has changed; after a switch by messages it ends the window (R113). -/
def execAbandon (rope : W32) (rank : Byte) (s : State) : Res :=
  match s.ropeAct? rope with
  | none => .next s
  | some a =>
    if a.switched.isNone then .next (s.ropeDisagree a rank.toNat)
    else if a.mode = some false ∧ a.abandoned = false then .next (s.ropeStraggle a rank.toNat)
    else .next s

/-! ### The switch (R110, R113) -/

/-- Whether this member's preparation is complete. -/
def State.ropePrepared (s : State) (a : RopeAct) : Bool :=
  match a.action, a.ctx.bind s.ctx? with
  | 2, _ => true
  | 1, some c => (c.state == .staging || c.state == .running) && !c.stage.any (·.required) && (!c.lr.cores || c.nextInst.isNone)
  | _, some c => (c.state == .staging || c.state == .running) && c.load.isNone
  | _, none => false

/-- The grid, or the loaded context, starts: the member has completed its action. -/
def State.ropeStart (s : State) (a : RopeAct) : State :=
  match a.ctx with
  | none => s
  | some cn =>
    let s := s.modCtx cn (fun c => { c with start := true })
    if a.abandoned then s.dropAct a
    else (s.modAct a (fun a => { a with started := true })).signalEnd a.queue a.idx a.tag a.sig .decrement

/-- This member switches; a PREEMPT waits for a serialisation of the context that is in progress. -/
def State.ropeSwitchNow (s : State) (a : RopeAct) : State :=
  let sw (s : State) : State := s.modAct a (fun a => { a with switched := some s.now })
  match a.ctx with
  | none => sw s
  | some cn =>
    if a.action = 2 then
      match s.ctx? cn with
      | none => sw s
      | some c =>
        match c.state with
        | .staging | .running =>
          if c.ser.isSome then s
          else (sw s).startSerial cn { asker := none, rope := true, snap := none, keep := false, start := s.now, drainTo := s.now + 20000000,
                                       drained := false, phase := 0, hdr := [] }
        | _ => sw s
    else
      let s := sw s
      let b : Binding := { id := a.id, pent := a.pent, map := a.map, rank := a.rank, ctx := cn }
      let s : State := { s with ropes := { s.ropes with binds := s.ropes.binds.filter (fun x => x.id != a.id) ++ [b] } }
      if s.ropePrepared a then s.ropeStart a else s

/-- ROPE_SWITCH of rope sel.a: at T by device time in TIMED mode; rank 0 of MESSAGE mode switches, and sends GO, once every member is
READY; a member that was late starts when it is ready. -/
def execRopeSwitch (s : State) : Res :=
  match s.ropeAct? (BitVec.ofNat 32 s.sel.a) with
  | none => .next s
  | some a =>
    if a.agreed = false ∨ s.now < a.t then .next s
    else if a.switched.isSome then
      .next (if !a.started && decide (a.action ≠ 2) && s.ropePrepared a then s.ropeStart a else s)
    else if a.mode = some true then .next (s.ropeSwitchNow a)
    else
      let s := s.modAct a (fun a => { a with mode := some false })
      let all := s.ropePrepared a && (List.range a.count).all (fun r => r == a.rank || a.ready.contains r)
      if a.rank = 0 ∧ all = true then .next ((s.sendAll a.map a.pent (.go a.id)).ropeSwitchNow { a with mode := some false }) else .next s

/-- GO for rope sel.a. -/
def execGo (s : State) : Res :=
  match s.ropeAct? (BitVec.ofNat 32 s.sel.a) with
  | none => .next s
  | some a =>
    if a.switched.isSome ∨ a.mode = some true then .next s
    else .next ((s.modAct a (fun a => { a with mode := some false })).ropeSwitchNow { a with mode := some false })

/-! ### MESSAGE mode (R113) -/

/-- ROPE_MODE_SEND of rope sel.a: rank 0 chooses at T − 10 µs. -/
def execRopeModeSend (s : State) : Res :=
  match s.ropeAct? (BitVec.ofNat 32 s.sel.a) with
  | none => .next s
  | some a =>
    if a.rank ≠ 0 ∨ a.mode.isSome = true ∨ a.switched.isSome = true ∨ s.now + 10000 < a.t then .next s
    else
      let timed := s.clock.tstate == .locked && (List.range a.count).all (fun r => r == 0 || a.arms.any (fun x => x.1 == r && x.2.tstate == .locked))
      .next ((s.modAct a (fun a => { a with mode := some timed })).sendAll a.map a.pent (.mode a.id timed))

/-- MODE, which counts until T. -/
def execMode (rope : W32) (timed : Bool) (s : State) : Res :=
  match s.ropeAct? rope with
  | none => .next s
  | some a =>
    if a.mode.isSome ∨ a.switched.isSome = true ∨ a.t ≤ s.now then .next s
    else .next (s.modAct a (fun a => { a with mode := some timed }))

/-- READY, at rank 0. -/
def execReady (rope : W32) (rank : Byte) (s : State) : Res :=
  match s.ropeAct? rope with
  | none => .next s
  | some a =>
    if a.ready.contains rank.toNat then .next s else .next (s.modAct a (fun a => { a with ready := rank.toNat :: a.ready }))

/-- STOPPED of a member of a PREEMPT. -/
def execStopped (rope : W32) (rank : Byte) (s : State) : Res :=
  match s.preempt? rope with
  | none => .next s
  | some a =>
    if a.stopped.contains rank.toNat then .next s else .next (s.modAct a (fun a => { a with stopped := rank.toNat :: a.stopped }))

/-- SEAL for rope sel.a: the image is sealed by SERIALISE_SEAL from now on. -/
def execSealNow (s : State) : Res :=
  match s.preempt? (BitVec.ofNat 32 s.sel.a) with
  | none => .next s
  | some a => .next (s.modAct a (fun a => { a with sealOk := true }))

/-- What a member of MESSAGE mode sends of itself: READY when it is prepared, and, as rank 0, SEAL when all have stopped. -/
def State.ropeSends (s : State) : State :=
  s.ropes.acts.foldl (fun (s : State) a =>
    if a.mode ≠ some false then s
    else if a.rank ≠ 0 ∧ !a.said ∧ a.switched.isNone ∧ s.ropePrepared a then
      (s.modAct a (fun a => { a with said := true })).sendAll (a.map.take 1) a.pent (.ready a.id (BitVec.ofNat 8 a.rank))
    else if a.rank = 0 ∧ a.action = 2 ∧ !a.sealOk ∧ (List.range a.count).all a.stopped.contains then
      (s.modAct a (fun a => { a with sealOk := true })).sendAll a.map a.pent (.sealNow a.id)
    else s) s

/-! ### Stragglers (R112) -/

/-- The end of an action's window: from T, or from GO on rank 0's clock; none where this member watches none. -/
def RopeAct.deadline (a : RopeAct) : Option Nat :=
  let w := a.window * (if a.extended then 2 else 1)
  if a.mode = some true then some (a.t + w)
  else if a.rank = 0 then a.switched.map (· + w) else none

/-- The lowest-ranked straggler. Under PREEMPT a member has not sent STOPPED; otherwise it has not started, which for another member no
message tells: `told` is 0, or 1 more than its rank. -/
def RopeAct.straggler (a : RopeAct) (told : Nat) : Option Nat :=
  (List.range a.count).find? (fun r =>
    if a.action = 2 then !a.stopped.contains r
    else if r = a.rank then !a.started else decide (r + 1 = told))

/-- ROPE_WINDOW_EXPIRY of rope sel.a; sel.b is the straggler told. -/
def execRopeWindowExpiry (s : State) : Res :=
  match s.ropeAct? (BitVec.ofNat 32 s.sel.a) with
  | none => .next s
  | some a =>
    match a.deadline with
    | none => .next s
    | some d =>
      if s.now < d ∨ a.agreed = false ∨ a.abandoned = true then .next s
      else
        match a.straggler s.sel.b with
        | none => .next (if a.action = 2 then s else s.dropAct a)
        | some r =>
          if a.policy = 1 ∧ a.extended = false then .next (s.modAct a (fun a => { a with extended := true }))
          else
            let s := s.ropeStraggle a r
            .next (if a.mode = some true then s else s.sendAll a.map a.pent (.abandon a.id (BitVec.ofNat 8 r)))

end Sys2Proof.Machine
end

