-- ==== Sys2Proof/Machine/Reset.lean ====
section
/-!
DEFINITION. The reset ladder (R82 to R90), replay from MARK records (R107), the reset control page (R85).
-/

namespace Sys2Proof.Machine

/-! ### The queue rung -/

/-- Whether a signal update is a packet's. -/
def SigUpd.isOf (u : SigUpd) (q : Nat) (idx : W32) : Bool := u.queue == q && u.idx == idx

/-- The update of a packet's signal that waits and has not been sent to its home: RESET takes its place (R86), or nothing in a replay. -/
def State.resetWaiting (s : State) (quiet : Bool) (meets : SigUpd → Bool) : State :=
  let hit (u : SigUpd) : Bool := u.req.isNone && meets u
  if quiet then
    let gone := s.ops.sigs.filter hit
    gone.foldl State.sigEnd { s with ops := { s.ops with sigs := s.ops.sigs.filter (fun u => !hit u) } }
  else { s with ops := { s.ops with sigs := s.ops.sigs.map (fun u => if hit u then { u with act := .error 8 } else u) } }

/-- A work that a rung meets is over: RESET on its signal, or nothing in a replay (R107). Where its record was done and its update waits,
that update is the one. -/
def State.resetWork (s : State) (q : Nat) (w : Work) (quiet : Bool) : State :=
  if s.ops.sigs.any (fun u => u.work && u.isOf q w.idx) then s.resetWaiting quiet (fun u => u.isOf q w.idx)
  else if quiet then s.workDone q w.idx
  else s.signalEnd q w.idx w.tag w.sig (.error 8)

/-- The records of a queue's packets that are being written are given up. -/
def State.dropPuts (s : State) (q : Nat) (kind : PutKind → Bool) : State :=
  { s with ops := { s.ops with puts := s.ops.puts.filter (fun u => !(u.queue == q && kind u.kind)) } }
def PutKind.isResult : PutKind → Bool
  | .result _ => true
  | _ => false

/-- The STAGE packets of a queue: their berths are destroyed (R63). -/
def State.resetStages (s : State) (q : Nat) (quiet : Bool) : State :=
  let ws := (s.queue q).work.filter (fun w => w.kind == .stage)
  let s : State := { s with berths := { s.berths with slots := s.berths.slots.map (fun b =>
    if b.g.isNone ∧ b.queue = q ∧ b.slotVa.isNone ∧ b.state ≠ .free then b.freed else b) } }
  let s := (s.modQueue q (fun k => { k with stages := [] })).dropPuts q PutKind.isResult
  ws.foldl (fun (s : State) w => s.resetWork q w quiet) s

/-- A queue stops: RESETTING, with its pending WAIT aborted; the packet that was fetched last is undispatched again. -/
def State.stopQueue (s : State) (q : Nat) (quiet : Bool) : State :=
  (s.modQueue q (fun k => { k.unfetch with state := 5, back := 0, barrier := none, wait := none, overEnd := none })).resetStages q quiet

/-- RESET on the signals of the packets up to WRIDX, as far as they can be read now; whether all have been passed. -/
def State.drainQueue (s : State) (q : Nat) : (fuel : Nat) → State × Bool
  | 0 => (s, true)
  | fuel + 1 =>
    let k := s.queue q
    if k.rdidx = k.wridx then (s, true)
    else
      let va := k.base + 64 * BitVec.ofNat 64 (k.rdidx.toNat % 2 ^ k.size.toNat)
      match s.cpRead State.askLine k.pent.toNat q k.rdidx 2 va 64 with
      | .wait s => (s, false)
      | .fail _ => (s.modQueue q Queue.past).drainQueue q fuel
      | .ok b =>
        match s.dropFetched.skipped q k.rdidx b 8 with
        | .wait s => (s, false)
        | .ok s => (s.modQueue q Queue.past).drainQueue q fuel
        | .fail _ => (s.modQueue q Queue.past).drainQueue q fuel

/-- The same, of the packets that the ring can hold. -/
def State.drain (s : State) (q : Nat) (quiet : Bool) : State × Bool :=
  let k := s.queue q
  if quiet ∨ k.state ≠ 5 ∨ k.size.toNat < 6 ∨ 16 < k.size.toNat then (s, true)
  else s.drainQueue q (min k.held (2 ^ k.size.toNat))

/-- A queue that has been reset: IDLE and not enabled; in a replay it runs from the packet after its last MARK (R107). -/
def Queue.done (k : Queue) (replay : Bool) : Queue :=
  if replay then
    { k with rdidx := (match k.mark with | some m => m + 1 | none => k.first), state := if k.enable then 1 else 0, fetchOk := true }
  else { k with rdidx := k.wridx, enable := false, state := 0 }

/-! ### The context and engine rungs -/

/-- The context rung on a context (R82); CONTEXT_END writes RESET once its requests are over, also where the context was ending already
and has written nothing yet; a grid of which all is done completes at this instant (R86). In a replay its signal is left. -/
def State.resetCtx (s : State) (quiet : Bool) (cn : Nat) : State :=
  let s := if quiet then s.modCtx cn (fun c => { c with lr := { c.lr with csig := 0 } }) else s
  match s.ctx? cn with
  | none => s
  | some c =>
    if s.gridDone cn c then s.gridEnd cn c
    else (s.endCtx cn FaultRec.none_).modCtx cn (fun c => if c.state = .ending then { c with fault := some { FaultRec.none_ with code := 8 } } else c)

def State.ctxIs (s : State) (p : Ctx → Bool) : List Nat :=
  ((withIndex s.exec.ctxs).filter (fun x => x.2.state != .gone && p x.2)).map (·.1)

/-- The cores on which contexts have teams, or had them when they were stopped. -/
def State.coresOf (s : State) (cs : List Nat) : List (Nat × Nat) :=
  dedup (cs.flatMap (fun cn => s.coresIn cn ++ (s.ctx? cn).elim [] (·.cores)))

/-- A core is cleared: its L1, victim tags and window. -/
def State.clearCore (s : State) (c : Nat × Nat) : State :=
  let s := s.flushL1 c.1 c.2
  { s with exec := { s.exec with
    victims := s.exec.victims.filter (fun v => !(v.die == c.1 && v.site == c.2))
    windows := s.exec.windows.filter (fun w => !(w.1 == c.1 && w.2.1 == c.2)) } }

/-! ### The partition rung (R82, R87, R88) -/

/-- A partition with its children. -/
def rungEntries (e : Nat) : List Nat := if e % 5 = 0 then (List.range 5).map (e + ·) else [e]

/-- The other work of a queue: copies, rope actions, records of MARK packets. -/
def State.resetWorks (s : State) (q : Nat) (quiet : Bool) : State :=
  let ws := (s.queue q).work.filter (fun w => w.kind == .copy || w.kind == .rope || w.kind == .mark)
  let s : State := { s.dropPuts q (· == .mark) with
    ops := { s.ops with copies := s.ops.copies.filter (fun c => !(c.ctx.isNone && c.queue == q)) }
    ropes := { s.ropes with acts := s.ropes.acts.filter (fun a => a.queue != q) } }
  ws.foldl (fun (s : State) w => s.resetWork q w quiet) s

/-- The MSC's lines of partitions are invalidated, without write-back, with the copies of peer lines and the marks among them. -/
def State.dropMsc (s : State) (es : List Nat) : State :=
  let ls := (s.store.lines.filter (fun l => es.contains l.pent)).map (·.line)
  let s := s.dropPeers (fun l => ls.contains l)
  { s with store := { s.store with
    lines := s.store.lines.filter (fun l => !es.contains l.pent)
    dirty := s.store.dirty.filter (fun p => !ls.contains (p.1 / 128))
    poison := s.store.poison.filter (fun p => match p with | .msc l _ => !ls.contains l | _ => true) } }

/-- The tags of a function's reads of host memory that contexts leave behind: their completions are dropped, and the tags return at the
PCIe completion timeout or after 4 ms (R90). -/
def State.dropReads (s : State) (cs : List Nat) : State :=
  let tags := cs.flatMap (fun cn =>
    let reads := s.ops.mops.flatMap (fun o =>
      if s.inCtx cn o.g && o.kind.loads then o.pieces.filter (fun p => !p.done && (match p.place with | .host _ => true | _ => false)) else [])
    match s.ctx? cn with
    | none => []
    | some c => List.replicate reads.length (s.fnOfPart c.pent, s.now + min s.host.cplTimeout 4000000))
  { s with host := { s.host with tags := s.host.tags ++ tags } }

/-- The functions bound to the entries of a partition rung (R90). -/
def State.rungFns (s : State) (e : Nat) : List Nat :=
  (List.range 64).filter (fun f => match s.entryOf f with | some m => (rungEntries e).contains m | none => false)
def State.setInReset (s : State) (fs : List Nat) (x : Bool) : State :=
  fs.foldl (fun (s : State) f => s.modFn f (fun f => { f with inReset := x })) s

/-- A GENBUMP of an entry on a link (R50). -/
def State.sendGen (s : State) (w : BitVec 7) (e : Nat) : State :=
  if w = 127 then s
  else s.push w { type := 0x15, cls := 0, part := partBits e, sub := subBits e, pgen := (s.partEnt e).gen, pois := false, flits := 1, sent := 0,
                  payer := .part, msg := none }
def State.upLinks (s : State) : List (BitVec 7) :=
  ((withIndex s.fabric.links).filter (fun l => l.2.up)).map (fun l => BitVec.ofNat 7 l.1)

/-- One entry's part of a partition rung: GEN, its unsent messages, GENBUMP, its request slots, requests held for it. -/
def State.resetEntry (s : State) (e : Nat) : State :=
  let s := s.modPart e (fun p => { p with state := if p.state = 0 then 0 else 2, gen := p.gen + 1 })
  let s : State := { s with
    host := { s.host with lastRung := modAt s.host.lastRung e (fun _ => some s.now) }
    fabric := { s.fabric with links := s.fabric.links.map (fun l =>
      { l with tx := { l.tx with queue := l.tx.queue.filter (fun m => m.type == 0x14 || m.entry != e) } }) }
    ops := { s.ops with
      reqs := s.ops.reqs.map (fun r => if r.pent = e then { r with stale := true, sentAt := s.now } else r)
      stages := s.ops.stages.filter (fun k => pktEntry k.pkt != e) } }
  let s := s.upLinks.foldl (fun (s : State) w => s.sendGen w e) s
  let held := s.ops.inbound.filter (fun i => i.pent == e)
  let s : State := { s with ops := { s.ops with inbound := s.ops.inbound.filter (fun i => i.pent != e) } }
  held.foldl (fun (s : State) i => s.deliverRsp i.req.src (s.rspFor i.req .nack)) s

/-- The partition rung acts. -/
def State.resetPart (s : State) (e : Nat) (quiet : Bool) : State :=
  let es := (rungEntries e).filter (fun e => (s.partEnt e).state != 0)
  let qs := (List.range 256).filter (fun q => (s.queue q).func != 0xFFFF && es.contains (s.queue q).pent.toNat)
  let cs := s.ctxIs (fun c => es.contains c.pent)
  let cores := s.coresOf cs
  let late (u : SigUpd) : Bool := !quiet || (match (s.queue u.queue).mark with | some m => decide ((u.idx - m - 1).toNat < 2 ^ 31) | none => true)
  let s := s.resetWaiting quiet (fun u => es.contains u.pent && late u)
  let s := qs.foldl (fun (s : State) q => (s.stopQueue q quiet).resetWorks q quiet) s
  let s := cs.foldl (fun (s : State) cn => s.resetCtx quiet cn) (s.dropReads cs)
  let s := (cores.foldl State.clearCore s).dropMsc es
  es.foldl State.resetEntry s

/-! ### The device rung -/

/-- Staged firmware of component i becomes active; if its self-test fails, the component runs from its other bank, and from none when
that one fails too (R456). `bad` has bit i where the new bank of a component fails (R274), and bit 8 + i where the other one does. The
log has it (kind 0x8004; + 256 for a failure). -/
def State.activate (s : State) (bad i : Nat) : State :=
  let f := s.mgmt.fw.getD i Firmware.reset
  if f.staged = false then s
  else
    let f' := if bad.testBit i then { f with staged := false, ok := !bad.testBit (8 + i) } else { f with active := !f.active, staged := false, ok := true }
    { s with mgmt := { s.mgmt with fw := modAt s.mgmt.fw i (fun _ => f'), acts := s.mgmt.acts + 1 } }.log 0x8004 (BitVec.ofNat 64 (i + if bad.testBit i then 256 else 0))
/-- The components other than MC. -/
def State.activateRest (s : State) (bad : Nat) : State := [1, 2, 3, 4].foldl (fun (s : State) i => s.activate bad i) s
def State.activateAll (s : State) (bad : Nat) : State := (s.activate bad 0).activateRest bad

/-- The device rung acts: every signal that can be written receives RESET; then partitions, queues, engines, tables, caches, berths
and links are at their reset values, and no die is lost any longer (R268). Memory with its tags, device time, power and the IDE
streams (R89) stay; staged firmware becomes active (R274). -/
def State.resetAll (s : State) : State :=
  let qs := (List.range 256).filter (fun q => (s.queue q).func != 0xFFFF)
  let cs := s.ctxIs (fun _ => true)
  let s := (s.dropReads cs).resetWaiting false (fun _ => true)
  let s := qs.foldl (fun (s : State) q => (((s.stopQueue q false).resetWorks q false).drain q false).1) s
  let s := cs.foldl (fun (s : State) cn =>
    match s.ctx? cn with
    | some c => if s.gridDone cn c then s.gridEnd cn c else ((s.signal c.queue c.index c.tag c.lr.csig (.error 8)).stopCtx cn).dropCtx cn
    | none => s) s
  let s := s.activateRest s.sel.c
  { s with
    lost := 0
    sites := Config.siteFuses s.part
    host := { HostSide.reset with bar2 := s.host.bar2, ide := s.host.ide, tags := s.host.tags }
    memctl := MemCtl.reset
    caches := Caches.reset
    store := { s.store with
      dirty := [], lines := [], tlb := [], follow := [], follows := [], usedFr := [], freed := dedup (s.store.freed ++ s.store.usedFr)
      poison := s.store.poison.filter (fun p => match p with | .sector _ => true | _ => false) }
    exec := { s.exec with victims := [], windows := [] }
    ops := { Ops.reset with nextId := s.ops.nextId }
    berths := { slots := [], forwards := [], epoch := s.berths.epoch + 1 }
    ropes := Ropes.reset
    fabric := { Fabric.reset with slot := s.fabric.slot } }

/-! ### Rungs -/

def State.page (s : State) (fn : Nat) : ResetPage := (s.fn fn).rpage
def State.modPage (s : State) (fn : Nat) (f : ResetPage → ResetPage) : State := s.modFn fn (fun x => { x with rpage := f x.rpage })

/-- The contexts that a context or engine rung targets. -/
def State.rungCtxs (s : State) (r : Rung) : List Nat := s.ctxIs (fun c => c.queue == r.queue.toNat && (r.allctx || c.index == r.index))

/-- What a context or engine rung meets beside contexts: STAGE packets, when it is on all of a queue, and the signal updates of grids that
are over which wait (R86). -/
def State.resetLaunches (s : State) (r : Rung) : State :=
  let q := r.queue.toNat
  let launched (u : SigUpd) : Bool := u.queue == q && (r.allctx || u.idx == r.index) && (s.queue q).work.any (fun w => w.idx == u.idx && w.kind == .launch)
  let s := s.resetWaiting false launched
  if r.allctx then s.resetStages q false else s

/-- Whether a partition rung on an entry has to wait for 4 ms after the last one (R50). -/
def State.rungWaits (s : State) (e : Nat) : Bool :=
  (rungEntries e).any (fun e => match s.host.lastRung.getD e none with | some t => decide (s.now < t + 4000000) | none => false)

/-- A rung starts for a function. -/
def State.startRung (s : State) (fn : Nat) (r : Rung) : State :=
  let act (s : State) (r : Rung) : State := s.modPage fn (fun p => { p with active := some r })
  let q := r.queue.toNat
  match r.rung with
  | 1 => act (s.stopQueue q false) { r with queues := [q] }
  | 2 =>
    let cs := s.rungCtxs r
    let cores := s.coresOf cs
    let s := s.resetLaunches r
    act (cs.foldl (fun (s : State) cn => s.resetCtx false cn) s) { r with ctxs := cs, cores }
  | 3 =>
    let cores := dedup (r.cores ++ s.coresOf (s.rungCtxs r))
    let e := (s.queue q).pent.toNat
    let cs := (s.ctxIs (fun c => c.pent == e)).filter (fun cn => (s.rungCtxs r).contains cn || (s.coresOf [cn]).any cores.contains)
    let s := s.resetLaunches r
    let s := cs.foldl (fun (s : State) cn => s.resetCtx false cn) s
    act (cores.foldl State.clearCore s) { r with ctxs := cs, cores }
  | 4 =>
    let e := r.pent.toNat
    if s.rungWaits e then act s { r with held := true }
    else
      let es := rungEntries e
      let qs := (List.range 256).filter (fun q => (s.queue q).func != 0xFFFF && es.contains (s.queue q).pent.toNat)
      act ((s.resetPart e r.replay).setInReset (s.rungFns e) true) { r with held := false, start := s.now, ctxs := s.ctxIs (fun c => es.contains c.pent), queues := qs }
  | _ =>
    let up := s.upLinks.map (·.toNat)
    let page := s.page fn
    let s := s.resetAll
    let s : State := { s with host := { s.host with fns := s.host.fns.map (fun f => { f with inReset := true }) } }
    act (s.modPage fn (fun _ => { ResetPage.reset with rctl := page.rctl, rstat := 1, acceptT := page.acceptT })) { r with links := up }

/-- What a request of a function meets, in R85's order: RSTAT, or acceptance. A function bound to a top-level partition may take the
engine rung on contexts of its children, and the partition rung on them (R84). -/
def State.resetCheck (s : State) (fn rung : Nat) (r : ResetReq) : Option Nat :=
  let q := if fn = 0 then (if r.queue.toNat < 256 then some r.queue.toNat else none) else s.boundQueue fn r.queue.toNat
  let bound := match q with | some q => (s.queue q).func != 0xFFFF | none => false
  let e := r.pent.toNat
  let child (e : Nat) : Bool := match s.entryOf fn with | some m => decide (m % 5 = 0 ∧ e / 5 = m / 5 ∧ e % 5 ≠ 0) | none => false
  let theirs := match q with | some q => child (s.queue q).pent.toNat | none => false
  if r.rsv || decide (rung < 1 ∨ 5 < rung) || (r.replay && rung != 4) || (r.allctx && rung != 2 && rung != 3) then some 6
  else if decide (rung ≤ 3) && !bound then some 4
  else if (rung == 2 || rung == 3) && !r.allctx && s.ctxIs (fun c => some c.queue == q && c.index == r.index) == [] then some 4
  else if rung == 4 && (decide (40 ≤ e) || (s.partEnt e).state == 0) then some 4
  else if fn ≠ 0 ∧ ((rung = 3 ∧ theirs = false) ∨ 5 ≤ rung ∨ (rung = 4 ∧ child e = false)) then some 3
  else none

/-- RCTL as it reads while a request is in progress. -/
def rctlOf (rung : Nat) (r : ResetReq) : W32 :=
  BitVec.ofNat 32 (1 + 2 * rung + (if r.replay then 256 else 0) + (if r.allctx then 512 else 0))

/-- A request through the reset control page of a function (R85, R86): `flr` says that it comes from an FLR or a teardown. A refused one
clears GO and changes nothing else. -/
def State.askReset (s : State) (fn rung : Nat) (r : ResetReq) (flr teardown : Bool) : State :=
  let s := s.modPage fn (fun p => if p.rctl.getLsbD 0 then p else { p with queue := r.queue, pent := r.pent, index := r.index })
  if (s.page fn).rctl.getLsbD 0 then s.modPage fn (fun p => { p with rstat := 5 })
  else
    match (if flr then none else s.resetCheck fn rung { r with rsv := r.rsv || (s.page fn).rsv != 0 }) with
    | some code => s.modPage fn (fun p => { p with rctl := rctlOf rung r &&& 0x30E, rstat := BitVec.ofNat 8 code })
    | none =>
      let q := if fn = 0 then r.queue else BitVec.ofNat 16 ((s.boundQueue fn r.queue.toNat).getD 0)
      let s := s.modPage fn (fun p => { p with rctl := rctlOf rung r, rstat := 1, acceptT := BitVec.ofNat 64 s.now })
      let s := if flr then s.modFn fn (fun f => { f with inReset := true }) else s
      s.startRung fn { rung, queue := q, pent := r.pent, index := r.index, replay := r.replay, allctx := r.allctx, start := s.now, flr,
                       held := false, ctxs := [], queues := [], links := [], cores := [], teardown }

/-- A request written to the page, of a function that answers (R90). -/
def State.pageReset (s : State) (fn : BitVec 6) (rung : Nat) (r : ResetReq) : State :=
  if s.answers fn.toNat then s.askReset fn.toNat rung r false false else s.emit .unsupported

def execResetQueue (fn : BitVec 6) (r : ResetReq) (s : State) : Res := .next (s.pageReset fn 1 r)
def execResetContext (fn : BitVec 6) (r : ResetReq) (s : State) : Res := .next (s.pageReset fn 2 r)
def execResetEngine (fn : BitVec 6) (r : ResetReq) (s : State) : Res := .next (s.pageReset fn 3 r)
def execResetPartition (fn : BitVec 6) (r : ResetReq) (s : State) : Res := .next (s.pageReset fn 4 r)
def execResetDevice (fn : BitVec 6) (r : ResetReq) (s : State) : Res := .next (s.pageReset fn 5 r)

/-- The request that an FLR or a teardown makes on a partition entry. -/
def partReq (e : Nat) : ResetReq :=
  { queue := 0, pent := BitVec.ofNat 8 e, index := 0, replay := false, allctx := false, rsv := false }

/-- FUNCTION_LEVEL_RESET of function sel.a (R84, R85). A function bound to no entry has no target. -/
def execFunctionLevelReset (s : State) : Res :=
  let fn := s.sel.a
  if fn = 0 then .next (s.askReset 0 5 (partReq 0) true false)
  else if 64 ≤ fn then .next s
  else
    match s.entryOf fn with
    | some e => .next (s.askReset fn 4 (partReq e) true false)
    | none => .next (if (s.page fn).rctl.getLsbD 0 then s.modPage fn (fun p => { p with rstat := 5 }) else s.modPage fn (fun p => { p with rstat := 4 }))

/-- A function and its queues are unbound; its IDE streams are Insecure (R89). -/
def State.unbindFn (s : State) (fn : Nat) : State :=
  { s with host := { s.host with
    parts := s.host.parts.map (fun p => if p.func.toNat = fn then { p with func := 0xFFFF } else p)
    queues := s.host.queues.map (fun k => if k.func.toNat = fn then { k with func := 0xFFFF, pent := 0 } else k)
    ide := s.host.ide.map (fun x => if x.2.1 = fn ∧ x.1 ≠ 0 then (x.1, x.2.1, false) else x) } }

/-- VF_TEARDOWN: NumVFs becomes sel.a, or VF Enable is cleared with 0 (R89). -/
def execVfTeardown (s : State) : Res :=
  let n := s.sel.a
  if s.host.numVfs ≤ n then .next s
  else
    let gone := (List.range 64).filter (fun f => decide (n < f ∧ f ≤ s.host.numVfs))
    let s : State := { s with host := { s.host with numVfs := n } }
    .next (gone.foldl (fun (s : State) fn =>
      match s.entryOf fn with
      | some e => (s.modPage fn (fun p => { p with rctl := 0 })).askReset fn 4 (partReq e) true true
      | none => s.unbindFn fn) s)

/-- PARTITION_RUNG_HOLD: the held rung of function sel.a starts (R50); one that was asked for as such is accepted at this instant (R86). -/
def execPartitionRungHold (s : State) : Res :=
  match (s.page s.sel.a).active with
  | some r =>
    if r.held ∧ s.rungWaits r.pent.toNat = false then
      .next ((s.modPage s.sel.a (fun p => if p.rctl.toNat / 2 % 8 = 4 then { p with acceptT := BitVec.ofNat 64 s.now } else p)).startRung s.sel.a r)
    else .next s
  | none => .next s

/-! ### Completion and escalation -/

/-- The queues of a rung go on being drained; whether all are. -/
def State.drainAll (s : State) (r : Rung) : State × Bool :=
  r.queues.foldl (fun (x : State × Bool) q => let y := x.1.drain q (r.rung == 4 && r.replay); (y.1, x.2 && y.2)) (s, true)

/-- Whether a rung's own conditions hold, its queues apart. -/
def State.rungDone (s : State) (r : Rung) : Bool :=
  let gone := r.ctxs.all (fun cn => match s.ctx? cn with | some c => c.state == .gone | none => true)
  match r.rung with
  | 4 => !r.held && gone && !s.ops.reqs.any (fun q => q.stale && (rungEntries r.pent.toNat).contains q.pent)
  | 5 => r.links.all (fun w => (s.link (BitVec.ofNat 7 w)).up)
  | _ => gone

/-- What the end of a rung does beside the page. -/
def State.endRung (s : State) (r : Rung) : State :=
  let s := r.queues.foldl (fun (s : State) q => s.modQueue q (fun k => if k.state = 5 then k.done (r.rung == 4 && r.replay) else k)) s
  if r.rung = 4 then
    (rungEntries r.pent.toNat).foldl (fun (s : State) e => s.modPart e (fun p => { p with state := if p.state = 2 then 1 else p.state })) s
  else if r.rung = 5 then { s with host := { s.host with fns := s.host.fns.map (fun f => { f with inReset := false }) } }
  else s

/-- Bytes 0x00 to 0x1F of a reset control page. -/
def ResetPage.bytes (p : ResetPage) : List Byte :=
  bytesOf 4 p.rctl.toNat ++ bytesOf 2 p.queue.toNat ++ [p.pent, 0] ++ bytesOf 4 p.index.toNat ++ [p.rstat, p.taken, 0, 0] ++
    bytesOf 8 p.acceptT.toNat ++ bytesOf 8 p.doneT.toNat

/-- The page at the end of a request, and the reset-complete event (R83, R85). -/
def State.pageDone (s : State) (fn : Nat) (r : Rung) : State :=
  let s := s.modPage fn (fun p =>
    if r.rung = 5 then { ResetPage.reset with rstat := 2, taken := 5 }
    else { p with rctl := p.rctl &&& 0xFFFFFFFE, rstat := 2, taken := BitVec.ofNat 8 r.rung, doneT := BitVec.ofNat 64 s.now, active := none })
  let s := s.setInReset (fn :: (if r.rung = 4 then s.rungFns r.pent.toNat else [])) false
  let e := if r.rung = 4 ∨ r.rung = 5 then r.pent.toNat else (s.queue r.queue.toNat).pent.toNat
  let part := if r.rung = 5 then 0xFF else partOf e
  let sub := if r.rung = 5 then 0 else subOf e
  let body := (s.page fn).bytes ++ List.replicate 16 0
  let s := if fn = 0 then s else s.event fn 4 part sub body
  s.event 0 4 part sub body

/-- RESET_COMPLETE of function sel.a. -/
def execResetComplete (s : State) : Res :=
  let fn := s.sel.a
  match (s.page fn).active with
  | none => .next s
  | some r =>
    let (s, drained) := s.drainAll r
    if !drained || !s.rungDone r then .next s
    else
      let s := (s.endRung r).pageDone fn r
      .next (if r.teardown then s.unbindFn fn else s)

/-- The limit of a rung in ns (R82). -/
def rungLimit : Nat → Nat
  | 1 => 1000000
  | 2 => 5000000
  | 3 => 10000000
  | 4 => 50000000
  | _ => 1000000000

/-- RUNG_ESCALATION of function sel.a (R83): the next rung starts on the smallest target that contains the first; after the device rung
the controller removes power from the dies, logs it and reports it. -/
def execRungEscalation (s : State) : Res :=
  let fn := s.sel.a
  match (s.page fn).active with
  | none => .next s
  | some r =>
    if r.held ∨ s.now < r.start + rungLimit r.rung then .next s
    else if r.rung = 5 then
      .next ((({ s with power := { s.power with on := false } }).log 0x8001 0).emit (.report (s.logRec 0x8001 0)))
    else
      let e := if r.rung ≤ 3 then (s.queue r.queue.toNat).pent else r.pent
      .next (s.startRung fn { r with rung := r.rung + 1, allctx := if r.rung = 1 then true else r.allctx, pent := e, start := s.now, ctxs := [], replay := false })

/-! ### Request slots (R88) -/

/-- A request slot of an ended generation is free: what it served fails with TIMEOUT. -/
def State.reclaim (s : State) (q : Request) : State := s.answerReq q (.fault 10)

/-- REQUEST_SLOT_RECLAIM of request sel.a: 4 ms after its rung's start. -/
def execRequestSlotReclaim (s : State) : Res :=
  match s.ops.reqs.find? (fun q => q.stale && q.id == s.sel.a) with
  | none => .next s
  | some q => if q.sentAt + 4000000 ≤ s.now then .next (s.reclaim q) else .next s

end Sys2Proof.Machine
end

