-- ==== Sys2Proof/Machine/MemControl.lean ====
section
/-!
DEFINITION. The memory control page: invalidations (R192), frame operations (R193), SIDEWAYS and FLUSH (R209), page requests that are
done (R197), translation entries (R191).
-/

namespace Sys2Proof.Machine

/-! ### Writes of registers -/

/-- A write of n bytes at an offset of a page. -/
structure RegWr where
  off : Nat
  n   : Nat
  v   : W64

/-- The value of the register of k bytes at an offset after a write: the bytes that the write covers are replaced. -/
def RegWr.at_ (w : RegWr) (o k : Nat) (old : Nat) : Nat :=
  natOf ((withIndex (bytesOf k old)).map (fun p =>
    let i := o + p.1
    if w.off ≤ i ∧ i < w.off + w.n then (bytesOf 8 w.v.toNat).getD (i - w.off) 0 else p.2))
/-- Whether a write covers any byte of a register. -/
def RegWr.hits (w : RegWr) (o k : Nat) : Bool := decide (w.off < o + k ∧ o < w.off + w.n)
def RegWr.r64 (w : RegWr) (o : Nat) (old : W64) : W64 := BitVec.ofNat 64 (w.at_ o 8 old.toNat)
def RegWr.r32 (w : RegWr) (o : Nat) (old : W32) : W32 := BitVec.ofNat 32 (w.at_ o 4 old.toNat)
def RegWr.r16 (w : RegWr) (o : Nat) (old : W16) : W16 := BitVec.ofNat 16 (w.at_ o 2 old.toNat)
def RegWr.r8 (w : RegWr) (o : Nat) (old : Byte) : Byte := BitVec.ofNat 8 (w.at_ o 1 old.toNat)
/-- The same write, seen from a page within the page. -/
def RegWr.from_ (w : RegWr) (base : Nat) : RegWr := { w with off := w.off - base }

def State.modCtl (s : State) (f : MemCtl → MemCtl) : State := { s with memctl := f s.memctl }
/-- A refused write (R190): MEMERR holds its offset within the page. DESIGN CHOICE (log entry 80): for the register at offset 0, XLAT0.ROOT,
that is 0, as for no refused write. -/
def State.memErr (s : State) (off : Nat) : State := s.modCtl (fun m => { m with memerr := BitVec.ofNat 32 off })

/-! ### Invalidation (R192) -/

/-- An invalidation: INVPENT, the first page and the number of pages of INVVA and INVPAGES. -/
def MemCtl.named (m : MemCtl) : Nat × Nat × Nat := (m.invpent.toNat, m.invva.toNat / 65536, m.invpages.toNat)
/-- Whether `size` bytes at a VA of a partition meet a page that it names. -/
def invNames (x : Nat × Nat × Nat) (e va size : Nat) : Bool :=
  (x.1 == 0xFF || x.1 == e) && (x.2.2 == 0 || decide (65536 * x.2.1 < va + size ∧ va < 65536 * (x.2.1 + x.2.2)))

/-- INVCTL written with GO while it reads 1 is refused. -/
def MemCtl.invRefused (m : MemCtl) (ctl : Byte) : Bool := ctl.getLsbD 0 && m.invctl.getLsbD 0

/-- INVCTL is written, and not refused: with GO, every cached entry that maps a named page is removed, and every non-leaf entry on its
walk. -/
def State.invWrite (s : State) (ctl : Byte) : State :=
  if !ctl.getLsbD 0 then (if s.memctl.invctl.getLsbD 0 then s else s.modCtl (fun m => { m with invctl := ctl &&& 2 }))
  else
    let x := s.memctl.named
    let keep (t : TlbEntry) : Bool :=
      let size := 2 ^ offBits t.level
      !invNames x t.pent (t.page * size) size || (ctl.getLsbD 1 && lfLeaf t.leaf && lfG t.leaf)
    let gone := (s.store.tlb.filter (fun t => !keep t)).map (fun t => (t.pent, t.page * 2 ^ offBits t.level, 2 ^ offBits t.level))
    { s with store := { s.store with tlb := s.store.tlb.filter keep } }.modCtl (fun m =>
      { m with invctl := ctl &&& 3, inv := x, invGone := dedup gone, invFrom := s.ops.nextId })

/-- TLB_INVALIDATE: INVCTL is written. -/
def execTlbInvalidate (ctl : Byte) (s : State) : Res :=
  .next (if s.memctl.invRefused ctl then s.memErr 0xA0D else s.invWrite ctl)

/-- Whether an access of a partition at a VA may have used an entry that the invalidation removes: its page is named, or an entry
that was removed, a larger leaf or one of the non-leaf entries, covers it. -/
def MemCtl.invUsed (m : MemCtl) (e va size : Nat) : Bool :=
  invNames m.inv e (va / 65536 * 65536) (65536 + size) || m.invGone.any (fun t => t.1 == e && decide (t.2.1 < va + size + 1 ∧ va < t.2.1 + t.2.2))

/-- Whether an access, a copy chunk, or an access of the command processor that was made before the invalidation and may have used an
entry that it removes is not over. -/
def State.invBusy (s : State) : Bool :=
  let m := s.memctl
  let flying (r : Option Nat) : Bool := r.any (· < m.invFrom)
  s.ops.mops.any (fun o => decide (o.id < m.invFrom) && (match s.ctxOf? o.g with
    | some (_, c) => o.pieces.any (fun p => m.invUsed c.pent p.va.toNat 0)
    | none => false)) ||
  s.ops.copies.any (fun c => (m.inv.1 == 0xFF || m.inv.1 == c.pent) &&
    s.ops.reqs.any (fun r => r.copy && r.op == c.id && decide (r.id < m.invFrom))) ||
  s.ops.sigs.any (fun u => flying u.req && m.invUsed u.pent u.va.toNat 0) ||
  s.ops.puts.any (fun u => flying u.req && m.invUsed u.pent u.va.toNat u.data.length) ||
  s.ops.fetched.any (fun f => flying f.req)

/-- INVALIDATE_COMPLETE: GO reads 0. -/
def execInvalidateComplete (s : State) : Res :=
  .next (if s.memctl.invctl.getLsbD 0 && !s.invBusy then s.modCtl (fun m => { m with invctl := m.invctl &&& 2 }) else s)

/-! ### Frame operations (R193) -/

/-- Whether frames from a PA on lie in the two tiers. -/
def framesLocal (p : Part) (pa n : Nat) : Bool :=
  let last := pa + 65536 * n - 1
  isLocal p pa && isLocal p last && (inFast p pa == inFast p last || Config.hbmSize p == 0x10000000000)
/-- FOPCTL written with GO is refused for another FOPKIND, and for frames that are not frames of the two tiers. DESIGN CHOICE (log entry 81):
also with FOPPA that is not 64 KiB aligned and with FOPCOUNT 0, values that R190 rules out and whose effect it does not give. -/
def MemCtl.fopRefused (m : MemCtl) (p : Part) (ctl : Byte) : Bool :=
  ctl.getLsbD 0 && ((m.fopkind != 1 && m.fopkind != 2) || m.foppa.toNat % 65536 != 0 || m.fopcount == 0 || !framesLocal p m.foppa.toNat m.fopcount.toNat)

/-- FOPCTL is written, and not refused: with GO, the frames are dead, of their lines nothing is left, and RETAG gives them FOPKEY. -/
def State.frameOp (s : State) (ctl : Byte) : State :=
  let m := s.memctl
  let f := m.foppa.toNat / 65536
  let n := m.fopcount.toNat
  let key : Option (BitVec 10) := if m.fopkind = 1 then some (m.fopkey.truncate 10) else none
  if !ctl.getLsbD 0 then s
  else { s with store := (List.range n).foldl (fun (st : Store) i => st.kill key (f + i)) s.store }.dropL1 (fun _ _ l => decide (f ≤ l / 512 ∧ l / 512 < f + n))

/-- FOPCTL is written where FOPKIND is k. -/
def State.frameOpOf (s : State) (k : Byte) (ctl : Byte) : State :=
  if s.memctl.fopRefused s.part ctl then s.memErr 0xA4F else if s.memctl.fopkind = k then s.frameOp ctl else s
/-- RETAG: the frames have FOPKEY and are dead. -/
def execRetag (ctl : Byte) (s : State) : Res := .next (s.frameOpOf 1 ctl)
/-- ELIDE: the frames are dead. -/
def execElide (ctl : Byte) (s : State) : Res := .next (s.frameOpOf 2 ctl)

/-! ### SIDEWAYS and FLUSH (R209) -/

/-- Whether a way of a base die holds a SIDE tile: a partition's tiles lie in its converted ways, the lowest first. -/
def State.holdsSide (s : State) (bd way : Nat) : Bool :=
  let side := (s.memctl.sideways.getD bd 0).truncate 24
  (List.range 40).any (fun e =>
    let ws := (List.range 24).filter (fun i => ((s.partEnt e).mscways &&& side).getLsbD i)
    match indexOf? ws (· == way) with
    | some i => decide (i * 0x800000 < s.sideDrawn e bd)
    | none => false)

/-- SIDEWAYSk written with more than 16 ways, with a new way that holds a valid line, or without one that holds a SIDE tile. -/
def State.sideRefused (s : State) (bd : Nat) (m : W64) : Bool :=
  let old := s.memctl.sideways.getD bd 0
  decide (16 < popc 24 m.toNat) || (List.range 24).any (fun w =>
    (m.getLsbD w && !old.getLsbD w && s.store.lines.any (fun l => l.way == w && l.bd == bd)) ||
    (!m.getLsbD w && old.getLsbD w && s.holdsSide bd w))
/-- SIDEWAYSk is written, at an offset that MEMERR names where it is refused. -/
def State.sidewaysWrite (s : State) (off : Nat) (k : BitVec 2) (mask : W64) : State :=
  let m : W64 := mask &&& 0xFFFFFF
  if s.sideRefused k.toNat m then s.memErr off else s.modCtl (fun c => { c with sideways := modAt c.sideways k.toNat (fun _ => m) })
/-- SIDEWAYS_WRITE: ways of base die k are converted to SIDE, or back. -/
def execSidewaysWrite (k : BitVec 2) (mask : W64) (s : State) : Res := .next (s.sidewaysWrite (0xA80 + 8 * k.toNat) k mask)

/-- FLUSH: the lines of the named ways of base die k are written back and invalidated, those of peers invalidated. -/
def execFlush (k : BitVec 2) (mask : W64) (s : State) : Res :=
  let bd := k.toNat
  let m : W64 := mask &&& 0xFFFFFF
  let ls := s.store.lines.filter (fun l => l.bd == bd && m.getLsbD l.way)
  .next ((ls.foldl (fun (s : State) (l : MscLine) => s.dropMscLine l.line) s).modCtl (fun c => { c with flush := modAt c.flush bd (fun _ => m) }))

/-! ### Page requests (R197) -/

/-- The requests that waited for room in the ring are written, with the bits that they have meanwhile. -/
def State.sendWaiting (s : State) : State :=
  s.memctl.reqs.foldl (fun (s : State) r =>
    if r.sent = some (r.write, r.expl) then s
    else
      let x := s.sendPageReq r
      x.1.modCtl (fun m => { m with reqs := m.reqs.map (fun q => if q.pent = r.pent ∧ q.page = r.page then x.2 else q) })) s

/-- PAGE_DONE: DONE of entry e is written with a VA. -/
def execPageDone (e : Nat) (va : W64) (s : State) : Res :=
  let page : W64 := va &&& ~~~(0xFFFF : W64)
  if s.memctl.reqs.any (fun r => r.pent == e && r.page == page) then
    let s := s.modCtl (fun m => { m with reqs := m.reqs.filter (fun r => !(r.pent == e && r.page == page)) })
    .next (s.wakePage e page)
  else .next s

/-! ### Translation entries (R191) -/

/-- Whether a partition has a resident context. -/
def State.resident (s : State) (e : Nat) : Bool := s.exec.ctxs.any (fun c => c.pent == e && (c.state == .running || c.state == .ending))

/-- A write at an offset of the translation entries. A write that changes ROOT is refused while a context is resident; one that covers
DONE completes a page. -/
def State.xlatWrite (s : State) (w : RegWr) : Res :=
  let e := w.off / 64
  let x := s.memctl.xlat.getD e Xlat.reset
  let i := w.from_ (64 * e)
  let root := i.r64 0 x.root &&& 0x000FFFFFFFFFE001
  if 40 ≤ e then .next s
  else if root ≠ x.root ∧ s.resident e = true then .next (s.memErr w.off)
  else
    let s := s.modXlat e (fun x => { x with
      root, prbase := i.r64 8 x.prbase, prsize := i.r8 0x10 x.prsize, prvec := i.r16 0x12 x.prvec, prrd := i.r32 0x18 x.prrd,
      occlim := i.r32 0x28 x.occlim })
    let s := s.sendWaiting
    if i.hits 0x20 8 then execPageDone e (i.r64 0x20 0) s else .next s

/-- TRANSLATION_ENTRY_WRITE: `size` bytes of v at an offset of the memory control page. -/
def execTranslationEntryWrite (off : W16) (size : Nat) (v : W64) (s : State) : Res := s.xlatWrite { off := off.toNat, n := size, v }

/-- A write of another register of the memory control page. One that is refused changes nothing, and MEMERR names its offset (R190). -/
def State.memCtlWrite (s : State) (w : RegWr) : Res :=
  let m := s.memctl
  let m' : MemCtl := { m with
      invva := w.r64 0xA00 m.invva, invpages := w.r32 0xA08 m.invpages, invpent := w.r8 0xA0C m.invpent, foppa := w.r64 0xA40 m.foppa,
      fopcount := w.r32 0xA48 m.fopcount, fopkey := w.r16 0xA4C m.fopkey, fopkind := w.r8 0xA4E m.fopkind,
      memerr := w.r32 0xAC0 m.memerr }
  let k : BitVec 2 := BitVec.ofNat 2 (w.off / 8)
  if w.off < 0xA00 then s.xlatWrite w
  else if w.hits 0xA0D 1 then .next (if m'.invRefused (w.r8 0xA0D 0) then s.memErr w.off else (s.modCtl (fun _ => m')).invWrite (w.r8 0xA0D 0))
  else if w.hits 0xA4F 1 then .next (if m'.fopRefused s.part (w.r8 0xA4F 0) then s.memErr w.off else (s.modCtl (fun _ => m')).frameOp (w.r8 0xA4F 0))
  else if w.hits 0xA80 0x20 then .next (s.sidewaysWrite w.off k (w.r64 (w.off / 8 * 8) (m.sideways.getD k.toNat 0)))
  else if w.hits 0xAA0 0x20 then execFlush k (w.r64 (w.off / 8 * 8) 0) s
  else .next (s.modCtl (fun _ => m'))

end Sys2Proof.Machine
end

