-- ==== Sys2Proof/Machine/Registers.lean ====
section
/-!
DEFINITION. Register writes: the partition table (R77, R78), budget periods (R79), journal control (R277, R278), and the registers with
no behaviour of their own (R4), by their place in the BARs (R54).
-/

namespace Sys2Proof.Machine

/-! ### The partition table (R77, R78) -/

/-- An entry with the budgets and leases of another. -/
def PartEntry.take (p n : PartEntry) : PartEntry :=
  { p with hbmb := n.hbmb, flits := n.flits, etime := n.etime, lease := n.lease, l1lease := n.l1lease }
/-- The entries as software has written them: budgets and leases among them may wait for the next period. -/
def State.writtenParts (s : State) : List PartEntry :=
  if s.host.nextPart = [] then s.host.parts else (s.host.parts.zip s.host.nextPart).map (fun x => x.1.take x.2)

/-- An entry after a write. GEN and the state of a reset in progress are the device's own. -/
def PartEntry.written (p : PartEntry) (w : RegWr) : PartEntry :=
  { p with
    state := if p.state = 2 then 2 else w.at_ 0 1 p.state
    func := w.r16 2 p.func
    sites := (withIndex p.sites).map (fun k => BitVec.ofNat 28 (w.at_ (8 + 4 * k.1) 4 k.2.toNat))
    mscways := BitVec.ofNat 24 (w.at_ 0x28 4 p.mscways.toNat)
    keybase := w.r16 0x2C p.keybase
    keycount := w.r16 0x2E p.keycount
    hbmb := w.r32 0x30 p.hbmb
    flits := w.r32 0x34 p.flits
    etime := w.r32 0x38 p.etime
    poolres := w.r32 0x3C p.poolres
    slice := w.r32 0x40 p.slice
    lease := w.r8 0x44 p.lease
    l1lease := w.r8 0x45 p.l1lease
    queues := w.r8 0x46 p.queues }

/-- The ranges of R77. -/
def PartEntry.inRange (p old : PartEntry) : Bool :=
  (decide (p.state ≤ 1) || p.state == old.state) && (decide (p.func.toNat < 64) || p.func == 0xFFFF) &&
  decide (p.keybase.toNat + p.keycount.toNat ≤ 1024 ∧ p.poolres.toNat ≤ 1024 ∧ 10 ≤ p.slice.toNat ∧ p.slice.toNat ≤ 100000 ∧
    2 ≤ p.lease.toNat ∧ p.lease.toNat ≤ 64 ∧ 1 ≤ p.l1lease.toNat ∧ p.l1lease.toNat ≤ 8)

/-- A write that gives SITES a site number of 28 or more, or MSCWAYS a way of 24 or more: it is out of range (R77, R78). -/
def PartEntry.tooWide (p : PartEntry) (w : RegWr) : Bool :=
  (withIndex p.sites).any (fun k => decide (2 ^ 28 ≤ w.at_ (8 + 4 * k.1) 4 k.2.toNat)) || decide (2 ^ 24 ≤ w.at_ 0x28 4 p.mscways.toNat)

/-- What a child holds lies within its parent. -/
def PartEntry.within (c p : PartEntry) : Bool :=
  (c.sites.zip p.sites).all (fun x => x.1 &&& ~~~x.2 == 0) && c.mscways &&& ~~~p.mscways == 0 &&
  (c.keycount == 0 || decide (p.keybase.toNat ≤ c.keybase.toNat ∧ c.keybase.toNat + c.keycount.toNat ≤ p.keybase.toNat + p.keycount.toNat))

/-- Two top-level partitions share no site, way or key id. -/
def PartEntry.apart (a b : PartEntry) : Bool :=
  (a.sites.zip b.sites).all (fun x => x.1 &&& x.2 == 0) && a.mscways &&& b.mscways == 0 &&
  (a.keycount == 0 || b.keycount == 0 ||
    decide (a.keybase.toNat + a.keycount.toNat ≤ b.keybase.toNat ∨ b.keybase.toNat + b.keycount.toNat ≤ a.keybase.toNat))

/-- The children's budgets together stay within the parent's. -/
def budgetFits (parent : W32) (children : List W32) : Bool :=
  parent == 0xFFFFFFFF || decide ((children.map (·.toNat)).sum ≤ parent.toNat)

/-- Whether a table stands by R78 after entry e was written. -/
def tableOk (t : List PartEntry) (e : Nat) : Bool :=
  let at_ (i : Nat) : PartEntry := t.getD i PartEntry.reset
  let top := e / 5 * 5
  let kids := (List.range 4).map (fun i => top + 1 + i)
  let live := kids.filter (fun i => (at_ i).state != 0)
  kids.all (fun i => ((at_ i).state == 0 && i != e) || (at_ i).within (at_ top)) &&
  budgetFits (at_ top).hbmb (live.map (fun i => (at_ i).hbmb)) && budgetFits (at_ top).flits (live.map (fun i => (at_ i).flits)) &&
  budgetFits (at_ top).etime (live.map (fun i => (at_ i).etime)) &&
  (List.range 8).all (fun p => 5 * p == top || (at_ (5 * p)).apart (at_ top)) &&
  decide (((List.range 8).map (fun p => (at_ (5 * p)).poolres.toNat)).sum ≤ 4096) &&
  ((at_ e).func == 0xFFFF || (List.range 40).all (fun i => i == e || (at_ i).func != (at_ e).func))

/-- Whether a write changes what may change only without a resident context. -/
def PartEntry.moves (p old : PartEntry) : Bool :=
  p.sites != old.sites || p.mscways != old.mscways || p.keybase != old.keybase || p.keycount != old.keycount

/-- What an entry holds until the next period: the old budgets and leases. -/
def PartEntry.hold (p old : PartEntry) : PartEntry :=
  p.take old

/-- A write at an offset of the partition table; a refused one sets PTERR to it. -/
def State.partWrite (s : State) (w : RegWr) : State :=
  let e := w.off / 128
  let old := s.writtenParts.getD e PartEntry.reset
  let new_ := old.written (w.from_ (128 * e))
  let t := modAt s.writtenParts e (fun _ => new_)
  if 40 ≤ e then s
  else if old.tooWide (w.from_ (128 * e)) || !new_.inRange old || !tableOk t e || (new_.moves old && s.resident e) then
    { s with host := { s.host with pterr := BitVec.ofNat 32 w.off } }
  else
    { s with host := { s.host with nextPart := t, parts := modAt s.host.parts e (fun p => new_.hold p) } }

/-- PARTITION_TABLE_WRITE: `size` bytes at an offset from 0x2000; not while PF0 is in reset (R90). -/
def execPartitionTableWrite (off : W16) (size : Nat) (v : W64) (s : State) : Res :=
  .next (if s.answers 0 then s.partWrite { off := off.toNat, n := size, v } else s.emit .unsupported)

/-! ### BUDGET_PERIOD (R78, R79) -/

/-- A budget period begins: counters start at zero, what was written takes effect, and held messages go. -/
def execBudgetPeriod (s : State) : Res :=
  let k := s.now / 100000
  if k ≤ s.host.period then .next s
  else
    let s : State := { s with
      host := { s.host with
        period := k, parts := s.writtenParts, nextPart := [], spentPart := List.replicate 40 Spent.zero, spentAct := List.replicate 6 Spent.zero }
      exec := { s.exec with ctxs := s.exec.ctxs.map (fun c => { c with spent := Spent.zero }) } }
    .next (s.upLinks.foldl (fun (s : State) w => s.pump w) s)

/-! ### The journal (R277, R278, R280) -/

/-- JOURNAL_ENABLE: JCTL of entry e is written. A recording starts with JWR at 0 and OVF clear. -/
def execJournalEnable (e : Nat) (jctl : W16) (s : State) : Res :=
  .next (s.modJournal e (fun j =>
    let on := jctl.getLsbD 0
    let rep := jctl.getLsbD 1
    let starts := on && !rep && (!j.enabled || j.replaying || j.stopped)
    { j with
      jctl := if starts then jctl &&& 3 else (jctl &&& 3) ||| (j.jctl &&& 4)
      jwr := if starts then 0 else j.jwr
      pending := if starts then [] else j.pending
      stopped := if on then false else j.stopped
      replay := if on && rep then j.replay else none
      used := if on && rep then j.used else [] }))

def Journal.wrote (j : Journal) (w : RegWr) : Journal :=
  if j.enabled then j
  else
    { j with jbase := w.r64 0 j.jbase, jsize := w.r64 8 j.jsize, jreg := w.r64 0x18 j.jreg, jrcount := w.r16 0x20 j.jrcount,
             jstart := w.r32 0x24 j.jstart }

/-- A write of a journal entry. -/
def State.journalWrite (s : State) (e : Nat) (w : RegWr) : Res :=
  let s := s.modJournal e (·.wrote w)
  if w.hits 0x22 2 then execJournalEnable e (w.r16 0x22 (s.journal e).jctl) s else .next s

/-! ### Pages of registers -/

/-- A snapshot entry (R145). -/
def Snapshot.set (k : Snapshot) (w : RegWr) : Snapshot :=
  { k with thresh := w.r8 0 k.thresh, tkind := w.r8 1 k.tkind, tbase := w.r64 8 k.tbase, tsize := w.r64 0x10 k.tsize, sig := w.r64 0x18 k.sig,
           qmask := BitVec.ofNat 256 (w.at_ 0x20 32 k.qmask.toNat) }

/-- The serialise request (R121). -/
def SerPage.wrote (p : SerPage) (w : RegWr) : SerPage :=
  { p with queue := w.r16 0 p.queue, index := w.r32 4 p.index, imgva := w.r64 8 p.imgva, imgsize := w.r64 0x10 p.imgsize, sig := w.r64 0x18 p.sig,
           drain := w.r32 0x20 p.drain }
def State.serWrite (s : State) (fn : BitVec 6) (w : RegWr) : Res :=
  let s := s.modFn fn.toNat (fun f => { f with ser := f.ser.wrote w })
  if w.hits 0x24 4 then execSerialise fn (w.r32 0x24 0) s else .next s

/-- An event queue's control page (R72). -/
def EventQueue.wrote (q : EventQueue) (w : RegWr) : EventQueue :=
  { q with base := w.r64 0 q.base, size := w.r32 8 q.size, rdidx := w.r32 0x14 q.rdidx, vector := w.r64 0x28 q.vector }

/-- The reserved bytes of a reset control page after a write. -/
def ResetPage.rsvWrote (p : ResetPage) (w : RegWr) : BitVec 280 :=
  let r := p.rsv.toNat
  BitVec.ofNat 280 (w.at_ 0x07 1 (r % 2 ^ 8) + 2 ^ 8 * w.at_ 0x0E 2 (r / 2 ^ 8 % 2 ^ 16) + 2 ^ 24 * w.at_ 0x20 32 (r / 2 ^ 24))

/-- The reset control page (R85): a write of RCTL with GO makes a request. While GO reads 1 a write changes nothing but RSTAT (DESIGN
CHOICE, log entry 119: the manual says so of GO alone). -/
def State.resetWrite (s : State) (fn : Nat) (w : RegWr) : State :=
  let p := s.page fn
  let q := w.r16 4 p.queue
  let e := w.r8 6 p.pent
  let i := w.r32 8 p.index
  let c := w.r32 0 0
  let s := if p.rctl.getLsbD 0 then s else s.modPage fn (fun p => { p with rsv := p.rsvWrote w })
  if w.hits 0 4 && c.getLsbD 0 then
    s.askReset fn (c.extractLsb' 1 3).toNat
      { queue := q, pent := e, index := i, replay := c.getLsbD 8, allctx := c.getLsbD 9, rsv := c &&& 0xFFFFFCF0 != 0 } false false
  else s.modPage fn (fun p => if p.rctl.getLsbD 0 then p else { p with queue := q, pent := e, index := i, rctl := w.r32 0 p.rctl &&& 0x30E })

/-- A queue page (R59). BIND is PF0's alone. -/
def State.queueWrite (s : State) (fn q : Nat) (w : RegWr) : Res :=
  let s := s.modQueue q (fun k => { k with base := w.r64 0 k.base, size := w.r32 8 k.size, vector := w.r64 0x28 k.vector })
  let k := s.queue q
  let at_ : State := { s with sel := ⟨q, 0, 0⟩ }
  if w.hits 0x10 4 then .next (s.ringFrom fn (BitVec.ofNat 8 q) (w.r32 0x10 k.wridx))
  else if w.hits 0x30 4 then (if fn = 0 then execQueueBind (BitVec.ofNat 8 q) (w.r32 0x30 (BitVec.ofNat 32 (k.func.toNat + 65536 * k.pent.toNat))) s else .next s)
  else if w.hits 0x0C 4 then
    let c := w.at_ 0x0C 4 ((if k.enable then 1 else 0) + (if k.pause then 2 else 0))
    let first := if c.testBit 0 then execQueueEnable at_ else execQueueDisable at_
    match first with
    | .next t => if c.testBit 1 then execQueuePause t else execQueueUnpause t
    | x => x
  else .next s

/-- A write to PF0's BAR0 (R54). -/
def State.pfWrite (s : State) (w : RegWr) : Res :=
  let o := w.off
  if o < 0x1000 then .next s
  else if o < 0x2000 then .next (s.modFn 0 (fun f => { f with evq := f.evq.wrote (w.from_ 0x1000) }))
  else if o < 0x3400 then .next (s.partWrite (w.from_ 0x2000))
  else if o < 0x3404 then .next (if w.r32 0x3400 s.host.pterr = 0 then { s with host := { s.host with pterr := 0 } } else s)
  else if 0x4000 ≤ o ∧ o < 0x4060 then
    let i := (o - 0x4000) / 16
    let x := w.from_ (0x4000 + 16 * i)
    .next { s with host := { s.host with budgets := modAt s.host.budgets i (fun b =>
      { hbmb := x.r32 0 b.hbmb, flits := x.r32 4 b.flits, etime := x.r32 8 b.etime }) } }
  else if 0x5000 ≤ o ∧ o < 0x6000 then .next (s.resetWrite 0 (w.from_ 0x5000))
  else if 0x6000 ≤ o ∧ o < 0x6100 then s.serWrite 0 (w.from_ 0x6000)
  else if 0x6100 ≤ o ∧ o < 0x6B00 then
    let e := (o - 0x6100) / 64
    .next (s.modSnap e (·.set (w.from_ (0x6100 + 64 * e))))
  else if 0x6C00 ≤ o ∧ o < 0x7600 then
    let e := (o - 0x6C00) / 64
    s.journalWrite e (w.from_ (0x6C00 + 64 * e))
  else if 0x8000 ≤ o ∧ o < 0x9000 then s.memCtlWrite (w.from_ 0x8000)
  else if 0x100000 ≤ o ∧ o < 0x200000 then
    let q := (o - 0x100000) / 4096
    s.queueWrite 0 q (w.from_ (0x100000 + 4096 * q))
  else .next s

/-- A write to a VF's BAR0 (R54). -/
def State.vfWrite (s : State) (fn : BitVec 6) (w : RegWr) : Res :=
  let o := w.off
  let f := fn.toNat
  if o < 0x1000 then .next s
  else if o < 0x2000 then .next (s.modFn f (fun x => { x with evq := x.evq.wrote (w.from_ 0x1000) }))
  else if o < 0x3000 then .next (s.resetWrite f (w.from_ 0x2000))
  else if o < 0x3040 then s.serWrite fn (w.from_ 0x3000)
  else if o < 0x30C0 then
    match s.entryOf f with
    | none => .next s
    | some e => if o < 0x3080 then .next (s.modSnap e (·.set (w.from_ 0x3040))) else s.journalWrite e (w.from_ 0x3080)
  else if 0x10000 ≤ o ∧ o < 0x20000 then
    match s.boundQueue f ((o - 0x10000) / 4096) with
    | some q => s.queueWrite f q (w.from_ ((o - 0x10000) / 4096 * 4096 + 0x10000))
    | none => .next s
  else .next s

/-! ### What the host and system software set outside the BARs -/

/-- Settings without a place in a BAR: the PTP domain (R15), the power limit of 1,000 to 4,000 W (R20), HIGH and LOW of a virtual
priority (R43), VF Enable and NumVFs (R54, R89), the size of BAR2 (R54), AtomicOp Requester Enable (R65), whether AtomicOps fail in the
host (R469), the PCIe completion timeout (R90). A value out of range is ignored. -/
def State.sysWrite (s : State) (p : RegPlace) (v : Nat) : Res :=
  let pool (f : Fabric → Fabric) : Res := .next ([0, 1, 2, 3].foldl State.setXoff { s with fabric := f s.fabric })
  match p with
  | .bar0 _ => .next s
  | .ptpDomain => .next (if v < 128 then { s with clock := { s.clock with domain := v, ptp := if v = s.clock.domain then s.clock.ptp else none } } else s)
  | .powerLimit => .next (if 1000 ≤ v ∧ v ≤ 4000 then { s with power := { s.power with limit := v } } else s)
  | .poolHigh i => pool (fun f => { f with high := modAt f.high i.toNat (fun _ => v) })
  | .poolLow i => pool (fun f => { f with low := modAt f.low i.toNat (fun _ => v) })
  | .numVfs =>
    if 63 < v then .next s
    else if v < s.host.numVfs then execVfTeardown { s with sel := ⟨v, 0, 0⟩ }
    else .next { s with host := { s.host with numVfs := v } }
  | .bar2Size => .next (if (List.range 11).any (fun i => v == 2 ^ i) then { s with host := { s.host with bar2 := v * 0x40000000 } } else s)
  | .atomicReq => .next { s with host := { s.host with atomicReq := v.testBit 0 } }
  | .atomicErr => .next { s with host := { s.host with atomicErr := v.testBit 0 } }
  | .cplTimeout => .next { s with host := { s.host with cplTimeout := v } }

/-- REGISTER_WRITE: `size` bytes at an offset of BAR0 of a function, or a setting. A function that does not answer completes the request
with Unsupported Request (R90). -/
def execRegisterWrite (fn : BitVec 6) (at_ : RegPlace) (size : Nat) (v : W64) (s : State) : Res :=
  if s.ideFails fn.toNat then .next (s.emit (.ideFail fn.toNat))
  else
    match at_ with
    | .bar0 off =>
      let w : RegWr := { off := off.toNat, n := size, v }
      if !s.answers fn.toNat then .next (s.emit .unsupported)
      else if fn = 0 then s.pfWrite w else s.vfWrite fn w
    | p => if fn = 0 then s.sysWrite p v.toNat else .next s

end Sys2Proof.Machine
end

