-- ==== Sys2Proof/Machine/Remote.lean ====
section
/-!
DEFINITION. Requests of peers and their answers (R240, R241), held acknowledgements (R231), RECALL (R232), and the host's window (R230).
-/

namespace Sys2Proof.Machine

/-- The state that an event leaves. -/
def after (s : State) : Res → State
  | .next t => t
  | _ => s

/-! ### Requests and responses -/

/-- REMOTE_REQUEST: checked and performed, or answered with a fault, or held. -/
def execRemoteRequest (r : RemoteReq) (s : State) : Res :=
  match s.serve r with
  | .answer s x => .next (s.deliverRsp r.src (s.rspFor r x))
  | .late s => .next s
  | .hold s page => .next { s with ops := { s.ops with inbound := s.ops.inbound ++ [{ req := r, at_ := s.now, pent := (s.reqPart r).getD 0, page }] } }

/-- A response of a generation that this device has left is discarded, and recorded (R50, R51). -/
def State.dropRsp (s : State) (src : BitVec 7) : State :=
  match s.wave src with
  | some w => s.linkEvent w 0x10B 1 0 (s.link w).rx.expect 1
  | none => s

/-- REMOTE_RESPONSE: it reaches the request that it answers; one of an ended generation frees its slot (R50, R88). -/
def execRemoteResponse (r : RemoteRsp) (s : State) : Res :=
  match s.ops.reqs.find? (fun q => q.id == r.id && q.req.dst == r.src) with
  | none => .next s
  | some q => .next (if q.stale then s.reclaim q else if r.pgen ≠ (s.partEnt q.pent).gen then s.dropRsp r.src else s.answerReq q r.result)

/-- REMOTE_TIMEOUT of request sel.a: no answer 4 ms after it was sent. -/
def execRemoteTimeout (s : State) : Res :=
  match s.ops.reqs.find? (fun q => !q.stale && q.id == s.sel.a) with
  | none => .next s
  | some q => .next (if q.sentAt + 4000000 ≤ s.now then s.answerReq q (.fault 10) else s)

/-- INBOUND_PAGE_TIMEOUT of the request with number sel.a from slot sel.b: its page did not come within 3 ms. -/
def execInboundPageTimeout (s : State) : Res :=
  let mine (i : Inbound) : Bool := i.req.id == s.sel.a && i.req.src.toNat == s.sel.b && i.page != 0
  match s.ops.inbound.find? mine with
  | none => .next s
  | some i =>
    if s.now < i.at_ + 3000000 then .next s
    else
      let s : State := { s with ops := { s.ops with inbound := s.ops.inbound.filter (fun i => !mine i) } }
      match s.refuseReq i.req (some i.pent) 10 with
      | .answer s x => .next (s.deliverRsp i.req.src (s.rspFor i.req x))
      | _ => .next s

/-! ### Held acknowledgements -/

/-- A held acknowledgement goes: to its requester, or, for a write of this device's own, it is over, and the copy that made it may be
complete (R430). -/
def State.releaseAck (s : State) (h : HeldAck) : State :=
  let s : State := { s with caches := { s.caches with held := s.caches.held.filter (fun x => x != h) } }
  match h.rsp.result with
  | .nack => s.settleCopy h.id
  | _ => s.deliverRsp h.dst h.rsp

/-- NOTIME_ACK of the write with number sel.a from slot sel.b: device time exceeds its GWCT (R231). -/
def execNotimeAck (s : State) : Res :=
  match s.caches.held.find? (fun h => h.id == s.sel.a && h.dst.toNat == s.sel.b && (match h.after with | some g => decide (g < s.now) | none => false)) with
  | some h => .next (s.releaseAck h)
  | none => .next s

/-- A holder has answered for a line, or counts as having answered: the writes that waited for it alone are acknowledged. -/
def State.answered (s : State) (slot : BitVec 7) (line : Nat) (p : HeldAck → Bool) : State :=
  let hit (h : HeldAck) : Bool := h.line == line && h.waiting.contains slot && p h
  let s : State := { s with caches := { s.caches with held := s.caches.held.map (fun h =>
    if hit h then { h with waiting := h.waiting.filter (· != slot) } else h) } }
  let done := s.caches.held.filter (fun h => h.line == line && h.after.isNone && h.waiting == [])
  done.foldl State.releaseAck s

/-- The partition in whose key range a line's frame lies (R188). -/
def State.lineEntry (s : State) (line : Nat) : Nat :=
  ((List.range 40).find? (fun e => (s.partEnt e).state == 1 && s.keyInRange e (s.store.frame (128 * line)).key)).getD 0

/-- RECALL goes out for the lines that the device itself has written in FREE or DEGRADED (R232), in the name of the partition whose
memory it wrote (R50). -/
def State.sendRecalls (s : State) : State :=
  let self := s.fabric.slot.getD 0
  (dedup s.caches.recalls).foldl (fun (s : State) l =>
    let e := s.lineEntry l
    s.recall 0 self { id := 0, src := self, part := partBits e, sub := subBits e, pgen := (s.partEnt e).gen, result := .nack } l)
    { s with caches := { s.caches with recalls := [] } }

/-- RECALL of a line of the peer of link w: this device's copies of it, under every key, go, and RECALL_ACK answers. -/
def execRecallLine (w : BitVec 7) (x : RecallMsg) (s : State) : Res :=
  let slot := s.peerSlot w
  let mine := (2 ^ 51 + slot.toNat * 2 ^ 44) / 128 + x.line.toNat
  let s := (s.dropPeers (fun l => l % 2 ^ 45 == mine)).dropL1 (fun _ _ l => l % 2 ^ 45 == mine)
  .next (s.sendAnswer slot x.origin (.recallAck x.line))

/-- RECALL_ACK of a line from the peer of link w. -/
def execRecallAck (w : BitVec 7) (line : W64) (s : State) : Res := .next (s.answered (s.peerSlot w) line.toNat (fun _ => true))

/-- RECALL_TIMEOUT of a line for the peer of link w: 4 ms without an answer; the link is reported. -/
def execRecallTimeout (w : BitVec 7) (line : W64) (s : State) : Res :=
  let slot := s.peerSlot w
  let late (h : HeldAck) : Bool := h.line == line.toNat && h.waiting.contains slot && decide (h.sentAt + 4000000 ≤ s.now)
  if s.caches.held.any late then
    let s := if s.linkUp slot then s.linkEvent w 0x104 0 0 (s.link w).rx.expect 0 else s
    .next (s.answered slot line.toNat (fun h => decide (h.sentAt + 4000000 ≤ s.now)))
  else .next s

/-! ### The host's window (R54, R230) -/

/-- The bytes that an access through BAR2 covers. -/
def windowBytes : HostAccess → Nat
  | .read n => n
  | .write d | .atomic _ d => d.length

/-- Whether an access is one that the device completes: an AtomicOp is on 4 or 8 naturally aligned bytes (R52). -/
def windowOk (pa : Nat) : HostAccess → Bool
  | .read n => decide (0 < n)
  | .write d => d != []
  | .atomic op d => (d.length == 4 || d.length == 8) && pa % d.length == 0 && (match op with | .cas cmp => cmp.length == d.length | _ => true)

/-- The new bytes of an AtomicOp (R52). -/
def pcieBytes (op : PcieAtomic) (old d : List Byte) : List Byte :=
  match op with
  | .fetchAdd => bytesOf old.length (natOf old + natOf d)
  | .swap => d
  | .cas cmp => if old = cmp then d else old

/-- A write of the host through BAR2, at its home, as an access at sys scope (R230); holders of the line are sent RECALL (R232). -/
def State.windowWrite (s : State) (pa : Nat) (d : List Byte) : Option State :=
  (s.homeWrite 0 none 2 false pa d).map (fun s => ((List.range 40).foldl (fun (s : State) e => s.recordStore e pa d) s).noteWrite pa d.length)

/-- An access through BAR2 performed at its home; none while a copy owns a line of it (R233) or a shadow frame is awaited (R147). A read
of poisoned memory, or of a lost die's, completes with a poisoned TLP (R266); an AtomicOp then writes nothing. A write into a journaled
region waits for its record (R279), and is not delivered to a context that replays (R280, log entry 68). -/
def State.windowDo (s : State) (pa : Nat) (a : HostAccess) : Option State :=
  let n := windowBytes a
  let lost := s.lost.getLsbD (8 + homeDie pa)
  let old := s.store.bytes (s.shadowed pa) n
  let bad := s.store.poisoned (s.shadowed pa) n || lost
  let writes := match a with | .read _ => false | _ => true
  let kept := writes && (List.range 40).any (fun e => s.storeKept e pa)
  if s.ownedIn pa n || (writes && (List.range 40).any (fun e => s.storeHeld e pa)) then none
  else
    match a with
    | .read _ => some (s.emit (.hostData old bad))
    | .write d => if lost || kept then some s else s.windowWrite pa d
    | .atomic op d =>
      if bad || kept then some (s.emit (.hostData old bad))
      else (s.windowWrite pa (pcieBytes op old d)).map (fun s => s.emit (.hostData old false))

/-- What the host has sent is acted on in order, up to the first that has to wait (R230). -/
def State.windowRun : List HostPend → State → State
  | [], s => s
  | .doorbell q i :: r, s => (s.ring q i).windowRun r
  | .access off a :: r, s =>
    match s.windowDo off.toNat a with
    | some t => t.windowRun r
    | none => { s with host := { s.host with window := HostPend.access off a :: r } }
def State.windowRetry (s : State) : State :=
  if s.host.window = [] then s else { s with host := { s.host with window := [] } }.windowRun s.host.window

/-- HOST_WINDOW_ACCESS at an offset of PF0's BAR2, after those sent before it. One outside the window or the fast tier, or while PF0 is in
reset, is unsupported. -/
def execHostWindowAccess (off : W64) (a : HostAccess) (s : State) : Res :=
  let last := off.toNat + windowBytes a
  if s.ideFails 0 then .next (s.emit (.ideFail 0))
  else if !s.answers 0 || !windowOk off.toNat a || decide (s.host.bar2 < last ∨ Config.hbmSize s.part < last) then .next (s.emit .unsupported)
  else .next ({ s with host := { s.host with window := s.host.window ++ [HostPend.access off a] } }.windowRetry)

end Sys2Proof.Machine
end

