-- ==== Sys2Proof/Machine/Link.lean ====
section
/-!
DEFINITION. Links: training (R27), flits as they arrive (R29 to R35), stripes (R36 to R39), the receive pools (R41 to R46), keys (R47 to
R49) and generations (R50).
-/

namespace Sys2Proof.Machine

/-- Link w carries flits: the fabric is there and the link is up (R23, R27). Wavelength 127 is the loopback link (R26). -/
def State.linkOn (s : State) (w : BitVec 7) : Bool := s.fabric.slot.isSome && (s.link w).up && s.power.on

/-! ### The sender's side: acknowledgements and replay (R33 to R35) -/

/-- SEQ of the oldest flit that no ACK covers. -/
def Tx.oldest (t : Tx) : W16 := match t.retry with | [] => t.next | f :: _ => f.hdr.seq

/-- A KEYCTL on a link (R48). DESIGN CHOICE (log entry 125): its PGEN is the generation of table entry 0. -/
def State.sendKeyctl (s : State) (w : BitVec 7) (m : KeyCtl) : State :=
  s.push w { type := 0x14, cls := 0, part := 0, sub := 0, pgen := (s.partEnt 0).gen, pois := false, flits := 1, sent := 0, payer := .part
             msg := some (.keyctl m) }

/-- The old bank is retired once every flit sent under it is acknowledged (R48). -/
def State.retireKey (s : State) (w : BitVec 7) : State :=
  match (s.link w).tx.retire with
  | none => s
  | some b =>
    if (s.link w).tx.retry.any (fun f => f.hdr.kg == b) then s
    else (s.modLink w (fun l => { l with tx := { l.tx with retire := none } })).sendKeyctl w (.retire b)

/-- Whether a flit of a retry buffer is marked poisoned (R264): it is sent with POIS (log entry 116). -/
def State.retryPois (s : State) (w : BitVec 7) (f : Flit) : Flit :=
  if s.store.marked (.retry w.toNat f.hdr.seq.toNat) then { f with hdr := { f.hdr with pois := true } } else f
/-- Flits that the peer has accepted: a release among them has reached the home, and its forwarding record is gone (R250). -/
def State.delivered (s : State) (fs : List Flit) : State :=
  { s with
    berths := { s.berths with forwards := s.berths.forwards.filter (fun f => !(f.freed && fs.any (fun x => x.msg == some (.release f.name)))) } }

/-- An ACK: the next SEQ that the peer expects. -/
def State.acked (s : State) (w : BitVec 7) (ack : W16) : State :=
  let t := (s.link w).tx
  let n := (ack - t.oldest).toNat
  if n = 0 ∨ t.retry.length < n then s
  else
    let s : State := { s with store := (t.retry.take n).foldl (fun (m : Store) f => m.clearMark (.retry w.toNat f.hdr.seq.toNat)) s.store }
    ((s.delivered (t.retry.take n)).modLink w (fun l => { l with tx := { l.tx with retry := l.tx.retry.drop n } })).retireKey w

/-- What every header brings: ACK and PRI (R34, R44). -/
def State.ackPri (s : State) (w : BitVec 7) (h : FlitHdr) : State :=
  (if h.ackv then s.acked w h.ack else s).modLink w (fun l => { l with tx := { l.tx with xoff := h.pri } })
/-- The same, and what may go now goes. -/
def State.header (s : State) (w : BitVec 7) (h : FlitHdr) : State := (s.ackPri w h).pump w

/-- Flits are sent again from a SEQ on, as stored, before any new one (R35); not while the direction waits for a RESTRIPE_ACK or is down. -/
def State.replayFrom (s : State) (w : BitVec 7) (seq : W16) : State :=
  let t := (s.link w).tx
  let n := (seq - t.oldest).toNat
  if t.awaiting || t.active == 0 || t.down then s.modLink w (fun l => { l with tx := { l.tx with replay := some seq } })
  else if t.retry.length < n then s.pump w
  else
    let fs := t.retry.drop n
    let s := s.modLink w (fun l => { l with tx := { l.tx with replay := none, stream := l.tx.stream + 16 * fs.length } })
    let s : State := { s with out := s.out ++ fs.map (fun f => Output.flit w (s.retryPois w f) (t.nonce f)) }
    s.pump w

/-! ### The receiver's side (R34) -/

/-- A NAK of the expected SEQ, at most once per microsecond while it stays the same. -/
def State.sendNak (s : State) (w : BitVec 7) : State :=
  let r := (s.link w).rx
  match r.nakAt with
  | some t =>
    if s.now < t + 1000 then s
    else (s.modLink w (fun l => { l with rx := { l.rx with nakAt := some s.now } })).local_ w .nak
  | none => (s.modLink w (fun l => { l with rx := { l.rx with nakAt := some s.now } })).local_ w .nak

/-! ### Receive pools (R41 to R43) -/

/-- The reserve of a top-level partition, in slots of 256 bytes. -/
def State.reserveOf (s : State) (part : Nat) : Nat := 4 * (s.partEnt (5 * part)).poolres.toNat
def State.sharedSize (s : State) : Nat := 32768 - ((List.range 8).map s.reserveOf).sum

/-- A slot for a flit: of the reserve of its partition, else shared, else of its link's headroom. -/
def State.poolRegion (s : State) (die : Nat) (part : BitVec 3) (w : BitVec 7) : Option PoolRegion :=
  let p := s.poolOf die
  if p.countP (fun x => x.region == .reserve && x.part == part) < s.reserveOf part.toNat then some .reserve
  else if p.countP (·.region == .shared) < s.sharedSize then some .shared
  else if p.countP (·.region == .headroom w) < 1024 then some (.headroom w)
  else none

def State.modPool (s : State) (die : Nat) (f : List PoolSlot → List PoolSlot) : State :=
  ({ s with fabric := { s.fabric with pools := modAt s.fabric.pools die f } }).setXoff die

/-- What holds the slots of a message that is still arriving on a link, by the fields that its flits share. -/
def arriving (w : BitVec 7) (h : FlitHdr) : Nat := 2 ^ 32 + ((w.toNat * 4 + h.cls.toNat) * 8 + h.part.toNat) * 8 + h.sub.toNat
/-- What holds the slots of an inbound request that is held. -/
def heldBy (src : BitVec 7) (id : Nat) : Nat := (src.toNat + 1) * 2 ^ 64 + id

/-- The slots of the message to which a flit belongs are freed, or pass to the request that is held. -/
def State.poolDone (s : State) (w : BitVec 7) (h : FlitHdr) (m : Option FabMsg) : State :=
  let rs := match m with | some (.request r) => [r] | some (.requests rs) => rs | _ => []
  let keep := (rs.find? (fun r => s.ops.inbound.any (fun i => i.req.id == r.id && i.req.src == r.src))).map (fun r => heldBy r.src r.id)
  let s : State := { s with store := s.store.clearMark (.pool (linkDie w) (arriving w h)) }
  s.modPool (linkDie w) (fun p => p.filterMap (fun x =>
    if x.holder = arriving w h then keep.map (fun k => { x with holder := k }) else some x))

/-- Whether a receive pool's entry for an arriving message is marked poisoned (R264): its message counts as one with POIS (log entry 116). -/
def State.poolPois (s : State) (w : BitVec 7) (h : FlitHdr) : Bool := s.store.marked (.pool (linkDie w) (arriving w h))

/-- The slots of requests that are no longer held are freed. -/
def State.settlePools (s : State) : State :=
  let live (x : PoolSlot) : Bool := decide (x.holder < 2 ^ 64) || s.ops.inbound.any (fun i => heldBy i.req.src i.req.id == x.holder)
  (List.range 4).foldl (fun (s : State) d => if (s.poolOf d).all live then s else s.modPool d (fun p => p.filter live)) s

/-! ### Flits as they arrive -/

/-- Whether an open message is the one to which a flit belongs: CLASS, PART and SUB are its flits' own (log entry 106). -/
def OpenMsg.fits (o : OpenMsg) (h : FlitHdr) : Bool := o.cls == h.cls && o.part == h.part && o.sub == h.sub
/-- The open messages of a link, changed. -/
def State.modOpen (s : State) (w : BitVec 7) (f : List OpenMsg → List OpenMsg) : State :=
  s.modLink w (fun l => { l with rx := { l.rx with open_ := f l.rx.open_ } })
/-- A message begins: it takes the place of one with the same fields. -/
def State.begin_ (s : State) (w : BitVec 7) (h : FlitHdr) (m : Option FabMsg) (stale : Bool) : State :=
  let o : OpenMsg := { cls := h.cls, part := h.part, sub := h.sub, msg := m, pois := h.pois, stale, type := h.type, pgen := h.pgen }
  s.modOpen w (fun l => if h.last then l.filter (fun x => !x.fits h) else o :: l.filter (fun x => !x.fits h))

/-- A flit that is accepted in sequence and then discarded (R29, R30, R50): its slot is free at once. -/
def State.discardFlit (s : State) (w : BitVec 7) (h : FlitHdr) : State :=
  (s.linkEvent w 0x10B 1 0 (s.link w).rx.expect 1).poolDone w h none

/-- A sequenced flit of a type (R34, R42): whether its contents are to be used. A tag that fails counts as an error of the fabric that
replay corrects (R264, R271), unless RASCFG turns the check off (R263). DESIGN CHOICE (log entry 125): a flit with one of the reserved values
5 to 7 of SUB is accepted by its SEQ and its contents discarded with event 0x10B, as one with nonzero reserved bits is (R29 calls the values
reserved and says no more). -/
def State.takeFlit (s : State) (w : BitVec 7) (f : Flit) (type : Byte) : State × Bool :=
  let l := s.link w
  if !s.linkOn w || l.rx.loss || (w == 127 && type != 0x14) then (s, false)
  else if !((f.tagOk || s.rasOff 5) && (bankOf l.rx.banks f.hdr.kg).valid) then ((s.countError 5 true (link := w.toNat)).sendNak w, false)
  else
    let s := s.header w f.hdr
    if f.hdr.seq ≠ l.rx.expect then (s.sendNak w, false)
    else if 0 < l.rx.again then
      (s.modLink w (fun l => { l with rx := { l.rx with expect := l.rx.expect + 1, again := l.rx.again - 1, nakAt := none } }), false)
    else
      match s.poolRegion (linkDie w) f.hdr.part w with
      | none => ((s.sendNak w).linkEvent w 0x107 1 0 l.rx.expect 1, false)
      | some region =>
        let s := s.modPool (linkDie w) (fun p => { part := f.hdr.part, v := vprio f.hdr.cls f.hdr.part, region, holder := arriving w f.hdr } :: p)
        let s := s.modLink w (fun l => { l with rx := { l.rx with
          expect := l.rx.expect + 1, nakAt := none, banks := modBank l.rx.banks f.hdr.kg (·.accept f.hdr.seq) } })
        if f.hdr.rsv ≠ 0 ∨ f.hdr.type ≠ type ∨ 4 < f.hdr.sub.toNat then ((s.begin_ w f.hdr none false).discardFlit w f.hdr, false)
        else (s, true)

/-- A link-local flit of a type (R30, R47): whether its contents are to be used. It is dropped when its tag fails or its counter is more
than 32,768 ahead of the highest seen under its bank. DESIGN CHOICE (log entry 125): one whose counter equals the highest seen, 0 ahead, is
accepted, since R47 names only those too far ahead. New flits of the reverse direction go before a replay that a NAK asks for only if they
are link-local (R35). -/
def State.takeLocal (s : State) (w : BitVec 7) (f : Flit) (type : Byte) : State × Bool :=
  let l := s.link w
  let ahead := (f.hdr.seq - BitVec.ofNat 16 (bankOf l.rx.banks f.hdr.kg).locals).toNat
  if !s.linkOn w then (s, false)
  else if !((f.tagOk || s.rasOff 5) && (bankOf l.rx.banks f.hdr.kg).valid) then (s.countError 5 true (link := w.toNat), false)
  else if 32768 < ahead then (s, false)
  else if l.rx.loss && type != 0x11 then (s, false)
  else
    let s := s.modLink w (fun l => { l with rx := { l.rx with
      banks := modBank l.rx.banks f.hdr.kg (fun b => { b with locals := b.locals + ahead }) } })
    let s := if type = 0x10 ∧ f.hdr.type = 0x10 then s.ackPri w f.hdr else s.header w f.hdr
    if f.hdr.type ≠ type then (s.linkEvent w 0x10B 1 0 (s.link w).rx.expect 1, false) else (s, true)

/-! ### Messages -/

/-- A control message that a link brought whole is handled. -/
def State.handleCtl (s : State) (w : BitVec 7) (m : FabMsg) : State :=
  let sel (a : Nat) : State := { s with sel := ⟨a, 0, 0⟩ }
  match m with
  | .delivery d => after s (execBerthDelivery d s)
  | .resolution r => after s (execForwardedResolution r s)
  | .resolutionAck n alive => after s (execResolutionAck n alive s)
  | .release n => s.takeRelease n
  | .registration r => after s (execForwardingRegistration r s)
  | .stage p => after s (execStageStep p s)
  | .stageAccept id => s.stageAccepted id
  | .arm m => after s (execArm m s)
  | .abandon r k => after s (execAbandon r k s)
  | .mode r t => after s (execMode r t s)
  | .ready r k => after s (execReady r k s)
  | .go r => after s (execGo (sel r.toNat))
  | .stopped r k => after s (execStopped r k s)
  | .sealNow r => after s (execSealNow (sel r.toNat))
  | .recallLine x => after s (execRecallLine w x s)
  | .recallAck x => after s (execRecallAck w x s)
  | .request _ | .requests _ | .response _ | .contribution _ | .keyctl _ | .nack => s

/-- A message that a link brought whole is handled. Of one whose flits carry POIS, requests and contributions carry the poison on (R266);
a response then counts as failed with POISON, and another message is not used (log entry 116). -/
def State.handle (s : State) (w : BitVec 7) (pois : Bool) (m : FabMsg) : State :=
  let ask (s : State) (r : RemoteReq) : State := after s (execRemoteRequest { r with pois := r.pois || pois } s)
  match m with
  | .request r => ask s r
  | .requests rs => rs.foldl ask s
  | .contribution m => s.contribution { m with pois := m.pois || pois }
  | .response r => after s (execRemoteResponse (if pois then { r with result := .fault 9 } else r) s)
  | m => if pois then s else s.handleCtl w m

/-- NACK of a REQ, in the class of the REQ (R50): it names the request slot, where there is one. -/
def State.nackMsg (s : State) (w : BitVec 7) (h : FlitHdr) (m : FabMsg) : State :=
  match m with
  | .request r => s.deliverRsp r.src (s.rspFor r .nack)
  | .requests rs => rs.foldl (fun (s : State) r => s.deliverRsp r.src (s.rspFor r .nack)) s
  | .delivery d =>
    if d.stage then s.sendAnswer (s.peerSlot w) ⟨h.part, h.sub, h.pgen⟩ .nack
    else s.deliverRsp d.src { id := d.id, src := s.selfSlot, part := d.part, sub := d.sub, pgen := d.pgen, result := .nack, cls := 0 }
  | _ => s.send (s.peerSlot w) 0x02 h.cls ⟨h.part, h.sub, h.pgen⟩ false .nack

/-- The entry that a flit's PART and SUB name. -/
def hdrEntry (h : FlitHdr) : Nat := 5 * h.part.toNat + h.sub.toNat

/-- The first flit of a message: handled at once when it is also the last. -/
def State.openMsg (s : State) (w : BitVec 7) (f : Flit) : State :=
  let s := s.begin_ w f.hdr f.msg false
  if f.hdr.last then
    match f.msg with
    | some m => (s.handle w (f.hdr.pois || s.poolPois w f.hdr) m).poolDone w f.hdr (some m)
    | none => s.poolDone w f.hdr none
  else s

/-- The first flit of a message that is not used: its other flits are not, either, and those of an ended generation are each
recorded (R50, R51). -/
def State.dropMsg (s : State) (w : BitVec 7) (f : Flit) (stale : Bool) : State :=
  let s := s.begin_ w f.hdr none stale
  if stale then s.discardFlit w f.hdr else s.poolDone w f.hdr none

/-- REQ on link w (R34, R50). -/
def execReq (w : BitVec 7) (f : Flit) (s : State) : Res :=
  let (s, ok) := s.takeFlit w f 0x01
  let h := (s.link w).h
  if !ok then .next s
  else if h.any (·.isNone) then
    .next ((match f.msg with | some m => s.nackMsg w f.hdr m | none => s).dropMsg w f false)
  else if h.getD (hdrEntry f.hdr) none ≠ some f.hdr.pgen then .next (s.dropMsg w f true)
  else .next (s.openMsg w f)

/-- RSP on link w: discarded when its PGEN is not this device's own generation; the slot of an ended generation is then free (R50, R88). -/
def execRsp (w : BitVec 7) (f : Flit) (s : State) : Res :=
  let (s, ok) := s.takeFlit w f 0x02
  if !ok then .next s
  else if f.hdr.pgen ≠ (s.partEnt (hdrEntry f.hdr)).gen then
    let s := s.dropMsg w f true
    match f.msg with
    | some (.response r) =>
      match s.ops.reqs.find? (fun q => q.stale && q.id == r.id && q.req.dst == r.src) with
      | some q => .next (s.reclaim q)
      | none => .next s
    | _ => .next s
  else .next (s.openMsg w f)

/-- An open RSP of a generation that this device has left. -/
def State.oldRsp (s : State) (o : OpenMsg) : Bool :=
  o.type == 0x02 && !o.stale && o.pgen != (s.partEnt (5 * o.part.toNat + o.sub.toNat)).gen
/-- The RSP messages that stand open on a link when this device's own generation of their entry rises are discarded: their slots are free at
once, and their flits so far are recorded (R50, R51). -/
def State.dropOldRsps (s : State) (w : BitVec 7) : State :=
  ((s.link w).rx.open_.filter s.oldRsp).foldl
    (fun (s : State) o =>
      let h : FlitHdr := { rsv := 0, ackv := false, pois := false, pri := 0, ack := 0, seq := 0, pgen := o.pgen, last := false, dst := 0, src := 0,
                           sub := o.sub, part := o.part, cls := o.cls, kg := false, type := 0x02 }
      let n := (s.poolOf (linkDie w)).countP (fun x => x.holder == arriving w h)
      ((s.modOpen w (fun l => l.map (fun x => if x.fits h then { x with stale := true, msg := none } else x))).linkEvent
        w 0x10B 1 0 (s.link w).rx.expect n).poolDone w h none) s

/-- The same on every link. -/
def State.settleRsps (s : State) : State :=
  ((withIndex s.fabric.links).filter (fun p => p.2.rx.open_.any s.oldRsp)).foldl (fun (s : State) p => s.dropOldRsps (BitVec.ofNat 7 p.1)) s

/-- DATA on link w: a continuation of the open message with its CLASS, PART and SUB; the last flit completes it (R31). A RSP whose
generation this device has left is discarded (R50). POIS of any flit
poisons the whole message's data (R29, R266). -/
def execData (w : BitVec 7) (f : Flit) (s : State) : Res :=
  let (s, ok) := s.takeFlit w f 0x03
  if !ok then .next s
  else
    match (s.link w).rx.open_.find? (·.fits f.hdr) with
    | none => .next (s.poolDone w f.hdr none)
    | some o =>
      let s := s.modOpen w (fun l =>
        if f.hdr.last then l.filter (fun x => !x.fits f.hdr) else l.map (fun x => if x.fits f.hdr then { x with pois := x.pois || f.hdr.pois } else x))
      if o.stale || (o.type == 0x02 && f.hdr.pgen != (s.partEnt (hdrEntry f.hdr)).gen) then .next (s.discardFlit w f.hdr)
      else
        match o.msg with
        | none => .next (s.poolDone w f.hdr none)
        | some m => .next (if f.hdr.last then (s.handle w (o.pois || f.hdr.pois || s.poolPois w f.hdr) m).poolDone w f.hdr (some m) else s)

/-- GENBUMP on link w (R50). Messages of its entry that have not come whole never do: the peer has dropped their other flits (R87). -/
def execGenbump (w : BitVec 7) (f : Flit) (s : State) : Res :=
  let (s, ok) := s.takeFlit w f 0x15
  if !ok then .next s
  else
    let mine (o : OpenMsg) : Bool := o.part == f.hdr.part && o.sub == f.hdr.sub
    let cut := (s.link w).rx.open_.filter mine
    let s := s.modLink w (fun l => { l with
      h := modAt l.h (hdrEntry f.hdr) (fun _ => some f.hdr.pgen), rx := { l.rx with open_ := l.rx.open_.filter (fun o => !mine o) } })
    .next ((cut.foldl (fun (s : State) o => s.poolDone w { f.hdr with cls := o.cls } none) s).poolDone w f.hdr none)

/-- KEYCTL on link w: an installed bank is used from the next flit on, whose SEQ begins its extended sequence (R47); a retired one is erased
(R48). DESIGN CHOICE (log entry 108): REKEY_DONE is recorded by the sending end alone, with DIR 0, when it takes the new bank into use. -/
def execKeyctl (w : BitVec 7) (f : Flit) (m : KeyCtl) (s : State) : Res :=
  let (s, ok) := s.takeFlit w f 0x14
  if !ok then .next s
  else
    let s := s.poolDone w f.hdr none
    match m with
    | .installed b =>
      let t := (s.link w).tx
      if t.kg = b ∨ (bankOf t.banks b).valid = false then .next s
      else .next (((s.modLink w (fun l => { l with tx := { l.tx with
        kg := b, retire := some t.kg, rekey := false, banks := modBank l.tx.banks b (fun k => { k with seqs := l.tx.next.toNat }) } })).linkEvent
          w 0x108 0 0 (s.link w).rx.expect 0).retireKey w)
    | .retire b => .next (s.modLink w (fun l => { l with rx := { l.rx with banks := modBank l.rx.banks b (fun _ => KeyBank.reset) } }))

/-- IDLE on link w. -/
def execIdle (w : BitVec 7) (f : Flit) (s : State) : Res := .next (s.takeLocal w f 0x00).1

/-- NAK on link w: replay from its SEQ (R35). -/
def execNak (w : BitVec 7) (f : Flit) (s : State) : Res :=
  let (s, ok) := s.takeLocal w f 0x10
  .next (if ok then (s.acked w f.hdr.ack).replayFrom w f.hdr.ack else s)

/-- IDLE_SEND on link sel.a (R34). -/
def execIdleSend (s : State) : Res :=
  let w : BitVec 7 := BitVec.ofNat 7 s.sel.a
  .next (if s.linkOn w then s.local_ w .idle else s)

/-- NAK_REPEAT on link sel.a: the NAK that is outstanding goes out again (R34). -/
def execNakRepeat (s : State) : Res :=
  let w : BitVec 7 := BitVec.ofNat 7 s.sel.a
  .next (if s.linkOn w && (s.link w).rx.nakAt.isSome then s.sendNak w else s)

/-! ### Stripes (R36 to R39) -/

/-- RESTRIPE is sent, on the active stripes. -/
def State.sendRestripe (s : State) (w : BitVec 7) : State :=
  let t := (s.link w).tx
  s.local_ w (.restripe t.active t.oldest)

/-- Stripes of an egress direction are lost (R37). An egress event carries, as SEQ, the expected SEQ of this device's receiver on the
link (log entry 108). A link that is not up yet loses them without a RESTRIPE. -/
def State.loseTx (s : State) (w : BitVec 7) (lost : W16) : State :=
  let gone := (s.link w).tx.active &&& lost
  if gone = 0 then s
  else
    let up := (s.link w).up
    let s := s.linkEvent w 0x101 0 gone (s.link w).rx.expect 0
    let s := s.modLink w (fun l => { l with tx := { l.tx with active := l.tx.active &&& ~~~gone, awaiting := l.up } })
    if !up then (if (s.link w).tx.active = 0 then s.modLink w (fun l => { l with trained := false }) else s)
    else if (s.link w).tx.active = 0 then s.linkIsDown w 0 else s.sendRestripe w

/-- ELS_FAULT of unit sel.a: its stripes are lost on all 128 egress links (R36). The event belongs to no link; its SEQ is 0 (log entry
108). -/
def execElsFault (s : State) : Res :=
  let q := s.sel.a % 4
  let m : W16 := BitVec.ofNat 16 (15 * 16 ^ q)
  if s.fabric.slot.isNone then .next s
  else
    let s := (s.noteError { time := s.now, row := 8, fixed := false, msc := false, die := none, link := 0 }).fabricEvent 0x106 0xFF (BitVec.ofNat 8 q) m 0 0
    .next ((List.range 128).foldl (fun (s : State) w => s.loseTx (BitVec.ofNat 7 w) m) s)

/-- LOSS on link w: the stripes outside its mask are lost. -/
def execLoss (w : BitVec 7) (f : Flit) (mask : W16) (s : State) : Res :=
  let (s, ok) := s.takeLocal w f 0x16
  .next (if ok then s.loseTx w (~~~mask) else s)

/-- STRIPE_LOST on link w: the ingress stripes that still carry light. MASK of the event names those newly lost. LOSS goes out where the
direction decoded on one of them; a link that is trained and not up yet loses them without it, and with the last of them its training
(R27, R36). -/
def execStripeLost (w : BitVec 7) (lit : W16) (s : State) : Res :=
  let r := (s.link w).rx
  let gone := r.lit &&& ~~~lit
  if s.fabric.slot.isNone ∨ s.power.on = false ∨ (s.link w).trained = false ∨ gone = 0 then .next s
  else
    let s := s.linkEvent w 0x101 1 gone r.expect 0
    if (s.link w).up = false then
      .next (s.modLink w (fun l => { l with
        trained := r.lit &&& lit != 0, rx := { l.rx with lit := r.lit &&& lit, active := r.active &&& lit } }))
    else
      let s := s.modLink w (fun l => { l with rx := { l.rx with lit := r.lit &&& lit } })
      if r.active &&& gone = 0 then .next s
      else
        let s := s.modLink w (fun l => { l with rx := { l.rx with loss := true } })
        let s := if r.active &&& r.lit &&& lit = 0 then s.linkIsDown w 1 else s
        .next (s.local_ w (.loss (s.link w).rx.lit))

/-- LOSS_REPEAT on link sel.a. -/
def execLossRepeat (s : State) : Res :=
  let w : BitVec 7 := BitVec.ofNat 7 s.sel.a
  .next (if s.linkOn w && (s.link w).rx.loss then s.local_ w (.loss (s.link w).rx.lit) else s)

/-- RESTRIPE on link w: accepted when its stripes carry light; NEXT is expected (R38). Flits from NEXT on that were accepted before come again
and are not used twice (R35). -/
def execRestripe (w : BitVec 7) (f : Flit) (mask next : W16) (s : State) : Res :=
  let (s, ok) := s.takeLocal w f 0x11
  let r := (s.link w).rx
  if !ok ∨ mask = 0 ∨ mask &&& ~~~r.lit ≠ 0 then .next s
  else
    let back := (r.expect - next).toNat
    let s := s.modLink w (fun l => { l with rx := { l.rx with
      active := mask, loss := false, nakAt := none, expect := next
      again := if back < 32768 then l.rx.again + back else l.rx.again - (next - r.expect).toNat } })
    .next (s.local_ w (.restripeAck mask))

/-- RESTRIPE_ACK on link w: replay goes on from NEXT, or the stripes that its mask omits are lost too. -/
def execRestripeAck (w : BitVec 7) (f : Flit) (mask : W16) (s : State) : Res :=
  let (s, ok) := s.takeLocal w f 0x12
  let t := (s.link w).tx
  if !ok ∨ t.awaiting = false then .next s
  else if t.active &&& ~~~mask ≠ 0 then .next (s.loseTx w (~~~mask))
  else
    let s := s.modLink w (fun l => { l with tx := { l.tx with awaiting := false, stream := 0, replay := none } })
    let s := s.linkEvent w 0x103 0 t.active t.oldest t.retry.length
    .next (s.replayFrom w t.oldest)

/-- RESTRIPE_REPEAT on link sel.a. -/
def execRestripeRepeat (s : State) : Res :=
  let w : BitVec 7 := BitVec.ofNat 7 s.sel.a
  .next (if s.linkOn w && (s.link w).tx.awaiting then s.sendRestripe w else s)

/-- STRIPE_RESTORED on link w: a stripe's light has been steady for 10 ms. The two directions take stripes back independently (R39): the
ingress one decodes it again, the egress one is added by RESTRIPE. -/
def execStripeRestored (w : BitVec 7) (x : StripeRef) (s : State) : Res :=
  let bit : W16 := BitVec.ofNat 16 (2 ^ x.stripe.toNat)
  let l := s.link w
  if !s.linkOn w then .next s
  else if x.egress then
    if l.tx.active &&& bit ≠ 0 then .next s
    else
      let s := s.modLink w (fun l => { l with tx := { l.tx with active := l.tx.active ||| bit, awaiting := true } })
      .next ((s.linkEvent w 0x102 0 bit l.rx.expect 0).sendRestripe w)
  else if l.rx.lit &&& bit ≠ 0 then .next s
  else .next ((s.modLink w (fun l => { l with rx := { l.rx with lit := l.rx.lit ||| bit } })).linkEvent w 0x102 1 bit l.rx.expect 0)

/-! ### Training, keys, time transfer -/

/-- Both directions of a link that is up run. -/
def Link.runs (l : Link) : Bool := l.up && l.tx.active != 0 && l.rx.lit != 0 && !l.tx.down

/-- LINK_TRAINING on link w: light on at least one stripe in each direction, (R27).
The loopback link (w = 127) is trained like the others. A link of which a direction is down is trained again. A trained link starts
anew: SEQ and expected SEQ are 0 and the retry buffer is empty (log entry 107). -/
def execLinkTraining (w : BitVec 7) (lit : LightMasks) (s : State) : Res :=
  if s.fabric.slot.isNone ∨ lit.ingress = 0 ∨ lit.egress = 0 ∨ (s.link w).runs = true ∨ s.power.on = false then .next s
  else
    .next (s.modLink w (fun l => { Link.reset with
      trained := true, tx := { Tx.reset with active := lit.egress, queue := l.tx.queue.map (fun m => { m with sent := 0 }) }
      rx := { Rx.reset with lit := lit.ingress, active := lit.ingress } }))

/-- LINK_UP on link w: the key exchange has filled key bank 0; GENBUMP of every entry goes before anything else (R27, R50). The event
concerns both directions; its DIR is 0 (log entry 108). -/
def execLinkUp (w : BitVec 7) (verified : Bool) (s : State) : Res :=
  if (s.link w).trained = false ∨ (s.link w).up = true ∨ s.fabric.slot.isNone = true then .next s
  else if verified = false then .next (s.log 0x8005 (BitVec.ofNat 64 w.toNat))
  else
    let key := (({ KeyBank.reset with valid := true }), KeyBank.reset)
    let old := (s.link w).tx.queue
    let s := s.modLink w (fun l => { l with
      up := true, tx := { l.tx with banks := key, kg := false, down := false, rekey := false, queue := [] }, rx := { l.rx with banks := key } })
    let s := s.linkEvent w 0x105 0 (s.link w).tx.active (s.link w).rx.expect 0
    let s := (List.range 40).foldl (fun (s : State) e => s.sendGen w e) s
    let s := s.modLink w (fun l => { l with tx := { l.tx with queue := l.tx.queue ++ old } })
    .next (s.pump w)

/-- REKEY of a direction of link w (R48, R49): both ends have installed a new key in the idle bank, and the receiver confirms it; or no
key was agreed. It waits while the idle bank still holds the last key. -/
def execRekey (w : BitVec 7) (x : RekeyEnd) (s : State) : Res :=
  let l := s.link w
  let new_ : KeyBank := { KeyBank.reset with valid := true }
  if !s.linkOn w then .next s
  else if !x.agreed then .next (s.linkEvent w 0x109 (if x.egress then 0 else 1) 0 l.rx.expect 0)
  else if x.egress then
    if l.tx.retire.isSome then .next s
    else .next (s.modLink w (fun l => { l with tx := { l.tx with banks := modBank l.tx.banks (!l.tx.kg) (fun _ => new_) } }))
  else
    match l.rx.banks.1.valid, l.rx.banks.2.valid with
    | true, true => .next s
    | one, _ => .next ((s.modLink w (fun l => { l with rx := { l.rx with banks := modBank l.rx.banks one (fun _ => new_) } })).sendKeyctl w (.installed one))

/-- TIMEX on link w: kept for the servo (R18). -/
def execTimex (w : BitVec 7) (f : Flit) (m : TimexMsg) (s : State) : Res :=
  let (s, ok) := s.takeLocal w f 0x13
  .next (if ok then s.modLink w (fun l => { l with peer := some m }) else s)

/-- TIMEX_SEND on link sel.a, stamped with device time as it leaves (R18). -/
def execTimexSend (s : State) : Res :=
  let w : BitVec 7 := BitVec.ofNat 7 s.sel.a
  if !s.linkOn w then .next s
  else .next (s.local_ w (.timex { stamp := BitVec.ofNat 64 s.now, tstate := s.clock.tstate, u := s.clock.u.getD (2 ^ 32 - 1) }))

end Sys2Proof.Machine
end

