-- ==== Sys2Proof/Machine/RegRead.lean ====
section
/-!
DEFINITION. What the registers of the BARs read as, by their places (R54): discovery (R55, R57), event queue control (R72), the partition
table (R77), the budget table (R80), reset control (R85), context control with snapshots and journals (R121, R145, R277), memory control
(R190, R191) and queue pages (R59). Reserved bytes read as zero.
-/

namespace Sys2Proof.Machine

/-! ### Discovery -/

/-- The dies whose LOSTMASK bits a VF sees: the compute dies on which its partition has sites, and the base dies below them (DESIGN CHOICE,
log entry 119: which base dies are a partition's is not stated). -/
def partDies (p : PartEntry) : Nat :=
  ((withIndex p.sites).filter (fun k => k.2 != 0)).foldl (fun m k => m ||| 2 ^ k.1 ||| 2 ^ (8 + k.1 / 2)) 0

/-- SITESk as a function sees it: a VF sees the sites of its partition. -/
def State.seenSites (s : State) (fn k : Nat) : BitVec 28 :=
  let own := s.sites.getD k 0
  if fn = 0 then own
  else match s.entryOf fn with | some e => own &&& (s.partEnt e).sites.getD k 0 | none => 0

/-- The up-link mask (R27). -/
def State.upMask (s : State) : Nat := maskOf (s.upLinks.map (·.toNat))

/-- The discovery page of a function. -/
def State.discovery (s : State) (fn : Nat) : List Byte :=
  let sites := (List.range 8).map (s.seenSites fn)
  let lost := if fn = 0 then s.lost.toNat else match s.entryOf fn with | some e => s.lost.toNat &&& partDies (s.partEnt e) | none => 0
  bytesOf 8 ((if fn = 0 then 0x9A90 else 0x9A91) + 65536 * (Config.family s.part).toNat) ++
  bytesOf 8 (Config.stepping.toNat + 256 * 3) ++ bytesOf 8 Config.serial.toNat ++ bytesOf 8 (Config.feat0 s.part).toNat ++
  List.replicate 24 (0 : Byte) ++ List.replicate 8 (0 : Byte) ++
  sites.flatMap (fun m => bytesOf 8 m.toNat) ++
  bytesOf 8 ((sites.map (fun m => popc 28 m.toNat)).sum) ++ bytesOf 8 lost ++
  bytesOf 8 (Config.hbmSize s.part) ++ bytesOf 8 (Config.capSize s.part) ++
  bytesOf 8 (match s.fabric.slot with | some d => d.toNat | none => 0xFF) ++
  bytesOf 8 (s.upMask % 2 ^ 64) ++ bytesOf 8 (s.upMask / 2 ^ 64) ++
  bytesOf 8 ((tsCode s.clock.tstate).toNat + 2 ^ 32 * (match s.clock.u with | some u => min u 0xFFFFFFFF | none => 0xFFFFFFFF)) ++
  bytesOf 8 s.now ++ bytesOf 8 (s.queuesOf fn).length

/-! ### The other pages -/

def EventQueue.bytes (q : EventQueue) : List Byte :=
  bytesOf 8 q.base.toNat ++ bytesOf 4 q.size.toNat ++ bytesOf 4 0 ++ bytesOf 4 q.wridx.toNat ++ bytesOf 4 q.rdidx.toNat ++
  List.replicate 16 0 ++ bytesOf 8 q.vector.toNat

def PartEntry.bytes (p : PartEntry) : List Byte :=
  [BitVec.ofNat 8 p.state, p.gen] ++ bytesOf 2 p.func.toNat ++ List.replicate 4 0 ++ p.sites.flatMap (fun m => bytesOf 4 m.toNat) ++
  bytesOf 4 p.mscways.toNat ++ bytesOf 2 p.keybase.toNat ++ bytesOf 2 p.keycount.toNat ++ bytesOf 4 p.hbmb.toNat ++
  bytesOf 4 p.flits.toNat ++ bytesOf 4 p.etime.toNat ++ bytesOf 4 p.poolres.toNat ++ bytesOf 4 p.slice.toNat ++
  [p.lease, p.l1lease, p.queues] ++ List.replicate 57 0

def Budget.bytes (b : Budget) : List Byte := bytesOf 4 b.hbmb.toNat ++ bytesOf 4 b.flits.toNat ++ bytesOf 4 b.etime.toNat ++ bytesOf 4 0

def SerPage.bytes (p : SerPage) : List Byte :=
  bytesOf 2 p.queue.toNat ++ bytesOf 2 0 ++ bytesOf 4 p.index.toNat ++ bytesOf 8 p.imgva.toNat ++ bytesOf 8 p.imgsize.toNat ++
  bytesOf 8 p.sig.toNat ++ bytesOf 4 p.drain.toNat ++ bytesOf 4 p.ctl.toNat ++ bytesOf 4 p.result.toNat ++ List.replicate 20 0

def Snapshot.bytes (k : Snapshot) : List Byte :=
  [k.thresh, k.tkind, k.status, k.level] ++ bytesOf 4 k.count.toNat ++ bytesOf 8 k.tbase.toNat ++ bytesOf 8 k.tsize.toNat ++
  bytesOf 8 k.sig.toNat ++ bytesOf 32 k.qmask.toNat

def Journal.bytes (j : Journal) : List Byte :=
  bytesOf 8 j.jbase.toNat ++ bytesOf 8 j.jsize.toNat ++ bytesOf 8 j.jwr.toNat ++ bytesOf 8 j.jreg.toNat ++ bytesOf 2 j.jrcount.toNat ++
  bytesOf 2 j.jctl.toNat ++ bytesOf 4 j.jstart.toNat ++ List.replicate 24 0

/-- DONE is write-only and reads as zero. -/
def Xlat.bytes (x : Xlat) : List Byte :=
  bytesOf 8 x.root.toNat ++ bytesOf 8 x.prbase.toNat ++ [x.prsize, 0] ++ bytesOf 2 x.prvec.toNat ++ bytesOf 4 x.prwr.toNat ++
  bytesOf 4 x.prrd.toNat ++ bytesOf 4 0 ++ bytesOf 8 0 ++ bytesOf 4 x.occlim.toNat ++ bytesOf 4 0 ++ bytesOf 8 x.deadrd.toNat ++
  bytesOf 8 x.stageshort.toNat

/-- The registers of the memory control page from 0xA00. -/
def MemCtl.ctlBytes (m : MemCtl) : List Byte :=
  bytesOf 8 m.invva.toNat ++ bytesOf 4 m.invpages.toNat ++ [m.invpent, m.invctl] ++ List.replicate 50 0 ++
  bytesOf 8 m.foppa.toNat ++ bytesOf 4 m.fopcount.toNat ++ bytesOf 2 m.fopkey.toNat ++ [m.fopkind, m.fopctl] ++ List.replicate 48 0 ++
  m.sideways.flatMap (fun v => bytesOf 8 v.toNat) ++ m.flush.flatMap (fun v => bytesOf 8 v.toNat) ++ bytesOf 4 m.memerr.toNat

/-- A queue page; BIND reads on PF0 alone. -/
def Queue.bytes (k : Queue) (bind : Bool) : List Byte :=
  bytesOf 8 k.base.toNat ++ bytesOf 4 k.size.toNat ++ bytesOf 4 ((if k.enable then 1 else 0) + (if k.pause then 2 else 0)) ++
  bytesOf 4 k.wridx.toNat ++ bytesOf 4 k.rdidx.toNat ++ bytesOf 4 k.state ++ bytesOf 4 k.errIdx.toNat ++ bytesOf 8 k.errCode.toNat ++
  bytesOf 8 k.vector.toNat ++ bytesOf 4 (if bind then k.func.toNat + 65536 * k.pent.toNat else 0)

/-- The page of PF0's BAR0 that holds an offset, with the offset at which it begins. -/
def State.pfPage (s : State) (o : Nat) : Nat × List Byte :=
  if o < 0x1000 then (0, s.discovery 0)
  else if o < 0x2000 then (0x1000, (s.fn 0).evq.bytes)
  else if o < 0x3400 then (0x2000 + (o - 0x2000) / 128 * 128, (s.writtenParts.getD ((o - 0x2000) / 128) PartEntry.reset).bytes)
  else if o < 0x4000 then (0x3400, bytesOf 4 s.host.pterr.toNat)
  else if o < 0x5000 then (0x4000, s.host.budgets.flatMap Budget.bytes)
  else if o < 0x6000 then (0x5000, (s.page 0).bytes)
  else if o < 0x6100 then (0x6000, (s.fn 0).ser.bytes)
  else if o < 0x6B00 then (0x6100 + (o - 0x6100) / 64 * 64, (s.snap ((o - 0x6100) / 64)).bytes)
  else if 0x6C00 ≤ o ∧ o < 0x7600 then (0x6C00 + (o - 0x6C00) / 64 * 64, (s.host.journals.getD ((o - 0x6C00) / 64) Journal.reset).bytes)
  else if 0x8000 ≤ o ∧ o < 0x8A00 then (0x8000 + (o - 0x8000) / 64 * 64, (s.memctl.xlat.getD ((o - 0x8000) / 64) Xlat.reset).bytes)
  else if 0x8A00 ≤ o ∧ o < 0x9000 then (0x8A00, s.memctl.ctlBytes)
  else if 0x100000 ≤ o ∧ o < 0x200000 then (o / 4096 * 4096, (s.queue ((o - 0x100000) / 4096)).bytes true)
  else (o, [])

/-- The same for the BAR0 of a VF. -/
def State.vfPage (s : State) (fn o : Nat) : Nat × List Byte :=
  if o < 0x1000 then (0, s.discovery fn)
  else if o < 0x2000 then (0x1000, (s.fn fn).evq.bytes)
  else if o < 0x3000 then (0x2000, (s.page fn).bytes)
  else if o < 0x3040 then (0x3000, (s.fn fn).ser.bytes)
  else if o < 0x30C0 then
    match s.entryOf fn with
    | some e => if o < 0x3080 then (0x3040, (s.snap e).bytes) else (0x3080, (s.host.journals.getD e Journal.reset).bytes)
    | none => (o, [])
  else if 0x10000 ≤ o ∧ o < 0x20000 then
    match s.boundQueue fn ((o - 0x10000) / 4096) with
    | some q => (o / 4096 * 4096, (s.queue q).bytes false)
    | none => (o, [])
  else (o, [])

/-- n bytes at an offset of the BAR0 of a function, as a read returns them; none: the read completes with Unsupported Request (R90). -/
def State.regRead (s : State) (fn off n : Nat) : Option (List Byte) :=
  if !s.answers fn then none
  else
    let p := if fn = 0 then s.pfPage off else s.vfPage fn off
    some ((List.range n).map (fun i => p.2.getD (off - p.1 + i) 0))

end Sys2Proof.Machine
end

