-- ==== Sys2Proof/Machine/Manage.lean ====
section
/-!
DEFINITION. Power-on, device time, power and thermal protection (R14 to R23); scrub, the health risk, lost dies and command
processors, firmware, attestation and PLDM (R261 to R276).
-/

namespace Sys2Proof.Machine

/-- Kinds of the controller's log entries that no event queue carries (R270). -/
def logFailure : W16 := 0x8001
def logTrip : W16 := 0x8002
def logUpdate : W16 := 0x8003
def logActivation : W16 := 0x8004
def logRefused : W16 := 0x8005
def logDieLost : W16 := 0x8006

/-- Power-on of a device (R16, R23, R189, R274): every register is at its reset value, device time counts from 0 in FREE, every frame is
dead, and the dies run. The log, the firmware banks and the host's own memory stay. Staged firmware becomes active; sel.c names the
components whose self-test fails. -/
def State.powerOn (s : State) (slot : Option (BitVec 7)) : State :=
  let r := State.resetOf s.part
  let s' : State := { r with
    fabric := { r.fabric with slot := if s.feat Config.featFab then slot else none }
    store := { r.store with host := s.store.host }
    mgmt := { r.mgmt with log := s.mgmt.log, fw := s.mgmt.fw, acts := s.mgmt.acts }
    berths := { r.berths with epoch := s.berths.epoch + 1 }
    sel := s.sel, agenda := s.agenda, fresh := s.fresh, out := s.out }
  s'.activateAll s.sel.c

def execPowerOn (slot : Option (BitVec 7)) (s : State) : Res := .next (s.powerOn slot)

/-! ### Device time (R15 to R19) -/

/-- U of the LOCKED peers on up links, as they last told it (R18). Link 127 is the loopback, which leads to no peer (R25). -/
def State.peerUs (s : State) : List Nat :=
  (s.fabric.links.take 127).filterMap (fun l => match l.peer with
    | some m => if l.up && m.tstate == .locked then some m.u else none
    | none => none)

/-- Whether a reference supports U: a PTP master, or a LOCKED peer whose U and 20 ns it covers (R16, R18). -/
def State.referenced (s : State) (u : Nat) : Bool := s.clock.ptp.isSome || s.peerUs.any (fun v => decide (v + 20 ≤ u))
/-- Every reference is lost. -/
def State.unreferenced (s : State) : Bool := s.clock.ptp.isNone && s.peerUs == []

/-- The end of every lease that this device holds (R231): peer lines leave the MSC and the L1s. -/
def State.endLeases (s : State) : State := (s.dropPeers (fun _ => true)).dropL1 (fun _ _ l => decide (2 ^ 51 ≤ 128 * l))

/-- The device enters a time state: in DEGRADED every lease ends (R19), and a fabric event records the change (R51). -/
def State.enterTime (s : State) (st : TimeState) : State :=
  let s : State := { s with clock := { s.clock with tstate := st } }
  (if st = .degraded then s.endLeases else s).fabricEvent 0x10A 0xFF 0 0 0 0

/-- U while LOCKED on a peer alone: at least the peer's U and 20 ns (R18). -/
def State.lockedU (s : State) : Option Nat :=
  match s.clock.tstate, s.clock.ptp, leastBy id s.peerUs with
  | .locked, none, some v => s.clock.u.map (fun u => max u (v + 20))
  | _, _, _ => s.clock.u
/-- What R16 says of LOCKED and HOLDOVER as they stand: U above 1 µs makes the device DEGRADED, and the loss of every reference puts it in
HOLDOVER. -/
def State.timeSettle (s : State) : State :=
  let s : State := { s with clock := { s.clock with u := s.lockedU } }
  let bad := match s.clock.u with | some u => decide (1000 < u) | none => true
  match s.clock.tstate with
  | .locked => if bad then s.enterTime .degraded else if s.unreferenced then s.enterTime .holdover else s
  | .holdover => if bad then s.enterTime .degraded else s
  | .free | .degraded => s

/-- PTP_MESSAGE: of the device's own domain, a measurement is kept for the servo, and while the device is LOCKED it bounds U; or the
master is lost. A master that offers only peer delay is absent (R15). -/
def execPtpMessage (m : PtpMsg) (s : State) : Res :=
  if m.domain ≠ s.clock.domain ∨ m.peerDelay = true then .next s
  else if m.lost then .next { s with clock := { s.clock with ptp := none } }.timeSettle
  else
    let s : State := { s with clock := { s.clock with
      ptp := some (m.offset, m.bound)
      u := if s.clock.tstate = .locked then some (m.offset.natAbs + m.bound) else s.clock.u } }
    .next s.timeSettle

/-- The moves of R16 between the time states, when the servo estimates U as u. -/
def State.timeMove (s : State) (st : TimeState) (u : Nat) : Bool :=
  let most := max u (s.clock.u.getD 0)
  match s.clock.tstate, st with
  | .free, .locked | .holdover, .locked | .degraded, .locked => decide (u ≤ 500) && s.referenced u
  | .locked, .holdover => decide (most ≤ 1000) && s.peerUs == []
  | .locked, .degraded | .holdover, .degraded => decide (1000 < most)
  | _, _ => false

/-- TIME_STATE_CHANGE (R16 to R19): the first lock steps device time forward once, which the watchdogs count
(R459); every change is recorded. -/
def execTimeStateChange (st : TimeState) (u : Nat) (stepNs : W64) (s : State) : Res :=
  if s.timeMove st u = false then .next s
  else
    let first := decide (st = .locked) && !s.clock.stepped && decide (s.now + stepNs.toNat < 2 ^ 64)
    let s : State := { (if first then s.runDogs stepNs.toNat else s) with clock := { s.clock with
      u := some (if st = .locked then u else max u (s.clock.u.getD 0)), stepped := s.clock.stepped || st == .locked
      dtime := if first then s.clock.dtime + stepNs else s.clock.dtime
      ptp := if st = .holdover then none else s.clock.ptp } }
    .next (s.enterTime st)

/-! ### Power and heat (R14, R20 to R22) -/

/-- The power limit that holds: the one set, or 1,000 W while the main input is low (R20, R22). -/
def Power.bound (p : Power) : Nat := if p.lowInput then min p.limit 1000 else p.limit

/-- ACLK as the power limit and the hot dies ask for it: a step for each (R14, R20, R21; log entry 90). -/
def State.reclock (s : State) : State :=
  { s with clock := { s.clock with aclk := 700 - 70 * min 5 (s.power.steps + s.power.hotDies.countP id) } }

/-- POWER_LIMIT: at a measured power of sel.a W, within 5 % of the limit that holds (log entry 120), the next reduction of R21. -/
def execPowerLimit (s : State) : Res :=
  if 100 * s.sel.a < 95 * s.power.bound then .next s
  else if s.power.background = false then .next { s with power := { s.power with background := true } }
  else if 350 < s.clock.aclk then .next { s with power := { s.power with steps := s.power.steps + 1 } }.reclock
  else .next { s with power := { s.power with hbm := true, bandwidth := true } }

/-- POWER_RESTORE: once power has been at sel.a W, at least 5 % below the limit, for sel.b ns, at least 1 ms, the last reduction is undone
(R21); what a hot die or stack asks for stays (R20). -/
def execPowerRestore (s : State) : Res :=
  if 95 * s.power.bound < 100 * s.sel.a ∨ s.sel.b < 1000000 then .next s
  else if s.power.bandwidth then .next { s with power := { s.power with hbm := s.power.hotStacks.any id, bandwidth := false } }
  else if 0 < s.power.steps then .next { s with power := { s.power with steps := s.power.steps - 1 } }.reclock
  else .next { s with power := { s.power with background := false } }

/-- THERMAL_THROTTLE: a reading crosses a limit of R20. A die is throttled at 100 °C by an ACLK step, an HBM stack at 95 °C by HBM
bandwidth; its refresh is doubled above 85 °C. What the power limit asks for stays when they cool (R21). -/
def execThermalThrottle (t : ThermalReading) (s : State) : Res :=
  match t with
  | .junction die t =>
    .next { s with power := { s.power with hotDies := modAt s.power.hotDies die.toNat (fun _ => decide (100 ≤ t)) } }.reclock
  | .hbm k t =>
    let hot := modAt s.power.hotStacks k.toNat (fun _ => decide (95 ≤ t))
    .next { s with power := { s.power with
      hotStacks := hot
      hbm := hot.any id || s.power.bandwidth
      refresh := modAt s.power.refresh k.toNat (fun _ => decide (85 < t)) } }

/-- UNDERVOLTAGE: the main input has been at sel.a mV, between 40 V and 44 V, for sel.b ns, more than 1 ms (R22). -/
def execUndervoltage (s : State) : Res :=
  .next (if 40000 ≤ s.sel.a ∧ s.sel.a < 44000 ∧ 1000000 < s.sel.b then { s with power := { s.power with lowInput := true } } else s)
/-- MAIN_INPUT_RESTORED: the main input is at sel.a mV, 44 V or more (R22). -/
def execMainInputRestored (s : State) : Res :=
  .next (if 44000 ≤ s.sel.a then { s with power := { s.power with lowInput := false } } else s)

/-- The limits of a trip (R20, R22). -/
def tripDue : TripCause → Bool
  | .junction _ t => decide (115 ≤ t)
  | .hbm _ t => decide (105 ≤ t)
  | .mainInput mv ns => decide (mv < 40000 ∧ 100000 < ns)
def tripNumber : TripCause → W64
  | .junction _ _ => 0
  | .hbm _ _ => 1
  | .mainInput _ _ => 2

/-- TRIP (R22): every die stops, without an image; the controller logs the cause and reports it. -/
def execTrip (cause : TripCause) (s : State) : Res :=
  if s.power.on = false ∨ tripDue cause = false then .next s
  else
    let n := tripNumber cause
    .next ((({ s with power := { s.power with on := false, trip := some cause } }).log logTrip n).emit (.report (s.logRec logTrip n)))

/-! ### Scrub and the health risk (R262, R271 to R273) -/

/-- The structure of R264 that holds a place, by its row. -/
def poisonClass : PoisonLoc → Nat
  | .sector _ => 3
  | .icache _ _ _ => 2
  | .tileEntry _ _ | .berth _ _ | .retry _ _ | .pool _ _ => 1
  | .vreg _ _ _ | .tile _ _ _ | .acc _ _ _ | .sreg _ _ | .l1 _ _ _ | .msc _ _ => 0

/-- Whether a place holds data: a live frame (R262), a register of a resident group, a tile, a line, an entry. -/
def State.holds (s : State) (loc : PoisonLoc) : Bool :=
  let grp (g : Nat) : Bool := (s.group? g).any (·.live)
  let tm (t : Nat) : Option Team := (s.team? t).filter (fun t => t.state == .running)
  match loc with
  | .sector pa => pa % 32 == 0 && isLocal s.part pa && (s.store.frame pa).live
  | .vreg g _ _ => grp g
  | .sreg g r => grp g && decide (r < 63)
  | .acc g h _ => (s.group? g).any (fun g => g.live && (g.acc.getD h none).isSome)
  | .tile t h _ => (tm t).any (fun t => (t.tiles.getD h none).isSome)
  | .tileEntry t h => (tm t).isSome && decide (h < 64)
  | .l1 d i l => s.caches.l1.any (fun x => x.die == d && x.site == i && x.line == l)
  | .icache d i _ => (s.sites.getD d 0).getLsbD i
  | .msc l _ => s.store.lines.any (·.line == l)
  | .berth bd n => s.berths.slots.any (fun b => b.bd == bd && b.slot == n)
  | .retry w q => (s.link (BitVec.ofNat 7 w)).tx.retry.any (fun f => f.hdr.seq.toNat == q)
  | .pool d h => (s.poolOf d).any (·.holder == h)

/-- The die of a place, by its LOSTMASK bit. -/
def State.dieOf (s : State) (loc : PoisonLoc) : Option Nat :=
  match loc with
  | .sector pa => some (8 + homeDie pa)
  | .vreg g _ _ | .sreg g _ | .acc g _ _ => some (s.coreOf g).1
  | .tile t h _ => (s.team? t).map (fun x => if ((x.tiles.getD h none).elim 0 (·.level)) = 2 then 8 + baseBelow x.die else x.die)
  | .tileEntry t _ => (s.team? t).map (·.die)
  | .l1 d _ _ | .icache d _ _ => some d
  | .msc l _ => (s.store.lines.find? (·.line == l)).map (fun x => 8 + x.bd)
  | .berth bd _ | .pool bd _ => some (8 + bd)
  | .retry w _ => some (8 + linkDie (BitVec.ofNat 7 w))

/-- A place is marked poisoned: a scalar register in its group, a request that a pool slot holds in the request. -/
def State.poison (s : State) (loc : PoisonLoc) : State :=
  match loc with
  | .sreg g r => s.modGroup g (fun g => { g with spois := g.spois ||| ((1 : W64) <<< r) })
  | .pool _ h =>
    { s with
      store := s.store.spoil loc
      ops := { s.ops with inbound := s.ops.inbound.map (fun i => if heldBy i.req.src i.req.id = h then { i with req := { i.req with pois := true } } else i) } }
  | _ => { s with store := s.store.spoil loc }

/-- Whether a place lies in the MSC: a line, or a tile in ways that are converted to SIDE (R262, R271). -/
def State.inMsc (s : State) (loc : PoisonLoc) : Bool :=
  match loc with
  | .msc _ _ => true
  | .tile t h _ => (s.tile? t h).any (fun x => x.level == 2)
  | _ => false

/-- SCRUB of a place, unless RASCFG turns off its mechanism (R263): a correctable fault is corrected in place, another marks the place
poisoned; dead frames are not scrubbed. A faulty line of an instruction cache is corrected by its refetch, which counts it (R264). -/
def execScrub (loc : PoisonLoc) (found : ScrubFinding) (s : State) : Res :=
  let n := match loc with | .sector _ => 32 | _ => 0
  let row := poisonClass loc
  let msc := s.inMsc loc
  if !s.holds loc || !s.mayUnit 2 || s.rasOff row then .next s
  else
    let s := s.chargeAct 2 n
    match found with
    | .clean => .next s
    | .corrected => .next (s.countError row true (s.dieOf loc) msc)
    | .uncorrectable => .next (if row = 2 then s.poison loc else (s.poison loc).countError row false (s.dieOf loc) msc)

/-! ### The measures of the risk (R271) -/

/-- How many errors of the last second pass a test. -/
def State.lately (s : State) (p : ErrorEvt → Bool) : Nat := s.mgmt.recent.countP (fun e => decide (s.now < e.time + 1000000000) && p e)
/-- Inputs 0 to 6, in order; input 1 counts the SRAMs of the first three rows of R264 but the MSC. -/
def State.measures (s : State) (m : Sensors) : List Nat :=
  let top (l : List Nat) : Nat := l.foldl max 0
  [ s.lately (fun e => e.fixed && (e.row == 3 || e.msc)), s.lately (fun e => e.fixed && decide (e.row < 3) && !e.msc),
    if s.mgmt.recent = [] then 0 else top ((List.range 128).map (fun w => s.lately (fun e => e.row == 5 && e.link == w))),
    m.droop.sum, top m.junction, top m.hbm, top m.bias ]

/-- The sublevel of a measure: the highest level whose threshold is met (R271). -/
def sublevel (m : Nat) (t : List Nat) : Nat :=
  if t.getD 3 0 ≤ m then 7 else if t.getD 2 0 ≤ m then 6 else if t.getD 1 0 ≤ m then 4 else if t.getD 0 0 ≤ m then 2 else 0
/-- The sublevel of input 7, whose level 4 counts ELS faults and whose levels 6 and 7 count uncorrectable errors. -/
def sublevel7 (els uncorr : Nat) (t : List Nat) : Nat :=
  if t.getD 3 0 ≤ uncorr then 7 else if t.getD 2 0 ≤ uncorr then 6 else if t.getD 1 0 ≤ els then 4 else 0

/-- The eight sublevels of a reading: input 7 takes ELS faults (row 8) and uncorrectable errors of the last second. -/
def State.sublevels (s : State) (m : Sensors) : List Nat :=
  let t := s.mgmt.thresh
  (withIndex (s.measures m)).map (fun p => sublevel p.2 (t.getD p.1 [])) ++
    [sublevel7 (s.lately (·.row == 8)) (s.lately (fun e => !e.fixed && e.row != 8)) (t.getD 7 [])]

/-- The new level and the count of computations below it: it rises at once, and falls after 100 in a row below it (R271). -/
def nextRisk (level below found : Nat) : Nat × Nat :=
  if level ≤ found then (found, 0) else if 99 ≤ below then (found, 0) else (level, below + 1)

/-- The controller is restarting: at most 2 s (R273). -/
def State.restarting (s : State) : Bool := match s.mgmt.restart with | some t => decide (s.now < t + 2000000000) | none => false

/-- A snapshot entry after a rise of the level from `old` to `new_` (R146): with STATUS 0 a rise that reaches THRESH from below triggers;
otherwise any rise is remembered. -/
def State.riskRise (s : State) (old new_ e : Nat) : State :=
  let k := s.snap e
  if k.thresh = 0 ∨ new_ < k.thresh.toNat ∨ new_ ≤ old ∨ s.feat Config.featSnap = false then s
  else if k.status ≠ 0 then s.modSnap e (fun k => { k with rise := true })
  else if k.thresh.toNat ≤ old then s
  else s.trigger e new_

/-- A rise that came while STATUS was not 0 is acted on once it is 0, if the level still reaches THRESH (R146); no trigger is taken while
the controller restarts (R273). -/
def State.settleRise (s : State) (e : Nat) : State :=
  let k := s.snap e
  if k.rise = false ∨ k.status ≠ 0 ∨ s.restarting = true then s
  else
    let s := s.modSnap e (fun k => { k with rise := false })
    if k.thresh ≠ 0 ∧ k.thresh.toNat ≤ s.mgmt.risk then s.trigger e s.mgmt.risk else s
def State.settleRises (s : State) : State :=
  if s.host.snaps.any (·.rise) then (List.range 40).foldl State.settleRise s else s

/-- RISK_COMPUTE (R271, R272): at most every millisecond, and not while the controller restarts. -/
def execRiskCompute (m : Sensors) (s : State) : Res :=
  let due := match s.mgmt.ran with | some t => decide (t + 1000000 ≤ s.now) | none => true
  if !due || s.restarting then .next s
  else
    let sub := s.sublevels m
    let old := s.mgmt.risk
    let r := nextRisk old s.mgmt.below (sub.foldl max 0)
    let s : State := { s with mgmt := { s.mgmt with risk := r.1, below := r.2, sub, ran := some s.now, restart := none, sensors := some m } }
    if r.1 = old then .next s
    else
      let cause := maskOf ((withIndex sub).filter (fun p => p.2 == r.1) |>.map (·.1))
      let s := s.event 0 5 0xFF 0 (bytesOf 8 s.now ++ [BitVec.ofNat 8 r.1, BitVec.ofNat 8 old, BitVec.ofNat 8 cause] ++ List.replicate 5 0 ++
        sub.map (BitVec.ofNat 8) ++ List.replicate 24 0)
      .next ((List.range 40).foldl (fun (s : State) e => s.riskRise old r.1 e) s)

/-! ### Lost dies and command processors (R144, R267, R268) -/

/-- Whether a draining snapshot uses a base die: an old frame, a shadow or a place of the target area lies on it (R148). -/
def State.drainsOn (s : State) (e base : Nat) : Bool :=
  let k := s.snap e
  let on (f : Nat) : Bool := homeDie (65536 * f) == base
  let va (v : W64) : Bool := match s.translate none e none v .write with | .ok (.mem pa) _ _ => homeDie pa == base | _ => false
  k.status == 2 && (k.pages.any (fun p => on p.2) || k.shadows.any (fun p => on p.2) || k.dests.any (fun d => va d.2) || k.copies.any (fun c => va c.1))

/-- A die, by its LOSTMASK bit, that the part has and that is not lost. -/
def State.dieHere (s : State) (b : Nat) : Bool :=
  (if b < 8 then decide (b < Config.computeDies s.part) else decide (b < 8 + Config.baseDies s.part)) && !s.lost.getLsbD b
/-- More than 16 uncorrectable errors on a die in the last second (R268). -/
def State.tooMany (s : State) (b : Nat) : Bool := decide (16 < s.lately (fun e => !e.fixed && e.die == some b))

/-- A die is declared lost (R268): contexts that touched it end (R144), and a snapshot that drains through it fails. -/
def State.loseDie (s : State) (b : Nat) : State :=
  if !s.dieHere b then s
  else
    let s : State := { s with lost := s.lost ||| BitVec.ofNat 12 (2 ^ b), sites := if b < 8 then modAt s.sites b (fun _ => 0) else s.sites }
    let s := s.log logDieLost (BitVec.ofNat 64 b)
    let s := (s.ctxIs (fun c => c.touched.getLsbD b)).foldl (fun (s : State) cn => s.endLostDie cn b) s
    if b < 8 then s else (List.range 40).foldl (fun (s : State) e => if s.drainsOn e (b - 8) then s.snapFail e else s) s

/-- DIE_LOST of the die with LOSTMASK bit sel.a, for the reason sel.b (R264, R268): 0, it has missed sel.c heartbeats in a row, three or
more; 1, a transfer of a package link or hybrid bond has been retried sel.c times, 16 or more (fewer are a corrected error), while RASCFG leaves
that mechanism on (R263); 2, too many
uncorrectable errors. -/
def execDieLost (s : State) : Res :=
  let b := s.sel.a
  match s.sel.b with
  | 0 => .next (if 3 ≤ s.sel.c then s.loseDie b else s)
  | 1 =>
    if s.rasOff 7 then .next s
    else if 16 ≤ s.sel.c then .next ((if s.dieHere b then s.countError 7 false (some b) else s).loseDie b)
    else .next (if s.sel.c = 0 ∨ s.dieHere b = false then s else s.countError 7 true (some b))
  | _ => .next (if s.tooMany b then s.loseDie b else s)
/-- Dies with too many errors are lost. -/
def State.settleDies (s : State) : State :=
  if s.mgmt.recent.length ≤ 16 then s
  else (List.range 12).foldl (fun (s : State) b => if s.tooMany b then s.loseDie b else s) s

/-- The reset-complete event of a rung that the device takes by itself: the body is that of a page with the request (R83, R85, R267). -/
def State.rungEvent (s : State) (rung q : Nat) (idx : W32) : State :=
  let e := (s.queue q).pent.toNat
  let p : ResetPage := { ResetPage.reset with
    rctl := BitVec.ofNat 32 (2 * rung), queue := BitVec.ofNat 16 q, index := idx, rstat := 2, taken := BitVec.ofNat 8 rung
    acceptT := BitVec.ofNat 64 s.now, doneT := BitVec.ofNat 64 s.now }
  s.event 0 4 (partOf e) (subOf e) (p.bytes ++ List.replicate 16 0)

/-- The context rung on a context whose dispatch is not complete: it has nothing outstanding. -/
def State.endStaging (s : State) (cn : Nat) : State :=
  match s.ctx? cn with
  | none => s
  | some c => (((s.signal c.queue c.index c.tag c.lr.csig (.error 8)).stopCtx cn).dropCtx cn).rungEvent 2 c.queue c.index

/-- The queue rung on a queue, which is over once the packets up to WRIDX have their signals. -/
def State.recoverQueue (s : State) (q : Nat) : State :=
  let r := s.drain q false
  if r.2 then (r.1.modQueue q (fun k => k.done false)).rungEvent 1 q 0 else r.1

/-- Whether a queue is in a rung that a reset control page asked for. -/
def State.inRung (s : State) (q : Nat) : Bool :=
  s.host.fns.any (fun f => match f.rpage.active with | some r => r.queues.contains q | none => false)

/-- CP_MISMATCH of the pair of base die sel.a, an error that nothing corrects (R264), unless RASCFG turns the comparison off (R263); with sel.b = 1 the recovery goes on, where packets could not be read before. -/
def execCpMismatch (s : State) : Res :=
  let k := s.sel.a
  let mine (q : Nat) : Bool := (s.queue q).func != 0xFFFF && s.cpDie q == k && !s.inRung q
  let qs := (List.range 256).filter mine
  if Config.baseDies s.part ≤ k ∨ s.rasOff 6 = true then .next s
  else if s.sel.b = 1 then .next ((qs.filter (fun q => (s.queue q).state == 5)).foldl State.recoverQueue s)
  else
    let s := (s.ctxIs (fun c => c.state == .staging && s.cpDie c.queue == k)).foldl State.endStaging (s.countError 6 false (some (8 + k)))
    let s := qs.foldl (fun (s : State) q => s.stopQueue q false) s
    .next (qs.foldl State.recoverQueue s)

/-! ### Firmware (R274) -/

def fwIndex : FwComponent → Nat
  | .mc => 0 | .cp => 1 | .sec => 2 | .emul => 3 | .hbmb => 4

/-- FIRMWARE_UPDATE: accepted into the inactive bank when the signature verifies and the security version is at least the minimum. -/
def execFirmwareUpdate (u : FwUpdate) (s : State) : Res :=
  let i := fwIndex u.comp
  let f := s.mgmt.fw.getD i Firmware.reset
  if !u.sigOk || decide (u.secVer < f.minVer) then .next (s.log logUpdate (BitVec.ofNat 64 (256 + i)))
  else
    let f := if f.active then { f with vers := (u.secVer, f.vers.2), digs := (u.digest, f.digs.2), staged := true }
             else { f with vers := (f.vers.1, u.secVer), digs := (f.digs.1, u.digest), staged := true }
    .next ({ s with mgmt := { s.mgmt with fw := modAt s.mgmt.fw i (fun _ => f) } }.log logUpdate (BitVec.ofNat 64 i))

/-- CONTROLLER_RESTART: the staged MC firmware runs, or the other bank if its self-test fails (sel.c bit 0); the dies and contexts are
untouched. With sel.a = 1 the restart is over. -/
def execControllerRestart (s : State) : Res :=
  if s.sel.a = 1 then .next { s with mgmt := { s.mgmt with restart := none } }
  else
    let s := s.activate s.sel.c 0
    .next { s with mgmt := { s.mgmt with restart := some s.now } }

/-! ### Attestation and PLDM (R53, R263, R269, R270, R275, R276) -/

/-- What a measurement block holds, 1 to 8 (R276). -/
def State.block (s : State) (i : Nat) : List Nat :=
  match i with
  | 1 => []
  | 7 => (Config.siteFuses s.part).map (·.toNat) ++ s.mgmt.fw.map (·.minVer)
  | 8 =>
    let b := s.host.budgets.getD 2 ⟨0, 0, 0⟩
    [s.mgmt.rascfg.toNat, b.hbmb.toNat, b.flits.toNat, b.etime.toNat]
  | i =>
    let f := s.mgmt.fw.getD (i - 2) Firmware.reset
    if f.active then [f.vers.2, f.digs.2.toNat] else [f.vers.1, f.digs.1.toNat]

/-- SPDM_REQUEST: sel.b is the requester. Certificates name SERIAL in slot 0; a key exchange opens a session; keys of an IDE stream are
set for function sel.a within one. -/
def execSpdmRequest (r : SpdmReq) (s : State) : Res :=
  let who := s.sel.b
  let cert (slot : Nat) : W64 := Config.certificate slot (if slot = 1 then s.mgmt.acts else 0)
  match r with
  | .getMeasurement i =>
    let signed (l : List W64) : State := { s with fresh := s.fresh + 1 }.emit (.spdm (l ++ [Config.signature s.fresh l]))
    if i = 0 then .next (signed [8])
    else if i = 255 then .next (signed ((List.range 8).map (fun k => Config.measure (k + 1) (s.block (k + 1)))))
    else if i ≤ 8 then .next (signed [Config.measure i (s.block i)])
    else .next (s.emit (.spdm []))
  | .getCertificate slot =>
    .next (s.emit (.spdm (if slot = 0 then [Config.serial] else if slot = 1 then [cert slot] else [])))
  | .challenge slot => .next (s.emit (.spdm (if slot ≤ 1 then [cert slot] else [])))
  | .keyExchange slot =>
    if 1 < slot then .next (s.emit (.spdm []))
    else .next ({ s with mgmt := { s.mgmt with spdm := (who, true) :: s.mgmt.spdm.filter (·.1 != who) } }.emit (.spdm [cert slot]))
  | .keyUpdate => .next (s.emit (.spdm (if s.mgmt.spdm.any (·.1 == who) then [1] else [])))
  | .ideKeySet stream on =>
    if 8 < stream ∨ s.mgmt.spdm.any (·.1 == who) = false then .next (s.emit (.spdm []))
    else .next ({ s with host := { s.host with ide := (stream, s.sel.a, on) :: s.host.ide.filter (·.1 != stream) } }.emit (.spdm [1]))

/-- The places of the levels 2, 4, 6 and 7 in a list of thresholds; input 7 has no threshold of level 2. -/
def levelIndex (input level : Nat) : Option Nat :=
  match level with
  | 2 => if input = 7 then none else some 0
  | 4 => some 1
  | 6 => some 2
  | 7 => some 3
  | _ => none

/-- The reading of a sensor by the model's numbers (log entry 96): power and current of the main and the auxiliary input, the junctions of
the dies from 4, the HBM stacks from 20, the droop detectors from 36, corrected and uncorrected errors of R264's rows from 52, lasers from
68 (R270). None: there is no such sensor. -/
def State.sensor (s : State) (i : Nat) : Option Nat :=
  let m := s.mgmt.sensors.getD ⟨0, 0, 0, 0, [], [], [], []⟩
  if i < 4 then [m.mainW, m.mainA, m.auxW, m.auxA][i]?
  else if i < 20 then m.junction[i - 4]?
  else if i < 36 then m.hbm[i - 20]?
  else if i < 52 then m.droop[i - 36]?
  else if i < 68 then (s.mgmt.errors[(i - 52) / 2]?).map (fun c => if i % 2 = 0 then c.1 else c.2)
  else m.bias[i - 68]?

/-- PLDM_REQUEST. A request that names nothing is answered with all ones. -/
def execPldmRequest (r : PldmReq) (s : State) : Res :=
  let bad : Res := .next (s.emit (.pldm 0xFFFFFFFFFFFFFFFF))
  match r with
  | .writeRascfg v => .next ({ s with mgmt := { s.mgmt with rascfg := v } }.emit (.pldm 0))
  | .writeThreshold input level value =>
    match levelIndex input level with
    | some k =>
      if 7 < input then bad
      else .next ({ s with mgmt := { s.mgmt with thresh := modAt s.mgmt.thresh input (fun t => modAt t k (fun _ => value)) } }.emit (.pldm 0))
    | none => bad
  | .raiseMinVersion comp v =>
    if v < (s.mgmt.fw.getD (fwIndex comp) Firmware.reset).minVer then bad
    else .next ({ s with mgmt := { s.mgmt with fw := modAt s.mgmt.fw (fwIndex comp) (fun f => { f with minVer := v }) } }.emit (.pldm 0))
  | .readLog i =>
    match s.mgmt.log[i]? with
    | some e => .next ((s.emit (.report e)).emit (.pldm (wordOf 64 (e.bytes.take 8))))
    | none => bad
  | .readSensor i => match s.sensor i with | some v => .next (s.emit (.pldm (BitVec.ofNat 64 v))) | none => bad

/-! ### After every step -/

/-- Snapshots whose registered contexts are all sealed, or have ended, go on (R147). -/
def State.settleSnaps (s : State) : State :=
  if s.host.snaps.any (·.status == 1) then (List.range 40).foldl State.snapSealed s else s
/-- Tags of dropped reads return to use (R90). -/
def State.settleTags (s : State) : State :=
  { s with host := { s.host with tags := s.host.tags.filter (fun t => decide (s.now < t.2)) } }

/-- What follows of itself once an instruction or event has had its effect: accesses, updates and records that waited are tried again,
halts and rope messages that are due, pool slots of requests that are over, dies and clocks past their limits, and risen snapshots. -/
def State.tidy (s : State) : State :=
  let s := (((((s.settleRights).sendHeld.retryInbound (fun i => i.page == 0)).settleLate).sigsRetry).putsRetry).stagesRetry.journalsSend
  let s := (((s.settleHalts).settleClaims).ropeSends).settleRsps.settlePools
  let s := ((s.windowRetry).sendRecalls).settleTags
  ((((s.settleSnaps).timeSettle).settleDies).settleRises)

end Sys2Proof.Machine
end

