-- ==== Sys2Proof/Machine/Dispatch.lean ====
section
/-! DEFINITION. The dispatch: one arm for each constructor of `Instr`, each a direct call of its meaning. -/

namespace Sys2Proof.Machine

def exec (i : Instr) (s : State) : Host.Outcome State Fault Refusal :=
  match i with
  | .powerOn x1 => Sys2Proof.Machine.execPowerOn x1 s
  | .ptpMessage x1 => Sys2Proof.Machine.execPtpMessage x1 s
  | .timeStateChange x1 x2 x3 => Sys2Proof.Machine.execTimeStateChange x1 x2 x3 s
  | .timex x1 x2 x3 => Sys2Proof.Machine.execTimex x1 x2 x3 s
  | .linkTraining x1 x2 => Sys2Proof.Machine.execLinkTraining x1 x2 s
  | .linkUp x1 x2 => Sys2Proof.Machine.execLinkUp x1 x2 s
  | .req x1 x2 => Sys2Proof.Machine.execReq x1 x2 s
  | .rsp x1 x2 => Sys2Proof.Machine.execRsp x1 x2 s
  | .data x1 x2 => Sys2Proof.Machine.execData x1 x2 s
  | .idle x1 x2 => Sys2Proof.Machine.execIdle x1 x2 s
  | .nak x1 x2 => Sys2Proof.Machine.execNak x1 x2 s
  | .restripe x1 x2 x3 x4 => Sys2Proof.Machine.execRestripe x1 x2 x3 x4 s
  | .restripeAck x1 x2 x3 => Sys2Proof.Machine.execRestripeAck x1 x2 x3 s
  | .keyctl x1 x2 x3 => Sys2Proof.Machine.execKeyctl x1 x2 x3 s
  | .genbump x1 x2 => Sys2Proof.Machine.execGenbump x1 x2 s
  | .loss x1 x2 x3 => Sys2Proof.Machine.execLoss x1 x2 x3 s
  | .stripeLost x1 x2 => Sys2Proof.Machine.execStripeLost x1 x2 s
  | .stripeRestored x1 x2 => Sys2Proof.Machine.execStripeRestored x1 x2 s
  | .rekey x1 x2 => Sys2Proof.Machine.execRekey x1 x2 s
  | .queueBind x1 x2 => Sys2Proof.Machine.execQueueBind x1 x2 s
  | .doorbell x1 x2 => Sys2Proof.Machine.execDoorbell x1 x2 s
  | .resetQueue x1 x2 => Sys2Proof.Machine.execResetQueue x1 x2 s
  | .resetContext x1 x2 => Sys2Proof.Machine.execResetContext x1 x2 s
  | .resetEngine x1 x2 => Sys2Proof.Machine.execResetEngine x1 x2 s
  | .resetPartition x1 x2 => Sys2Proof.Machine.execResetPartition x1 x2 s
  | .resetDevice x1 x2 => Sys2Proof.Machine.execResetDevice x1 x2 s
  | .partitionTableWrite x1 x2 x3 => Sys2Proof.Machine.execPartitionTableWrite x1 x2 x3 s
  | .registerWrite x1 x2 x3 x4 => Sys2Proof.Machine.execRegisterWrite x1 x2 x3 x4 s
  | .serialise x1 x2 => Sys2Proof.Machine.execSerialise x1 x2 s
  | .riskCompute x1 => Sys2Proof.Machine.execRiskCompute x1 s
  | .journalEnable x1 x2 => Sys2Proof.Machine.execJournalEnable x1 x2 s
  | .tlbInvalidate x1 => Sys2Proof.Machine.execTlbInvalidate x1 s
  | .retag x1 => Sys2Proof.Machine.execRetag x1 s
  | .elide x1 => Sys2Proof.Machine.execElide x1 s
  | .sidewaysWrite x1 x2 => Sys2Proof.Machine.execSidewaysWrite x1 x2 s
  | .flush x1 x2 => Sys2Proof.Machine.execFlush x1 x2 s
  | .pageDone x1 x2 => Sys2Proof.Machine.execPageDone x1 x2 s
  | .staging x1 x2 => Sys2Proof.Machine.execStaging x1 x2 s
  | .followingFetch x1 x2 x3 => Sys2Proof.Machine.execFollowingFetch x1 x2 x3 s
  | .scrub x1 x2 => Sys2Proof.Machine.execScrub x1 x2 s
  | .recallLine x1 x2 => Sys2Proof.Machine.execRecallLine x1 x2 s
  | .recallAck x1 x2 => Sys2Proof.Machine.execRecallAck x1 x2 s
  | .recallTimeout x1 x2 => Sys2Proof.Machine.execRecallTimeout x1 x2 s
  | .remoteRequest x1 => Sys2Proof.Machine.execRemoteRequest x1 s
  | .remoteResponse x1 => Sys2Proof.Machine.execRemoteResponse x1 s
  | .berthDelivery x1 => Sys2Proof.Machine.execBerthDelivery x1 s
  | .forwardedResolution x1 => Sys2Proof.Machine.execForwardedResolution x1 s
  | .stageStep x1 => Sys2Proof.Machine.execStageStep x1 s
  | .arm x1 => Sys2Proof.Machine.execArm x1 s
  | .abandon x1 x2 => Sys2Proof.Machine.execAbandon x1 x2 s
  | .stopped x1 x2 => Sys2Proof.Machine.execStopped x1 x2 s
  | .mode x1 x2 => Sys2Proof.Machine.execMode x1 x2 s
  | .ready x1 x2 => Sys2Proof.Machine.execReady x1 x2 s
  | .batchCommit x1 x2 x3 => Sys2Proof.Machine.execBatchCommit x1 x2 x3 s
  | .chunkLand x1 x2 x3 => Sys2Proof.Machine.execChunkLand x1 x2 x3 s
  | .trip x1 => Sys2Proof.Machine.execTrip x1 s
  | .firmwareUpdate x1 => Sys2Proof.Machine.execFirmwareUpdate x1 s
  | .spdmRequest x1 => Sys2Proof.Machine.execSpdmRequest x1 s
  | .hostWindowAccess x1 x2 => Sys2Proof.Machine.execHostWindowAccess x1 x2 s
  | .jmpr x1 => Sys2Proof.Machine.execJmpr x1 s
  | .time x1 => Sys2Proof.Machine.execTime x1 s
  | .sleept x1 => Sys2Proof.Machine.execSleept x1 s
  | .pagereq x1 => Sys2Proof.Machine.execPagereq x1 s
  | .add x1 x2 x3 => Sys2Proof.Machine.execAdd x1 x2 x3 s
  | .sub x1 x2 x3 => Sys2Proof.Machine.execSub x1 x2 x3 s
  | .mul x1 x2 x3 => Sys2Proof.Machine.execMul x1 x2 x3 s
  | .mulhn x1 x2 x3 => Sys2Proof.Machine.execMulhn x1 x2 x3 s
  | .mulhi x1 x2 x3 => Sys2Proof.Machine.execMulhi x1 x2 x3 s
  | .divn x1 x2 x3 => Sys2Proof.Machine.execDivn x1 x2 x3 s
  | .divi x1 x2 x3 => Sys2Proof.Machine.execDivi x1 x2 x3 s
  | .remn x1 x2 x3 => Sys2Proof.Machine.execRemn x1 x2 x3 s
  | .remi x1 x2 x3 => Sys2Proof.Machine.execRemi x1 x2 x3 s
  | .and x1 x2 x3 => Sys2Proof.Machine.execAnd x1 x2 x3 s
  | .or x1 x2 x3 => Sys2Proof.Machine.execOr x1 x2 x3 s
  | .xor x1 x2 x3 => Sys2Proof.Machine.execXor x1 x2 x3 s
  | .andn x1 x2 x3 => Sys2Proof.Machine.execAndn x1 x2 x3 s
  | .shl x1 x2 x3 => Sys2Proof.Machine.execShl x1 x2 x3 s
  | .shr x1 x2 x3 => Sys2Proof.Machine.execShr x1 x2 x3 s
  | .sra x1 x2 x3 => Sys2Proof.Machine.execSra x1 x2 x3 s
  | .minn x1 x2 x3 => Sys2Proof.Machine.execMinn x1 x2 x3 s
  | .mini x1 x2 x3 => Sys2Proof.Machine.execMini x1 x2 x3 s
  | .maxn x1 x2 x3 => Sys2Proof.Machine.execMaxn x1 x2 x3 s
  | .maxi x1 x2 x3 => Sys2Proof.Machine.execMaxi x1 x2 x3 s
  | .seq x1 x2 x3 => Sys2Proof.Machine.execSeq x1 x2 x3 s
  | .sne x1 x2 x3 => Sys2Proof.Machine.execSne x1 x2 x3 s
  | .sltn x1 x2 x3 => Sys2Proof.Machine.execSltn x1 x2 x3 s
  | .slti x1 x2 x3 => Sys2Proof.Machine.execSlti x1 x2 x3 s
  | .clz x1 x2 => Sys2Proof.Machine.execClz x1 x2 s
  | .popc x1 x2 => Sys2Proof.Machine.execPopc x1 x2 s
  | .addi x1 x2 x3 => Sys2Proof.Machine.execAddi x1 x2 x3 s
  | .andi x1 x2 x3 => Sys2Proof.Machine.execAndi x1 x2 x3 s
  | .ori x1 x2 x3 => Sys2Proof.Machine.execOri x1 x2 x3 s
  | .xori x1 x2 x3 => Sys2Proof.Machine.execXori x1 x2 x3 s
  | .shli x1 x2 x3 => Sys2Proof.Machine.execShli x1 x2 x3 s
  | .shri x1 x2 x3 => Sys2Proof.Machine.execShri x1 x2 x3 s
  | .srai x1 x2 x3 => Sys2Proof.Machine.execSrai x1 x2 x3 s
  | .sltin x1 x2 x3 => Sys2Proof.Machine.execSltin x1 x2 x3 s
  | .sltii x1 x2 x3 => Sys2Proof.Machine.execSltii x1 x2 x3 s
  | .liwSx x1 x2 => Sys2Proof.Machine.execLiwSx x1 x2 s
  | .liwZx x1 x2 => Sys2Proof.Machine.execLiwZx x1 x2 s
  | .liwHi x1 x2 => Sys2Proof.Machine.execLiwHi x1 x2 s
  | .slw x1 x2 x3 => Sys2Proof.Machine.execSlw x1 x2 x3 s
  | .sld x1 x2 x3 => Sys2Proof.Machine.execSld x1 x2 x3 s
  | .ssw x1 x2 x3 => Sys2Proof.Machine.execSsw x1 x2 x3 s
  | .ssd x1 x2 x3 => Sys2Proof.Machine.execSsd x1 x2 x3 s
  | .brc x1 x2 x3 x4 => Sys2Proof.Machine.execBrc x1 x2 x3 x4 s
  | .jmp x1 => Sys2Proof.Machine.execJmp x1 s
  | .call x1 => Sys2Proof.Machine.execCall x1 s
  | .bspl x1 x2 x3 x4 => Sys2Proof.Machine.execBspl x1 x2 x3 x4 s
  | .run x1 => Sys2Proof.Machine.execRun x1 s
  | .waitf x1 x2 => Sys2Proof.Machine.execWaitf x1 x2 s
  | .seg x1 => Sys2Proof.Machine.execSeg x1 s
  | .trap x1 x2 => Sys2Proof.Machine.execTrap x1 x2 s
  | .tbarArrive x1 x2 => Sys2Proof.Machine.execTbarArrive x1 x2 s
  | .tbarWait x1 x2 => Sys2Proof.Machine.execTbarWait x1 x2 s
  | .tbarSync x1 x2 => Sys2Proof.Machine.execTbarSync x1 x2 s
  | .tbarExpect x1 x2 x3 x4 => Sys2Proof.Machine.execTbarExpect x1 x2 x3 x4 s
  | .tbarAddb x1 x2 x3 => Sys2Proof.Machine.execTbarAddb x1 x2 x3 s
  | .tbarTest x1 x2 => Sys2Proof.Machine.execTbarTest x1 x2 s
  | .cbarArrive x1 => Sys2Proof.Machine.execCbarArrive x1 s
  | .cbarWait x1 => Sys2Proof.Machine.execCbarWait x1 s
  | .cbarSync x1 => Sys2Proof.Machine.execCbarSync x1 s
  | .fenceAcq x1 => Sys2Proof.Machine.execFenceAcq x1 s
  | .fenceRel x1 => Sys2Proof.Machine.execFenceRel x1 s
  | .fenceAr x1 => Sys2Proof.Machine.execFenceAr x1 s
  | .fenceSc x1 => Sys2Proof.Machine.execFenceSc x1 s
  | .smr x1 x2 => Sys2Proof.Machine.execSmr x1 x2 s
  | .smw x1 x2 => Sys2Proof.Machine.execSmw x1 x2 s
  | .talloc x1 x2 x3 x4 x5 => Sys2Proof.Machine.execTalloc x1 x2 x3 x4 x5 s
  | .tfree x1 x2 x3 => Sys2Proof.Machine.execTfree x1 x2 x3 s
  | .tinfo x1 x2 x3 => Sys2Proof.Machine.execTinfo x1 x2 x3 s
  | .drayM2t x1 x2 x3 x4 => Sys2Proof.Machine.execDrayM2t x1 x2 x3 x4 s
  | .drayT2m x1 x2 x3 x4 => Sys2Proof.Machine.execDrayT2m x1 x2 x3 x4 s
  | .drayT2t x1 x2 x3 => Sys2Proof.Machine.execDrayT2t x1 x2 x3 s
  | .drayRed x1 x2 x3 => Sys2Proof.Machine.execDrayRed x1 x2 x3 s
  | .dprobe x1 x2 x3 x4 => Sys2Proof.Machine.execDprobe x1 x2 x3 x4 s
  | .bmint x1 x2 x3 x4 => Sys2Proof.Machine.execBmint x1 x2 x3 x4 s
  | .bwait x1 x2 => Sys2Proof.Machine.execBwait x1 x2 s
  | .bput x1 x2 x3 => Sys2Proof.Machine.execBput x1 x2 x3 s
  | .bdrop x1 => Sys2Proof.Machine.execBdrop x1 s
  | .stage x1 x2 x3 => Sys2Proof.Machine.execStage x1 x2 x3 s
  | .iadd x1 => Sys2Proof.Machine.execIadd x1 s
  | .isub x1 => Sys2Proof.Machine.execIsub x1 s
  | .iadc x1 => Sys2Proof.Machine.execIadc x1 s
  | .isbc x1 => Sys2Proof.Machine.execIsbc x1 s
  | .imul x1 => Sys2Proof.Machine.execImul x1 s
  | .imulh x1 => Sys2Proof.Machine.execImulh x1 s
  | .imad x1 => Sys2Proof.Machine.execImad x1 s
  | .idiv x1 => Sys2Proof.Machine.execIdiv x1 s
  | .irem x1 => Sys2Proof.Machine.execIrem x1 s
  | .imin x1 => Sys2Proof.Machine.execImin x1 s
  | .imax x1 => Sys2Proof.Machine.execImax x1 s
  | .iabs x1 => Sys2Proof.Machine.execIabs x1 s
  | .isad x1 => Sys2Proof.Machine.execIsad x1 s
  | .blut x1 => Sys2Proof.Machine.execBlut x1 s
  | .laneShl x1 => Sys2Proof.Machine.execLaneShl x1 s
  | .laneShr x1 => Sys2Proof.Machine.execLaneShr x1 s
  | .laneSra x1 => Sys2Proof.Machine.execLaneSra x1 s
  | .fshl x1 => Sys2Proof.Machine.execFshl x1 s
  | .fshr x1 => Sys2Proof.Machine.execFshr x1 s
  | .bfx x1 => Sys2Proof.Machine.execBfx x1 s
  | .bfi x1 => Sys2Proof.Machine.execBfi x1 s
  | .lanePopc x1 => Sys2Proof.Machine.execLanePopc x1 s
  | .laneClz x1 => Sys2Proof.Machine.execLaneClz x1 s
  | .brev x1 => Sys2Proof.Machine.execBrev x1 s
  | .prmt x1 => Sys2Proof.Machine.execPrmt x1 s
  | .iset x1 => Sys2Proof.Machine.execIset x1 s
  | .sel x1 => Sys2Proof.Machine.execSel x1 s
  | .mov x1 => Sys2Proof.Machine.execMov x1 s
  | .fadd x1 => Sys2Proof.Machine.execFadd x1 s
  | .fsub x1 => Sys2Proof.Machine.execFsub x1 s
  | .fmul x1 => Sys2Proof.Machine.execFmul x1 s
  | .ffma x1 => Sys2Proof.Machine.execFfma x1 s
  | .fmin x1 => Sys2Proof.Machine.execFmin x1 s
  | .fmax x1 => Sys2Proof.Machine.execFmax x1 s
  | .fdiv x1 => Sys2Proof.Machine.execFdiv x1 s
  | .fsqrt x1 => Sys2Proof.Machine.execFsqrt x1 s
  | .frcp x1 => Sys2Proof.Machine.execFrcp x1 s
  | .frsq x1 => Sys2Proof.Machine.execFrsq x1 s
  | .fex2 x1 => Sys2Proof.Machine.execFex2 x1 s
  | .flg2 x1 => Sys2Proof.Machine.execFlg2 x1 s
  | .fsinp x1 => Sys2Proof.Machine.execFsinp x1 s
  | .fcosp x1 => Sys2Proof.Machine.execFcosp x1 s
  | .fset x1 => Sys2Proof.Machine.execFset x1 s
  | .fclass x1 => Sys2Proof.Machine.execFclass x1 s
  | .frnd x1 => Sys2Proof.Machine.execFrnd x1 s
  | .fscale x1 => Sys2Proof.Machine.execFscale x1 s
  | .fgete x1 => Sys2Proof.Machine.execFgete x1 s
  | .cvt x1 => Sys2Proof.Machine.execCvt x1 s
  | .cvtsEnc x1 => Sys2Proof.Machine.execCvtsEnc x1 s
  | .cvtsDec x1 => Sys2Proof.Machine.execCvtsDec x1 s
  | .pack x1 => Sys2Proof.Machine.execPack x1 s
  | .unpk x1 => Sys2Proof.Machine.execUnpk x1 s
  | .lxch x1 => Sys2Proof.Machine.execLxch x1 s
  | .lpoll x1 => Sys2Proof.Machine.execLpoll x1 s
  | .lred x1 => Sys2Proof.Machine.execLred x1 s
  | .lscan x1 => Sys2Proof.Machine.execLscan x1 s
  | .lpeer x1 => Sys2Proof.Machine.execLpeer x1 s
  | .mop x1 => Sys2Proof.Machine.execMop x1 s
  | .mcopyV2m x1 => Sys2Proof.Machine.execMcopyV2m x1 s
  | .mcopyM2v x1 => Sys2Proof.Machine.execMcopyM2v x1 s
  | .mcopyS2m x1 => Sys2Proof.Machine.execMcopyS2m x1 s
  | .mcopyM2s x1 => Sys2Proof.Machine.execMcopyM2s x1 s
  | .ccget x1 => Sys2Proof.Machine.execCcget x1 s
  | .ccput x1 => Sys2Proof.Machine.execCcput x1 s
  | .ld x1 => Sys2Proof.Machine.execLd x1 s
  | .st x1 => Sys2Proof.Machine.execSt x1 s
  | .atom x1 => Sys2Proof.Machine.execAtom x1 s
  | .atomn x1 => Sys2Proof.Machine.execAtomn x1 s
  | .cas x1 => Sys2Proof.Machine.execCas x1 s
  | .pref x1 => Sys2Proof.Machine.execPref x1 s
  | .tld x1 => Sys2Proof.Machine.execTld x1 s
  | .tst x1 => Sys2Proof.Machine.execTst x1 s
  | .tatom x1 => Sys2Proof.Machine.execTatom x1 s
  | .mma x1 => Sys2Proof.Machine.execMma x1 s
  | .mmac x1 => Sys2Proof.Machine.execMmac x1 s
  | .fmma x1 => Sys2Proof.Machine.execFmma x1 s
  | .aclr x1 => Sys2Proof.Machine.execAclr x1 s
  | .ald x1 => Sys2Proof.Machine.execAld x1 s
  | .acvt x1 => Sys2Proof.Machine.execAcvt x1 s
  | .mclose x1 => Sys2Proof.Machine.execMclose x1 s
  | .illegalInstr x1 => Sys2Proof.Machine.execIllegalInstr x1 s
  | .memoryIssueWindow x1 x2 x3 x4 => Sys2Proof.Machine.execMemoryIssueWindow x1 x2 x3 x4 s
  | .forwardingRegistration x1 => Sys2Proof.Machine.execForwardingRegistration x1 s
  | .resolutionAck x1 x2 => Sys2Proof.Machine.execResolutionAck x1 x2 s
  | .translationEntryWrite x1 x2 x3 => Sys2Proof.Machine.execTranslationEntryWrite x1 x2 x3 s
  | .pldmRequest x1 => Sys2Proof.Machine.execPldmRequest x1 s
  | .thermalThrottle x1 => Sys2Proof.Machine.execThermalThrottle x1 s
  | .timexSend => Sys2Proof.Machine.execTimexSend s
  | .idleSend => Sys2Proof.Machine.execIdleSend s
  | .nakRepeat => Sys2Proof.Machine.execNakRepeat s
  | .elsFault => Sys2Proof.Machine.execElsFault s
  | .restripeRepeat => Sys2Proof.Machine.execRestripeRepeat s
  | .lossRepeat => Sys2Proof.Machine.execLossRepeat s
  | .requestSlotReclaim => Sys2Proof.Machine.execRequestSlotReclaim s
  | .queueEnable => Sys2Proof.Machine.execQueueEnable s
  | .queueDisable => Sys2Proof.Machine.execQueueDisable s
  | .queuePause => Sys2Proof.Machine.execQueuePause s
  | .queueUnpause => Sys2Proof.Machine.execQueueUnpause s
  | .ringFetch => Sys2Proof.Machine.execRingFetch s
  | .launch => Sys2Proof.Machine.execLaunch s
  | .launchImage => Sys2Proof.Machine.execLaunchImage s
  | .copy => Sys2Proof.Machine.execCopy s
  | .wait => Sys2Proof.Machine.execWait s
  | .signal => Sys2Proof.Machine.execSignal s
  | .rope => Sys2Proof.Machine.execRope s
  | .stagePacket => Sys2Proof.Machine.execStagePacket s
  | .mark => Sys2Proof.Machine.execMark s
  | .waitPoll => Sys2Proof.Machine.execWaitPoll s
  | .waitTimeout => Sys2Proof.Machine.execWaitTimeout s
  | .copyComplete => Sys2Proof.Machine.execCopyComplete s
  | .gridComplete => Sys2Proof.Machine.execGridComplete s
  | .resetComplete => Sys2Proof.Machine.execResetComplete s
  | .rungEscalation => Sys2Proof.Machine.execRungEscalation s
  | .functionLevelReset => Sys2Proof.Machine.execFunctionLevelReset s
  | .vfTeardown => Sys2Proof.Machine.execVfTeardown s
  | .budgetPeriod => Sys2Proof.Machine.execBudgetPeriod s
  | .copyDrainExpiry => Sys2Proof.Machine.execCopyDrainExpiry s
  | .serialiseSeal => Sys2Proof.Machine.execSerialiseSeal s
  | .snapshotDrained => Sys2Proof.Machine.execSnapshotDrained s
  | .invalidateComplete => Sys2Proof.Machine.execInvalidateComplete s
  | .followingPull => Sys2Proof.Machine.execFollowingPull s
  | .remoteTimeout => Sys2Proof.Machine.execRemoteTimeout s
  | .storeAck => Sys2Proof.Machine.execStoreAck s
  | .loadReturn => Sys2Proof.Machine.execLoadReturn s
  | .berthExpiry => Sys2Proof.Machine.execBerthExpiry s
  | .resolutionResend => Sys2Proof.Machine.execResolutionResend s
  | .berthRelease => Sys2Proof.Machine.execBerthRelease s
  | .stageTimeout => Sys2Proof.Machine.execStageTimeout s
  | .ropeArmDeadline => Sys2Proof.Machine.execRopeArmDeadline s
  | .ropeSwitch => Sys2Proof.Machine.execRopeSwitch s
  | .ropeWindowExpiry => Sys2Proof.Machine.execRopeWindowExpiry s
  | .ropeModeSend => Sys2Proof.Machine.execRopeModeSend s
  | .go => Sys2Proof.Machine.execGo s
  | .sealNow => Sys2Proof.Machine.execSealNow s
  | .teamResident => Sys2Proof.Machine.execTeamResident s
  | .sliceExpiry => Sys2Proof.Machine.execSliceExpiry s
  | .clauseStart => Sys2Proof.Machine.execClauseStart s
  | .barrierTimeout => Sys2Proof.Machine.execBarrierTimeout s
  | .sleepWake => Sys2Proof.Machine.execSleepWake s
  | .contextEnd => Sys2Proof.Machine.execContextEnd s
  | .dieLost => Sys2Proof.Machine.execDieLost s
  | .cpMismatch => Sys2Proof.Machine.execCpMismatch s
  | .powerLimit => Sys2Proof.Machine.execPowerLimit s
  | .powerRestore => Sys2Proof.Machine.execPowerRestore s
  | .undervoltage => Sys2Proof.Machine.execUndervoltage s
  | .controllerRestart => Sys2Proof.Machine.execControllerRestart s
  | .nop => Sys2Proof.Machine.execNop s
  | .exit => Sys2Proof.Machine.execExit s
  | .join => Sys2Proof.Machine.execJoin s
  | .yield => Sys2Proof.Machine.execYield s
  | .brk => Sys2Proof.Machine.execBrk s
  | .ret => Sys2Proof.Machine.execRet s
  | .rett => Sys2Proof.Machine.execRett s
  | .gwctPassed => Sys2Proof.Machine.execGwctPassed s
  | .notimeAck => Sys2Proof.Machine.execNotimeAck s
  | .inboundPageTimeout => Sys2Proof.Machine.execInboundPageTimeout s
  | .partitionRungHold => Sys2Proof.Machine.execPartitionRungHold s
  | .cpBerthRetry => Sys2Proof.Machine.execCpBerthRetry s
  | .mainInputRestored => Sys2Proof.Machine.execMainInputRestored s

end Sys2Proof.Machine
end

