-- ==== Sys2Proof/Machine/Step.lean ====
section
/-!
DEFINITION. The step: what comes next runs, and is then accounted for.
-/

namespace Sys2Proof.Machine

/-- The outcome of an instruction or event that runs in s, with the account of the step. -/
def closed (s : State) (lane : Bool) : Host.Outcome State Fault Refusal → Host.Outcome State Fault Refusal
  | .next t => .next (s.closeStep t lane).tidy
  | .fault r => .fault r
  | .refused r => .refused r

def Occurrence.isLane : Occurrence → Bool
  | .lane _ => true
  | _ => false

/-- One occurrence. -/
def occur (s : State) (o : Occurrence) : Host.Outcome State Fault Refusal :=
  match s.due o with
  | .idle t => .next t.tidy
  | .run t i => closed t o.isLane (exec i t)

/-- The first occurrence of a list that changes the state, and a nanosecond that passes. -/
def firstOf (s : State) : List Occurrence → Host.Outcome State Fault Refusal
  | [] => .next (s.elapse 1).tidy
  | o :: r =>
    match occur s o with
    | .next t => if t = s then firstOf s r else .next (t.elapse 1).tidy
    | .fault x => .fault x
    | .refused x => .refused x

/-- One step: the head of the agenda, or what the model chooses. -/
def step (s : State) : Host.Outcome State Fault Refusal :=
  let s := { s with out := [] }
  match s.agenda with
  | o :: r => occur { s with agenda := r } o
  | [] => firstOf s s.choices

/-- The instruction whose bits are w placed where the next step fetches it (log entry 13). -/
def State.withFetchWord (s : State) (nbits w : Nat) : State :=
  if nbits = 96 then
    let code := match decodeLane (BitVec.ofNat 96 w) with | .ok i => [i] | .error _ => []
    let hdr : ClauseHdr := { len := 0, wait := 0, set0 := 15, set1 := 15 }
    let p := s.plant (List.replicate 12 0 ++ bytesOf 12 w)
      (some { id := 0, addr := probeVa, hdr, code, done := 0, mask := lanesMask 32, snap := List.replicate 32 0 })
    { p.1 with agenda := [.lane ⟨p.2, 0⟩] }
  else
    let p := s.plant (bytesOf 8 w) none
    { p.1 with agenda := [.scalar ⟨p.2, 0⟩] }

end Sys2Proof.Machine
end

