-- ==== Sys2Proof/Safety.lean ====
section
/-!
DEFINITION. The terms in which claims are stated: what a safe run is (a step that answers a next state, and a property that
every such step keeps), which split issues, the plain effects that many instructions share, and what a frame leaves alone.
-/

namespace Sys2Proof.Safety

open Sys2Proof.Machine

/-- The outcome of a claim about `exec`. -/
abbrev Out := Host.Outcome State Fault Refusal

/-! ### Properties that steps keep -/

/-- Every step from a state with the property that answers a next state answers one with the property. -/
def Kept (P : State → Prop) : Prop := ∀ s t : State, P s → step s = .next t → P t

/-- A meaning keeps a property. -/
def KeptBy (i : Instr) (P : State → Prop) : Prop := ∀ s t : State, P s → exec i s = .next t → P t

/-! ### Bytes of memory -/

/-- What a byte of local memory reads as, by PA; and a byte of host memory. -/
def byteAt (s : State) (pa : Nat) : Byte := s.store.byte pa
def hostByteAt (s : State) (a : Nat) : Byte := sget 0 s.store.host a

/-- Every byte of local and of host memory, and of every tile, reads as before. -/
structure SameBytes (s t : State) : Prop where
  mem  : ∀ pa, byteAt t pa = byteAt s pa
  host : ∀ a, hostByteAt t a = hostByteAt s a
  tile : ∀ tm h off, ((t.tile? tm h).map (fun x => sget 0 x.data off)) = ((s.tile? tm h).map (fun x => sget 0 x.data off))

/-- The canonical form of every table of memory (R180, R189, R198): bytes of DRAM, bytes that the MSC holds, host memory and
frames. -/
structure StoreWf (m : Store) : Prop where
  dram   : Memory.wf m.dram = true
  dirty  : swf (none : Option Byte) m.dirty = true
  host   : Memory.wf m.host = true
  frames : swf FrameState.dead m.frames = true

def MemoryWf (s : State) : Prop := StoreWf s.store

/-! ### The scalar stream -/

/-- Split r.sp of group r.g issues: the group and the split are g and sp. -/
structure Issues (s : State) (r : SplitRef) (g : Group) (sp : Split) : Prop where
  cur   : s.cur = some r
  group : s.exec.groups[r.g]? = some g
  split : g.splits[r.sp]? = some sp

/-- A split issues a scalar instruction that names the registers rs, and waits for none of its clauses (R161). -/
structure Runs (s : State) (r : SplitRef) (g : Group) (sp : Split) (rs : List SReg) : Prop extends Issues s r g sp where
  free : s.scalarWait r sp rs = false

/-- The team and the context of a group. -/
structure InGrid (s : State) (g : Group) (tm : Team) (cn : Nat) (c : Ctx) : Prop where
  team : s.exec.teams[g.team]? = some tm
  ctx  : s.exec.ctxs[cn]? = some c
  of   : tm.ctx = cn

/-- A group replaced. -/
def setGroup (s : State) (n : Nat) (g : Group) : State := { s with exec := { s.exec with groups := s.exec.groups.set n g } }

/-- A split that goes on at an address. -/
def goesOn (sp : Split) (pc : W64) : Split := { sp with pc, status := .ready, arrived := false, wval := 0 }

/-- The scalar registers after a write of v to SD; a write to s63 is discarded (R312). -/
def sregsWith (l : List W64) (d : SReg) (v : W64) : List W64 := if d = 63 then l else l.set d.toNat v

/-- The marks of poisoned scalar registers after such a write: SD holds a new value (R266). -/
def spoisWith (p : W64) (d : SReg) : W64 := if d = 63 then p else p &&& ~~~((1 : W64) <<< d.toNat)

/-- A state in which split r.sp of group g has gone on at pc as sp, and nothing else differs from s. -/
def moved (s : State) (r : SplitRef) (g : Group) (sp : Split) (pc : W64) : State :=
  setGroup s r.g { g with splits := g.splits.set r.sp (goesOn sp pc) }

/-- The same with v written to SD. -/
def wrote (s : State) (r : SplitRef) (g : Group) (sp : Split) (pc : W64) (d : SReg) (v : W64) : State :=
  setGroup s r.g { g with sregs := sregsWith g.sregs d v, spois := spoisWith g.spois d, splits := g.splits.set r.sp (goesOn sp pc) }

/-- A state in which split r.sp of group g has become sp, and nothing else differs from s. -/
def became (s : State) (r : SplitRef) (g : Group) (sp : Split) : State := setGroup s r.g { g with splits := g.splits.set r.sp sp }

/-- A state without the poison mark of a place. -/
def unmarked (s : State) (l : PoisonLoc) : State := { s with store := s.store.clearMark l }

/-- An instruction of four bytes goes on from u, which is what its other effects make of s. -/
def GoesOn (s : State) (i : Instr) (u : State) (r : SplitRef) : Prop :=
  ∃ g sp, u.exec.groups[r.g]? = some g ∧ g.splits[r.sp]? = some sp ∧ exec i s = .next (moved u r g sp (sp.pc + 4))

/-- No JOIN of a group is released by what its split n does: another split can still reach it, or none waits at one (R154). -/
def Steady (g : Group) (n : Nat) : Prop :=
  (∃ k q, k ≠ n ∧ g.splits[k]? = some q ∧ q.reaches = true) ∨ (∀ k q, k ≠ n → g.splits[k]? = some q → q.status ≠ .join)

/-- A team's barrier n, or its cluster barrier, replaced. -/
def setTeam (s : State) (n : Nat) (tm : Team) : State := { s with exec := { s.exec with teams := s.exec.teams.set n tm } }
def Bar (tm : Team) (n : Nat) (b : Barrier) : Team := { tm with bars := tm.bars.set n b }

/-- Every split of a group that waits on barrier n in the phase par goes on after its instruction, with v in its SD (R206). -/
def Released (g g' : Group) (st : Status) (n : Nat) (par : Bool) (v : W64) : Prop :=
  ∀ i sp, i < 4 → g.splits[i]? = some sp → sp.status = st → sp.wbar = n → sp.wpar = par →
    (∃ sp', g'.splits[i]? = some sp' ∧ sp'.status = .ready ∧ sp'.pc = sp.pc + 4) ∧ (sp.wreg ≠ 63 → g'.sreg sp.wreg = v)

/-- The scalar register that an instruction of the ALU, immediate and LIW families writes. -/
def aluDst : Instr → Option SReg
  | .add d _ _ | .sub d _ _ | .mul d _ _ | .mulhn d _ _ | .mulhi d _ _ | .divn d _ _ | .divi d _ _ | .remn d _ _ | .remi d _ _
  | .and d _ _ | .or d _ _ | .xor d _ _ | .andn d _ _ | .shl d _ _ | .shr d _ _ | .sra d _ _ | .minn d _ _ | .mini d _ _
  | .maxn d _ _ | .maxi d _ _ | .seq d _ _ | .sne d _ _ | .sltn d _ _ | .slti d _ _ | .clz d _ | .popc d _
  | .addi d _ _ | .andi d _ _ | .ori d _ _ | .xori d _ _ | .shli d _ _ | .shri d _ _ | .srai d _ _ | .sltin d _ _ | .sltii d _ _
  | .liwSx d _ | .liwZx d _ | .liwHi d _ => some d
  | _ => none

/-- The scalar registers that such an instruction names. -/
def aluRegs : Instr → List SReg
  | .add d a b | .sub d a b | .mul d a b | .mulhn d a b | .mulhi d a b | .divn d a b | .divi d a b | .remn d a b | .remi d a b
  | .and d a b | .or d a b | .xor d a b | .andn d a b | .shl d a b | .shr d a b | .sra d a b | .minn d a b | .mini d a b
  | .maxn d a b | .maxi d a b | .seq d a b | .sne d a b | .sltn d a b | .slti d a b => [d, a, b]
  | .clz d a | .popc d a | .addi d a _ | .andi d a _ | .ori d a _ | .xori d a _ | .shli d a _ | .shri d a _ | .srai d a _
  | .sltin d a _ | .sltii d a _ => [d, a]
  | .liwSx d _ | .liwZx d _ | .liwHi d _ => [d]
  | _ => []

/-- What an instruction of one split may change at most: its own group, where SD and its own split are replaced. Every other
register, every flag, mask, condition code, vector register, accumulator and trap register of another split, every other
group, team, context and queue, and all of memory stay. -/
structure OnlySd (s t : State) (r : SplitRef) (g g' : Group) (d : SReg) : Prop where
  rest   : t = { s with exec := { s.exec with groups := t.exec.groups } }
  others : ∀ n, n ≠ r.g → t.exec.groups[n]? = s.exec.groups[n]?
  group  : t.exec.groups[r.g]? = some g' ∧ g' = { g with sregs := g'.sregs, spois := g'.spois, splits := g'.splits }
  sregs  : ∀ k : SReg, k ≠ d → g'.sreg k = g.sreg k
  spois  : g'.spois = g.spois ∨ g'.spois = spoisWith g.spois d
  splits : ∀ k, k ≠ r.sp → g'.splits[k]? = g.splits[k]?
  own    : ∀ sp sp' : Split, g.splits[r.sp]? = some sp → g'.splits[r.sp]? = some sp' →
    sp' = { sp with pc := sp'.pc, status := sp'.status, arrived := sp'.arrived, wval := sp'.wval }
  bytes  : SameBytes s t

/-! ### The lanes -/

/-- A split issues a lane instruction of its started clause, and e is what the instruction reads. -/
structure LaneAt (s : State) (e : Env) : Prop where
  cur    : s.cur = some e.r
  group  : s.exec.groups[e.r.g]? = some e.g
  split  : e.g.splits[e.r.sp]? = some e.sp
  clause : e.sp.clause = some e.c
  team   : s.exec.teams[e.g.team]? = some e.tm
  ctx    : s.exec.ctxs[e.tm.ctx]? = some e.ctx

/-- The instruction executes: its mask holds a lane, and no source lane in its mask holds poisoned data. -/
structure LaneRuns (s : State) (e : Env) (f : LaneWord) (srcs : List (Src × Nat)) : Prop extends LaneAt s e where
  some_ : e.lanes (e.mask f) ≠ []
  clean : s.spoiledLane e.r.g (srcs.flatMap (fun p => p.1.regs p.2)) (e.lanes (e.mask f)) = none

/-- And writes vector registers of w bits, if any: no load is still to write one, no batch holds one as scales, and they exist. -/
structure LaneFree (s : State) (e : Env) (f : LaneWord) (srcs : List (Src × Nat)) (w : Nat) : Prop extends LaneRuns s e f srcs where
  free  : s.dstBusy e f w = false
  dst   : f.dst ≠ 255 → f.dst.toNat + w / 32 ≤ e.g.vregs.length

/-- The clause of the issuing split is past the instruction: at its next one, or complete. -/
def ClausePast (g' : Group) (e : Env) : Prop :=
  ∃ sp', g'.splits[e.r.sp]? = some sp' ∧
    sp'.clause = (if e.c.done + 1 < e.c.code.length then some { e.c with done := e.c.done + 1 } else none)

/-- What an instruction leaves that writes a destination of w bits, condition codes and FXF from what it computes in each lane: the
lanes of the mask hold the results, the codes are written with CW alone, the flags are added to FXF, and the clause goes
on. -/
def LaneGives (s : State) (e : Env) (f : LaneWord) (w : Nat) (i : Instr) (out : Nat → LaneOut) : Prop :=
  ∃ t g', exec i s = .next t ∧ t.exec.groups[e.r.g]? = some g' ∧ ClausePast g' e ∧
    (f.dst ≠ 255 → ∀ l, l < e.gw → (e.mask f).getLsbD l = true → g'.vec f.dst.toNat l (w / 32) = (out l).d % 2 ^ w) ∧
    (∀ l, l < e.gw → g'.ccs.getD l 0 = if f.cw ∧ (e.mask f).getLsbD l = true then (out l).cc else e.g.ccs.getD l 0) ∧
    g'.fxf = (e.lanes (e.mask f)).foldl (fun a l => a ||| (out l).fl) e.g.fxf

/-- The same for a scalar destination. -/
def ScalarGives (s : State) (e : Env) (f : LaneWord) (i : Instr) (v : W64) : Prop :=
  e.g.sregs.length = 64 →
  ∃ t g', exec i s = .next t ∧ t.exec.groups[e.r.g]? = some g' ∧ ClausePast g' e ∧
    ∀ k : SReg, g'.sreg k = if k = f.dst.truncate 6 ∧ k ≠ 63 then v else e.g.sreg k

/-- The same for a mask register: in the lanes of the execution mask it holds v, elsewhere what it held. -/
def MaskGives (s : State) (e : Env) (f : LaneWord) (i : Instr) (v : W64) : Prop :=
  ∃ t g', exec i s = .next t ∧ t.exec.groups[e.r.g]? = some g' ∧ ClausePast g' e ∧
    (f.dst.toNat ≠ 0 → f.dst.toNat < e.g.masks.length →
      g'.masks.getD f.dst.toNat 0 = (e.g.masks.getD f.dst.toNat 0 &&& ~~~(e.mask f)) ||| (v &&& e.mask f))

/-- What a lane instruction that may write or kill the vector registers ds changes at most: its own group alone, and of it those
registers, the condition codes, FXF, POISON and the flags of clauses that end; of its own split the clause alone. All of memory
stays. -/
structure LaneFrame (s t : State) (e : Env) (g' : Group) (ds : List Nat) : Prop where
  others : ∀ n, n ≠ e.r.g → t.exec.groups[n]? = s.exec.groups[n]?
  group  : t.exec.groups[e.r.g]? = some g'
  rest   : t.exec = { s.exec with groups := t.exec.groups }
  parts  : g' = { e.g with vregs := g'.vregs, ccs := g'.ccs, fxf := g'.fxf, poison := g'.poison, clauses := g'.clauses,
                           flags := g'.flags, pend := g'.pend, splits := g'.splits }
  vregs  : ∀ n, n ∉ ds → g'.vregs[n]? = e.g.vregs[n]?
  splits : ∀ k, k ≠ e.r.sp → g'.splits[k]? = e.g.splits[k]?
  own    : ∀ sp', g'.splits[e.r.sp]? = some sp' → sp' = { e.sp with clause := sp'.clause }
  bytes  : SameBytes s t

/-- The lane instructions that compute one vector result from their sources alone, each with its sources, the widths at which it
reads them, and the width of its result. -/
def laneShapes (f : LaneWord) : List (Instr × List (Src × Nat) × Nat) :=
  let h := tyHeld f.ty
  ([.iadd f, .isub f, .iadc f, .isbc f, .imul f, .imulh f, .idiv f, .irem f, .imin f, .imax f, .laneShl f, .laneShr f, .laneSra f,
    .fadd f, .fsub f, .fmul f, .fmin f, .fmax f, .fdiv f] : List Instr).map (fun i => (i, src2 f, h)) ++
  ([.iabs f, .lanePopc f, .laneClz f, .brev f, .mov f, .fsqrt f, .frcp f, .frsq f, .fex2 f, .flg2 f, .fsinp f, .fcosp f, .frnd f] :
    List Instr).map (fun i => (i, src1 f, h)) ++
  ([.imad f, .isad f, .blut f, .fshl f, .fshr f, .prmt f, .ffma f] : List Instr).map (fun i => (i, src3 f, h)) ++
  ([.iset f, .fset f, .pack f] : List Instr).map (fun i => (i, src2 f, 32)) ++
  ([.fclass f, .fgete f, .unpk f] : List Instr).map (fun i => (i, src1 f, 32)) ++
  [(.bfx f, [(srcA f, h), (srcB f, 32)], h), (.bfi f, [(srcA f, h), (srcB f, h), (srcC f, 32)], h),
   (.sel f, [(srcA f, h), (srcB f, h), (srcC f, 32)], h), (.fscale f, [(srcA f, h), (srcB f, 32)], h),
   (.cvt f, [(srcA f, tyHeld (bType f))], h), (.lxch f, [(srcA f, h), (srcB f, 32)], h)]

/-- A state in which the stores before an access that releases are performed at grp scope (R220). -/
def asReleased (s : State) (g : Nat) (ord : Nat) : State := if ord = 2 ∨ ord = 3 then s.performedAtGrp g else s

/-- A memory access that meets nothing which stops, delays or redirects it: its mask holds a lane, the launch is not dual-run, no
earlier load into its destinations is outstanding, the HBM budget is not used up, its release condition holds and no
remote fault is pending for it, every element lies in local or host memory, and nothing that it needs is absent, lost, held
or poisoned. -/
structure MemClear (s : State) (e : Env) (a : AccEnv) (f : LaneWord) (q : MemAsk) (want : Nat → Want) (m : Met) : Prop extends LaneAt s e where
  some_  : e.lanes (e.mask f) ≠ []
  acc    : s.accEnv e.r.g e.r.sp = some a
  single : a.ctx.lr.dual = false
  here   : a.switched = false
  free   : s.regsBusy e.r.g q.regs = false ∧ s.loadIntoMask e.r.g q.rmask = false
  budget : s.hbmFull a.ctx.pent (some a.cn) = false
  rel    : q.ord = 2 ∨ q.ord = 3 → s.released e.r.g q.scope = true ∧ e.g.rfault.pend = false
  met    : m = (asReleased s e.r.g q.ord).meet a e.sp.fails q.kind.acc (q.kind == .cas || q.aop == 0 || q.aop == 6) q.mis ((e.lanes (e.mask f)).map want)
  clean  : (asReleased s e.r.g q.ord).spoiledLane e.r.g (q.srcs.flatMap (fun p => p.1.regs p.2)) (e.lanes (e.mask f)) = none
  good   : m.faults = [] ∧ m.absent = [] ∧ m.follow = [] ∧ m.lost = none ∧ m.gone = [] ∧ m.missed = []
  local_ : ∀ p ∈ m.pieces, p.place.remote = false
  first_ : q.kind.stores = true →
    (asReleased s e.r.g q.ord).drainLoads a (some e.c.id) e.c.since m.pieces = some (asReleased s e.r.g q.ord)

/-- A scalar access of n bytes at va that meets nothing which stops, delays or redirects it. -/
structure ScalarClear (s : State) (r : SplitRef) (sp : Split) (a : AccEnv) (w : Acc) (va : W64) (n : Nat) (data : List Byte) (m : Met) : Prop where
  acc    : s.accEnv r.g r.sp = some a
  single : a.ctx.lr.dual = false
  here   : a.switched = false
  budget : s.hbmFull a.ctx.pent (some a.cn) = false
  first_ : s.scalarHeldBy a r = false
  met    : m = s.meet a sp.fails w true false [{ lane := 0, va, n, data }]
  good   : m.faults = [] ∧ m.absent = [] ∧ m.follow = [] ∧ m.lost = none ∧ m.gone = []
  local_ : ∀ p ∈ m.pieces, p.place.remote = false

/-- A berth or stage instruction of a device with the feature, in a launch that is not dual-run. -/
structure BerthClear (s : State) (r : SplitRef) (a : AccEnv) (feat : Nat) : Prop where
  acc    : s.accEnv r.g r.sp = some a
  feat   : s.feat feat = true
  single : a.ctx.lr.dual = false

/-- An instruction issues a memory operation of a kind, for its mask and its clause, with n bytes to an element and a destination,
and the clause goes on. -/
def Asks (s : State) (e : Env) (f : LaneWord) (i : Instr) (kind : OpKind) (n dst : Nat) : Prop :=
  ∃ t g' o, exec i s = .next t ∧ t.exec.groups[e.r.g]? = some g' ∧ ClausePast g' e ∧ o ∈ t.ops.mops ∧ o.id = s.ops.nextId ∧
    o.kind = kind ∧ o.esize = n ∧ o.dst = dst ∧ o.lanes = e.mask f ∧ o.g = e.r.g ∧ o.sp = e.r.sp ∧ o.clause = some e.c.id

end Sys2Proof.Safety
end

