-- ==== Sys2Proof/Certificates/Slice0/Obligations.lean ====
section
/-!
DEFINITION. The statements for the provers: claims about the machine, each with the rules of the manual that it formalises.
-/

open Sys2Proof Sys2Proof.Machine Sys2Proof.Safety

/-! ### The scalar ALU, immediates and LIW -/

/-- R340, R341: every ALU instruction writes SD with the value that the table of R340 gives, goes on at the next word, and
changes nothing else; no operation traps on its data. CLZ gives the number of leading zero bits of a, 64 for 0, and POPC that of its
set bits. -/
def Obligations.AluWritesTheTableValue : Prop :=
  (∀ (s : State) (r : SplitRef) (g : Group) (sp : Split) (d a : SReg), Runs s r g sp [d, a] →
    exec (.clz d a) s = .next (wrote s r g sp (sp.pc + 4) d (g.sreg a).clz) ∧
    exec (.popc d a) s = .next (wrote s r g sp (sp.pc + 4) d (BitVec.ofNat 64 ((List.range 64).countP ((g.sreg a).getLsbD ·))))) ∧
  ∀ (s : State) (r : SplitRef) (g : Group) (sp : Split) (d a b : SReg), Runs s r g sp [d, a, b] →
    let x := g.sreg a
    let y := g.sreg b
    let out (v : W64) : Out := .next (wrote s r g sp (sp.pc + 4) d v)
    exec (.add d a b) s = out (x + y) ∧
    exec (.sub d a b) s = out (x - y) ∧
    exec (.mul d a b) s = out (x * y) ∧
    exec (.mulhn d a b) s = out (BitVec.ofNat 64 (x.toNat * y.toNat / 2 ^ 64)) ∧
    exec (.mulhi d a b) s = out (BitVec.ofInt 64 (x.toInt * y.toInt / 2 ^ 64)) ∧
    exec (.divn d a b) s = out (if y = 0 then ~~~(0 : W64) else BitVec.ofNat 64 (x.toNat / y.toNat)) ∧
    exec (.divi d a b) s = out (if y = 0 then ~~~(0 : W64) else BitVec.ofInt 64 (x.toInt.tdiv y.toInt)) ∧
    exec (.remn d a b) s = out (if y = 0 then x else BitVec.ofNat 64 (x.toNat % y.toNat)) ∧
    exec (.remi d a b) s = out (if y = 0 then x else BitVec.ofInt 64 (x.toInt.tmod y.toInt)) ∧
    exec (.and d a b) s = out (x &&& y) ∧
    exec (.or d a b) s = out (x ||| y) ∧
    exec (.xor d a b) s = out (x ^^^ y) ∧
    exec (.andn d a b) s = out (x &&& ~~~y) ∧
    exec (.shl d a b) s = out (x <<< (y.toNat % 64)) ∧
    exec (.shr d a b) s = out (x >>> (y.toNat % 64)) ∧
    exec (.sra d a b) s = out (x.sshiftRight (y.toNat % 64)) ∧
    exec (.minn d a b) s = out (if x.toNat ≤ y.toNat then x else y) ∧
    exec (.mini d a b) s = out (if x.toInt ≤ y.toInt then x else y) ∧
    exec (.maxn d a b) s = out (if x.toNat ≤ y.toNat then y else x) ∧
    exec (.maxi d a b) s = out (if x.toInt ≤ y.toInt then y else x) ∧
    exec (.seq d a b) s = out (if x = y then 1 else 0) ∧
    exec (.sne d a b) s = out (if x = y then 0 else 1) ∧
    exec (.sltn d a b) s = out (if x.toNat < y.toNat then 1 else 0) ∧
    exec (.slti d a b) s = out (if x.toInt < y.toInt then 1 else 0)

/-- R342 to R344: every immediate instruction writes SD from SA and the sign-extended SIMM14, or the 6-bit shift count; LIW writes SD from its second word in the
three forms, and goes on after both words. Nothing else changes. -/
def Obligations.ImmediatesAndLiwWriteSd : Prop :=
  (∀ (s : State) (r : SplitRef) (g : Group) (sp : Split) (d a : SReg) (i : BitVec 14) (n : BitVec 6), Runs s r g sp [d, a] →
    let x := g.sreg a
    let m : W64 := i.signExtend 64
    let out (v : W64) : Out := .next (wrote s r g sp (sp.pc + 4) d v)
    exec (.addi d a i) s = out (x + m) ∧
    exec (.andi d a i) s = out (x &&& m) ∧
    exec (.ori d a i) s = out (x ||| m) ∧
    exec (.xori d a i) s = out (x ^^^ m) ∧
    exec (.shli d a n) s = out (x <<< n.toNat) ∧
    exec (.shri d a n) s = out (x >>> n.toNat) ∧
    exec (.srai d a n) s = out (x.sshiftRight n.toNat) ∧
    exec (.sltin d a i) s = out (if x.toNat < m.toNat then 1 else 0) ∧
    exec (.sltii d a i) s = out (if x.toInt < m.toInt then 1 else 0)) ∧
  (∀ (s : State) (r : SplitRef) (g : Group) (sp : Split) (d : SReg) (imm : W32), Runs s r g sp [d] →
    exec (.liwSx d imm) s = .next (wrote s r g sp (sp.pc + 8) d (imm.signExtend 64)) ∧
    exec (.liwZx d imm) s = .next (wrote s r g sp (sp.pc + 8) d (imm.zeroExtend 64)) ∧
    exec (.liwHi d imm) s = .next (wrote s r g sp (sp.pc + 8) d (imm ++ (g.sreg d).extractLsb' 0 32)))

/-- R6, R312, R339: what an instruction of the ALU, immediate or LIW families leaves alone, for every one of them and every
outcome that is a next state: it writes SD and its own split's place alone; a write to s63 is discarded and s63 reads zero. -/
def Obligations.AluFrameIsSdAlone : Prop :=
  ∀ (i : Instr) (d : SReg) (s t : State) (r : SplitRef) (g : Group) (sp : Split), aluDst i = some d → Issues s r g sp →
    exec i s = .next t → ∃ g', OnlySd s t r g g' d ∧ g'.sreg 63 = 0

/-- R161: every ALU, immediate and LIW instruction that names a register among s32 to s47 waits, with no effect at all, while a
clause that its split enqueued earlier, queued or in progress, still writes one of the registers that it names. -/
def Obligations.ScalarInstructionWaitsForItsClauses : Prop :=
  ∀ (s : State) (r : SplitRef) (g : Group) (sp : Split) (tm : Team) (cn : Nat) (c : Ctx) (i j : Instr) (d k : SReg),
    Issues s r g sp → InGrid s g tm cn c → aluDst i = some d → k ∈ aluRegs i → 32 ≤ k.toNat → k.toNat ≤ 47 →
    j ∈ s.pendingCode c sp → laneScalarDst j = some k.toNat → exec i s = .next s

/-! ### Branches, jumps, divergence -/

/-- R347, R310, R348, R349: BRC, JMP, CALL, RET, JMPR and NOP go on where the rules say, for aligned targets of the two
register jumps; CALL writes the address after it to s62; nothing else changes. -/
def Obligations.BranchesAndJumpsGoOn : Prop :=
  ∀ (s : State) (r : SplitRef) (g : Group) (sp : Split),
    (∀ (a b : SReg) (c : BitVec 3) (o : BitVec 11), c.toNat < 6 → Runs s r g sp [a, b] →
      let x := g.sreg a
      let y := g.sreg b
      let holds : Prop := match c.toNat with
        | 0 => x = y
        | 1 => x ≠ y
        | 2 => x.toNat < y.toNat
        | 3 => y.toNat ≤ x.toNat
        | 4 => x.toInt < y.toInt
        | _ => y.toInt ≤ x.toInt
      (holds → exec (.brc a b c o) s = .next (moved s r g sp (sp.pc + 4 * o.signExtend 64))) ∧
      (¬ holds → exec (.brc a b c o) s = .next (moved s r g sp (sp.pc + 4)))) ∧
    (∀ o : BitVec 26, Runs s r g sp [] →
      exec (.jmp o) s = .next (moved s r g sp (sp.pc + 4 * o.signExtend 64)) ∧
      exec (.call o) s = .next (wrote s r g sp (sp.pc + 4 * o.signExtend 64) 62 (sp.pc + 4)) ∧
      exec .nop s = .next (moved s r g sp (sp.pc + 4))) ∧
    (Runs s r g sp [] → (g.sreg 62).toNat % 4 = 0 → exec .ret s = .next (moved s r g sp (g.sreg 62))) ∧
    (∀ a : SReg, Runs s r g sp [a] → (g.sreg a).toNat % 4 = 0 → exec (.jmpr a) s = .next (moved s r g sp (g.sreg a)))

/-- R170, R311, R348, R446: RET and JMPR to an address that is not 4-byte aligned do not jump: the instruction takes MISALIGN (cause 4)
at its own address. TRAP and BRK take their causes, 8 and 9, with the address after them as the resume point; TRAP reports its
immediate and its register; a word that no rule defines takes ILLEGAL_INSTR at its own address. -/
def Obligations.JumpsTrapBrkAndIllegalTakeTraps : Prop :=
  (∀ (s : State) (r : SplitRef) (g : Group) (sp : Split) (a : SReg), Runs s r g sp [a] → (g.sreg a).toNat % 4 ≠ 0 →
    exec (.jmpr a) s = .next (s.takeTrap r { code := 4, pc := sp.pc, spc := sp.pc })) ∧
  (∀ (s : State) (r : SplitRef) (g : Group) (sp : Split), Runs s r g sp [] → (g.sreg 62).toNat % 4 ≠ 0 →
    exec .ret s = .next (s.takeTrap r { code := 4, pc := sp.pc, spc := sp.pc })) ∧
  (∀ (s : State) (r : SplitRef) (g : Group) (sp : Split) (a : SReg) (i : BitVec 14) (w : W32),
    (Runs s r g sp [a] → exec (.trap a i) s = .next (s.takeTrap r
      { code := 8, pc := sp.pc + 4, addr := i.signExtend 64, info := g.sreg a, spc := sp.pc + 4 })) ∧
    (Runs s r g sp [] → exec .brk s = .next (s.takeTrap r { code := 9, pc := sp.pc + 4, spc := sp.pc + 4 })) ∧
    (Issues s r g sp → exec (.illegalInstr w) s = .next (s.takeTrap r
      { code := 1, pc := sp.pc, info := (w.extractLsb' 26 6).zeroExtend 64, spc := sp.pc })) ∧
    (∀ (b : SReg) (c : BitVec 3) (o : BitVec 11), 6 ≤ c.toNat → Runs s r g sp [a, b] →
      exec (.brc a b c o) s = .next (s.takeTrap r { code := 1, pc := sp.pc, info := 0x10, spc := sp.pc })))

/-- R152, R350: BSPL with all its lanes on one side goes there without a new split; with both sides and an empty stack and a free
split number it makes a new split, which holds the taken lanes at the target and inherits the place in program order of what its
parent has issued and enqueued (R217), and keeps the others; otherwise it pushes the
not-taken side on its stack; with eight entries it traps with ILLEGAL_CONV, sub-code 1. The mask is published and no clause that
the split enqueued still writes it. What a child inherits of clauses that have not issued is the model's reading (log entry 122). -/
def Obligations.BsplSplitsOrPushes : Prop :=
  ∀ (s : State) (r : SplitRef) (g : Group) (sp : Split) (m : BitVec 3) (inv : Bool) (tgt jn : W16),
    Runs s r g sp [] → s.maskBusy r.g sp m.toNat = false → g.maskUnpub m.toNat = false →
    let sel := if m = 0 then sp.mask else g.masks.getD m.toNat 0
    let taken := sp.mask &&& (if inv then ~~~sel else sel)
    let rest := sp.mask &&& ~~~taken
    let target := sp.pc + 4 * tgt.signExtend 64
    let i : Instr := .bspl m inv tgt jn
    (taken = 0 → exec i s = .next (moved s r g sp (sp.pc + 8))) ∧
    (taken ≠ 0 → rest = 0 → exec i s = .next (moved s r g sp target)) ∧
    (taken ≠ 0 → rest ≠ 0 → sp.stack = [] → ∀ n, g.freeSplit = some n → n ≠ r.sp →
      ∃ g' sp', (s.inherit r n).exec.groups[r.g]? = some g' ∧ g'.splits[r.sp]? = some sp' ∧
        exec i s = .next (setGroup (s.inherit r n) r.g { g' with
          splits := (g'.splits.set n { Split.absent with status := .ready, pc := target, mask := taken, age := s.now, fsc := sp.fsc }).set
            r.sp (goesOn { sp' with mask := rest } (sp.pc + 8)) })) ∧
    (taken ≠ 0 → rest ≠ 0 → sp.stack.length < 8 → (sp.stack ≠ [] ∨ g.freeSplit = none) →
      exec i s = .next (moved s r g
        { sp with mask := taken, stack := { join := sp.pc + 4 * jn.signExtend 64, mask := rest, fall := sp.pc + 8 } :: sp.stack } target)) ∧
    (taken ≠ 0 → rest ≠ 0 → 8 ≤ sp.stack.length →
      exec i s = .next (s.takeTrap r { code := 3, sub := 1, pc := sp.pc, info := 0x13, spc := sp.pc }))

/-- R153 to R155, R351: with earlier clauses issued, JOIN at the address that the top entry names runs the other side first, and
pops the entry, with both masks, when that side comes back; at any other address it traps with ILLEGAL_CONV, sub-code 2. EXIT of
a split with a stack gives up its lanes and runs the other side, or goes on at the join with the lanes that wait there. A split
with an empty stack waits at JOIN while another split can still reach it. -/
def Obligations.JoinAndExitFollowTheStack : Prop :=
  ∀ (s : State) (r : SplitRef) (g : Group) (sp : Split), Runs s r g sp [] → sp.clausesIssued = true →
    (sp.stack = [] → (∃ k, k ≠ r.sp ∧ ∃ q, g.splits[k]? = some q ∧ q.reaches = true) →
      exec .join s = .next (became s r g { sp with status := .join, wval := sp.pc })) ∧
    (∀ (e : StackEntry) (rest : List StackEntry), sp.stack = e :: rest →
      (e.join ≠ sp.pc → exec .join s = .next (s.takeTrap r { code := 3, sub := 2, pc := sp.pc, spc := sp.pc })) ∧
      (e.join = sp.pc → e.fall.getLsbD 0 = false →
        exec .join s = .next (moved s r g { sp with mask := e.mask, stack := { e with mask := sp.mask, fall := e.fall ||| 1 } :: rest } e.fall)) ∧
      (e.join = sp.pc → e.fall.getLsbD 0 = true → rest ≠ [] →
        exec .join s = .next (moved s r g { sp with mask := sp.mask ||| e.mask, stack := rest } (sp.pc + 4))) ∧
      (e.join = sp.pc → e.fall.getLsbD 0 = true → rest = [] → (∃ k, k ≠ r.sp ∧ ∃ q, g.splits[k]? = some q ∧ q.reaches = true) →
        exec .join s = .next (became s r g { sp with mask := sp.mask ||| e.mask, stack := [], status := .join, wval := sp.pc })) ∧
      (sp.handler = none → e.fall.getLsbD 0 = false →
        exec .exit s = .next (moved s r g { sp with mask := e.mask, stack := { e with mask := 0, fall := e.fall ||| 1 } :: rest } e.fall)) ∧
      (sp.handler = none → e.fall.getLsbD 0 = true →
        exec .exit s = .next (moved s r g { sp with mask := e.mask, stack := rest } e.join))) ∧
    (sp.handler = none → sp.stack = [] → (∃ k, k ≠ r.sp ∧ ∃ q, g.splits[k]? = some q ∧ q.reaches = true) →
      exec .exit s = .next (became s r g { sp with status := .exited, mask := 0 }))

/-! ### Clauses, flags, segments, time -/

/-- R158, R217, R235, R352, R353, R355, R445, R443: RUN enqueues the clause with the split's mask and s0 to s31; WAITF with its flags
set, all of them or for ANY one, and no clause ahead that names one completes, and else the split waits in WAITF; SEG sets the segment width once no clause is
queued or in progress; YIELD goes on behind the other splits; SLEEPT of a time that has come goes on, and else sleeps. -/
def Obligations.RunWaitfSegYieldSleept : Prop :=
  ∀ (s : State) (r : SplitRef) (g : Group) (sp : Split) (tm : Team) (cn : Nat) (c : Ctx), InGrid s g tm cn c →
    (∀ i : BitVec 26, Runs s r g sp [] → sp.handler = none → sp.queued < 4 →
      exec (.run i) s = .next (moved s r g { sp with runq := sp.runq ++
        [{ addr := c.lr.lbase + 4 * i.zeroExtend 64, mask := sp.mask, snap := g.sregs.take 32, since := s.ops.nextId }] } (sp.pc + 4))) ∧
    (∀ (any : Bool) (m : BitVec 12), Runs s r g sp [] → Steady g r.sp →
      (s.flagAhead c sp m = true ∨ (any = true ∧ m ≠ 0 ∧ g.flags &&& m = 0) ∨
        (any = false ∧ ∃ k, k < 12 ∧ m.getLsbD k = true ∧ g.flags.getLsbD k = false)) →
      exec (.waitf any m) s = .next (became s r g { sp with
        status := .waitf, wflags := (if any then 0x8000 else 0) ||| m.zeroExtend 16 })) ∧
    (∀ (any : Bool) (m : BitVec 12), Runs s r g sp [] → s.flagAhead c sp m = false → sp.status = .ready →
      (m = 0 ∨ (any = true ∧ g.flags &&& m ≠ 0) ∨ (any = false ∧ g.flags &&& m = m)) →
      let seen := g.flags &&& m
      let u : State := if g.mflags &&& seen = 0 then s else s.flushL1 tm.die tm.site
      GoesOn s (.waitf any m) ((setGroup u r.g (g.publish (seen.zeroExtend 16))).fencePassed r (fun sets => sets &&& seen != 0)) r) ∧
    (∀ w : BitVec 3, Runs s r g sp [] → sp.handler = none → w ≠ 0 → w ≠ 7 → 2 ^ w.toNat ≤ c.lr.gw →
      (∀ q ∈ g.splits, q.clausesIssued = true) →
      exec (.seg w) s = .next (setGroup s r.g { g with segw := 2 ^ w.toNat, splits := g.splits.set r.sp (goesOn sp (sp.pc + 4)) })) ∧
    (Runs s r g sp [] → exec .yield s = .next (moved s r g { sp with age := s.now } (sp.pc + 4))) ∧
    (∀ a : SReg, Runs s r g sp [a] →
      ((g.sreg a).toNat ≤ s.now → exec (.sleept a) s = .next (moved s r g sp (sp.pc + 4))) ∧
      (s.now < (g.sreg a).toNat →
        exec (.sleept a) s = .next (became s r g { sp with status := .sleep, wval := g.sreg a })))

/-! ### Barriers, fences, tiles -/

/-- R205, R207, R356, R357, R462: TBAR.ARRIVE and TBAR.SYNC count the lanes of the split in the phase of their barrier once the release
condition holds, TBAR.WAIT counts none; SYNC and WAIT block on the phase, ARRIVE goes on. While a quota is not met the
barrier holds the sum, and nothing else changes but that the group's stores are performed for its own team (R220); an arrival that may
not yet be counted has no effect. A SYNC or WAIT of a split that an image re-planted waits for the phase that it waited for, and goes on
with the status of the last phase when that one has completed. -/
def Obligations.TeamBarrierCountsArrivals : Prop :=
  ∀ (s : State) (r : SplitRef) (g : Group) (sp : Split) (tm : Team) (d : SReg) (n : BitVec 4) (b : Barrier), Runs s r g sp [d] →
    s.exec.teams[g.team]? = some tm → tm.bars[n.toNat]? = some b →
    let b' : Barrier := { b with larr := b.larr + sp.lanes, arrived := if b.arrived.contains r.g then b.arrived else b.arrived ++ [r.g] }
    let blocked (x : Bool) : Split := { sp with status := .tbar, wbar := n.toNat, wpar := b.parity, arrived := x, wreg := d }
    let u := s.performedAtGrp r.g
    (s.mayArrive r 1 = false → exec (.tbarArrive d n) s = .next s ∧ (sp.arrived = false → exec (.tbarSync d n) s = .next s)) ∧
    (s.mayArrive r 1 = true → b'.full = false →
      exec (.tbarArrive d n) s = .next (setTeam (wrote u r g sp (sp.pc + 4) d 0) g.team (Bar tm n.toNat b')) ∧
      (sp.arrived = false → Steady g r.sp → exec (.tbarSync d n) s = .next (setTeam (became u r g (blocked true)) g.team (Bar tm n.toNat b')))) ∧
    (sp.arrived = false → Steady g r.sp → exec (.tbarWait d n) s = .next (became s r g (blocked false))) ∧
    (sp.arrived = true → b.parity ≠ sp.wpar →
      let go : Out := .next (wrote s r g sp (sp.pc + 4) d (if b.lastErr then 1 else 0))
      exec (.tbarWait d n) s = go ∧ exec (.tbarSync d n) s = go) ∧
    (sp.arrived = true → b.parity = sp.wpar → Steady g r.sp →
      exec (.tbarWait d n) s = .next (became s r g (blocked false)) ∧ exec (.tbarSync d n) s = .next (became s r g (blocked true))) ∧
    exec (.tbarTest d n) s = .next (wrote s r g sp (sp.pc + 4) d (BitVec.ofNat 64 (b.larr % 2 ^ 32 * 2 ^ 32 +
      s.waiting tm n.toNat % 2 ^ 16 * 2 ^ 16 + (if b.err then 2 else 0) + (if b.parity then 1 else 0))))

/-- R206, R358: the arrival that meets the quotas completes the phase: LARR, BARR, BQUOTA and ERR become zero, the parity flips,
LQUOTA stays; every split of another group of the team that waits on the phase is released with its status, 1 when ERR was set
or a quota was passed, and else 0. -/
def Obligations.TeamBarrierPhaseCompletes : Prop :=
  ∀ (s : State) (r : SplitRef) (g : Group) (sp : Split) (tm : Team) (d : SReg) (n : BitVec 4) (b : Barrier), Runs s r g sp [d] →
    s.exec.teams[g.team]? = some tm → tm.bars[n.toNat]? = some b → s.mayArrive r 1 = true → tm.groups.Nodup →
    (b.lquota ≠ 0 ∨ b.bquota ≠ 0) → b.lquota ≤ b.larr + sp.lanes → b.bquota ≤ b.barr →
    let e : Bool := b.err || decide (b.lquota < b.larr + sp.lanes) || decide (b.bquota < b.barr)
    ∃ t tm', exec (.tbarArrive d n) s = .next t ∧ t.exec.teams[g.team]? = some tm' ∧
      tm'.bars[n.toNat]? = some { b with lastErr := e, parity := !b.parity, larr := 0, barr := 0, bquota := 0, err := false,
                                         arrived := [], dog := 0 } ∧
      (∀ k gr, k ∈ tm.groups → k ≠ r.g → s.exec.groups[k]? = some gr → gr.sregs.length = 64 → ∃ gr', t.exec.groups[k]? = some gr' ∧
        Released gr gr' .tbar n.toNat b.parity (if e then 1 else 0))

/-- R205, R356: TBAR.EXPECT adds to the quotas of the phase and writes 0, or writes 2 and changes no quota when one would not
fit in 32 or 64 bits; TBAR.ADDB adds to the bytes that have arrived. -/
def Obligations.ExpectAndAddbChangeThePhase : Prop :=
  ∀ (s : State) (r : SplitRef) (g : Group) (sp : Split) (tm : Team) (d x y : SReg) (n : BitVec 4) (b : Barrier),
    s.exec.teams[g.team]? = some tm → tm.bars[n.toNat]? = some b →
    (Runs s r g sp [d, x, y] →
      let l := (g.sreg x).toNat
      let q := (g.sreg y).toNat
      let b' : Barrier := { b with lquota := b.lquota + l, bquota := b.bquota + q }
      ((2 ^ 32 ≤ b.lquota + l ∨ 2 ^ 64 ≤ b.bquota + q) →
        exec (.tbarExpect d x y n) s = .next (wrote s r g sp (sp.pc + 4) d 2)) ∧
      (b.lquota + l < 2 ^ 32 → b.bquota + q < 2 ^ 64 → b'.full = false →
        exec (.tbarExpect d x y n) s = .next (setTeam (wrote s r g sp (sp.pc + 4) d 0) g.team (Bar tm n.toNat b')))) ∧
    (Runs s r g sp [d, y] →
      let b' : Barrier := { b with barr := b.barr + (g.sreg y).toNat }
      b'.full = false → exec (.tbarAddb d y n) s = .next (setTeam (wrote s r g sp (sp.pc + 4) d 0) g.team (Bar tm n.toNat b')))

/-- R208, R359, R462: the same for the cluster barrier, which the leading team of the cluster holds; the release condition is at cluster
scope. -/
def Obligations.ClusterBarrierCountsArrivals : Prop :=
  ∀ (s : State) (r : SplitRef) (g : Group) (sp : Split) (tm ld : Team) (d : SReg), Runs s r g sp [d] →
    s.exec.teams[g.team]? = some tm → s.exec.teams[tm.lead]? = some ld →
    let b := ld.cbar
    let b' : Barrier := { b with larr := b.larr + sp.lanes, arrived := if b.arrived.contains r.g then b.arrived else b.arrived ++ [r.g] }
    let blocked (x : Bool) : Split := { sp with status := .cbar, wbar := 0, wpar := b.parity, arrived := x, wreg := d }
    let u := s.performedAtGrp r.g
    (s.mayArrive r 2 = false → exec (.cbarArrive d) s = .next s ∧ (sp.arrived = false → exec (.cbarSync d) s = .next s)) ∧
    (s.mayArrive r 2 = true → b'.full = false →
      exec (.cbarArrive d) s = .next (setTeam (wrote u r g sp (sp.pc + 4) d 0) tm.lead { ld with cbar := b' }) ∧
      (sp.arrived = false → Steady g r.sp → exec (.cbarSync d) s = .next (setTeam (became u r g (blocked true)) tm.lead { ld with cbar := b' }))) ∧
    (sp.arrived = false → Steady g r.sp → exec (.cbarWait d) s = .next (became s r g (blocked false))) ∧
    (sp.arrived = true → b.parity ≠ sp.wpar →
      let go : Out := .next (wrote s r g sp (sp.pc + 4) d (if b.lastErr then 1 else 0))
      exec (.cbarWait d) s = go ∧ exec (.cbarSync d) s = go) ∧
    (sp.arrived = true → b.parity = sp.wpar → Steady g r.sp →
      exec (.cbarWait d) s = .next (became s r g (blocked false)) ∧ exec (.cbarSync d) s = .next (became s r g (blocked true)))

/-- R176, R217, R219, R220, R229, R360, R404: a FENCE completes once the clauses before it have issued and no acquiring access is
outstanding, for a release part once its scope is released, and then the group's stores are performed for its own team; for an acquire
part once the split's loads are fixed; an acquire at cluster, device or system scope leaves no line of its core in L1, and SC at system
scope sets the split's last fence to the device time. SCOPE 5 to 7 is illegal in every form. Until then it has no effect. One at system
scope takes REMOTE_FAULT (cause 10) at its own address while a remote fault of its group is pending; that FENCE.ACQ does so rests on
R360 alone (log entry 36). The context of the acquire at system scope keeps no journal. -/
def Obligations.FencesWaitAndDiscardL1 : Prop :=
  ∀ (s : State) (r : SplitRef) (g : Group) (sp : Split) (tm : Team) (cn : Nat) (c : Ctx) (x : BitVec 3), Runs s r g sp [] →
    InGrid s g tm cn c →
    let n := x.toNat
    let fences : List Instr := [.fenceAcq x, .fenceRel x, .fenceAr x, .fenceSc x]
    let u := s.performedAtGrp r.g
    let passed (v : State) : State := v.fencePassed r (fun _ => true)
    (∀ i ∈ fences, 5 ≤ n → exec i s = .next (s.takeTrap r { code := 1, pc := sp.pc, info := 0x1A, spc := sp.pc })) ∧
    (∀ i ∈ fences, n < 5 → (g.earlierIssued r.sp = false ∨ s.acquiring r.g r.sp = true) → exec i s = .next s) ∧
    (n < 5 → g.earlierIssued r.sp = true → s.acquiring r.g r.sp = false →
      (s.released r.g n = false → exec (.fenceRel x) s = .next s ∧ exec (.fenceAr x) s = .next s ∧ exec (.fenceSc x) s = .next s) ∧
      (n = 4 → g.rfault.pend = true →
        let gone : Out := .next ((s.takeTrap r { code := 10, imp := true, pc := sp.pc, addr := g.rfault.va, info := g.rfault.word, spc := sp.pc }).modGroup
          r.g (fun g => { g with rfault := RFault.zero }))
        exec (.fenceAcq x) s = gone ∧
        (s.released r.g 4 = true → exec (.fenceRel x) s = gone ∧ exec (.fenceAr x) s = gone ∧ exec (.fenceSc x) s = gone)) ∧
      ((n = 4 → g.rfault.pend = false) →
        (s.released r.g n = true → GoesOn s (.fenceRel x) (passed u) r) ∧
        (n ≠ 0 → s.loadsFixed r.g r.sp = false → exec (.fenceAcq x) s = .next s) ∧
        (s.released r.g n = true → s.loadsFixed r.g r.sp = false → exec (.fenceAr x) s = .next s ∧ exec (.fenceSc x) s = .next s) ∧
        (s.loadsFixed r.g r.sp = true → (n = 4 → c.lr.jrnl = false) →
          let acquired (v : State) : State := if 2 ≤ n then v.flushL1 tm.die tm.site else v
          let ordered (v : State) : State := if n = 4 then v.modGroup r.g (fun g => { g with
            splits := modAt g.splits r.sp (fun sp => { sp with fsc := s.now }) }) else v
          (n ≠ 0 → GoesOn s (.fenceAcq x) (passed (acquired s)) r) ∧
          (s.released r.g n = true →
            (n = 0 → GoesOn s (.fenceAcq x) (passed u) r) ∧
            GoesOn s (.fenceAr x) (passed (acquired u)) r ∧
            GoesOn s (.fenceSc x) (passed (ordered (acquired u))) r))))

/-- R201, R202, R361 to R364: TALLOC of a free scratchpad or ACC handle makes a tile of zeros and writes 0, or writes the status
of R201 and makes none; TFREE of an unused handle writes 1 and of one that nothing names frees the tile and writes 0; TINFO
describes the tile, or writes 0. Each takes DATA_POISON (cause 13) when the entry of the tile table that it reads is marked poisoned
(R266); that these three read it is the model's reading (log entry 116). -/
def Obligations.TilesAreMadeFreedAndDescribed : Prop :=
  ∀ (s : State) (r : SplitRef) (g : Group) (sp : Split) (tm : Team) (cn : Nat) (c : Ctx) (d x y h : SReg) (l : BitVec 2), InGrid s g tm cn c →
    sp.clausesIssued = true →
    let n := h.toNat
    let rows := (g.sreg x).toNat / 2 ^ 32
    let cols := (g.sreg x).toNat % 2 ^ 32
    let esize := (g.sreg y).toNat
    let st := s.tallocStatus g tm c l.toNat n rows cols esize
    let spoilt := s.entrySpoiled g.team l.toNat n
    let trap (sop : Nat) : Out := .next (s.takeTrap r { code := 13, pc := sp.pc, info := BitVec.ofNat 64 sop, spc := sp.pc })
    let asked := s.copyNames g.team n || s.tileLocked g.team n || s.tileAsked g.team n
    (spoilt = true → (Runs s r g sp [d, x, y] → exec (.talloc d x y l h) s = trap 0x20) ∧
      (Runs s r g sp [d] → exec (.tfree d l h) s = trap 0x21 ∧ exec (.tinfo d l h) s = trap 0x22)) ∧
    (spoilt = false → Runs s r g sp [d, x, y] →
      (st ≠ 0 → exec (.talloc d x y l h) s = .next (wrote s r g sp (sp.pc + 4) d (BitVec.ofNat 64 st))) ∧
      (st = 0 → l = 0 → exec (.talloc d x y l h) s = .next (setTeam (wrote (unmarked s (.tileEntry g.team n)) r g sp (sp.pc + 4) d 0) g.team { tm with
        tiles := tm.tiles.set n (some { level := 0, rows, cols, esize, err := false, map := 0, data := [] }) })) ∧
      (st = 0 → l = 1 → exec (.talloc d x y l h) s = .next (wrote s r { g with
        acc := g.acc.set n (some { rows, cols, esize, atype := 0, ctype := 0, data := [] }) } sp (sp.pc + 4) d 0))) ∧
    (spoilt = false → Runs s r g sp [d] →
      (l = 3 → exec (.tfree d l h) s = .next (wrote s r g sp (sp.pc + 4) d 2) ∧
        exec (.tinfo d l h) s = .next (wrote s r g sp (sp.pc + 4) d 0)) ∧
      ((l = 0 ∨ l = 2) → (tm.tiles[n]?).join = none → exec (.tfree d l h) s = .next (wrote s r g sp (sp.pc + 4) d 1) ∧
        exec (.tinfo d l h) s = .next (wrote s r g sp (sp.pc + 4) d 0)) ∧
      (∀ t : Tile, (l = 0 ∨ l = 2) → tm.tiles[n]? = some (some t) →
        (asked = true → exec (.tfree d l h) s = .next s) ∧
        (asked = false → ∃ u, exec (.tfree d l h) s = .next u ∧
          u.exec.teams[g.team]? = some { tm with tiles := tm.tiles.set n none } ∧
          u.exec.groups = (wrote s r g sp (sp.pc + 4) d 0).exec.groups) ∧
        exec (.tinfo d l h) s = .next (wrote s r g sp (sp.pc + 4) d (BitVec.ofNat 64 ((if t.err then 2 ^ 49 else 0) + 2 ^ 48 +
          t.level * 2 ^ 40 + t.esize * 2 ^ 32 + t.rows * 2 ^ 16 + t.cols)))) ∧
      (∀ a : AccTile, l = 1 → n < 8 → g.acc[n]? = some (some a) →
        (g.accLocked n = false → exec (.tfree d l h) s =
          .next (wrote { s with store := s.store.clearAcc r.g n } r { g with acc := g.acc.set n none } sp (sp.pc + 4) d 0)) ∧
        exec (.tinfo d l h) s = .next (wrote s r g sp (sp.pc + 4) d (BitVec.ofNat 64 (2 ^ 48 + 2 ^ 40 + a.atype * 2 ^ 36 +
          a.esize * 2 ^ 32 + a.rows * 2 ^ 16 + a.cols)))))

/-! ### Special registers, time, traps -/

/-- R449, R450: SMR writes SD with the value that the map gives each special register; FXF and POISON once earlier clauses have
issued; a number that the map does not list is illegal. -/
def Obligations.SmrReadsEverySpecialRegister : Prop :=
  ∀ (s : State) (r : SplitRef) (g : Group) (sp : Split) (tm : Team) (cn : Nat) (c : Ctx) (d : SReg), InGrid s g tm cn c → Runs s r g sp [d] →
    let reads (n : BitVec 14) (v : W64) : Prop := exec (.smr d n) s = .next (wrote s r g sp (sp.pc + 4) d v)
    reads 0x001 (BitVec.ofNat 64 c.lr.gw) ∧
    reads 0x002 (BitVec.ofNat 64 g.index) ∧
    reads 0x003 (BitVec.ofNat 64 tm.linear) ∧
    reads 0x004 (BitVec.ofNat 64 g.segw) ∧
    (sp.clausesIssued = true → reads 0x010 (g.fxf.zeroExtend 64) ∧ reads 0x011 (if g.poison then 1 else 0)) ∧
    (sp.clausesIssued = false → exec (.smr d 0x010) s = .next s ∧ exec (.smr d 0x011) s = .next s) ∧
    reads 0x012 g.rfault.word ∧
    (c.lr.rope = true → reads 0x020 (BitVec.ofNat 64 c.rank) ∧ reads 0x021 (BitVec.ofNat 64 c.rcount) ∧ reads 0x022 (c.ropeId.zeroExtend 64)) ∧
    (c.lr.rope = false → reads 0x020 0 ∧ reads 0x021 1 ∧ reads 0x022 0) ∧
    reads 0x040 (sp.cause.zeroExtend 64) ∧ reads 0x041 sp.tpc ∧ reads 0x042 sp.taddr ∧ reads 0x043 sp.tinfo ∧
    reads 0x044 (if sp.handler.isSome then sp.tspc else 0) ∧
    reads 0x100 (Config.feat0 s.part) ∧ reads 0x101 0 ∧ reads 0x102 0 ∧ reads 0x103 0 ∧
    (∀ n : BitVec 14, n.toNat ∉ [0x001, 0x002, 0x003, 0x004, 0x010, 0x011, 0x012, 0x020, 0x021, 0x022, 0x040, 0x041, 0x042, 0x043, 0x044,
        0x100, 0x101, 0x102, 0x103] →
      exec (.smr d n) s = .next (s.takeTrap r { code := 1, pc := sp.pc, info := 0x1B, spc := sp.pc }))

/-- R450: SMW writes FXF (5 bits) and POISON (1 bit) once earlier clauses have issued, clears RFAULT whatever it is given, and in a
handler writes the trap registers, of TRAPCAUSE all but bits 11:10, which are zero (R171); a write of any other special register, or of a trap register outside a handler, is illegal. -/
def Obligations.SmwWritesWhatTheMapAllows : Prop :=
  ∀ (s : State) (r : SplitRef) (g : Group) (sp : Split) (a : SReg), Runs s r g sp [a] →
    let v := g.sreg a
    let trap : Out := .next (s.takeTrap r { code := 1, pc := sp.pc, info := 0x1C, spc := sp.pc })
    (sp.clausesIssued = true →
      exec (.smw a 0x010) s = .next (moved s r { g with fxf := v.truncate 5 } sp (sp.pc + 4)) ∧
      exec (.smw a 0x011) s = .next (moved s r { g with poison := v.getLsbD 0 } sp (sp.pc + 4))) ∧
    exec (.smw a 0x012) s = .next (moved s r { g with
      rfault := { pend := false, count := 0, ltarget := 0, lreason := 0, starget := 0, sreason := 0, va := 0 } } sp (sp.pc + 4)) ∧
    (sp.handler.isSome = true →
      exec (.smw a 0x040) s = .next (moved s r g { sp with cause := v.truncate 16 &&& 0xF3FF } (sp.pc + 4)) ∧
      exec (.smw a 0x041) s = .next (moved s r g { sp with tpc := v } (sp.pc + 4)) ∧
      exec (.smw a 0x042) s = .next (moved s r g { sp with taddr := v } (sp.pc + 4)) ∧
      exec (.smw a 0x043) s = .next (moved s r g { sp with tinfo := v } (sp.pc + 4))) ∧
    (sp.handler = none → ∀ n : BitVec 14, n.toNat ∈ [0x040, 0x041, 0x042, 0x043] → exec (.smw a n) s = trap) ∧
    (∀ n : BitVec 14, n.toNat ∉ [0x010, 0x011, 0x012, 0x040, 0x041, 0x042, 0x043] → exec (.smw a n) s = trap)

/-- R141, R197, R442, R444: TIME writes the device time in a context without a journal; PAGEREQ of a mapped and
resident page, of a page of a peer or of the host, or of an address in the rope window of a rope launch, goes on; of an unmapped page, or of an address above bit 55, it is a
PROTECTION trap that names the address. Of a page of this device that is not resident it sends a page request with its EXPLICIT bit, or
starts the fetch of a following page, and blocks the split until the page is there. -/
def Obligations.TimeAndPagereq : Prop :=
  ∀ (s : State) (r : SplitRef) (g : Group) (sp : Split) (tm : Team) (cn : Nat) (c : Ctx), InGrid s g tm cn c →
    (∀ d : SReg, Runs s r g sp [d] → c.lr.jrnl = false →
      exec (.time d) s = .next (wrote s r g sp (sp.pc + 4) d s.clock.dtime)) ∧
    (∀ (x : SReg) (e : AccEnv), Runs s r g sp [x] → s.accEnv r.g r.sp = some e →
      let va := g.sreg x
      let trap : Out := .next (s.takeTrap r { code := 5, pc := sp.pc, addr := va, spc := sp.pc })
      (2 ^ 56 ≤ va.toNat → exec (.pagereq x) s = trap) ∧
      (va.toNat < 2 ^ 55 →
        (∀ l, s.look (some e.core) e.ctx.pent va.toNat false = .hit l → exec (.pagereq x) s = .next (moved s r g sp (sp.pc + 4))) ∧
        (s.look (some e.core) e.ctx.pent va.toNat false = .fail → exec (.pagereq x) s = trap) ∧
        (∀ w l, s.look (some e.core) e.ctx.pent va.toNat false = .absent w l →
          let page : W64 := va &&& ~~~(0xFFFF : W64)
          let waits (u : State) : Out := .next (became u r g { sp with status := .page, wbar := 4, wval := va, waitSc := [page] })
          (2 ≤ lfTier w → exec (.pagereq x) s = .next (moved s r g sp (sp.pc + 4))) ∧
          (lfTier w < 2 → s.following e.ctx.pent page = false → exec (.pagereq x) s =
            waits (s.pageRequest e.ctx.pent page false true (BitVec.ofNat 16 e.ctx.queue) e.ctx.index)) ∧
          (lfTier w < 2 → s.following e.ctx.pent page = true → exec (.pagereq x) s = waits (s.startFollow e.ctx.pent page)))) ∧
      (2 ^ 55 ≤ va.toNat → va.toNat < 2 ^ 56 → e.ctx.lr.rope = true → exec (.pagereq x) s = .next (moved s r g sp (sp.pc + 4))))

/-- R171, R173: a trap that a handler may take, of a launch that names a handler and is not dual-run, enters it: the split keeps its
mask, its stack and its clauses, the trap registers hold cause, PC, address and information, TRAPSPC the resume point, and
the split is at ENTRY + 4 × THOFF in its handler. Nothing else changes but that no berth waits for the split. -/
def Obligations.TakingATrapEntersTheHandler : Prop :=
  ∀ (s : State) (r : SplitRef) (g : Group) (sp : Split) (tm : Team) (cn : Nat) (c : Ctx) (t : Trap), Issues s r g sp → InGrid s g tm cn c →
    sp.handler = none → t.code ∉ [7, 11, 12, 13] → c.lr.thoff ≠ 0 → c.lr.dual = false →
    ∃ u sp', s.takeTrap r t = u ∧ u.exec = (became s r g sp').exec ∧ u.store = s.store ∧ u.caches = s.caches ∧ u.host = s.host ∧
      sp'.pc = c.lr.entry + 4 * c.lr.thoff.signExtend 64 ∧ sp'.status = .ready ∧ sp'.mask = sp.mask ∧ sp'.stack = sp.stack ∧
      sp'.clause = sp.clause ∧ sp'.runq = sp.runq ∧ sp'.handler = some t.kind ∧
      sp'.cause = BitVec.ofNat 16 (t.code + (if t.lane then 256 else 0) + (if t.imp then 512 else 0) + t.sub * 4096) ∧
      sp'.tpc = t.pc ∧ sp'.taddr = t.addr ∧ sp'.tinfo = t.info ∧ sp'.tspc = t.spc

/-- R106, R173, R174, R177, R178: a trap ends the context, with code TERMINATED and a fault record of the trap, when the launch names no
handler, is dual-run, or the cause is BARRIER_TIMEOUT, DUAL_RUN or DATA_POISON; a trap of a split that runs its handler ends it
with the first cause in the record, the second in AUX and HFL bits 0 and 1 set. That every trap of a dual-run launch ends its context is
the model's reading of R106 (log entry 38). -/
def Obligations.TrapWithoutHandlerEndsTheContext : Prop :=
  ∀ (s : State) (r : SplitRef) (g : Group) (sp : Split) (tm : Team) (cn : Nat) (c : Ctx) (t : Trap), Issues s r g sp → InGrid s g tm cn c →
    c.state = .running → tm.inst = 0 →
    (sp.handler = none → (c.lr.thoff = 0 ∨ c.lr.dual = true ∨ t.code ∈ [11, 12, 13]) →
      ∃ c' f, (s.takeTrap r t).exec.ctxs[cn]? = some c' ∧ c'.state = .ending ∧ c'.fault = some f ∧ f.code = 1 ∧ f.cause = t.cause ∧
        f.trapPc = t.pc ∧ f.trapAddr = t.addr ∧ f.trapInfo = t.info ∧ f.hfl = 0 ∧ f.split = BitVec.ofNat 8 r.sp ∧
        f.group = BitVec.ofNat 8 g.index ∧ f.team = BitVec.ofNat 32 tm.linear) ∧
    (sp.handler.isSome = true →
      ∃ c' f, (s.takeTrap r t).exec.ctxs[cn]? = some c' ∧ c'.state = .ending ∧ c'.fault = some f ∧ f.code = 1 ∧ f.cause = sp.cause ∧
        f.trapPc = sp.tpc ∧ f.trapAddr = sp.taddr ∧ f.trapInfo = sp.tinfo ∧ f.aux = t.cause.zeroExtend 64 ∧ f.hfl = 3)

/-- R173, R448: RETT of a scalar trap goes on at TRAPPC, aligned, out of the handler, with TRAPSPC zero; of a lane trap the clause
resumes at the instruction that TRAPPC names and the scalar stream at TRAPSPC; outside a handler, or for a scalar TRAPPC that is
not aligned, it is illegal. That a flag of the clause which was set while the handler ran is pending again is the model's reading
(log entry 123). -/
def Obligations.RettReturnsFromTheHandler : Prop :=
  ∀ (s : State) (r : SplitRef) (g : Group) (sp : Split), Runs s r g sp [] →
    let trap : Out := .next (s.takeTrap r { code := 1, pc := sp.pc, spc := sp.pc })
    (sp.handler = none → exec .rett s = trap) ∧
    (sp.handler = some .scalar → sp.tpc.toNat % 4 ≠ 0 → exec .rett s = trap) ∧
    (sp.handler = some .scalar → sp.tpc.toNat % 4 = 0 → sp.clause = none → ∃ sp', exec .rett s = .next (became s r g sp') ∧
      sp'.pc = sp.tpc ∧ sp'.handler = none ∧ sp'.tspc = 0 ∧ sp'.status = .ready ∧ sp'.mask = sp.mask ∧ sp'.runq = sp.runq) ∧
    (∀ c n, sp.handler = some .lane → sp.clause = some c → sp.tpc = c.addr + 12 * BitVec.ofNat 64 n → c.done + 1 ≤ n → n ≤ c.code.length →
      n < 40 → ∃ sp', exec .rett s = .next ((became s r g sp').modGroup r.g (·.resumeFlags { c with done := n - 1 })) ∧ sp'.pc = sp.tspc ∧ sp'.handler = none ∧ sp'.status = .ready ∧
        sp'.clause = some { c with done := n - 1 })

/-! ### Lane instructions -/

/-- R319, R370 to R372: the integer instructions write, in each lane of their mask, the exact result, with SAT clamped to the limits
of TY and else taken modulo 2 to its width, extended to 32 bits; with the codes of R371, and no flag. The carry-in of IADC and ISBC is
the lane's C, bit 0 of its codes. -/
def Obligations.LaneIntegerArithmetic : Prop :=
  ∀ (s : State) (e : Env) (f : LaneWord),
    let w := tyWidth f.ty
    let a (l : Nat) : Int := readTy f.ty (e.opnd f (srcA f) f.ty l)
    let b (l : Nat) : Int := readTy f.ty (e.opnd f (srcB f) f.ty l)
    let c (l : Nat) : Int := readTy f.ty (e.opnd f (srcC f) f.ty l)
    let ua (l : Nat) : Nat := e.opnd f (srcA f) f.ty l
    let ub (l : Nat) : Nat := e.opnd f (srcB f) f.ty l
    let sa (l : Nat) : Int := signedOf w (ua l)
    let sb (l : Nat) : Int := signedOf w (ub l)
    let cy (l : Nat) : Nat := if (e.g.ccs.getD l 0).getLsbD 0 then 1 else 0
    let fits (x : Int) : Bool := decide (tyLo f.ty ≤ x ∧ x ≤ tyHi f.ty)
    let fitsN (x : Int) : Bool := decide (-(2 ^ (w - 1) : Nat) ≤ x ∧ x < (2 ^ (w - 1) : Nat))
    let bits (x : Int) : Nat := wrapInt w (if f.mod.getLsbD 0 then clampInt (tyLo f.ty) (tyHi f.ty) x else x)
    let out (x : Int) (cc v : Bool) : LaneOut := { d := extendTo32 f.ty (bits x), cc := ccInt w (bits x) cc v }
    (LaneFree s e f (src2 f) (tyHeld f.ty) →
      LaneGives s e f (tyHeld f.ty) (.iadd f) (fun l => out (a l + b l) (decide (2 ^ w ≤ ua l + ub l)) (!fitsN (sa l + sb l))) ∧
      LaneGives s e f (tyHeld f.ty) (.isub f) (fun l => out (a l - b l) (decide (ub l ≤ ua l)) (!fitsN (sa l - sb l))) ∧
      LaneGives s e f (tyHeld f.ty) (.iadc f) (fun l => out (a l + b l + cy l) (decide (2 ^ w ≤ ua l + ub l + cy l)) (!fitsN (sa l + sb l + cy l))) ∧
      LaneGives s e f (tyHeld f.ty) (.isbc f) (fun l => out (a l - b l - (1 - cy l : Nat)) (decide (ub l + (1 - cy l) ≤ ua l))
        (!fitsN (sa l - sb l - (1 - cy l : Nat)))) ∧
      LaneGives s e f (tyHeld f.ty) (.imul f) (fun l => out (a l * b l) false (!fits (a l * b l))) ∧
      LaneGives s e f (tyHeld f.ty) (.imulh f) (fun l => out (a l * b l / (2 ^ w : Nat)) false false) ∧
      LaneGives s e f (tyHeld f.ty) (.idiv f) (fun l => if ub l = 0 then { d := extendTo32 f.ty (2 ^ w - 1), cc := ccInt w (2 ^ w - 1) false true }
        else out ((a l).tdiv (b l)) false (sa l == -(2 ^ (w - 1) : Nat) && sb l == -1)) ∧
      LaneGives s e f (tyHeld f.ty) (.irem f) (fun l => if ub l = 0 then out (a l) false true else out ((a l).tmod (b l)) false false) ∧
      LaneGives s e f (tyHeld f.ty) (.imin f) (fun l => out (min (a l) (b l)) false false) ∧
      LaneGives s e f (tyHeld f.ty) (.imax f) (fun l => out (max (a l) (b l)) false false)) ∧
    (LaneFree s e f (src1 f) (tyHeld f.ty) → LaneGives s e f (tyHeld f.ty) (.iabs f) (fun l => out |a l| false (!fits |a l|))) ∧
    (LaneFree s e f (src3 f) (tyHeld f.ty) →
      LaneGives s e f (tyHeld f.ty) (.imad f) (fun l => out (a l * b l + c l) false (!fits (a l * b l + c l))) ∧
      LaneGives s e f (tyHeld f.ty) (.isad f) (fun l => out (|a l - b l| + c l) false (!fits (|a l - b l| + c l))))

/-- R373, R374, R376, R388: the bit instructions, SEL, MOV, PACK and UNPK write in each lane of their mask what the tables give. -/
def Obligations.LaneBitOperationsAndMoves : Prop :=
  ∀ (s : State) (e : Env) (f : LaneWord),
    let w := tyWidth f.ty
    let h := tyHeld f.ty
    let a (l : Nat) : Nat := e.opnd f (srcA f) f.ty l
    let b (l : Nat) : Nat := e.opnd f (srcB f) f.ty l
    let c (l : Nat) : Nat := e.opnd f (srcC f) f.ty l
    let n (l : Nat) : Nat := b l % 256
    let out (d : Nat) (cy : Bool) : LaneOut := { d := d % 2 ^ w, cc := ccInt w (d % 2 ^ w) cy false }
    let move (d : Nat) : LaneOut := { d := extendTo32 f.ty d, cc := ccInt w (d % 2 ^ w) false false }
    (LaneFree s e f (src2 f) h →
      LaneGives s e f h (.laneShl f) (fun l => out (a l * 2 ^ n l) (decide (0 < n l ∧ n l ≤ w) && (a l).testBit (w - n l))) ∧
      LaneGives s e f h (.laneShr f) (fun l => out (a l / 2 ^ n l) (decide (0 < n l ∧ n l ≤ w) && (a l).testBit (n l - 1))) ∧
      LaneGives s e f h (.laneSra f) (fun l => out (wrapInt w (signedOf w (a l) / (2 ^ n l : Nat)))
        (decide (0 < n l) && (a l).testBit (min (n l - 1) (w - 1))))) ∧
    (LaneFree s e f (src3 f) h →
      LaneGives s e f h (.blut f) (fun l => out (blut (f.imm.toNat % 256) (a l) (b l) (c l) w) false) ∧
      LaneGives s e f h (.fshl f) (fun l => out ((a l * 2 ^ w + b l) * 2 ^ (c l % w) / 2 ^ w) false) ∧
      LaneGives s e f h (.fshr f) (fun l => out ((a l * 2 ^ w + b l) / 2 ^ (c l % w)) false) ∧
      LaneGives s e f h (.prmt f) (fun l => out (prmt (a l) (b l) (c l)) false)) ∧
    (LaneFree s e f (src1 f) h →
      LaneGives s e f h (.lanePopc f) (fun l => out ((List.range w).countP ((a l).testBit ·)) false) ∧
      LaneGives s e f h (.laneClz f) (fun l => out (clz w (a l)) false) ∧
      LaneGives s e f h (.brev f) (fun l => out (reverseBits w (a l)) false) ∧
      LaneGives s e f h (.mov f) (fun l => move (a l))) ∧
    (LaneFree s e f [(srcA f, h), (srcB f, 32)] h →
      LaneGives s e f h (.bfx f) (fun l => out (bfx f.ty (a l) (e.bits f (srcB f) 32 l)) false)) ∧
    (LaneFree s e f [(srcA f, h), (srcB f, h), (srcC f, 32)] h →
      LaneGives s e f h (.bfi f) (fun l => out (bfi w (a l) (b l) (e.bits f (srcC f) 32 l)) false) ∧
      LaneGives s e f h (.sel f) (fun l => move (if e.bits f (srcC f) 32 l ≠ 0 then a l else b l))) ∧
    (∀ k, k = 4 * 2 ^ modLow f 2 →
      (LaneFree s e f (src2 f) 32 → LaneGives s e f 32 (.pack f) (fun l =>
        let p := k * (f.imm.toNat % 8)
        out (b l / 2 ^ (p + k) * 2 ^ (p + k) + a l % 2 ^ k * 2 ^ p + b l % 2 ^ p) false)) ∧
      (LaneFree s e f (src1 f) 32 → LaneGives s e f 32 (.unpk f) (fun l =>
        let d := a l / 2 ^ (k * (f.imm.toNat % 8)) % 2 ^ k
        out (if f.mod.getLsbD 3 then wrapInt 32 (signedOf k d) else d) false)))

/-- R366, R377 to R380, R384: the floating-point instructions write in each lane of their mask the exact value of the number that
the table gives, rounded once into TY, with its codes and flags; the functions of F16 and BF16 go through F32. FEX2, FLG2, FSINP and
FCOSP are evaluated to the precision that log entry 128 names. -/
def Obligations.LaneFloatArithmetic : Prop :=
  ∀ (s : State) (e : Env) (f : LaneWord),
    let h := tyHeld f.ty
    let rm := f.rm.toNat
    let a (l : Nat) : Machine.Num := numOf f.ty (e.opnd f (srcA f) f.ty l)
    let b (l : Nat) : Machine.Num := numOf f.ty (e.opnd f (srcB f) f.ty l)
    let c (l : Nat) : Machine.Num := numOf f.ty (e.opnd f (srcC f) f.ty l)
    (LaneFree s e f (src2 f) h →
      LaneGives s e f h (.fadd f) (fun l => roundOut f rm (addNum rm (a l) (b l))) ∧
      LaneGives s e f h (.fsub f) (fun l => roundOut f rm (addNum rm (a l) (b l).negate)) ∧
      LaneGives s e f h (.fmul f) (fun l => roundOut f rm (mulNum (a l) (b l))) ∧
      LaneGives s e f h (.fmin f) (fun l => roundOut f 0 (minMaxNum false (a l) (b l))) ∧
      LaneGives s e f h (.fmax f) (fun l => roundOut f 0 (minMaxNum true (a l) (b l))) ∧
      LaneGives s e f h (.fdiv f) (fun l => funcOut f (divNum (a l) (b l)))) ∧
    (LaneFree s e f (src3 f) h → LaneGives s e f h (.ffma f) (fun l => roundOut f rm (fmaNum rm (a l) (b l) (c l)))) ∧
    (LaneFree s e f (src1 f) h →
      LaneGives s e f h (.fsqrt f) (fun l => funcOut f (sqrtNum (a l))) ∧
      LaneGives s e f h (.frcp f) (fun l => funcOut f (divNum (.fin false 1 0) (a l))) ∧
      LaneGives s e f h (.frsq f) (fun l => funcOut f (rsqrtNum (a l))) ∧
      LaneGives s e f h (.frnd f) (fun l => frndOut f (a l)) ∧
      LaneGives s e f h (.fex2 f) (fun l => funcOut f (exp2Num (a l))) ∧
      LaneGives s e f h (.flg2 f) (fun l => funcOut f (log2Num (a l))) ∧
      LaneGives s e f h (.fsinp f) (fun l => funcOut f (sinpNum (a l))) ∧
      LaneGives s e f h (.fcosp f) (fun l => funcOut f (cospNum (a l)))) ∧
    (LaneFree s e f [(srcA f, h), (srcB f, 32)] h → LaneGives s e f h (.fscale f) (fun l =>
      roundOut f rm ((a l).scale (signedOf 32 (e.bits f (srcB f) 32 l)), flagIf (a l).isSig fNV)))

/-- R375, R382 to R387: comparisons, classification, exponents and conversions write in each lane of their mask what the rules give:
an unordered comparison holds for CNE and CUNO alone; a class is one bit; CVT and CVTS convert as R385 and R387 say. -/
def Obligations.LaneComparesAndConversions : Prop :=
  ∀ (s : State) (e : Env) (f : LaneWord),
    let h := tyHeld f.ty
    let ua (l : Nat) : Nat := e.opnd f (srcA f) f.ty l
    let ub (l : Nat) : Nat := e.opnd f (srcB f) f.ty l
    let a (l : Nat) : Machine.Num := numOf f.ty (ua l)
    let b (l : Nat) : Machine.Num := numOf f.ty (ub l)
    let set (x : Bool) : Nat := if x then (if f.mod.getLsbD 3 then 2 ^ 32 - 1 else 1) else 0
    let p := modLow f 3
    let holds (o : Ordering) : Bool := match p with
      | 0 => o == .eq
      | 1 => o != .eq
      | 2 => o == .lt
      | 3 => o != .gt
      | 4 => o == .gt
      | _ => o != .lt
    (LaneFree s e f (src2 f) 32 →
      LaneGives s e f 32 (.iset f) (fun l => { d := set (holds (compare (readTy f.ty (ua l)) (readTy f.ty (ub l)))),
                                               cc := (subOut { f with mod := 0 } (ua l) (ub l) 0).cc }) ∧
      LaneGives s e f 32 (.fset f) (fun l =>
        if (a l).isNan || (b l).isNan then
          { d := set (p == 1 || p == 6), cc := ccOf false false true true, fl := flagIf ((2 ≤ p && p ≤ 5) || (a l).isSig || (b l).isSig) fNV }
        else { d := set (if p = 6 then false else if p = 7 then true else holds (cmpNum (a l) (b l))),
               cc := ccOf (cmpNum (a l) (b l) == .lt) (cmpNum (a l) (b l) == .eq) (cmpNum (a l) (b l) != .lt) false })) ∧
    (LaneFree s e f (src1 f) 32 →
      LaneGives s e f 32 (.fclass f) (fun l => { d := 2 ^ fclassBit f.ty (a l), cc := ccInt 32 (2 ^ fclassBit f.ty (a l)) false false }) ∧
      LaneGives s e f 32 (.fgete f) (fun l => match (a l).exponent with
        | some k => { d := wrapInt 32 k, cc := ccInt 32 (wrapInt 32 k) false false }
        | none => { d := if (a l).isZero then 0x80000000 else 0x7FFFFFFF,
                    cc := ccInt 32 (if (a l).isZero then 0x80000000 else 0x7FFFFFFF) false true, fl := fNV })) ∧
    (LaneFree s e f [(srcA f, tyHeld (bType f))] h →
      LaneGives s e f h (.cvt f) (fun l => cvtOut f (e.cfg.slot f.fs) (e.opnd f (srcA f) (bType f) l))) ∧
    (LaneFree s e f [(srcA f, 32)] 32 → (∀ q ∈ cvtsRegs f e, s.store.poison.contains (.vreg e.r.g q.1 q.2) = false) →
      LaneGives s e f 32 (.cvtsEnc f) (fun l => cvtsOut f true (e.cfg.slot f.fs) (e.bits f (srcA f) 32 l) (cvtsScale f e l)) ∧
      LaneGives s e f 32 (.cvtsDec f) (fun l => cvtsOut f false (e.cfg.slot f.fs) (e.bits f (srcA f) 32 l) (cvtsScale f e l)))

/-- R161, R389 to R397: the cross-lane, mask and condition-code instructions. LXCH takes the value of its source lane where that lane
lies in the segment and in the mask, and else its own; LPOLL, LRED, LSCAN and LPEER give the segment's answers, and LPOLL and
LRED with a scalar destination write the scalar register; MOP and MCOPY write mask registers in the lanes of the execution mask;
CCGET and CCPUT move the codes. -/
def Obligations.LaneCrossMasksAndCodes : Prop :=
  (∀ (s : State) (e : Env) (f : LaneWord),
    let m := e.mask f
    let h := tyHeld f.ty
    let full (k : Nat) : W64 := e.g.maskReg k e.c.mask
    (LaneFree s e f [(srcA f, h), (srcB f, 32)] h → LaneGives s e f h (.lxch f) (fun l =>
      let src := (lxchFrom (modLow f 3) (e.special 1 l) (e.bits f (srcB f) 32 l) e.g.segw).bind (fun j =>
        if j < e.g.segw ∧ m.getLsbD (l - e.special 1 l + j) = true then some (l - e.special 1 l + j) else none)
      let d := e.opnd f (srcA f) f.ty (src.getD l)
      { d, cc := ccInt (tyWidth f.ty) d src.isSome false })) ∧
    (f.mod.getLsbD 8 = false →
      (∀ w x, w = (if modLow f 3 = 3 then 32 else h) → x = (if modLow f 3 = 3 then h else 32) → LaneFree s e f [(srcA f, w)] x →
        LaneGives s e f x (.lpoll f) (fun l => { d := lpollOut f e m l, cc := ccOf false (lpollOut f e m l == 0) false false })) ∧
      (LaneFree s e f (src1 f) h → LaneGives s e f h (.lred f) (fun l =>
        redOut f ((lredSeg f e m (e.base l)).getD (0, 0)).1 ((lredSeg f e m (e.base l)).getD (0, 0)).2))) ∧
    (LaneFree s e f (src1 f) h → LaneGives s e f h (.lscan f) (fun l =>
      redOut f (match (lscanSeg f e m (e.base l)).1.getD (e.special 1 l) none with
        | some x => x.1
        | none => redIdent (modLow f 3) f.ty) (lscanSeg f e m (e.base l)).2)) ∧
    (LaneFree s e f (src1 f) 32 → LaneGives s e f 32 (.lpeer f) (lpeerOut f e m)) ∧
    (LaneFree s e f [] 32 →
      LaneGives s e f 32 (.mcopyM2v f) (fun l => { d := if (full f.sa.toNat).getLsbD l then 1 else 0 }) ∧
      LaneGives s e f 32 (.ccget f) (fun l => { d := (e.g.ccs.getD l 0).toNat })) ∧
    (LaneRuns s e f [] →
      ScalarGives s e f (.mcopyM2s f) (full f.sa.toNat) ∧
      (s.loadIntoMask e.r.g f.dst.toNat = false →
        MaskGives s e f (.mop f) (match modLow f 3 with
          | 0 => full f.sa.toNat &&& full f.sb.toNat
          | 1 => full f.sa.toNat ||| full f.sb.toNat
          | 2 => full f.sa.toNat ^^^ full f.sb.toNat
          | 3 => full f.sa.toNat &&& ~~~(full f.sb.toNat)
          | 4 => ~~~(full f.sa.toNat)
          | 5 => full f.sa.toNat
          | 6 => ~~~(0 : W64)
          | _ => 0) ∧
        MaskGives s e f (.mcopyS2m f) (e.c.snap.getD f.sa.toNat 0))) ∧
    (LaneRuns s e f [(srcA f, 32)] →
      (s.loadIntoMask e.r.g f.dst.toNat = false → MaskGives s e f (.mcopyV2m f)
        (BitVec.ofNat 64 (maskOf ((e.lanes m).filter (fun l => e.bits f (srcA f) 32 l != 0))))) ∧
      (∃ t g', exec (.ccput f) s = .next t ∧ t.exec.groups[e.r.g]? = some g' ∧ ClausePast g' e ∧
        ∀ l, l < e.gw → g'.ccs.getD l 0 = if m.getLsbD l then BitVec.ofNat 4 (e.bits f (srcA f) 32 l) else e.g.ccs.getD l 0))) ∧
  (∀ (s : State) (e : Env) (f : LaneWord), f.mod.getLsbD 8 = true →
    let m := e.mask f
    (∀ w, w = (if modLow f 3 = 3 then 32 else tyHeld f.ty) → LaneRuns s e f [(srcA f, w)] →
      ScalarGives s e f (.lpoll f) (BitVec.ofNat 64 (if modLow f 3 = 3 then maskOf ((e.lanes m).filter (fun k => e.bits f (srcA f) w k != 0))
        else ((e.lanes m).filter (fun k => e.bits f (srcA f) w k != 0)).length))) ∧
    (LaneRuns s e f (src1 f) → ∀ b, e.segBases.head? = some b → ∀ r, lredSeg f e m b = some r →
      ScalarGives s e f (.lred f) (BitVec.ofNat 64 (if tySigned f.ty then wrapInt 64 (signedOf (tyWidth f.ty) r.1) else r.1))))

/-- R165, R166, R168, R325: what the lane instructions that compute a vector result from their sources leave alone, for every outcome
that is a next state: other groups, other splits, scalar, mask and accumulator registers, memory, and every vector register
but the destination and the sources with a last-use mark. -/
def Obligations.LaneFrameIsDestinationAndLastUses : Prop :=
  ∀ (s t : State) (e : Env) (f : LaneWord) (i : Instr) (srcs : List (Src × Nat)) (w : Nat), LaneAt s e → (i, srcs, w) ∈ laneShapes f →
    s.spoiledLane e.r.g (srcs.flatMap (fun p => p.1.regs p.2)) (e.lanes (e.mask f)) = none → exec i s = .next t →
    ∃ g', LaneFrame s t e g' (dstRegs f w ++ lastUses srcs)

/-- R168: such an instruction with an empty execution mask writes no register, code or flag: it has its last-use marks and the
clause goes on. -/
def Obligations.EmptyMaskWritesNothing : Prop :=
  ∀ (s : State) (e : Env) (f : LaneWord) (i : Instr) (srcs : List (Src × Nat)) (w : Nat), LaneAt s e → e.lanes (e.mask f) = [] →
    e.g.maskUnpub f.msk.toNat = false → (i, srcs, w) ∈ laneShapes f →
    ∃ t g', exec i s = .next t ∧ t.exec.groups[e.r.g]? = some g' ∧ ClausePast g' e ∧
      (∀ n, n ∉ lastUses srcs → g'.vregs[n]? = e.g.vregs[n]?) ∧ (∀ n ∈ lastUses srcs, n < e.g.vregs.length → g'.vregs[n]? = some VReg.dead) ∧
      g'.ccs = e.g.ccs ∧ g'.fxf = e.g.fxf ∧ g'.sregs = e.g.sregs ∧ g'.poison = e.g.poison ∧ t.store = s.store

/-! ### Memory, tiles and the matrix unit -/

/-- R220, R398 to R403: LD, ST, ATOM, ATOMN and CAS whose elements all lie in local memory, and that nothing stops, issue their
operation for the lanes of the mask: of 1 to 16 bytes as the modifier says, or of the width of TY, with the destination
given; the clause goes on. PREF completes, whatever its addresses, and no register changes when no source has a last-use mark. -/
def Obligations.LaneMemoryInstructionsIssue : Prop :=
  (∀ (s : State) (e : Env) (a : AccEnv) (f : LaneWord) (m : Met),
    let n := 2 ^ modLow f 3
    let k := tyWidth f.ty / 8
    (MemClear s e a f
        { kind := .load, n, sx := f.mod.getLsbD 3, ord := memOrder f, scope := memScope f, dst := f.dst.toNat,
          rmask := f.sc.toNat % 8, mis := f.rm.getLsbD 0, str := f.rm.getLsbD 2, srcs := [addrSrc f] }
        (fun l => { lane := l, va := e.va f l, n }) m →
      Asks s e f (.ld f) .load n f.dst.toNat) ∧
    (MemClear s e a f
        { kind := .store, n, ord := memOrder f, scope := memScope f, mis := f.rm.getLsbD 0, str := f.rm.getLsbD 2,
          srcs := [addrSrc f, (srcC f, heldBits n)] }
        (fun l => { lane := l, va := e.va f l, n, data := bytesOf n (e.bits f (srcC f) (8 * n) l) }) m →
      Asks s e f (.st f) .store n 255) ∧
    (MemClear s e a f (atomAsk f .atomic) (atomWant f e) m → Asks s e f (.atom f) .atomic k f.dst.toNat) ∧
    (MemClear s e a f (atomAsk f .atomicN) (atomWant f e) m → Asks s e f (.atomn f) .atomicN k 255) ∧
    (MemClear s e a f
        { kind := .cas, n := k, ty := f.ty, ord := memOrder f, scope := memScope f, dst := f.dst.toNat, rmask := f.fs.toNat,
          srcs := [addrSrc f, (srcC f, 16 * k)] }
        (fun l => { lane := l, va := e.va f l, n := k, cmp := bytesOf k (e.g.vec f.sc.toNat l (k / 4)),
                    data := bytesOf k (e.g.vec (f.sc.toNat + k / 4) l (k / 4)) }) m →
      Asks s e f (.cas f) .cas k f.dst.toNat)) ∧
  (∀ (s : State) (e : Env) (f : LaneWord), LaneAt s e → lastUses [addrSrc f] = [] →
    ∃ t g', exec (.pref f) s = .next t ∧ t.exec.groups[e.r.g]? = some g' ∧ ClausePast g' e ∧ g'.vregs = e.g.vregs ∧ g'.sregs = e.g.sregs ∧
      g'.masks = e.g.masks)

/-- R405 to R407: TLD, TST and TATOM of a tile that exists, whose element width agrees with TY, at coordinates that lie in it for every
lane of the mask, issue their operation; when a lane's coordinate lies outside, the instruction takes PROTECTION with
sub-code 5. -/
def Obligations.TileInstructionsIssueOrTrap : Prop :=
  ∀ (s : State) (e : Env) (a : AccEnv) (f : LaneWord) (x : Tile), LaneAt s e → e.lanes (e.mask f) ≠ [] → s.accEnv e.r.g e.r.sp = some a →
    a.ctx.lr.dual = false → e.tm.tiles[f.sa.toNat]? = some (some x) → s.store.poison = [] →
    s.regsBusy e.r.g (dstRegs f (tyHeld f.ty)) = false → s.tileLocked e.g.team f.sa.toNat = false →
    let inside (l : Nat) : Prop := e.bits f (srcB f) 32 l / 65536 < x.rows ∧ e.bits f (srcB f) 32 l % 65536 < x.cols
    ((∀ l ∈ e.lanes (e.mask f), inside l) →
      (tileTyOk false f.ty x.esize = true → Asks s e f (.tld f) .load x.esize f.dst.toNat ∧ Asks s e f (.tst f) .store x.esize 255) ∧
      (tileTyOk true f.ty x.esize = true → f.dst ≠ 255 → Asks s e f (.tatom f) .atomic x.esize f.dst.toNat) ∧
      (tileTyOk true f.ty x.esize = true → f.dst = 255 → Asks s e f (.tatom f) .atomicN x.esize 255)) ∧
    (∀ l rest, e.lanes (e.mask f) = l :: rest → ¬ inside l →
      exec (.tld f) s = .next (s.laneTrap e.r e.sp e.c 5 5 0 (l + 256 * e.c.lop)) ∧
      exec (.tst f) s = .next (s.laneTrap e.r e.sp e.c 5 5 0 (l + 64 + 256 * e.c.lop)))

/-- R408, R409, R414, R424: a matrix instruction of a converged group, whose operands R414 allows and which holds no poisoned data, enters
the open batch, and the clause goes on: no committed ACC contents change. Outside convergence it takes ILLEGAL_CONV with sub-code 3, and
with operands that are not allowed PROTECTION with sub-code 5. MCLOSE closes the open batch with its flag, which is clear and pending
then; it waits while four batches are closed or its flag is pending. -/
def Obligations.MatrixInstructionsEnterTheBatch : Prop :=
  (∀ (s : State) (e : Env) (f : LaneWord) (i : Instr), LaneAt s e → i ∈ [Instr.mma f, .mmac f, .fmma f, .aclr f, .ald f, .acvt f] →
    (s.feat Config.featX0 = true ∨ (s.mgmt.fw.getD 3 Firmware.reset).ok = true) →
    let trap (code sub : Nat) : Out := .next (s.laneTrap e.r e.sp e.c code sub 0 ((e.lanes (e.mask f)).headD 0 + 256 * e.c.lop))
    (e.converged f = false → exec i s = trap 3 3) ∧
    (e.converged f = true → matOk e.g e.tm i = false → exec i s = trap 5 5) ∧
    (e.converged f = true → matOk e.g e.tm i = true → s.matSpoiled e.r.g e.g i = false → e.g.batchFull = false →
      ∃ t g' b, exec i s = .next t ∧ t.exec.groups[e.r.g]? = some g' ∧ ClausePast g' e ∧ g'.batches.getLast? = some b ∧ b.closed = false ∧
        b.code.getLast? = some i ∧ ∀ h : Nat, (g'.acc[h]?).join.map AccTile.data = (e.g.acc[h]?).join.map AccTile.data)) ∧
  (∀ (s : State) (e : Env) (f : LaneWord), LaneAt s e → e.converged f = true → f.imm.getLsbD 4 = false →
    let n := (f.imm.extractLsb' 0 4).toNat
    ((4 ≤ e.g.closedCount ∨ e.g.pend.getLsbD n = true) → exec (.mclose f) s = .next s) ∧
    (e.g.closedCount < 4 → e.g.pend.getLsbD n = false → n < 12 →
      ∀ b, e.g.batches.getLast? = some b → b.closed = false → b.code ≠ [] → (∀ q ∈ e.g.batches, q.isEmpty = false) →
        (∀ q ∈ e.g.clauses, q.set0 ≠ some n ∧ q.set1 ≠ some n) →
        ∃ t g', exec (.mclose f) s = .next t ∧ t.exec.groups[e.r.g]? = some g' ∧ ClausePast g' e ∧
          g'.batches.getLast? = some ⟨b.code ++ [.mclose f], true, some n, b.pcs⟩ ∧ g'.pend.getLsbD n = true ∧ g'.flags.getLsbD n = false))

/-! ### Scalar memory, copies, berths, stages -/

/-- R171, R345, R346: SSW and SSD at an aligned address, whose bytes nothing stops, issue a store of SD's low 4 bytes or of its 8
bytes, for each sector that they touch, and go on; nothing of the group but the split's place changes. SLW and SLD issue their
load in the same way. At an address that is no multiple of its size each takes MISALIGN (cause 4) with that address and its SOP. -/
def Obligations.ScalarAccessesIssueOrTrap : Prop :=
  (∀ (s : State) (r : SplitRef) (g : Group) (sp : Split) (d x : SReg) (i : BitVec 14) (a : AccEnv) (m : Met), Runs s r g sp [d, x] →
    let va := g.sreg x + i.signExtend 64
    let stores (j : Instr) (n : Nat) : Prop := ∃ t o, exec j s = .next t ∧
      t.exec.groups = (moved s r g { sp with fails := [] } (sp.pc + 4)).exec.groups ∧
      o ∈ t.ops.mops ∧ o.id = s.ops.nextId ∧ o.kind = .scalarStore ∧ o.g = a.g ∧ o.sp = a.sp ∧ o.pieces = m.pieces
    (∀ data, data = (List.range 4).map (fun k => (g.sreg d).extractLsb' (8 * k) 8) → ScalarClear s r sp a .write va 4 data m →
      s.drainLoads a none 0 m.pieces = some s → stores (.ssw d x i) 4) ∧
    (∀ data, data = (List.range 8).map (fun k => (g.sreg d).extractLsb' (8 * k) 8) → ScalarClear s r sp a .write va 8 data m →
      s.drainLoads a none 0 m.pieces = some s → stores (.ssd d x i) 8) ∧
    (ScalarClear s r sp a .read va 4 [] m → exec (.slw d x i) s = .next (s.scalarLoad r sp 0x0C a m d 4)) ∧
    (ScalarClear s r sp a .read va 8 [] m → exec (.sld d x i) s = .next (s.scalarLoad r sp 0x0D a m d 8))) ∧
  (∀ (s : State) (r : SplitRef) (g : Group) (sp : Split) (d x : SReg) (i : BitVec 14) (a : AccEnv), Runs s r g sp [d, x] →
    s.accEnv r.g r.sp = some a → s.hbmFull a.ctx.pent (some a.cn) = false → s.scalarHeldBy a r = false →
    let va := g.sreg x + i.signExtend 64
    let trap (n : Nat) : Out := .next (s.takeTrap r { code := 4, pc := sp.pc, addr := va, info := BitVec.ofNat 64 n, spc := sp.pc })
    (va.toNat % 4 ≠ 0 → exec (.slw d x i) s = trap 0x0C ∧ exec (.ssw d x i) s = trap 0x0E) ∧
    (va.toNat % 8 ≠ 0 → exec (.sld d x i) s = trap 0x0D ∧ exec (.ssd d x i) s = trap 0x0F))

/-- R81, R266, R425, R426, R429: DRAY starts its copy, with the layout record that SA names or for T2T none, once nothing that it needs
is busy: its flag not pending, fewer than 64 copies of its core, its budgets not used up, no tile of its destination an operand of the
matrix unit. Before that it has no effect. A tile that does not exist is PROTECTION with sub-code 5, one whose entry is marked poisoned
DATA_POISON (that DRAY reads the entry is the model's reading, log entry 116), and RED outside a rope launch is illegal. -/
def Obligations.DrayStartsItsCopy : Prop :=
  ∀ (s : State) (r : SplitRef) (g : Group) (sp : Split) (a b : SReg) (tile : BitVec 6) (w : DrayWord) (e : AccEnv),
    s.accEnv r.g r.sp = some e → e.ctx.lr.dual = false → e.switched = false →
    let rs : List SReg := a :: ((List.range 5).filter (fun i => b.toNat + i < 64)).map (fun i => BitVec.ofNat 6 (b.toNat + i))
    let q (dir : CopyDir) (h : Nat) : DrayAsk := { dir, tile := h, sa := g.sreg a, w }
    let busy : Bool := (w.fv && g.pend.getLsbD w.flag.toNat) || decide (64 ≤ s.coreCopies e.core) || s.etimeFull e.ctx.pent (some e.cn) ||
      s.hbmFull e.ctx.pent (some e.cn)
    let far : Bool := match s.t2tTeam e.tm (g.sreg a) with | some t => s.tileLocked t (t2tTile (g.sreg a)) | none => false
    let spoilt := s.entrySpoiled g.team 0 tile.toNat
    let trap (code sub : Nat) : Out := .next (s.takeTrap r { code, sub, pc := sp.pc, info := 0x24, spc := sp.pc })
    (busy = true →
      (Runs s r g sp rs → exec (.drayM2t a b tile w) s = .next s ∧ exec (.drayT2m a b tile w) s = .next s) ∧
      (Runs s r g sp [a, 0] → exec (.drayT2t a tile w) s = .next s) ∧
      (Runs s r g sp [a, b] → e.ctx.lr.rope = true → exec (.drayRed a b w) s = .next s)) ∧
    (Runs s r g sp rs → s.tileLocked g.team tile.toNat = true → exec (.drayM2t a b tile w) s = .next s) ∧
    (Runs s r g sp [a, 0] → far = true → exec (.drayT2t a tile w) s = .next s) ∧
    (busy = false → spoilt = true →
      (Runs s r g sp rs → s.tileLocked g.team tile.toNat = false → exec (.drayM2t a b tile w) s = trap 13 0 ∧ exec (.drayT2m a b tile w) s = trap 13 0) ∧
      (Runs s r g sp [a, 0] → far = false → exec (.drayT2t a tile w) s = trap 13 0)) ∧
    (busy = false → spoilt = false → s.tile? g.team tile.toNat = none →
      (Runs s r g sp rs → s.tileLocked g.team tile.toNat = false → exec (.drayM2t a b tile w) s = trap 5 5 ∧ exec (.drayT2m a b tile w) s = trap 5 5) ∧
      (Runs s r g sp [a, 0] → far = false → exec (.drayT2t a tile w) s = trap 5 5)) ∧
    (busy = false → spoilt = false →
      (∀ u raw used, (g.sreg a).toNat % 128 = 0 → s.readRec e sp.fails (g.sreg a) 128 = .ok u raw used →
        (Runs s r g sp rs → s.tile? g.team tile.toNat ≠ none →
          (s.tileLocked g.team tile.toNat = false →
            exec (.drayM2t a b tile w) s = .next ((u.useLines used).drayStart r g sp e (q .m2t tile.toNat) b (some raw))) ∧
          exec (.drayT2m a b tile w) s = .next ((u.useLines used).drayStart r g sp e (q .t2m tile.toNat) b (some raw))) ∧
        (Runs s r g sp [a, b] → e.ctx.lr.rope = true →
          exec (.drayRed a b w) s = .next ((u.useLines used).drayStart r g sp e (q .red 0) b (some raw)))) ∧
      (Runs s r g sp [a, 0] → s.tile? g.team tile.toNat ≠ none → far = false →
        exec (.drayT2t a tile w) s = .next (s.drayStart r g sp e (q .t2t tile.toNat) 0 none))) ∧
    (Runs s r g sp [a, b] → e.ctx.lr.rope = false → exec (.drayRed a b w) s = trap 1 0)

/-- R204, R266, R434: DPROBE writes the bits of 64 chunks from the one that SA names on, chunks that the tile does not have as set, under
the mask in SB; without the tile it takes PROTECTION with sub-code 5, and with its entry marked poisoned DATA_POISON (that DPROBE reads
the entry is the model's reading, log entry 116). -/
def Obligations.DprobeReadsTheChunkMap : Prop :=
  ∀ (s : State) (r : SplitRef) (g : Group) (sp : Split) (d a b h : SReg), Runs s r g sp [d, a, b] →
    let spoilt := s.entrySpoiled g.team 0 h.toNat
    (spoilt = true → exec (.dprobe d a b h) s = .next (s.takeTrap r { code := 13, pc := sp.pc, info := 0x25, spc := sp.pc })) ∧
    (spoilt = false → s.tile? g.team h.toNat = none →
      exec (.dprobe d a b h) s = .next (s.takeTrap r { code := 5, sub := 5, pc := sp.pc, info := 0x25, spc := sp.pc })) ∧
    (∀ x, spoilt = false → s.tile? g.team h.toNat = some x → ∃ v : W64, exec (.dprobe d a b h) s = .next (wrote s r g sp (sp.pc + 4) d v) ∧
      ∀ k, k < 64 → v.getLsbD k = ((g.sreg b).getLsbD k &&
        (decide ((x.size + 511) / 512 ≤ (g.sreg a).toNat + k) || x.map.testBit ((g.sreg a).toNat + k))))

/-- R436, R247, R248: BMINT with a lifetime outside 1 to 1,000,000 µs writes 2, with no free slot on its base die 1, and zeros the
bound registers; else it writes 0, the name of a new LIVE berth into its first bound register and zeros into the others.
Without the feature, with SIZE 3, with a bound register beyond s62 or SD among them it is illegal.
The choice of the slot, the lowest free one (State.freeSlot), is the model's (log entry 49). -/
def Obligations.BmintMintsABerth : Prop :=
  ∀ (s : State) (r : SplitRef) (g : Group) (sp : Split) (d a k : SReg) (z : BitVec 2) (e : AccEnv), s.accEnv r.g r.sp = some e →
    Runs s r g sp (d :: a :: regRange k.toNat (2 ^ z.toNat)) → g.sregs.length = 64 →
    let n := 2 ^ z.toNat
    let life := (g.sreg a).toNat
    let bd := baseBelow e.core.1
    let legal : Prop := z ≠ 3 ∧ k.toNat + n ≤ 63 ∧ (d.toNat < k.toNat ∨ k.toNat + n ≤ d.toNat)
    let gives (t : State) (st name : W64) : Prop := exec (.bmint d a z k) s = .next t ∧ ∃ g', t.exec.groups[r.g]? = some g' ∧
      (d ≠ 63 → g'.sreg d = st) ∧ g'.sreg k = name ∧ (∀ i, 0 < i → i < n → g'.sreg (BitVec.ofNat 6 (k.toNat + i)) = 0) ∧
      (∀ j : SReg, j ≠ d → (j.toNat < k.toNat ∨ k.toNat + n ≤ j.toNat) → g'.sreg j = g.sreg j) ∧
      g'.splits = g.splits.set r.sp (goesOn sp (sp.pc + 4))
    ((s.feat Config.featBerth = false ∨ (e.ctx.lr.dual = false ∧ ¬ legal)) →
      exec (.bmint d a z k) s = .next (s.takeTrap r { code := 1, pc := sp.pc, info := 0x28, spc := sp.pc })) ∧
    (BerthClear s r e Config.featBerth → legal →
      ((life < 1 ∨ 1000000 < life) → ∃ t, gives t 2 0) ∧
      (1 ≤ life → life ≤ 1000000 → s.freeSlot bd 4096 0 = none → ∃ t, gives t 1 0) ∧
      (∀ i, 1 ≤ life → life ≤ 1000000 → s.freeSlot bd 4096 0 = some i → ∃ t b, gives t 0 (t.berthName b) ∧ b ∈ t.berths.slots ∧
        b.bd = bd ∧ b.slot = i ∧ b.state = .live ∧ b.g = some r.g ∧ b.k = k.toNat ∧ b.bytes = 8 * n ∧
        b.expiry = s.now + 1000 * life))

/-- R252, R264, R266, R278 to R280, R437, R439: BWAIT of a name that names no berth of the group writes 2, of one at its home that is
RESOLVED its status, and frees the slot; with status 0 it is an acquire at system scope, which leaves no line of the core in L1 (R252); of
a LIVE one it blocks, and the berth knows its waiter. BDROP of a name that names no berth of the group goes on; of one at its home that
no split waits on, the slot is freed. Both take DATA_POISON (cause 13) when the berth's entry is marked poisoned, BDROP too although R439
only discards: the model's reading of R264 and R266 (log entry 116). In a context that sets JRNL both record the resolution first, and
wait while the journal's budget is used up (when the record is written is the model's reading, log entry 121). -/
def Obligations.BwaitAndBdropActOnTheGroupsBerths : Prop :=
  ∀ (s : State) (r : SplitRef) (g : Group) (sp : Split) (d a : SReg) (e : AccEnv), BerthClear s r e Config.featBerth → s.replays e.cn = false →
    let n := g.sreg a
    let trap (o : Owned) (n : Nat) : Out :=
      .next ((s.touchOwned e.cn o).takeTrap r { code := 13, pc := sp.pc, info := BitVec.ofNat 64 n, spc := sp.pc })
    let freed (h : Nat × Nat) : State := (s.touch e.cn (8 + h.1)).modBerth h.1 h.2 Berth.freed
    let held := s.jrnlHeld e.ctx.pent e.ctx.lr.jrnl
    (Runs s r g sp [d, a] →
      (s.ownedBerth r.g n = none → exec (.bwait d a) s = .next (wrote s r g sp (sp.pc + 4) d 2)) ∧
      (∀ o, s.ownedBerth r.g n = some o → held = true → o.live = false → exec (.bwait d a) s = .next s) ∧
      (∀ o, s.ownedBerth r.g n = some o → held = false → s.ownedPoison o = true → exec (.bwait d a) s = trap o 0x29) ∧
      (∀ o h, s.ownedBerth r.g n = some o → o.home = some h → s.ownedPoison o = false → o.waiter = none →
        (o.live = false → e.ctx.lr.jrnl = true → held = false → exec (.bwait d a) s =
          .next ((((freed h).takeRecorded r.g r.sp e.cn o.k o.bytes o.resolved).finish r sp 4 d (o.status.zeroExtend 64)).bwaitDone r.g r.sp o.status)) ∧
        (o.live = false → e.ctx.lr.jrnl = false → o.status ≠ 0 → exec (.bwait d a) s = .next (wrote (freed h) r g sp (sp.pc + 4) d (o.status.zeroExtend 64))) ∧
        (o.live = false → e.ctx.lr.jrnl = false → o.status = 0 →
          exec (.bwait d a) s = .next ((wrote (freed h) r g sp (sp.pc + 4) d 0).flushL1 e.core.1 e.core.2)) ∧
        (o.live = true → Steady g r.sp → exec (.bwait d a) s =
          .next (became ((s.touch e.cn (8 + h.1)).modBerth h.1 h.2 (fun b => { b with waiter := some r.sp })) r g
            { sp with status := .bwait, wval := n, wreg := d })))) ∧
    (Runs s r g sp [a] →
      (s.ownedBerth r.g n = none → exec (.bdrop a) s = .next (moved s r g sp (sp.pc + 4))) ∧
      (∀ o, s.ownedBerth r.g n = some o → held = true → exec (.bdrop a) s = .next s) ∧
      (∀ o, s.ownedBerth r.g n = some o → held = false → s.ownedPoison o = true → exec (.bdrop a) s = trap o 0x2B) ∧
      (∀ o h, s.ownedBerth r.g n = some o → o.home = some h → s.ownedPoison o = false → o.waiter = none → e.ctx.lr.jrnl = true → held = false →
        exec (.bdrop a) s = .next ((((s.touch e.cn (8 + h.1)).takeRecorded r.g r.sp e.cn o.k o.bytes
          (if o.live then { status := 2, data := [], stage := false } else o.resolved)).modBerth h.1 h.2 Berth.freed).finish0 r sp 4)) ∧
      (∀ o h, s.ownedBerth r.g n = some o → o.home = some h → s.ownedPoison o = false → o.waiter = none → e.ctx.lr.jrnl = false →
        exec (.bdrop a) s = .next (moved (freed h) r g sp (sp.pc + 4))))

/-- R435, R438, R441: BPUT delivers 8, 16 or 32 bytes of its registers to the name in SA and goes on; STAGE, in a rope launch, starts
a chain with the 64 bytes of the descriptor that SB names, and a descriptor that is not aligned is a chain that ends at once
with MISALIGN; STAGE outside a rope launch is illegal. -/
def Obligations.BputAndStageSend : Prop :=
  ∀ (s : State) (r : SplitRef) (g : Group) (sp : Split) (d a b : SReg) (z : BitVec 2) (e : AccEnv), e.switched = false →
    (BerthClear s r e Config.featBerth → z ≠ 3 → b.toNat + 2 ^ z.toNat ≤ 64 → Runs s r g sp (a :: regRange b.toNat (2 ^ z.toNat)) →
      exec (.bput a b z) s = .next ((moved s r g sp (sp.pc + 4)).bput e sp.pc (g.sreg a) (g.bputData b.toNat (2 ^ z.toNat)))) ∧
    (BerthClear s r e Config.featStage → Runs s r g sp [d, a, b] →
      (e.ctx.lr.rope = false → exec (.stage d a b) s = .next (s.takeTrap r { code := 1, pc := sp.pc, info := 0x2C, spc := sp.pc })) ∧
      (e.ctx.lr.rope = true → (g.sreg b).toNat % 64 ≠ 0 → exec (.stage d a b) s =
        .next ((moved (s.useFeat e.cn Config.featStage) r g { sp with fails := [] } (sp.pc + 4)).stageBad e.ctx.pent e.ctx.ropeId (g.sreg d) (g.sreg b) 7)) ∧
      (∀ u x used, e.ctx.lr.rope = true → (g.sreg b).toNat % 64 = 0 → s.readRec e sp.fails (g.sreg b) 64 = .ok u x used →
        Issues (u.useLines used) r g sp → exec (.stage d a b) s =
          .next ((moved ((u.useLines used).useFeat e.cn Config.featStage) r g { sp with fails := [] } (sp.pc + 4)).startChain e.ctx.pent e.ctx.ropeId (g.sreg a) (g.sreg d)
            (g.sreg b) x (some e.cn) r.g)))

/-! ### Events: time, power, links -/

/-- R14 to R22: what the time and power events do. POWER_ON starts the dies from the reset values, with device time 0 in FREE; a PTP
measurement of the device's own domain is kept, and in LOCKED it bounds U, which above 1 µs makes the device DEGRADED; the loss of the
last reference puts a LOCKED device in HOLDOVER; a move of R16 changes the state and U, the first lock stepping device time; the
reductions of R21 come one at a time and are undone in the reverse order, while what a hot die or stack asks for stays; the input
falling low, and its return, change the limit; a hot die slows ACLK by one step, a hot stack HBM, and a die that cools gives its step
back; TRIP at a limit of R20 or R22 stops every die and records the cause. Of this the model's choice is: how near power must be to its
limit for a reduction, 5 % (log entry 120); U as the magnitude of the measured offset plus its bound (log entry 89); one ACLK step for each
hot die, and the bandwidth of HBM reduced while any stack is hot or the limit asks for it (log entry 90); and that POWER_ON keeps the
host's own memory (log entry 23). -/
def Obligations.TimeAndPowerEvents : Prop :=
  ∀ (s : State),
    let near := 95 * s.power.bound ≤ 100 * s.sel.a
    let low := 100 * s.sel.a ≤ 95 * s.power.bound ∧ 1000000 ≤ s.sel.b
    let hot := s.power.hotDies.countP id
    let slowed (n : Nat) : Nat := 700 - 70 * min 5 n
    (∀ slot, ∃ t, exec (.powerOn slot) s = .next t ∧ t.clock = Clock.reset ∧ t.exec = Exec.reset ∧ t.store.frames = [] ∧
      t.store.host = s.store.host ∧ t.power.on = true) ∧
    (∀ m : PtpMsg, m.domain = s.clock.domain → m.peerDelay = false →
      (m.lost = false → s.clock.tstate = .free ∨ s.clock.tstate = .degraded →
        exec (.ptpMessage m) s = .next { s with clock := { s.clock with ptp := some (m.offset, m.bound) } }) ∧
      (m.lost = false → s.clock.tstate = .locked → m.offset.natAbs + m.bound ≤ 1000 → exec (.ptpMessage m) s =
        .next { s with clock := { s.clock with ptp := some (m.offset, m.bound), u := some (m.offset.natAbs + m.bound) } }) ∧
      (m.lost = false → s.clock.tstate = .locked → 1000 < m.offset.natAbs + m.bound →
        ∃ t, exec (.ptpMessage m) s = .next t ∧ t.clock.tstate = .degraded) ∧
      (∀ v, m.lost = true → s.clock.tstate = .locked → s.clock.u = some v → v ≤ 1000 → s.peerUs = [] →
        ∃ t, exec (.ptpMessage m) s = .next t ∧ t.clock.tstate = .holdover)) ∧
    (∀ st u n, s.timeMove st u = true → ∃ t, exec (.timeStateChange st u n) s = .next t ∧ t.clock.tstate = st ∧
      t.clock.u = some (if st = .locked then u else max u (s.clock.u.getD 0)) ∧
      t.clock.dtime = (if st = .locked ∧ s.clock.stepped = false ∧ s.now + n.toNat < 2 ^ 64 then s.clock.dtime + n else s.clock.dtime)) ∧
    (s.linkOn (BitVec.ofNat 7 s.sel.a) = true → exec .timexSend s = .next (s.local_ (BitVec.ofNat 7 s.sel.a) (.timex
      { stamp := BitVec.ofNat 64 s.now, tstate := s.clock.tstate, u := s.clock.u.getD (2 ^ 32 - 1) }))) ∧
    (∀ w f m u, s.takeLocal w f 0x13 = (u, true) → exec (.timex w f m) s = .next (u.modLink w (fun l => { l with peer := some m }))) ∧
    (¬ near → exec .powerLimit s = .next s) ∧
    (near → s.power.background = false → exec .powerLimit s = .next { s with power := { s.power with background := true } }) ∧
    (near → s.power.background = true → s.clock.aclk ≤ 350 → exec .powerLimit s =
      .next { s with power := { s.power with hbm := true, bandwidth := true } }) ∧
    (near → s.power.background = true → 350 < s.clock.aclk → exec .powerLimit s = .next { s with
      power := { s.power with steps := s.power.steps + 1 }, clock := { s.clock with aclk := slowed (s.power.steps + 1 + hot) } }) ∧
    (¬ low → exec .powerRestore s = .next s) ∧
    (low → s.power.bandwidth = true → exec .powerRestore s =
      .next { s with power := { s.power with hbm := s.power.hotStacks.any id, bandwidth := false } }) ∧
    (∀ k, low → s.power.bandwidth = false → s.power.steps = k + 1 → exec .powerRestore s = .next { s with
      power := { s.power with steps := k }, clock := { s.clock with aclk := slowed (k + hot) } }) ∧
    (low → s.power.bandwidth = false → s.power.steps = 0 → exec .powerRestore s = .next { s with power := { s.power with background := false } }) ∧
    (40000 ≤ s.sel.a → s.sel.a < 44000 → 1000000 < s.sel.b → exec .undervoltage s = .next { s with power := { s.power with lowInput := true } }) ∧
    (44000 ≤ s.sel.a → exec .mainInputRestored s = .next { s with power := { s.power with lowInput := false } }) ∧
    (∀ d c, 100 ≤ c → s.power.hotDies[d.toNat]? = some false → ∃ t, exec (.thermalThrottle (.junction d c)) s = .next t ∧
      t.power.hotDies[d.toNat]? = some true ∧ t.clock.aclk = slowed (s.power.steps + hot + 1)) ∧
    (∀ d c, c < 100 → s.power.hotDies[d.toNat]? = some true → ∃ t, exec (.thermalThrottle (.junction d c)) s = .next t ∧
      t.power.hotDies[d.toNat]? = some false ∧ t.clock.aclk = slowed (s.power.steps + (hot - 1))) ∧
    (∀ h c, h.toNat < s.power.hotStacks.length → ∃ t, exec (.thermalThrottle (.hbm h c)) s = .next t ∧
      (95 ≤ c → t.power.hotStacks[h.toNat]? = some true ∧ t.power.hbm = true) ∧
      (c < 95 → (∀ k, k ≠ h.toNat → s.power.hotStacks[k]? ≠ some true) → t.power.hbm = s.power.bandwidth)) ∧
    (∀ cause, s.power.on = true → tripDue cause = true → ∃ t, exec (.trip cause) s = .next t ∧
      t.power = { s.power with on := false, trip := some cause } ∧ t.exec = s.exec ∧ t.store = s.store)

/-- R27, R29 to R51, R87: what an accepted flit of each type does. REQ of a sender whose generations are known, and that carries its
partition's, is handled, and discarded with another; before they are known it is answered with NACK; RSP with this device's own
generation is handled; DATA completes the message that it continues, and is discarded when that is a RSP whose generation this device has
left; GENBUMP is remembered and cuts open messages of its entry; KEYCTL
changes the bank in use; NAK replays from its SEQ; LOSS gives up stripes; RESTRIPE is answered, and NEXT is expected; a RESTRIPE_ACK with
all stripes starts replay again; IDLE has only its header's effects. Of this the model's choice is: that a message is told apart by CLASS,
PART and SUB, and that GENBUMP cuts one (log entry 106); that the SEQ of a NAK stands in its ACK field, which flits after a RESTRIPE are
repeats, and where the sequence of a new key bank starts (log entry 85); the SEQ, DIR and MASK of the events, and which end records
REKEY_DONE (log entry 108); what takeFlit and takeLocal accept (log entry 125); and that messages other than REQ are dropped while the
sender's generations are not known (log entry 84). -/
def Obligations.AcceptedFlitsAct : Prop :=
  ∀ (s u : State) (w : BitVec 7) (f : Flit),
    let l := u.link w
    let h := f.hdr
    let first := u.begin_ w h f.msg false
    (∀ m, s.takeFlit w f 0x01 = (u, true) → f.msg = some m →
      (l.h.any (·.isNone) = true → exec (.req w f) s = .next ((u.nackMsg w h m).dropMsg w f false)) ∧
      (l.h.any (·.isNone) = false → h.last = true → l.h.getD (hdrEntry h) none = some h.pgen →
        exec (.req w f) s = .next ((first.handle w (h.pois || first.poolPois w h) m).poolDone w h (some m))) ∧
      (l.h.any (·.isNone) = false → l.h.getD (hdrEntry h) none ≠ some h.pgen → exec (.req w f) s = .next (u.dropMsg w f true))) ∧
    (∀ m, s.takeFlit w f 0x02 = (u, true) → h.pgen = (u.partEnt (hdrEntry h)).gen → h.last = true → f.msg = some m →
      exec (.rsp w f) s = .next ((first.handle w (h.pois || first.poolPois w h) m).poolDone w h (some m))) ∧
    (∀ o, s.takeFlit w f 0x03 = (u, true) → l.rx.open_.find? (·.fits h) = some o → h.last = true →
      let v := u.modOpen w (fun l => l.filter (fun x => !x.fits h))
      let left := o.type = 0x02 ∧ h.pgen ≠ (u.partEnt (hdrEntry h)).gen
      (∀ m, o.stale = false → ¬ left → o.msg = some m →
        exec (.data w f) s = .next ((v.handle w (o.pois || h.pois || v.poolPois w h) m).poolDone w h (some m))) ∧
      (o.stale = true ∨ left → exec (.data w f) s = .next (v.discardFlit w h))) ∧
    (s.takeFlit w f 0x15 = (u, true) → l.h.length = 40 → u.fabric.links[w.toNat]? = some l → ∃ t l', exec (.genbump w f) s = .next t ∧
      t.fabric.links[w.toNat]? = some l' ∧ l'.h[hdrEntry h]? = some (some h.pgen) ∧
      ∀ o ∈ l'.rx.open_, ¬ (o.part = h.part ∧ o.sub = h.sub)) ∧
    (∀ b, s.takeFlit w f 0x14 = (u, true) →
      let v := u.poolDone w h none
      (exec (.keyctl w f (.retire b)) s = .next (v.modLink w (fun l => { l with
        rx := { l.rx with banks := modBank l.rx.banks b (fun _ => KeyBank.reset) } }))) ∧
      ((v.link w).tx.kg ≠ b → (bankOf (v.link w).tx.banks b).valid = true → exec (.keyctl w f (.installed b)) s =
        .next (((v.modLink w (fun l => { l with tx := { l.tx with
          kg := b, retire := some l.tx.kg, rekey := false, banks := modBank l.tx.banks b (fun k => { k with seqs := l.tx.next.toNat }) } })).linkEvent
          w 0x108 0 0 (v.link w).rx.expect 0).retireKey w))) ∧
    (∀ ok, s.takeLocal w f 0x00 = (u, ok) → exec (.idle w f) s = .next u) ∧
    (s.takeLocal w f 0x10 = (u, true) → exec (.nak w f) s = .next ((u.acked w h.ack).replayFrom w h.ack)) ∧
    (∀ mask, s.takeLocal w f 0x16 = (u, true) → exec (.loss w f mask) s = .next (u.loseTx w (~~~mask))) ∧
    (∀ mask next, s.takeLocal w f 0x11 = (u, true) → mask ≠ 0 → mask &&& ~~~l.rx.lit = 0 →
      let back := (l.rx.expect - next).toNat
      exec (.restripe w f mask next) s = .next ((u.modLink w (fun k => { k with rx := { k.rx with
        active := mask, loss := false, nakAt := none, expect := next,
        again := if back < 32768 then l.rx.again + back else l.rx.again - (next - l.rx.expect).toNat } })).local_ w (.restripeAck mask))) ∧
    (∀ mask, s.takeLocal w f 0x12 = (u, true) → l.tx.awaiting = true → l.tx.active &&& ~~~mask ≠ 0 →
      exec (.restripeAck w f mask) s = .next (u.loseTx w (~~~mask))) ∧
    (∀ mask, s.takeLocal w f 0x12 = (u, true) → l.tx.awaiting = true → l.tx.active &&& ~~~mask = 0 →
      exec (.restripeAck w f mask) s = .next (((u.modLink w (fun l => { l with
        tx := { l.tx with awaiting := false, stream := 0, replay := none } })).linkEvent w 0x103 0 l.tx.active l.tx.oldest l.tx.retry.length).replayFrom w l.tx.oldest))

/-- R27, R34 to R39, R47 to R51, R88: the link events without a flit. Training lights the stripes of each direction; a verified link
comes up, and a failed verification is logged; a loss of light is reported to the peer with LOSS, and a restored stripe is decoded
again, or taken back by RESTRIPE; the repeats go out again while their cause stands; a new key is announced; ELS_FAULT takes four
stripes of all 128 links; a slot of an ended generation is free 4 ms after its rung. Of this the model's choice is: the number 0x8005 of
the entry in the controller's log (log entry 91); what the fabric events carry as SEQ, DIR and MASK (log entry 108); when a link is trained again (log entry 105) and where
its sequences start (log entry 107); and that STRIPE_RESTORED and REKEY act on the direction that they name (log entry 85). -/
def Obligations.LinkEventsWithoutFlits : Prop :=
  ∀ (s : State) (w : BitVec 7),
    let l := s.link w
    (∀ lit, s.fabric.slot ≠ none → lit.ingress ≠ 0 → lit.egress ≠ 0 → l.runs = false → s.power.on = true → w.toNat < s.fabric.links.length →
      ∃ t l', exec (.linkTraining w lit) s = .next t ∧ t.fabric.links[w.toNat]? = some l' ∧ l'.trained = true ∧ l'.up = false ∧
      l'.tx.active = lit.egress ∧ l'.rx.lit = lit.ingress ∧ l'.rx.active = lit.ingress) ∧
    (l.trained = true → l.up = false → s.fabric.slot ≠ none → exec (.linkUp w false) s = .next (s.log 0x8005 (BitVec.ofNat 64 w.toNat))) ∧
    (l.trained = true → l.up = false → s.fabric.slot ≠ none → w.toNat < s.fabric.links.length → ∃ t l', exec (.linkUp w true) s = .next t ∧
      t.fabric.links[w.toNat]? = some l' ∧ l'.up = true) ∧
    (∀ lit, l.rx.lit &&& ~~~lit = 0 → exec (.stripeLost w lit) s = .next s) ∧
    (∀ lit, s.fabric.slot ≠ none → s.power.on = true → l.trained = true → l.rx.lit &&& ~~~lit ≠ 0 →
      let gone := l.rx.lit &&& ~~~lit
      let e := s.linkEvent w 0x101 1 gone l.rx.expect 0
      (l.up = false → exec (.stripeLost w lit) s = .next (e.modLink w (fun k => { k with
        trained := l.rx.lit &&& lit != 0, rx := { k.rx with lit := l.rx.lit &&& lit, active := l.rx.active &&& lit } }))) ∧
      (l.up = true → l.rx.active &&& gone = 0 → exec (.stripeLost w lit) s = .next (e.modLink w (fun k => { k with
        rx := { k.rx with lit := l.rx.lit &&& lit } }))) ∧
      (l.up = true → l.rx.active &&& gone ≠ 0 →
        let u := (e.modLink w (fun k => { k with rx := { k.rx with lit := l.rx.lit &&& lit } })).modLink w (fun k => { k with
          rx := { k.rx with loss := true } })
        let v := if l.rx.active &&& l.rx.lit &&& lit = 0 then u.linkIsDown w 1 else u
        exec (.stripeLost w lit) s = .next (v.local_ w (.loss (v.link w).rx.lit)))) ∧
    (∀ n : BitVec 4, s.linkOn w = true →
      let bit : W16 := BitVec.ofNat 16 (2 ^ n.toNat)
      (l.tx.active &&& bit = 0 → exec (.stripeRestored w ⟨true, n⟩) s = .next (((s.modLink w (fun l => { l with tx := { l.tx with
        active := l.tx.active ||| bit, awaiting := true } })).linkEvent w 0x102 0 bit l.rx.expect 0).sendRestripe w)) ∧
      (l.rx.lit &&& bit = 0 → exec (.stripeRestored w ⟨false, n⟩) s = .next ((s.modLink w (fun l => { l with rx := { l.rx with
        lit := l.rx.lit ||| bit } })).linkEvent w 0x102 1 bit l.rx.expect 0))) ∧
    (s.linkOn w = true → exec (.rekey w ⟨true, false⟩) s = .next (s.linkEvent w 0x109 0 0 l.rx.expect 0) ∧
      exec (.rekey w ⟨false, false⟩) s = .next (s.linkEvent w 0x109 1 0 l.rx.expect 0)) ∧
    (s.linkOn w = true → l.tx.retire = none → exec (.rekey w ⟨true, true⟩) s = .next (s.modLink w (fun l => { l with
      tx := { l.tx with banks := modBank l.tx.banks (!l.tx.kg) (fun _ => { KeyBank.reset with valid := true }) } }))) ∧
    (∀ b, s.linkOn w = true → (bankOf l.rx.banks b).valid = false → (bankOf l.rx.banks (!b)).valid = true →
      exec (.rekey w ⟨false, true⟩) s = .next ((s.modLink w (fun l => { l with
        rx := { l.rx with banks := modBank l.rx.banks b (fun _ => { KeyBank.reset with valid := true }) } })).sendKeyctl w (.installed b))) ∧
    (s.sel.a = w.toNat →
      (s.linkOn w = true → exec .idleSend s = .next (s.local_ w .idle)) ∧
      (s.linkOn w = true → l.rx.nakAt.isSome = true → exec .nakRepeat s = .next (s.sendNak w)) ∧
      (s.linkOn w = true → l.tx.awaiting = true → exec .restripeRepeat s = .next (s.sendRestripe w)) ∧
      (s.linkOn w = true → l.rx.loss = true → exec .lossRepeat s = .next (s.local_ w (.loss l.rx.lit)))) ∧
    (s.fabric.slot ≠ none →
      let q := s.sel.a % 4
      let m : W16 := BitVec.ofNat 16 (15 * 16 ^ q)
      let seen := s.noteError { time := s.now, row := 8, fixed := false, msc := false, die := none, link := 0 }
      exec .elsFault s = .next ((List.range 128).foldl (fun (u : State) w => u.loseTx (BitVec.ofNat 7 w) m)
        (seen.fabricEvent 0x106 0xFF (BitVec.ofNat 8 q) m 0 0))) ∧
    (∀ q, s.ops.reqs.find? (fun q => q.stale && q.id == s.sel.a) = some q → q.sentAt + 4000000 ≤ s.now →
      exec .requestSlotReclaim s = .next (s.reclaim q))

/-! ### Events: queues and packets -/

/-- R53, R54, R57 to R60, R70, R71, R76, R77, R90, R468: the writes that drive a queue. QUEUE_BIND to a function and an entry that may
have one more queue binds it; DOORBELL moves WRIDX; ENABLE from 0 to 1 starts a DISABLED queue of a legal size, with its error registers
clear; PAUSE holds a running queue and UNPAUSE returns it to the state that it left; RING_FETCH of an enabled queue with room and a packet
reads 64 bytes at BASE + 64 × (RDIDX mod 2^SIZE), takes a good packet, or a read that fails is QUEUE_FAULT; a function in reset answers
Unsupported. Of this the model's choice is: which binds are within the limits (log entry 60); what OVERRUN skips (log entry 61); that
nothing is fetched while the entry is not active (log entry 63); which writes a reset answers with Unsupported (log entry 83); that a
doorbell of PF0 waits behind the accesses of its window that wait (log entry 88); and how the reads of the command processor start and end
(log entry 117). -/
def Obligations.QueueRegisterEvents : Prop :=
  ∀ (s : State) (k : Queue),
    (∀ (q : Byte) (bind : W32), s.answers 0 = false → exec (.queueBind q bind) s = .next (s.emit .unsupported)) ∧
    (∀ (q : Byte) (bind : W32), s.host.queues[q.toNat]? = some k → s.answers 0 = true →
      let f : W16 := bind.truncate 16
      let e : Byte := bind.extractLsb' 16 8
      let others := (List.range 256).filter (fun i => i != q.toNat)
      (f = 0xFFFF → exec (.queueBind q bind) s = .next (s.modQueue q.toNat (fun k => { k with func := 0xFFFF, pent := e }))) ∧
      (f.toNat < 64 → e.toNat < 40 → (f.toNat ≠ 0 → others.countP (fun i => (s.queue i).func == f) < 16) →
        others.countP (fun i => (s.queue i).func != 0xFFFF && (s.queue i).pent == e) < (s.partEnt e.toNat).queues.toNat →
        ∃ t k', exec (.queueBind q bind) s = .next t ∧ t.host.queues[q.toNat]? = some k' ∧ k'.func = f ∧ k'.pent = e)) ∧
    (∀ (q : Byte) (wr : W32), s.host.queues[q.toNat]? = some k →
      let fn := s.fnOfQueue q.toNat
      (s.answers fn = false → exec (.doorbell q wr) s = .next (s.emit .unsupported)) ∧
      (s.answers fn = true → (fn ≠ 0 ∨ s.host.window = []) → exec (.doorbell q wr) s = .next (s.ring q wr) ∧
        (k.enable = false → s.ring q wr = s.modQueue q.toNat (fun k => { k with wridx := wr, fetchOk := true }))) ∧
      (s.answers fn = true → fn = 0 → s.host.window ≠ [] →
        exec (.doorbell q wr) s = .next { s with host := { s.host with window := s.host.window ++ [.doorbell q wr] } })) ∧
    (s.answers (s.fnOfQueue s.sel.a) = false → ∀ i ∈ [Instr.queueEnable, .queueDisable, .queuePause, .queueUnpause],
      exec i s = .next (s.emit .unsupported)) ∧
    (s.host.queues[s.sel.a]? = some k → s.answers (s.fnOfQueue s.sel.a) = true →
      (k.enable = false → k.state = 0 → k.pause = false → k.barrier = none → 6 ≤ k.size.toNat → k.size.toNat ≤ 16 →
        exec .queueEnable s = .next (s.modQueue s.sel.a (fun k => { k with
          enable := true, errIdx := 0, errCode := 0, fetchOk := true, overEnd := none, first := k.rdidx, mark := none, state := 1, back := 1 }))) ∧
      (k.state ≠ 5 → ∃ t k', exec .queueDisable s = .next t ∧ t.host.queues[s.sel.a]? = some k' ∧ k'.enable = false) ∧
      (k.state = 1 → exec .queuePause s = .next (s.modQueue s.sel.a (fun k => { k with pause := true, back := 1, state := 4 }))) ∧
      (k.state = 4 → exec .queueUnpause s = .next (s.modQueue s.sel.a (fun k => { k with pause := false, state := k.back }))) ∧
      (k.enable = true → (k.state = 1 ∨ k.state = 3) → k.cur = none → k.fetchOk = true → k.rdidx ≠ k.wridx →
        (s.partEnt k.pent.toNat).state = 1 → k.held ≤ 2 ^ k.size.toNat →
        let va := k.base + 64 * BitVec.ofNat 64 (k.rdidx.toNat % 2 ^ k.size.toNat)
        (∀ b, s.cpRead State.askLine k.pent.toNat s.sel.a k.rdidx 2 va 64 = .ok b →
          exec .ringFetch s = .next (s.dropFetched.fetchedPacket s.sel.a b)) ∧
        (∀ reason, s.cpRead State.askLine k.pent.toNat s.sel.a k.rdidx 2 va 64 = .fail reason →
          exec .ringFetch s = .next ((s.queueError s.sel.a 0 k.rdidx 9 0 0).modQueue s.sel.a (fun k => { k with fetchOk := false })))))

/-- R61 to R69, R91, R93, R109, R254, R468: what dispatch does with the packet that a queue holds. COPY of a legal length and class becomes a copy; SIGNAL adds to
or sets its signal and completes; a WAIT that is due is evaluated at once and again by WAIT_POLL, and at its deadline; MARK
writes its record once every earlier packet is complete; STAGE reads its descriptor and mints its berth, or waits for a slot; an illegal packet is
PACKET_INVALID; a LAUNCH whose record cannot be read is refused with FORMAT, a ROPE whose record or RANKMAP cannot be read with ROPEREC. Of
this the model's choice is: what of a journaled launch is recorded, and when it waits (log entries 68 and 126); that an
illegal packet whose signal is itself at fault writes none (log entry 62); that a STAGE packet whose descriptor is being read holds its
queue (log entry 64); that the record of a ROPE is read before its ARM (log entry 75); and when a WAIT is decided (log entry 117). -/
def Obligations.PacketsAreDispatched : Prop :=
  ∀ (s : State) (idx : W32) (b : List Byte),
    let q := s.sel.a
    let e := (s.queue q).pent.toNat
    (s.toDispatch q 1 false = some (idx, b) →
      ((pktVa b 8).toNat % 64 ≠ 0 → exec .launch s = .next (s.refuseLaunch q idx (pktTag b) [] 2 0)) ∧
      ((pktVa b 8).toNat % 64 = 0 → ∀ reason, s.cpRead State.askLine e q idx 3 (pktVa b 8) 256 = .fail reason →
        exec .launch s = .next (s.dropFetched.refuseLaunch q idx (pktTag b) [] 1 0)) ∧
      ((pktVa b 8).toNat % 64 = 0 → ∀ raw, s.cpRead State.askLine e q idx 3 (pktVa b 8) 256 = .ok raw →
        (∀ u reason arg, s.checkRecord q idx raw false = .refused u reason arg →
          exec .launch s = .next (u.refuseLaunch q idx (pktTag b) raw reason arg)) ∧
        (∀ u l stage save, s.checkRecord q idx raw false = .ok u l stage save → s.jrnlHeld e l.jrnl = true → exec .launch s = .next s) ∧
        (∀ u l stage save args, s.checkRecord q idx raw false = .ok u l stage save → s.launchArgs q idx l = .ok args → ∃ v cn,
          v = ((u.dispatched q { kind := .launch, idx, tag := pktTag b, sig := l.csig } (pktBarrier b)).addCtx
            { newCtx q idx (pktTag b) e l raw with stage, save }) ∧ cn = v.2 ∧ exec .launch s = .next (v.1.startJournal cn b raw args none)))) ∧
    (s.toDispatch q 1 true = some (idx, b) → ∀ r, s.readImage e q idx (pktVa b 8) = .fail r →
      exec .launchImage s = .next (s.dropFetched.refuse q idx (pktTag b) 0 2 13 0)) ∧
    (s.toDispatch q 1 true = some (idx, b) → ∀ i pl, s.readImage e q idx (pktVa b 8) = .ok (i, pl) → s.dropFetched.checkImage e i pl false = none →
      fieldAt i 0x24 4 ≠ fieldAt i 0x20 4 → ∀ args, s.launchArgs q idx (imgLaunch i) = .ok args →
      exec .launchImage s = .next ((s.dropFetched.dispatched q
        { kind := .launch, idx, tag := pktTag b, sig := pktVa i (fieldAt i 0x28 8 + 0x70) } (pktBarrier b)).addImage q idx (pktTag b) i pl b args true).1) ∧
    (s.toDispatch q 2 false = some (idx, b) →
      let n := fieldAt b 0x18 8
      let cls := fieldAt b 0x28 1
      ((n = 0 ∨ 2 ^ 40 < n ∨ (cls ≠ 2 ∧ cls ≠ 3) ∨ s.sigOk q (pktSig b) = false) → exec .copy s = .next (s.invalidPacket q idx b)) ∧
      (0 < n → n ≤ 2 ^ 40 → (cls = 2 ∨ cls = 3) → s.sigOk q (pktSig b) = true → s.hbmFull e none = false → s.etimeFull e none = false →
        ∃ t c, exec .copy s = .next t ∧ t.ops.copies = s.ops.copies ++ [c] ∧ c.dir = .mem ∧ c.src = pktVa b 8 ∧ c.dest = pktVa b 0x10 ∧
          c.len = n ∧ c.cls = cls ∧ c.pent = e ∧ c.queue = q ∧ c.idx = idx)) ∧
    (s.toDispatch q 3 false = some (idx, b) → [pktVa b 8, pktVa b 0x10, pktVa b 0x18].all (s.sigOk q) = true →
      let w : WaitRec := { idx, tag := pktTag b, sigs := [pktVa b 8, pktVa b 0x10, pktVa b 0x18],
                           deadline := if fieldAt b 0x20 4 = 0 then none else some (s.now + 1000 * fieldAt b 0x20 4) }
      exec .wait s = .next ((s.modQueue q (fun k => { k.setEff 2 with cur := none, wait := some w })).waitEval q w)) ∧
    (∀ w, (s.queue q).wait = some w → exec .waitPoll s = .next (s.waitEval q w) ∧
      (∀ d, w.deadline = some d → d ≤ s.now → exec .waitTimeout s = .next (s.waitEval q w))) ∧
    (s.toDispatch q 4 false = some (idx, b) →
      let va := pktVa b 8
      ((1 < fieldAt b 0x18 1 ∨ va = 0 ∨ s.sigOk q va = false) → exec .signal s = .next (s.invalidPacket q idx b)) ∧
      (fieldAt b 0x18 1 ≤ 1 → va ≠ 0 → s.sigOk q va = true → exec .signal s =
        .next ((s.dispatched q { kind := .signal, idx, tag := pktTag b, sig := va } (pktBarrier b)).signalEnd q idx (pktTag b) va
          (if fieldAt b 0x18 1 = 0 then .add (pktVa b 0x10) else .set (pktVa b 0x10))))) ∧
    (s.toDispatch q 5 false = some (idx, b) →
      (s.sigOk q (pktVa b 0x10) = false → exec .rope s = .next (s.invalidPacket q idx b)) ∧
      (∀ reason, s.sigOk q (pktVa b 0x10) = true → s.cpRead State.askLine e q idx 2 (pktVa b 8) 64 = .fail reason →
        exec .rope s = .next (s.dropFetched.refuse q idx (pktTag b) (pktVa b 0x10) 2 12 0)) ∧
      (∀ x reason, s.sigOk q (pktVa b 0x10) = true → s.cpRead State.askLine e q idx 2 (pktVa b 8) 64 = .ok x →
        s.cpRead State.askLine e q idx 3 (pktVa x 8) (fieldAt x 4 1) = .fail reason → 1 ≤ fieldAt x 4 1 → fieldAt x 4 1 ≤ 128 →
        exec .rope s = .next (s.dropFetched.refuse q idx (pktTag b) (pktVa b 0x10) 2 12 0)) ∧
      (s.sigOk q (pktVa b 0x10) = true → ∀ x map u prep img rank, s.cpRead State.askLine e q idx 2 (pktVa b 8) 64 = .ok x →
        1 ≤ fieldAt x 4 1 → fieldAt x 4 1 ≤ 128 → s.cpRead State.askLine e q idx 3 (pktVa x 8) (fieldAt x 4 1) = .ok map →
        s.ropeBad x map none = false → s.ropeRead q idx x = .ok (u, prep, img) → u.ropeBad x map (some img) = false →
        rank = (indexOf? map (fun m => m == u.dropFetched.selfSlot.zeroExtend 8)).getD 0 →
        let a := { ropeActOf x map rank with queue := q, idx, tag := pktTag b, sig := pktVa b 0x10, pent := e }
        exec .rope s = .next (((u.dropFetched.dispatched q { kind := .rope, idx, tag := pktTag b, sig := pktVa b 0x10 } (pktBarrier b)).sendArms
          a).ropePrepare a b prep))) ∧
    (s.toDispatch q 6 false = some (idx, b) → (1000000 < fieldAt b 0x2C 4 ∨ s.sigOk q (pktSig b) = false) →
      exec .stagePacket s = .next (s.invalidPacket q idx b)) ∧
    (s.toDispatch q 6 false = some (idx, b) → fieldAt b 0x2C 4 ≤ 1000000 → s.sigOk q (pktSig b) = true →
      let life := if fieldAt b 0x2C 4 = 0 then 1000000 else fieldAt b 0x2C 4
      let starts (u : State) (got : List Byte) (bad : Nat) : Prop :=
        let w : StageWait := { idx, tag := pktTag b, pkt := b, got, bad, until_ := u.now + 1000 * life }
        let v := u.dispatched q { kind := .stage, idx, tag := pktTag b, sig := pktSig b } (pktBarrier b)
        exec .stagePacket s = .next ((v.stageMint q w).getD (v.modQueue q (fun k => { k with stages := k.stages ++ [w] })))
      ((pktVa b 0x10).toNat % 64 ≠ 0 → starts s [] 7) ∧
      (∀ got, (pktVa b 0x10).toNat % 64 = 0 → s.cpRead State.askLine e q idx 2 (pktVa b 0x10) 64 = .ok got → starts s.dropFetched got 0) ∧
      (∀ reason, (pktVa b 0x10).toNat % 64 = 0 → s.cpRead State.askLine e q idx 2 (pktVa b 0x10) 64 = .fail reason → starts s [] reason)) ∧
    (s.toDispatch q 7 false = some (idx, b) → (pktVa b 8).toNat % 16 ≠ 0 → exec .mark s = .next (s.invalidPacket q idx b)) ∧
    (s.toDispatch q 7 false = some (idx, b) → (pktVa b 8).toNat % 16 = 0 → (∀ n, s.translate none e none (pktVa b 8) .atomic ≠ .prot n) →
      s.translate none e none (pktVa b 8) .atomic ≠ .poison →
      ((s.queue q).work ≠ [] → exec .mark s = .next s) ∧
      ((s.queue q).work = [] → exec .mark s = .next ((s.dispatched q { kind := .mark, idx, tag := pktTag b, sig := 0 } true).put
        { queue := q, idx, tag := pktTag b, pent := e, va := pktVa b 8, data := bytesOf 8 (pktVa b 0x10).toNat ++ bytesOf 8 idx.toNat,
          kind := .mark, req := none }))) ∧
    (∀ c, s.copy? q = some c → c.dir = .mem → s.copyFlying c.id none = false →
      s.caches.held.any (fun h => h.id == c.id && h.rsp.result == .nack) = false → s.leasing = false → c.allLanded = true → c.fault = none →
      c.poison = none → ∀ w, (s.queue c.queue).work.find? (fun w => w.idx == c.idx && w.kind == .copy) = some w →
      exec .copyComplete s = .next ((s.dropCopy c.id).signalEnd c.queue c.idx w.tag w.sig .decrement)) ∧
    (∀ w, (s.queue q).stages.find? (fun w => w.idx.toNat == s.sel.b) = some w → s.now < w.until_ → ∀ u, s.stageMint q w = some u →
      exec .cpBerthRetry s = .next (u.modQueue q (fun k => { k with stages := k.stages.filter (fun x => x.idx != w.idx) })))

/-! ### Events: placement, clauses, ends -/

/-- R79, R92, R97 to R109, R114, R115, R138, R159, R175, R177, R178, R260, R327, R443, R459, R460, R468: TEAM_RESIDENT places the next team
of the first waiting context, every team of a CORES launch at once, or teams of an image, or lets a halted team go on, once no record
of what it takes is still to be saved; SLICE_EXPIRY of a slice that nobody else wants starts it again; the window of R105 moves by one
within its bounds; CLAUSE_START tries the front entry of the RUN queue; SLEEP_WAKE lets a split go on at its time; a watchdog that ran
for more than BTIMEOUT ends the context with BARRIER_TIMEOUT; CONTEXT_END writes the code to CSIG and the fault record, and
GRID_COMPLETE decrements CSIG; STAGING of a page that need not move, or cannot be read, is done, of another moves it to its tier as the
budget admits, and without room there counts in STAGESHORT. Of this the model's choice is: the place where R101 leaves one (log entry 57);
that halted teams go before new ones of their context (log entry 58); which resources a team claims (log entry 59); where the window
starts (log entry 39); that a BTIMEOUT that runs out at the end of a clock lets a completion in that clock win (log entry 3); which of the
waiting groups of several teams is named (log entry 124); when a context has ended (log entry 66); that a leaf is staged whole, in units
of the budget (log entries 67 and 92). -/
def Obligations.PlacementClausesAndEnds : Prop :=
  ∀ (s : State) (c : Ctx),
    (∀ cn, s.settleHalts.firstWaiter s.sel.a = some (cn, c) →
      let u := s.settleHalts
      let goes (t : State) : Prop := u.unsaved t = false → exec .teamResident s = .next t
      (∀ inst t, c.load = none → u.haltedOf cn = [] ∨ u.yielding s.sel.a c = true → c.nextInst = some inst →
        (c.lr.cores = false → u.placeNext cn inst = some t → goes t) ∧
        (c.lr.cores = true → u.placeAll cn (gridSize c.lr + 1) = some t → goes t)) ∧
      (∀ b pl t, c.load = some (b, pl) → u.plantImage cn b pl = some t → goes t) ∧
      (∀ k rest t, c.load = none → c.ser = none → u.yielding s.sel.a c = false → u.haltedOf cn = k :: rest →
        u.resumeTeam k = some t → goes t)) ∧
    (∀ x, s.exec.ctxs[s.sel.a]? = some c → c.slices = [x] → x.1 = s.sel.b → x.2.1 = s.sel.c → c.ser = none → c.state = .running →
      x.2.2 + 1000 * (s.partEnt c.pent).slice.toNat ≤ s.now → s.wanting s.sel.a c x.1 x.2.1 = [] →
      ∃ t c', exec .sliceExpiry s = .next t ∧ t.exec.ctxs[s.sel.a]? = some c' ∧ c'.slices = [(s.sel.b, s.sel.c, s.now)]) ∧
    (∀ (die : BitVec 3) (site : BitVec 5) (p : BitVec 2) (n : Nat),
      let rs := s.residents die.toNat site.toNat p.toNat
      let w := s.window die.toNat site.toNat p.toNat
      let hits := (rs.map (·.2.hits)).sum
      (n ≠ s.missesOf die.toNat site.toNat p.toNat → exec (.memoryIssueWindow die site p n) s = .next s) ∧
      (n = s.missesOf die.toNat site.toNat p.toNat → ∃ t, exec (.memoryIssueWindow die site p n) s = .next t ∧
        (8 * hits ≤ n → n ≤ 32 * hits → 2 ≤ w → w ≤ rs.length → t.window die.toNat site.toNat p.toNat = w) ∧
        (32 * hits < n → 8 * hits ≤ n → w < rs.length → 1 ≤ w → t.window die.toNat site.toNat p.toNat = w + 1) ∧
        (n < 8 * hits → 3 ≤ w → w ≤ rs.length → t.window die.toNat site.toNat p.toNat = w - 1))) ∧
    (∀ g sp a e rest, s.exec.groups[s.sel.a]? = some g → g.splits[s.sel.b]? = some sp → s.accEnv s.sel.a s.sel.b = some a → sp.runq = e :: rest →
      s.mayIssue s.sel.a = true → sp.clause = none → sp.handler = none → g.stop = none → sp.waitPg = [] →
      exec .clauseStart s = .next (s.tryClause ⟨s.sel.a, s.sel.b⟩ g sp a e)) ∧
    (∀ g sp, s.exec.groups[s.sel.a]? = some g → g.splits[s.sel.b]? = some sp → sp.status = .sleep → sp.wval.toNat ≤ s.now →
      s.mayIssue s.sel.a = true → g.stop = none →
      exec .sleepWake s = .next (setGroup s s.sel.a { g with
        splits := g.splits.set s.sel.b { goesOn sp (sp.pc + 4) with age := s.now } })) ∧
    (∀ tm b g i sp, s.exec.teams[s.sel.a]? = some tm → s.exec.ctxs[tm.ctx]? = some c → s.sel.b < 16 → tm.bars[s.sel.b]? = some b →
      1000 * c.lr.btimeout < b.dog → s.firstBlocked tm.groups (·.waitsAt s.sel.b) = some (g, i, sp) →
      ∃ f, exec .barrierTimeout s = .next (s.endCtx tm.ctx f) ∧ f.code = 1 ∧ f.cause = 11 ∧ f.trapPc = sp.pc ∧
        f.split = BitVec.ofNat 8 i ∧ f.group = BitVec.ofNat 8 g.index ∧ f.trapAddr = BitVec.ofNat 64 b.barr ∧ f.aux = BitVec.ofNat 64 b.bquota) ∧
    (∀ f, s.exec.ctxs[s.sel.a]? = some c → s.ops.mops = [] → c.state = .ending → s.outstanding s.sel.a = false → c.fault = some f → f.code ≠ 8 →
      exec .contextEnd s = .next ((((s.signalEnd c.queue c.index c.tag c.lr.csig (.error f.code)).faultEvent c f).endSerial c false).dropCtx s.sel.a)) ∧
    (s.exec.ctxs[s.sel.a]? = some c → s.gridDone s.sel.a c = true → c.lr.dual = false →
      exec .gridComplete s = .next (((s.signalEnd c.queue c.index c.tag c.lr.csig .decrement).endSerial c true).dropCtx s.sel.a)) ∧
    (∀ cn va p, s.exec.ctxs[cn]? = some c → c.stage.find? (fun p => p.va == va) = some p →
      (s.walk c.pent va.toNat = .bad ∨ s.walk c.pent va.toNat = .poison → exec (.staging cn va) s = .next (s.stagedPage cn va)) ∧
      (∀ w level entry, s.walk c.pent va.toNat = .leaf w level entry →
        let k := 2 ^ offBits level / 65536
        (lfRes w = false ∨ 2 ≤ lfTier w ∨ lfTier w = p.tier ∨ leafValid s.part w level = false →
          exec (.staging cn va) s = .next (s.stagedPage cn va)) ∧
        (lfRes w = true → lfTier w < 2 → lfTier w ≠ p.tier → leafValid s.part w level = true → s.mayUnit 0 = true →
          s.rangeBusy (lfFrame w) (65536 * k) = false →
          (∀ f v all, s.stagingFails c.pent w k = false → s.freeRun p.tier k k [] = some f → s.work 0 (65536 * k) = (v, all) →
            exec (.staging cn va) s = .next (if all then (v.moveLeaf c.pent va w entry k f p.tier).stagedPage cn va else v)) ∧
          (s.stagingFails c.pent w k = true ∨ s.freeRun p.tier k k [] = none → exec (.staging cn va) s =
            .next ((s.stagedPage cn va).modXlat c.pent (fun t => { t with stageshort := t.stageshort + 1 }))))))

/-! ### Events: reset, registers, memory control -/

/-- R82 to R90: a request of a rung without a rung in progress, that passes the checks of R85, starts its rung with RSTAT 1 and RCTL
showing it; one that fails them leaves their code in RSTAT and starts none; one while another is in progress leaves RSTAT 5.
A finished rung ends its request; one that has not finished in its time starts the next, and after the device rung the dies
lose their power; FLR of PF0 is the device rung, of another function the rung of its entry; teardown unbinds the functions
that are gone; a held partition rung starts once its peers have answered. -/
def Obligations.ResetRequestsAndRungs : Prop :=
  ∀ (s : State) (fn : BitVec 6) (r : ResetReq),
    let n := fn.toNat
    let asked : State := s.modPage n (fun p => { p with queue := r.queue, pent := r.pent, index := r.index })
    let rungs : List (Nat × Instr) := [(1, .resetQueue fn r), (2, .resetContext fn r), (3, .resetEngine fn r), (4, .resetPartition fn r),
      (5, .resetDevice fn r)]
    (∀ k i, (k, i) ∈ rungs → s.answers n = false → exec i s = .next (s.emit .unsupported)) ∧
    (∀ k i p, (k, i) ∈ rungs → s.answers n = true → s.host.fns[n]? = some p →
      (p.rpage.rctl.getLsbD 0 = true → exec i s = .next (s.modPage n (fun p => { p with rstat := 5 }))) ∧
      (p.rpage.rctl.getLsbD 0 = false →
        let q : ResetReq := { r with rsv := r.rsv || p.rpage.rsv != 0 }
        (∀ code, asked.resetCheck n k q = some code →
          exec i s = .next (asked.modPage n (fun p => { p with rctl := rctlOf k r &&& 0x30E, rstat := BitVec.ofNat 8 code }))) ∧
        (asked.resetCheck n k q = none → ∃ (u : State) (x : Rung) (p' : Fn), exec i s = .next (u.startRung n x) ∧ x.rung = k ∧ x.pent = r.pent ∧ x.index = r.index ∧
          x.replay = r.replay ∧ x.allctx = r.allctx ∧ x.start = s.now ∧ u.host.fns[n]? = some p' ∧ p'.rpage.rstat = 1 ∧
          p'.rpage.rctl = rctlOf k r ∧ u.exec = s.exec))) ∧
    (∀ x, (s.page s.sel.a).active = some x →
      (∀ u, s.drainAll x = (u, true) → u.rungDone x = true → x.teardown = false → exec .resetComplete s = .next ((u.endRung x).pageDone s.sel.a x)) ∧
      (x.held = false → x.start + rungLimit x.rung ≤ s.now →
        (x.rung = 5 → ∃ t, exec .rungEscalation s = .next t ∧ t.power.on = false) ∧
        (x.rung < 5 → ∃ y, exec .rungEscalation s = .next (s.startRung s.sel.a y) ∧ y.rung = x.rung + 1 ∧ y.start = s.now)) ∧
      (x.held = true → s.rungWaits x.pent.toNat = false → exec .partitionRungHold s = .next ((s.modPage s.sel.a (fun p =>
        if p.rctl.toNat / 2 % 8 = 4 then { p with acceptT := BitVec.ofNat 64 s.now } else p)).startRung s.sel.a x))) ∧
    (s.sel.a = 0 → exec .functionLevelReset s = .next (s.askReset 0 5 (partReq 0) true false)) ∧
    (∀ e, 0 < s.sel.a → s.sel.a < 64 → s.entryOf s.sel.a = some e → exec .functionLevelReset s = .next (s.askReset s.sel.a 4 (partReq e) true false)) ∧
    (∀ k, s.sel.a = k → k < s.host.numVfs → s.host.numVfs < 64 → s.host.numVfs = k + 1 → s.entryOf (k + 1) = none →
      exec .vfTeardown s = .next (({ s with host := { s.host with numVfs := k } } : State).unbindFn (k + 1)))

/-- R4, R20, R53, R54, R58, R73, R76 to R80, R90, R182, R277: register writes. A partition table write that R77 and R78 allow is what the
entry holds from the next period on, and a refused one changes no entry and sets PTERR to its offset; a register write of a function that
is not in reset reaches its page, and of one in reset is Unsupported; a budget period starts the counters at zero; enabling the
journal of an entry starts a recording at JWR 0. Of this the model's choice is: what the checks of R78 count, and GEN (log entry 78); that
a write to a register with an event of its own does what the event does (log entry 79); what the table reads meanwhile (log entry 97); where
a recording starts (log entry 68); the registers of PCIe and of PTP, which the manual names and does not lay out (log entry 5); and which
writes a reset answers with Unsupported (log entry 83). -/
def Obligations.RegisterAndPartitionWrites : Prop :=
  ∀ (s : State) (v : W64) (size : Nat),
    (∀ off : W16, s.answers 0 = false → exec (.partitionTableWrite off size v) s = .next (s.emit .unsupported)) ∧
    (∀ (off : W16) (old : PartEntry), s.answers 0 = true → off.toNat / 128 < 40 → s.writtenParts[off.toNat / 128]? = some old →
      let e := off.toNat / 128
      let w : RegWr := { off := off.toNat, n := size, v }
      let p := old.written (w.from_ (128 * e))
      let tab := s.writtenParts.set e p
      ((old.tooWide (w.from_ (128 * e)) = true ∨ p.inRange old = false ∨ tableOk tab e = false ∨ (p.moves old = true ∧ s.resident e = true)) →
        exec (.partitionTableWrite off size v) s = .next { s with host := { s.host with pterr := BitVec.ofNat 32 off.toNat } }) ∧
      (old.tooWide (w.from_ (128 * e)) = false → p.inRange old = true → tableOk tab e = true → (p.moves old = false ∨ s.resident e = false) → ∃ t,
        exec (.partitionTableWrite off size v) s = .next t ∧ t.host.nextPart = tab ∧ t.host.pterr = s.host.pterr ∧ t.exec = s.exec)) ∧
    (∀ (fn : BitVec 6) (off : BitVec 25), s.ideFails fn.toNat = false →
      (s.answers fn.toNat = false → exec (.registerWrite fn (.bar0 off) size v) s = .next (s.emit .unsupported)) ∧
      (s.answers fn.toNat = true → 0x1000 ≤ off.toNat → off.toNat < 0x2000 →
        exec (.registerWrite fn (.bar0 off) size v) s = .next (s.modFn fn.toNat (fun x => { x with
          evq := x.evq.wrote (({ off := off.toNat, n := size, v } : RegWr).from_ 0x1000) })))) ∧
    (s.ideFails 0 = false →
      (v.toNat < 128 → ∃ t, exec (.registerWrite 0 .ptpDomain size v) s = .next t ∧ t.clock.domain = v.toNat) ∧
      (1000 ≤ v.toNat → v.toNat ≤ 4000 → exec (.registerWrite 0 .powerLimit size v) s = .next { s with power := { s.power with limit := v.toNat } }) ∧
      (s.host.numVfs ≤ v.toNat → v.toNat ≤ 63 → exec (.registerWrite 0 .numVfs size v) s = .next { s with host := { s.host with numVfs := v.toNat } }) ∧
      exec (.registerWrite 0 .atomicReq size v) s = .next { s with host := { s.host with atomicReq := v.getLsbD 0 } }) ∧
    (s.host.period < s.now / 100000 → s.upLinks = [] → exec .budgetPeriod s = .next ({ s with
      host := { s.host with
        period := s.now / 100000, parts := s.writtenParts, nextPart := [], spentPart := List.replicate 40 Spent.zero,
        spentAct := List.replicate 6 Spent.zero }
      exec := { s.exec with ctxs := s.exec.ctxs.map (fun c => { c with spent := Spent.zero }) } } : State)) ∧
    (∀ (e : Nat) (c : W16), c.getLsbD 0 = true → c.getLsbD 1 = false → (s.journal e).enabled = false → e < s.host.journals.length →
      ∃ t j, exec (.journalEnable e c) s = .next t ∧ t.host.journals[e]? = some j ∧ j.jwr = 0 ∧ j.jctl = c &&& 3 ∧ j.stopped = false)

/-- R189 to R193, R196, R197, R203, R210: what the memory controls do. TLB_INVALIDATE drops the cached translations that its registers
name; it is complete when no operation that uses them is left; RETAG and ELIDE act on their frames; SIDEWAYS converts ways that hold no
line, and is refused with more than 16; FLUSH writes back and invalidates the lines of its ways; PAGE_DONE ends the page's request and
wakes who waits; a change of ROOT under a resident context is refused. Of this the model's choice is: that a refused write names its
offset in MEMERR (log entry 80); which frame operations are refused, the order in which ways are used, that FLUSH, RETAG and ELIDE complete
at once, and for which operations an invalidation waits (log entry 81). -/
def Obligations.MemoryControlEvents : Prop :=
  ∀ (s : State),
    (∀ c : Byte, c.getLsbD 0 = true → s.memctl.invctl.getLsbD 0 = true → exec (.tlbInvalidate c) s = .next (s.memErr 0xA0D)) ∧
    (∀ c : Byte, c.getLsbD 0 = true → s.memctl.invctl.getLsbD 0 = false → ∃ t, exec (.tlbInvalidate c) s = .next t ∧
      t.memctl.invctl = c &&& 3 ∧ ∀ x, x ∈ t.store.tlb ↔ (x ∈ s.store.tlb ∧
        (invNames s.memctl.named x.pent (x.page * 2 ^ offBits x.level) (2 ^ offBits x.level) = false ∨
          (c.getLsbD 1 = true ∧ lfLeaf x.leaf = true ∧ lfG x.leaf = true)))) ∧
    (s.memctl.invctl.getLsbD 0 = true → s.invBusy = false → exec .invalidateComplete s =
      .next (s.modCtl (fun m => { m with invctl := m.invctl &&& 2 }))) ∧
    (∀ c, s.memctl.fopRefused s.part c = true → exec (.retag c) s = .next (s.memErr 0xA4F) ∧ exec (.elide c) s = .next (s.memErr 0xA4F)) ∧
    (∀ c, s.memctl.fopRefused s.part c = false → (s.memctl.fopkind = 1 → exec (.retag c) s = .next (s.frameOp c)) ∧
      (s.memctl.fopkind = 2 → exec (.elide c) s = .next (s.frameOp c))) ∧
    (∀ (k : BitVec 2) (m : W64), 16 < popc 24 (m &&& 0xFFFFFF).toNat → exec (.sidewaysWrite k m) s = .next (s.memErr (0xA80 + 8 * k.toNat))) ∧
    (∀ (k : BitVec 2) (m : W64), popc 24 (m &&& 0xFFFFFF).toNat ≤ 16 → s.store.lines = [] → (∀ w, w < 24 → s.holdsSide k.toNat w = false) →
      exec (.sidewaysWrite k m) s = .next (s.modCtl (fun c => { c with sideways := modAt c.sideways k.toNat (fun _ => m &&& 0xFFFFFF) }))) ∧
    (∀ (k : BitVec 2) (m : W64), ∃ t, exec (.flush k m) s = .next t ∧
      (∀ l ∈ t.store.lines, l ∈ s.store.lines ∧ ¬ (l.bd = k.toNat ∧ (m &&& 0xFFFFFF).getLsbD l.way = true))) ∧
    (∀ (e : Nat) (va : W64), s.memctl.reqs.any (fun r => r.pent == e && r.page == va &&& ~~~(0xFFFF : W64)) = true →
      exec (.pageDone e va) s = .next ((s.modCtl (fun m => { m with
        reqs := m.reqs.filter (fun r => !(r.pent == e && r.page == va &&& ~~~(0xFFFF : W64))) })).wakePage e (va &&& ~~~(0xFFFF : W64)))) ∧
    (∀ (off : W16) (size : Nat) (v : W64), off.toNat / 64 < 40 →
      let e := off.toNat / 64
      let w : RegWr := ({ off := off.toNat, n := size, v } : RegWr).from_ (64 * e)
      let x := s.memctl.xlat.getD e Xlat.reset
      let root := w.r64 0 x.root &&& 0x000FFFFFFFFFE001
      (root ≠ x.root → s.resident e = true → exec (.translationEntryWrite off size v) s = .next (s.memErr off.toNat)) ∧
      ((root = x.root ∨ s.resident e = false) → w.hits 0x20 8 = false → ∃ u : State, exec (.translationEntryWrite off size v) s = .next u.sendWaiting ∧
        u = s.modXlat e (fun x => { x with
          root := root, prbase := w.r64 8 x.prbase, prsize := w.r8 0x10 x.prsize, prvec := w.r16 0x12 x.prvec, prrd := w.r32 0x18 x.prrd,
          occlim := w.r32 0x28 x.occlim })))

/-! ### Events: images, following pages, snapshots -/

/-- R79, R120 to R125, R130, R134, R138, R141, R145 to R148, R264, R266: SERIALISE of a context that is not being serialised starts, with a
drain of DRAIN µs, 20 for 0; of none with that name it answers RESULT 1, and of one in progress RESULT 4; the drain ends at its time; the
seal of an area that is not aligned, or too small, answers RESULT 2, and of a good one writes the image and its header as the budget
admits; a following page is pulled, and resident once its bytes are there; a snapshot without contexts left to seal drains; a
registration hands a berth over. Of this the model's choice is: the free frame that is taken (log entry 24); how the page names the
queue (log entry 69); the order of the writes of an image (log entry 70); the tier of following pages (log entry 73); the order and the
frames of a snapshot's drain (log entry 74); how units of a budget are spent (log entry 92); and that a poisoned register, tile or
accumulator met by the seal ends the context (log entry 116). -/
def Obligations.SerialisationAndFollowingEvents : Prop :=
  ∀ (s : State),
    (∀ (fn : BitVec 6) (ctl : W32) (f : Fn), s.host.fns[fn.toNat]? = some f → ctl.getLsbD 0 = true →
      let n := fn.toNat
      let asked : State := s.modFn n (fun x => { x with ser := { x.ser with ctl := ctl &&& 3 } })
      let cut (r : W32) : State := s.modFn n (fun x => { x with ser := { x.ser with result := r } })
      (f.ser.ctl.getLsbD 0 = true → exec (.serialise fn ctl) s = .next (cut 4)) ∧
      (f.ser.ctl.getLsbD 0 = false → ∀ cn c, asked.ctxNamed n f.ser.queue f.ser.index = some (cn, c) →
        (c.ser ≠ none → exec (.serialise fn ctl) s = .next (asked.serAnswer n c 4)) ∧
        (c.ser = none → ∃ z, exec (.serialise fn ctl) s = .next (asked.startSerial cn z) ∧ z.asker = some n ∧ z.keep = ctl.getLsbD 1 ∧
          z.start = s.now ∧ z.drainTo = s.now + 1000 * (if f.ser.drain = 0 then 20 else min 1000 f.ser.drain.toNat))) ∧
      (f.ser.ctl.getLsbD 0 = false → asked.ctxNamed n f.ser.queue f.ser.index = none → ∃ c,
        exec (.serialise fn ctl) s = .next (asked.serAnswer n c 1))) ∧
    (∀ c z, s.exec.ctxs[s.sel.a]? = some c → c.ser = some z → z.drainTo ≤ s.now → ∃ t c', exec .copyDrainExpiry s = .next t ∧
      t.exec.ctxs[s.sel.a]? = some c' ∧ c'.ser = some { z with drained := true }) ∧
    (∀ c z va size, s.exec.ctxs[s.sel.a]? = some c → c.ser = some z → s.canSeal s.sel.a c z = true → z.snap = none → z.rope = false →
      s.imageArea s.sel.a z = some (va, size) → z.phase = 0 →
      let img := s.imageOf s.sel.a c false true
      (∀ g, s.spoiledGroup (s.groupsOf s.sel.a) = some g → exec .serialiseSeal s = .next (s.endSpoiled g)) ∧
      (s.spoiledGroup (s.groupsOf s.sel.a) = none → (va.toNat % 65536 ≠ 0 ∨ ∃ n, size = some n ∧ n < img.bytes.length) →
        exec .serialiseSeal s = .next (s.abandonSerial s.sel.a c z 2)) ∧
      (s.spoiledGroup (s.groupsOf s.sel.a) = none → va.toNat % 65536 = 0 → (∀ n, size = some n → img.bytes.length ≤ n) →
        ∀ v all, s.work 4 img.bytes.length = (v, all) → exec .serialiseSeal s = .next (if all then ((v.modCtx s.sel.a (fun c => { c with
          ser := some { z with phase := 1, hdr := img.header } })).put
            { queue := c.queue, idx := c.index, tag := c.tag, pent := c.pent, va := va + 256, data := img.body, kind := .image s.sel.a,
              req := none }).sealOn s.sel.a va img.slots 3 else v))) ∧
    (s.sel.a < 40 → (s.snap s.sel.a).status = 1 → s.snapLive s.sel.a = [] → exec .snapshotDrained s = .next (s.snapDrain s.sel.a)) ∧
    (s.sel.a < 40 → (s.snap s.sel.a).status = 2 → (s.snap s.sel.a).failed = false → (s.snap s.sel.a).begun = false →
      exec .snapshotDrained s = .next (s.snapImages s.sel.a)) ∧
    (∀ f v all, leastBy (fun (f : FollowPage) => f.va.toNat) (s.store.follow.filter (fun f => f.pent == s.sel.a && f.state == 0)) = some f →
      s.work 0 65536 = (v, all) → exec .followingPull s = .next (if all then v.startFollow s.sel.a f.va else v)) ∧
    (∀ e va f reason, s.store.follow.find? (fun f => f.pent == e && f.va == va && f.state == 1) = some f →
      exec (.followingFetch e va (.failed reason)) s = .next (s.followFail f reason)) ∧
    (∀ e va f bytes d fr w lv entry, s.store.follow.find? (fun f => f.pent == e && f.va == va && f.state == 1) = some f → f.tier = 0 →
      s.originBytes f bytes = .ok d → s.freeFrame 0 = some fr → s.walk e va.toNat = .leaf w lv entry → lfRes w = false → ∃ u : State,
        exec (.followingFetch e va (.page bytes)) s = .next (((u.devWrite entry (bytesOf 8 (bareLeaf f.leaf ||| 0x8401 |||
          BitVec.ofNat 64 (65536 * fr)).toNat)).wakePage e va).settleFollow f.ctx) ∧ u.exec = s.exec ∧
        u.store.dram = ((s.store.takeFrame fr (lfKey f.leaf)).putBytes false (65536 * fr) d).dram) ∧
    (∀ (r : Registration) (b : Berth), s.named r.name = some b → b.state ≠ .resolved → ∃ t, exec (.forwardingRegistration r) s = .next t ∧
      ∀ x ∈ t.berths.slots, x.bd = b.bd → x.slot = b.slot → x.loc = .forwarding r.slot)

/-! ### Events: peers, progress, berths, stages, ropes -/

/-- R50, R51, R53, R57, R90, R188, R196, R219 to R222, R225 to R227, R230 to R233, R240 to R243, R266: requests and answers between devices,
and the progress of accesses. A RECALL drops this device's copies of the line and is answered; its answer, or 4 ms without one, lets the
writes go that waited for that device alone; a request is served, held or refused as R240 says, and NACKed while its partition is being
prepared; a response reaches its request if its generation is still current; a request without an answer for 4 ms fails with 10, and so
does one that waited 3 ms for a page; a host access outside the window is unsupported; a load returns, and a store is acknowledged, once
it is performed; a release that waits for device time alone completes once that is past. Of this the model's choice is: when pieces are
performed (log entry 7); which fences GWCT_PASSED lets go on (log entry 65); what a RECALL that runs out reports (log entry 87); host
accesses through the window (log entry 88) and the flat space of host memory (log entry 103); and which events a journal records of them
(log entry 68). -/
def Obligations.PeerRequestsAndProgress : Prop :=
  ∀ (s : State),
    (∀ (w : BitVec 7) (x : RecallMsg),
      let theirs (l : Nat) : Bool := l % 2 ^ 45 == 2 ^ 44 + (s.peerSlot w).toNat * 2 ^ 37 + x.line.toNat
      let u := (s.dropPeers theirs).dropL1 (fun _ _ l => theirs l)
      u.caches.peers = s.caches.peers.filter (fun c => !theirs c.line) ∧ u.caches.l1 = s.caches.l1.filter (fun c => !theirs c.line) ∧
      exec (.recallLine w x) s = .next (u.sendAnswer (s.peerSlot w) x.origin (.recallAck x.line))) ∧
    (∀ (w : BitVec 7) (line : W64) (h : HeldAck), s.caches.held = [h] → h.waiting = [s.peerSlot w] → h.line = line.toNat → h.after = none →
      h.rsp.result ≠ .nack →
      exec (.recallAck w line) s = .next (({ s with caches := { s.caches with held := [] } } : State).deliverRsp h.dst h.rsp) ∧
      (h.sentAt + 4000000 ≤ s.now → s.linkUp (s.peerSlot w) = false →
        exec (.recallTimeout w line) s = .next (({ s with caches := { s.caches with held := [] } } : State).deliverRsp h.dst h.rsp))) ∧
    (∀ (r : RemoteReq),
      (∀ t x, s.serve r = .answer t x → exec (.remoteRequest r) s = .next (t.deliverRsp r.src (t.rspFor r x))) ∧
      (∀ t, s.serve r = .late t → exec (.remoteRequest r) s = .next t) ∧
      (∀ t p, s.serve r = .hold t p → ∃ i, exec (.remoteRequest r) s = .next { t with ops := { t.ops with inbound := t.ops.inbound ++ [i] } } ∧
        i.req = r ∧ i.page = p ∧ i.at_ = t.now) ∧
      (∀ e, s.reqPart r = some e → (s.partEnt e).state = 2 → exec (.remoteRequest r) s = .next (s.deliverRsp r.src (s.rspFor r .nack)))) ∧
    (∀ (r : RemoteRsp) (q : Request), s.ops.reqs.find? (fun q => q.id == r.id && q.req.dst == r.src) = some q → q.stale = false →
      (r.pgen = (s.partEnt q.pent).gen → exec (.remoteResponse r) s = .next (s.answerReq q r.result)) ∧
      (r.pgen ≠ (s.partEnt q.pent).gen → exec (.remoteResponse r) s = .next (s.dropRsp r.src))) ∧
    (∀ q, s.ops.reqs.find? (fun q => !q.stale && q.id == s.sel.a) = some q → q.sentAt + 4000000 ≤ s.now →
      exec .remoteTimeout s = .next (s.answerReq q (.fault 10))) ∧
    (∀ i, s.ops.inbound.find? (fun i => i.req.id == s.sel.a && i.req.src.toNat == s.sel.b && i.page != 0) = some i →
      i.at_ + 3000000 ≤ s.now →
      let v : State := { s with ops := { s.ops with inbound := s.ops.inbound.filter (fun i =>
        !(i.req.id == s.sel.a && i.req.src.toNat == s.sel.b && i.page != 0)) } }
      ∃ u x, v.refuseReq i.req (some i.pent) 10 = .answer u x ∧ x = .fault 10 ∧
        exec .inboundPageTimeout s = .next (u.deliverRsp i.req.src (u.rspFor i.req x))) ∧
    (∀ (off : W64) (a : HostAccess), s.ideFails 0 = false →
      let pa := off.toNat
      let old := s.store.bytes (s.shadowed pa) (windowBytes a)
      let lost := s.lost.getLsbD (8 + homeDie pa)
      let bad := s.store.poisoned (s.shadowed pa) (windowBytes a) || lost
      let free : Prop := ∀ e < 40, s.storeHeld e pa = false ∧ s.storeKept e pa = false
      ((s.answers 0 = false ∨ s.host.bar2 < pa + windowBytes a) → exec (.hostWindowAccess off a) s = .next (s.emit .unsupported)) ∧
      (s.answers 0 = true → windowOk pa a = true → pa + windowBytes a ≤ s.host.bar2 → pa + windowBytes a ≤ Config.hbmSize s.part →
        s.host.window = [] →
        (s.ownedIn pa (windowBytes a) = true → exec (.hostWindowAccess off a) s = .next { s with host := { s.host with window := [.access off a] } }) ∧
        (∀ n, a = .read n → s.ownedIn pa n = false → exec (.hostWindowAccess off a) s = .next (s.emit (.hostData old bad))) ∧
        (∀ d u, a = .write d → s.ownedIn pa d.length = false → lost = false → free → s.windowWrite pa d = some u →
          exec (.hostWindowAccess off a) s = .next u) ∧
        (∀ op d u, a = .atomic op d → s.ownedIn pa d.length = false → bad = false → free → s.windowWrite pa (pcieBytes op old d) = some u →
          exec (.hostWindowAccess off a) s = .next (u.emit (.hostData old false))))) ∧
    (∀ u o, s.performAll s.sel.a = u → u.op? s.sel.a = some o → u.opDone s.sel.a = true →
      let host := o.kind.stores && o.pieces.any (fun p => match p.place with | .host _ => true | _ => false)
      let v := (u.dropOp o.id).modGroup o.g (fun g => if host then (g.fillRegs o).passGwct u.now else g.fillRegs o)
      (o.kind ∈ [.load, .atomic, .cas] → o.ord ≠ 1 → o.ord ≠ 3 → exec .loadReturn s = .next (v.settleClauses o.g)) ∧
      (o.kind ∈ [.load, .atomic, .cas] → (o.ord = 1 ∨ o.ord = 3) → (o.scope = 2 ∨ o.scope = 3) →
        exec .loadReturn s = .next ((v.acquire o.g).settleClauses o.g)) ∧
      (o.kind ∈ [.load, .atomic, .cas] → (o.ord = 1 ∨ o.ord = 3) → o.scope = 4 →
        (o.noted = false → u.acquireHeld o.g = false →
          exec .loadReturn s = .next (((v.acquire o.g).sysAcquire o.g o.sp).settleClauses o.g)) ∧
        (o.noted = true → exec .loadReturn s = .next ((v.acquire o.g).settleClauses o.g))) ∧
      (o.kind ∈ [.store, .atomicN, .scalarStore, .bput] → o.ord ≠ 1 → o.ord ≠ 3 → (∀ p ∈ o.pieces, ∀ a, p.place ≠ .host a) →
        exec .storeAck s = .next (((u.dropOp o.id).modGroup o.g id).settleClauses o.g))) ∧
    (∀ h, s.caches.held.find? (fun h => h.id == s.sel.a && h.dst.toNat == s.sel.b &&
        (match h.after with | some g => decide (g < s.now) | none => false)) = some h →
      h.rsp.result ≠ .nack → exec .notimeAck s =
        .next (({ s with caches := { s.caches with held := s.caches.held.filter (fun x => x != h) } } : State).deliverRsp h.dst h.rsp)) ∧
    (∀ (g : Group) (tm : Team) (cn : Nat) (c : Ctx) (sp : Split) (b : List Byte),
      let r : SplitRef := ⟨s.sel.a, s.sel.b⟩
      let u : State := { s with cur := some r }
      Runs u r g sp [] → InGrid s g tm cn c → g.earlierIssued r.sp = true → s.acquiring r.g r.sp = false → s.released r.g 4 = true →
      g.rfault.pend = false → g.gwct < s.now → s.scalarReady r = true → sp.status = .ready → s.peek4 c sp.pc = some b →
      instrOf (wordOf 32 b) 0 = .fenceRel 4 → GoesOn s .gwctPassed ((u.performedAtGrp r.g).fencePassed r (fun _ => true)) r)

/-- R50, R134, R246, R248 to R250, R253 to R259, R264, R266, R278, R280, R440: what resolves a berth and what a stage packet does. A
delivery to a name that is live, in its partition and not expired resolves it with the data, and a BPUT is answered; a berth that has
expired is resolved with 1; a forwarded resolution is applied once and acknowledged; an acknowledgement stops the resending, or frees
the slot of a context that is gone; a release frees it; a packet is accepted and runs; one that was not accepted for 4 ms ends its chain
with 5. Of this the model's choice is: where an event about a dead name goes (log entry 51); which resolutions a journal records and
that a replaying owner takes none from outside (log entries 52, 53 and 121); when a resolution is sent again (log entry 54); addresses and
faults of a chain (log entry 55), and where it is held (log entry 56); and that a poisoned entry wakes its waiter with DATA_POISON (log
entry 116). -/
def Obligations.BerthsResolveAndStagesRun : Prop :=
  ∀ (s : State),
    (∀ (d : Delivery) (b : Berth), s.named d.name = some b → b.state = .live → s.now < b.expiry → d.part = partBits b.pent →
      s.berthReplays b = false → s.store.marked (.berth b.bd b.slot) = false →
      let u := s.resolve b { status := d.status, data := d.data, stage := d.stage }
      (d.stage = true → exec (.berthDelivery d) s = .next u) ∧
      (d.stage = false → exec (.berthDelivery d) s = .next (u.send d.src 0x02 0 ⟨d.part, d.sub, d.pgen⟩ false (.response
        { id := d.id, src := u.selfSlot, part := d.part, sub := d.sub, pgen := d.pgen, cls := 0
          result := .ok [] (BitVec.ofNat 64 u.now) none })))) ∧
    (∀ d : Delivery, s.named d.name = none → d.stage = true → exec (.berthDelivery d) s =
      .next (s.inboundFault (some (5 * d.part.toNat + d.sub.toNat)) (d.part.zeroExtend 8) (d.sub.zeroExtend 8) 13 d.src 4 0 0 d.name)) ∧
    (∀ b, s.berth? s.sel.a s.sel.b = some b → s.berthSpoiled b = false → b.state = .live → b.expiry ≤ s.now → s.berthReplays b = false →
      exec .berthExpiry s = .next (s.resolve b { status := 1, data := [], stage := false })) ∧
    (∀ b, s.berth? s.sel.a s.sel.b = some b → s.berthSpoiled b = true → exec .berthExpiry s = .next (s.wakeSpoiled b)) ∧
    (∀ x : Resolution, (s.forward? x.name = none → exec (.forwardedResolution x) s =
        .next (s.sendAnswer x.src x.origin (.resolutionAck x.name false))) ∧
      (∀ f, s.forward? x.name = some f → f.state = .resolved → exec (.forwardedResolution x) s =
        .next (s.sendAnswer x.src x.origin (.resolutionAck x.name true))) ∧
      (∀ f, s.forward? x.name = some f → f.state ≠ .resolved → f.parked = false → f.waiter = none →
        (∀ cn c, s.ctxOf? f.g = some (cn, c) → s.replays cn = false) → exec (.forwardedResolution x) s =
        .next ((((s.sendAnswer x.src x.origin (.resolutionAck x.name true)).modForward x.name (fun f => { f with
          state := .resolved, status := x.status, data := sized f.bytes x.data, ptime := s.now })).modForward x.name (fun f => { f with waiter := none })).resolveAt f.g f.k f.bytes none
            { status := x.status, data := sized f.bytes x.data, stage := decide (3 ≤ x.status.toNat) }))) ∧
    (∀ (name : W64) (b : Berth) (n : BitVec 7), s.named name = some b → b.loc = .forwarding n →
      exec (.resolutionAck name true) s = .next (s.modBerth b.bd b.slot (fun b => { b with acked := true })) ∧
      exec (.resolutionAck name false) s = .next (s.modBerth b.bd b.slot Berth.freed)) ∧
    (∀ b n, s.sel.a = 0 → s.berth? s.sel.b s.sel.c = some b → b.loc = .forwarding n → b.state = .resolved → b.acked = false → b.sentAt = none →
      s.linkUp n = true →
      exec .resolutionResend s = .next ((s.modBerth b.bd b.slot (fun _ => { b with held := true })).sendResolution { b with held := true } n)) ∧
    (∀ b c n, s.berth? s.sel.b s.sel.c = some b → b.state ≠ .free → s.named (s.berthName b) = some c → c.loc = .forwarding n →
      exec .berthRelease s = .next (s.modBerth c.bd c.slot Berth.freed)) ∧
    (∀ p : StagePkt, exec (.stageStep p) s = .next ((s.sendAnswer p.src ⟨p.part, p.sub, p.pgen⟩ (.stageAccept p.id)).runChain p none 0)) ∧
    (∀ k, s.ops.stages.find? (fun k => k.sent && k.pkt.id == s.sel.a) = some k → k.sentAt + 4000000 ≤ s.now → s.linkUp k.dst = true →
      exec .stageTimeout s = .next ((s.stageAccepted k.pkt.id).sendResult k.pkt 5 (s.faultData k.pkt.p 10 (pktHop k.pkt))))

/-- R16, R108 to R113: the messages and times of a rope action. An ARM is kept by its rank; at T − 5 µs a member whose record differs ends
the action with an ABANDON to all, and else the members agree; an ABANDON before the switch ends it; rank 0 chooses TIMED at T − 10 µs
when every member is LOCKED, and else MESSAGE; a member switches at T, or by GO; READY and STOPPED are counted; SEAL lets a PREEMPT
seal; a window with a straggler is extended once under POLICY 1, and else ends. Of this the model's choice is: that the record is read and
its ARM sent before the preparation (log entry 75); that what is compared at T − 5 µs is the digests (log entry 76); and who tells whom of
a straggler, and which member keeps the window in MESSAGE mode (log entry 77). -/
def Obligations.RopeActionsFollowTheirMessages : Prop :=
  ∀ (s : State) (a : RopeAct),
    (∀ m : ArmMsg, s.ropeAct? m.rope = some a → a.switched = none → exec (.arm m) s = .next (s.modAct a (fun a => { a with
      arms := (m.rank.toNat, m) :: a.arms.filter (fun x => x.1 != m.rank.toNat) }))) ∧
    (∀ rope : W32, s.ropeAct? rope = some a →
      (∀ k, a.switched = none → exec (.abandon rope k) s = .next (s.ropeDisagree a k.toNat)) ∧
      (∀ timed, a.mode = none → a.switched = none → s.now < a.t → exec (.mode rope timed) s =
        .next (s.modAct a (fun a => { a with mode := some timed }))) ∧
      (∀ k : Byte, a.ready.contains k.toNat = false → exec (.ready rope k) s =
        .next (s.modAct a (fun a => { a with ready := k.toNat :: a.ready })))) ∧
    (∀ (rope : W32) (k : Byte), s.preempt? rope = some a → a.stopped.contains k.toNat = false → exec (.stopped rope k) s =
      .next (s.modAct a (fun a => { a with stopped := k.toNat :: a.stopped }))) ∧
    (s.preempt? (BitVec.ofNat 32 s.sel.a) = some a → exec .sealNow s = .next (s.modAct a (fun a => { a with sealOk := true }))) ∧
    (s.ropeAct? (BitVec.ofNat 32 s.sel.a) = some a →
      (a.agreed = false → a.switched = none → a.t ≤ s.now + 5000 →
        (a.unequal = [] → exec .ropeArmDeadline s = .next (s.modAct a (fun a => { a with agreed := true }))) ∧
        (∀ k l, a.unequal = k :: l → exec .ropeArmDeadline s =
          .next ((s.ropeDisagree a k).sendAll a.map a.pent (.abandon a.id (BitVec.ofNat 8 a.rank))))) ∧
      (a.rank = 0 → a.mode = none → a.switched = none → a.t ≤ s.now + 10000 →
        (s.clock.tstate = .locked → (∀ k, 0 < k → k < a.count → ∃ x ∈ a.arms, x.1 = k ∧ x.2.tstate = .locked) →
          exec .ropeModeSend s = .next ((s.modAct a (fun a => { a with mode := some true })).sendAll a.map a.pent (.mode a.id true))) ∧
        (s.clock.tstate ≠ .locked →
          exec .ropeModeSend s = .next ((s.modAct a (fun a => { a with mode := some false })).sendAll a.map a.pent (.mode a.id false)))) ∧
      (a.agreed = true → a.t ≤ s.now → a.switched = none → a.mode = some true → exec .ropeSwitch s = .next (s.ropeSwitchNow a)) ∧
      (a.switched = none → a.mode ≠ some true → exec .go s =
        .next ((s.modAct a (fun a => { a with mode := some false })).ropeSwitchNow { a with mode := some false })) ∧
      (∀ d k, a.deadline = some d → d ≤ s.now → a.agreed = true → a.abandoned = false → a.straggler s.sel.b = some k →
        (a.policy = 1 → a.extended = false → exec .ropeWindowExpiry s = .next (s.modAct a (fun a => { a with extended := true }))) ∧
        (a.policy ≠ 1 → a.mode = some true → exec .ropeWindowExpiry s = .next (s.ropeStraggle a k)) ∧
        (a.policy ≠ 1 → a.mode ≠ some true → exec .ropeWindowExpiry s =
          .next ((s.ropeStraggle a k).sendAll a.map a.pent (.abandon a.id (BitVec.ofNat 8 k))))))

/-! ### Events: the matrix unit's batches, copies, management -/

/-- R50, R162, R204, R233, R234, R243, R262 to R266, R419, R424, R427, R430 to R432: the oldest closed batch of a group commits whole: after
it the ACC contents are what its instructions made in order, the batch is gone and its flag is set; a residue failure that the retry
repeats ends the context with DATA_POISON, and so does poison that the batch reads. A chunk lands with its bytes, and a fault at a peer
stops its copy with COPY_FAULT's reason. Of this the model's choice is: that tiles and scales are read when the batch executes (log entry
41); when an empty batch commits (log entry 42); how chunks of a copy to memory are numbered (log entry 20) and written at a peer (log
entry 48); which errors are counted (log entry 104); and what waits for a line until its chunk has landed (log entry 56). -/
def Obligations.BatchesCommitAndChunksLand : Prop :=
  ∀ (s : State),
    (∀ (g : Nat) (gr : Group) (tm : Team) (cn : Nat) (c : Ctx) (b : Batch) (rest : List Batch),
      s.exec.groups[g]? = some gr → InGrid s gr tm cn c → gr.batches = b :: rest → b.closed = true → gr.live = true →
      (s.rasOff 4 = false → exec (.batchCommit g false false) s = .next ((s.countError 4 false (some tm.die)).matPoison g gr tm b 0)) ∧
      (∀ k, s.firstSpoiled g gr [] 0 b.code = some k → exec (.batchCommit g true true) s = .next (s.matPoison g gr tm b k)) ∧
      (s.firstSpoiled g gr [] 0 b.code = none →
        let e : MatEnv := { g := gr, tm, lr := c.lr }
        let m := b.code.foldl (matStep e) { acc := gr.acc, fl := 0, writes := [], dead := false }
        m.writes = [] → (rest = [] ∨ ∃ q l, rest = q :: l ∧ q.isEmpty = false) → (∃ sp ∈ gr.splits, sp.status.present = true) →
        ∃ t g', exec (.batchCommit g true true) s = .next t ∧ t.exec.groups[g]? = some g' ∧ g'.acc = m.acc ∧ g'.batches = rest ∧
          g'.fxf = gr.fxf ||| m.fl ∧ g'.vregs = gr.vregs ∧ g'.sregs = gr.sregs ∧
          (∀ n, b.flag = some n → n < 12 → g'.flags.getLsbD n = true ∧ g'.pend.getLsbD n = false))) ∧
    (∀ (id k : Nat) (x : Copy), s.copy? id = some x → x.awaits k = true → s.copyHeld x = false → x.dir ≠ .t2t →
      exec (.chunkLand id k .ask) s = .next (s.askChunk x k) ∧
      exec (.chunkLand id k .land) s = .next (((s.moveChunk x k).retryInbound (fun i => i.page == 0)).sigsRetry.putsRetry)) ∧
    (∀ (r : RemoteRsp) (q : Request) (x : Copy) (reason : Byte), s.ops.reqs.find? (fun q => q.id == r.id && q.req.dst == r.src) = some q →
      q.stale = false → q.copy = true → r.pgen = (s.partEnt q.pent).gen → s.copy? q.op = some x → r.result = .fault reason →
      ∃ (u : State) (va : W64), exec (.remoteResponse r) s = .next (u.copyFault x 6 va reason.toNat) ∧ u.ops.copies = s.ops.copies ∧
        u.ops.reqs = s.ops.reqs.filter (fun p => p.id != q.id))

/-- R72, R73, R79, R82, R144, R146, R261 to R264, R266 to R276: management. The level rises at once, and a change of it is recorded as a
health event; a scrub that finds a fault which cannot be corrected marks the place poisoned; an update that verifies and is new enough
goes into the bank that is not active, and another changes no bank; a restart of the controller leaves the dies alone; a lost die ends
what touched it; the two answers of a command processor pair that differ reset its queues; SPDM and PLDM requests are answered, a
measurement with a signature. Of this the model's choice is: what a scrub is charged (log entry 92); when levels are computed and how
long a restart lasts (log entry 93); how the queues recover (log entry 94); what a lost base die takes of a snapshot (log entry 95); the
form of the answers (log entry 96); which errors are counted (log entry 104); and that a signature is a free value of the controller (log
entry 127). -/
def Obligations.ManagementEvents : Prop :=
  ∀ (s : State),
    (∀ (m : Sensors), s.mgmt.ran = none → s.restarting = false →
      let sub := s.sublevels m
      let old := s.mgmt.risk
      let now := nextRisk old s.mgmt.below (sub.foldl max 0)
      let u : State := { s with mgmt := { s.mgmt with risk := now.1, below := now.2, sub, ran := some s.now, restart := none, sensors := some m } }
      let body := bytesOf 8 s.now ++ [BitVec.ofNat 8 now.1, BitVec.ofNat 8 old,
        BitVec.ofNat 8 (maskOf ((withIndex sub).filter (fun p => p.2 == now.1) |>.map (·.1)))] ++ List.replicate 5 0 ++
        sub.map (BitVec.ofNat 8) ++ List.replicate 24 0
      (old ≤ sub.foldl max 0 → now.1 = sub.foldl max 0) ∧
      (now.1 = old → exec (.riskCompute m) s = .next u) ∧
      (now.1 ≠ old → exec (.riskCompute m) s =
        .next ((List.range 40).foldl (fun (v : State) e => v.riskRise old now.1 e) (u.event 0 5 0xFF 0 body)))) ∧
    (∀ loc, s.holds loc = true → s.mayUnit 2 = true → s.rasOff (poisonClass loc) = false →
      let u := s.chargeAct 2 (match loc with | .sector _ => 32 | _ => 0)
      let msc := s.inMsc loc
      exec (.scrub loc .clean) s = .next u ∧
      exec (.scrub loc .corrected) s = .next (u.countError (poisonClass loc) true (u.dieOf loc) msc) ∧
      (poisonClass loc ≠ 2 → exec (.scrub loc .uncorrectable) s =
        .next ((u.poison loc).countError (poisonClass loc) false (u.dieOf loc) msc)) ∧
      (poisonClass loc = 2 → exec (.scrub loc .uncorrectable) s = .next (u.poison loc))) ∧
    (∀ u : FwUpdate,
      let k := fwIndex u.comp
      let f := s.mgmt.fw.getD k Firmware.reset
      ((u.sigOk = false ∨ u.secVer < f.minVer) → ∃ t, exec (.firmwareUpdate u) s = .next t ∧ t.mgmt.fw = s.mgmt.fw) ∧
      (u.sigOk = true → f.minVer ≤ u.secVer → k < s.mgmt.fw.length → ∃ t f', exec (.firmwareUpdate u) s = .next t ∧ t.mgmt.fw[k]? = some f' ∧
        f'.active = f.active ∧ f'.staged = true ∧
        (f.active = true → f'.vers = (u.secVer, f.vers.2) ∧ f'.digs = (u.digest, f.digs.2)) ∧
        (f.active = false → f'.vers = (f.vers.1, u.secVer) ∧ f'.digs = (f.digs.1, u.digest)))) ∧
    (∃ t, exec .controllerRestart s = .next t ∧ t.exec = s.exec ∧ t.store = s.store ∧ t.power = s.power ∧ t.host = s.host ∧
      (s.sel.a ≠ 1 → t.mgmt.restart = some s.now) ∧ (s.sel.a = 1 → t.mgmt.restart = none)) ∧
    (s.sel.a < Config.computeDies s.part → s.sel.a < 8 → s.lost.getLsbD s.sel.a = false → s.exec.ctxs = [] → s.sel.b = 0 → 3 ≤ s.sel.c →
      ∃ t, exec .dieLost s = .next t ∧
      t.lost = s.lost ||| BitVec.ofNat 12 (2 ^ s.sel.a) ∧ t.sites = modAt s.sites s.sel.a (fun _ => 0) ∧ t.exec = s.exec ∧ t.store = s.store) ∧
    (∀ q, s.sel.a < Config.baseDies s.part → s.rasOff 6 = false → s.sel.b ≠ 1 → s.exec.ctxs = [] →
      (List.range 256).filter (fun q => (s.queue q).func != 0xFFFF && s.cpDie q == s.sel.a && !s.inRung q) = [q] →
      exec .cpMismatch s = .next (((s.countError 6 false (some (8 + s.sel.a))).stopQueue q false).recoverQueue q)) ∧
    (let signed := fun l : List W64 => (.next (({ s with fresh := s.fresh + 1 } : State).emit (.spdm (l ++ [Config.signature s.fresh l]))) : Out);
      exec (.spdmRequest (.getMeasurement 0)) s = signed [8] ∧
      (∀ n, 1 ≤ n → n ≤ 8 → exec (.spdmRequest (.getMeasurement n)) s = signed [Config.measure n (s.block n)]) ∧
      (∀ slot, slot ≤ 1 → ∃ t, exec (.spdmRequest (.keyExchange slot)) s = .next t ∧ t.mgmt.spdm.any (·.1 == s.sel.b) = true)) ∧
    (∀ v : W32, ∃ t, exec (.pldmRequest (.writeRascfg v)) s = .next t ∧ t.mgmt.rascfg = v) ∧
    (∀ comp v, v < (s.mgmt.fw.getD (fwIndex comp) Firmware.reset).minVer → exec (.pldmRequest (.raiseMinVersion comp v)) s =
      .next (s.emit (.pldm 0xFFFFFFFFFFFFFFFF)))


/-! ### The whole machine -/

/-- R103, R104, R266, R310 to R315: a step runs what the memory at a split's pc decodes to. With a scalar instruction of a ready split
next, of one word or of two, step is exec of the decoded instruction at the state in which that split issues, and then the account of
the step; if it reads a poisoned scalar register it takes DATA_POISON instead; the same for the next lane instruction of a started clause,
and for an event. That the occurrence comes from State.agenda is the model's (log entry 3), and so is how code at a peer is fetched
(log entry 100). -/
def Obligations.StepRunsTheDecodedInstruction : Prop :=
  ∀ (s : State) (o : Occurrence) (rest : List Occurrence), s.agenda = o :: rest →
    let t : State := { s with out := [], agenda := rest }
    let runs (v : State) (i : Instr) : Prop :=
      (∀ x, exec i v = .next x → step s = .next ((v.closeStep x o.isLane).tidy)) ∧ (∀ f, exec i v = .fault f → step s = .fault f)
    let spoilt (v : State) (r : SplitRef) (g : Group) (w : W32) : Prop :=
      step s = .next (v.scalarTrap r (g.split r.sp) 13 0 0 (sop w).toNat).tidy
    (∀ (r : SplitRef) (g : Group) (a : AccEnv) (u : State) (b : List Byte) (used : List (BitVec 7 × Nat)), o = .scalar r →
      s.exec.groups[r.g]? = some g → t.accEnv r.g r.sp = some a → (g.split r.sp).waitOp = none → t.scalarReady r = true →
      s.lost.getLsbD a.core.1 = false → (g.split r.sp).status ≠ .waitf → t.fetch4 a (g.split r.sp).pc = .ok u b used →
      (∀ i, isTwoWord (wordOf 32 b) = false → decode (wordOf 32 b) 0 = .ok i →
        (g.readsPoison i = false → runs { (u.useLines used).touchCore a with cur := some r } i) ∧
        (g.readsPoison i = true → spoilt ((u.useLines used).touchCore a) r g (wordOf 32 b))) ∧
      (∀ i v c more, isTwoWord (wordOf 32 b) = true → u.fetch4 a ((g.split r.sp).pc + 4) = .ok v c more →
        decode (wordOf 32 b) (wordOf 32 c) = .ok i →
        (g.readsPoison i = false → runs { (v.useLines (used ++ more)).touchCore a with cur := some r } i) ∧
        (g.readsPoison i = true → spoilt ((v.useLines (used ++ more)).touchCore a) r g (wordOf 32 b)))) ∧
    (∀ (r : SplitRef) (a : AccEnv) (i : Instr), o = .lane r → t.laneNext r = some i → t.accEnv r.g r.sp = some a →
      s.lost.getLsbD a.core.1 = false → t.laneWaits r i = false → runs { t.touchCore a with cur := some r } i) ∧
    (∀ (x : Sel) (i : Instr), o = .event x i → s.power.on = true → runs { t with sel := x, cur := none } i)

/-- R16, R59, R77, R80, R199, R271: what the machine holds after reset, where the manual gives it: time 0 in FREE with no bound; every queue
disabled and bound to no function; every partition entry of state and generation 0 with the defaults of its table, and the budgets of
R80; every byte of memory zero; no context, no operation, no berth, no trained link; risk level 0.
That after reset no context, operation, berth or trained link exists and no die is lost is the model's reading (log entry 5). -/
def Obligations.ResetLeavesTheStatedValues : Prop :=
  let s := State.reset
  s.clock.dtime = 0 ∧ s.clock.tstate = .free ∧ s.clock.u = none ∧ s.lost = 0 ∧
  (∀ q, q < 256 → (s.queue q).state = 0 ∧ (s.queue q).enable = false ∧ (s.queue q).pause = false ∧ (s.queue q).func = 0xFFFF ∧
    (s.queue q).wridx = 0 ∧ (s.queue q).rdidx = 0 ∧ (s.queue q).errIdx = 0 ∧ (s.queue q).errCode = 0) ∧
  (∀ e, e < 40 → (s.partEnt e).state = 0 ∧ (s.partEnt e).gen = 0 ∧ (s.partEnt e).hbmb = 0xFFFFFFFF ∧ (s.partEnt e).flits = 0xFFFFFFFF ∧
    (s.partEnt e).etime = 0xFFFFFFFF ∧ (s.partEnt e).poolres = 512 ∧ (s.partEnt e).slice = 1000 ∧ (s.partEnt e).lease = 8) ∧
  s.host.budgets = [⟨2048, 0xFFFFFFFF, 50000⟩, ⟨1024, 16384, 50000⟩, ⟨64, 0, 10000⟩, ⟨256, 4096, 20000⟩, ⟨4096, 16384, 100000⟩, ⟨8, 64, 2000⟩] ∧
  (∀ pa, byteAt s pa = 0) ∧ s.exec.ctxs = [] ∧ s.exec.teams = [] ∧ s.exec.groups = [] ∧ s.ops.mops = [] ∧ s.berths.slots = [] ∧
  (∀ w, w < 128 → (s.link (BitVec.ofNat 7 w)).up = false) ∧ s.mgmt.risk = 0

/-- R180, R189, R199, R209: memory reads back what was written, through the MSC or at the memory; every other byte reads as before, in
a frame that was dead as zero; host memory likewise; a write back, and a new tag, change no byte; a frame that is made dead reads
as zero and every other frame as before. -/
def Obligations.MemoryReadsBackWhatWasWritten : Prop :=
  ∀ (s : State), MemoryWf s →
    let m := s.store
    (∀ (cached : Bool) (pa : Nat) (d : List Byte) (a : Nat),
      (m.putBytes cached pa d).byte a = if pa ≤ a ∧ a < pa + d.length then d.getD (a - pa) 0 else m.byte a) ∧
    (∀ (pa : Nat) (d : List Byte) (a : Nat),
      sget 0 (m.hostPut pa d).host a = if pa ≤ a ∧ a < pa + d.length then d.getD (a - pa) 0 else sget 0 m.host a) ∧
    (∀ line a, (m.writeBack line).byte a = m.byte a) ∧
    (∀ f key a, (m.tag f key).byte a = m.byte a) ∧
    (∀ key f a, (m.kill key f).byte a = if a / 65536 = f then 0 else m.byte a)

/-- R180, R189, R198: the tables of memory have their canonical form at reset. -/
def Obligations.ResetMemoryIsCanonical : Prop := MemoryWf State.reset

/-- R180, R189, R198: every step that answers a next state, from any state whose tables of memory have their canonical form, answers
one in which they have it. -/
def Obligations.EveryStepKeepsMemoryCanonical : Prop := Kept MemoryWf

/-! ### Encodings -/

/-- R310 to R316, R330: the decoder reads from the words of every well-formed instruction that instruction; one word does not depend on the word
after it. -/
def Obligations.DecodingTheEncodingGivesTheInstruction : Prop :=
  ∀ (i : Instr), i.wf = true →
    (∀ w, encode i = some (.one w) → ∀ x, decode w x = .ok i) ∧
    (∀ w x, encode i = some (.two w x) → decode w x = .ok i) ∧
    (∀ w, encode i = some (.lane w) → decodeLane w = .ok i)

/-- R312, R315, R316: whatever words the decoder reads an instruction from, they are the words of that instruction, and it is well-formed: no
two encodings mean the same and no reserved bit is ignored. -/
def Obligations.EncodingTheDecodedGivesTheWords : Prop :=
  (∀ (w x : W32) (i : Instr), decode w x = .ok i → i.wf = true ∧ (encode i = some (.one w) ∨ encode i = some (.two w x))) ∧
  (∀ (w : W96) (i : Instr), decodeLane w = .ok i → i.wf = true ∧ encode i = some (.lane w))

/-- R310, R313 to R316, R330, R340 to R350: words written out from the encodings. A reserved SOP, an FN that R340 does not name, a reserved
field that is not zero and a lane opcode without a row are refused. -/
def Obligations.SampleWordsDecode : Prop :=
  decode 0x04108301#32 0 = .ok (.sub 1 2 3) ∧
  decode 0x0BF03FFF#32 0 = .ok (.addi 63 0 0x3FFF) ∧
  decode 0x2C500001#32 0x80000000#32 = .ok (.liwZx 5 0x80000000) ∧
  decode 0x400067FF#32 0 = .ok (.brc 0 1 4 0x7FF) ∧
  decode 0x60A00052#32 0 = .ok (.tbarSync 10 5) ∧
  decodeLane 0x400A141E1F420B83B3451234#96 =
    .ok (.fadd ⟨10, 20, 30, 31, 1, 0, 0, true, false, false, false, false, false, 5, true, 8, 1, 6, true, 9, 0x145, 0x1234⟩) ∧
  decode 0x04108309#32 0 = .error (.illegalScalar 0x04108309) ∧
  decode 0x00000100#32 0 = .error (.illegalScalar 0x00000100) ∧
  decodeLane 0x0D0000000000000000000000#96 = .error (.illegalLop 0x0D)
end

