-- ==== Sys2Proof/Laws/Memory.lean ====
section
/-!
SUPPORT. The tables of memory: what a read answers after a write, and that every operation keeps the canonical form.
-/

namespace Sys2Proof.Laws

open Sys2Proof.Machine Sys2Proof.Safety

/-! ### Sparse tables -/

section Sparse

variable {α : Type} [DecidableEq α] {d : α}

theorem swfFrom_of_le {lo lo' : Nat} {m : Sparse α} (h : lo ≤ lo') (hm : swfFrom d lo' m = true) : swfFrom d lo m = true := by
  cases m with
  | nil => rfl
  | cons p r => simp only [swfFrom, Bool.and_eq_true, decide_eq_true_eq] at hm ⊢; exact ⟨⟨by omega, hm.1.2⟩, hm.2⟩

theorem swfFrom_sset {lo a : Nat} {m : Sparse α} (v : α) (ha : lo ≤ a) (hm : swfFrom d lo m = true) : swfFrom d lo (sset d m a v) = true := by
  induction m generalizing lo with
  | nil => unfold sset; split <;> simp_all [swfFrom]
  | cons p r ih =>
    simp only [swfFrom, Bool.and_eq_true, decide_eq_true_eq] at hm
    unfold sset
    split
    · split <;> simp only [swfFrom, Bool.and_eq_true, decide_eq_true_eq]
      · exact hm
      · exact ⟨⟨ha, by assumption⟩, ⟨by omega, hm.1.2⟩, hm.2⟩
    · split
      · split
        · exact swfFrom_of_le (by omega) hm.2
        · simp only [swfFrom, Bool.and_eq_true, decide_eq_true_eq]; exact ⟨⟨ha, by assumption⟩, by simp_all⟩
      · simp only [swfFrom, Bool.and_eq_true, decide_eq_true_eq]; exact ⟨hm.1, ih (by omega) hm.2⟩

/-- A table stays canonical under a write. -/
theorem swf_sset {a : Nat} {m : Sparse α} (v : α) (hm : swf d m = true) : swf d (sset d m a v) = true := swfFrom_sset v (Nat.zero_le a) hm

theorem swfFrom_filter {lo : Nat} {m : Sparse α} (p : Nat × α → Bool) (hm : swfFrom d lo m = true) : swfFrom d lo (m.filter p) = true := by
  induction m generalizing lo with
  | nil => rfl
  | cons q r ih =>
    simp only [swfFrom, Bool.and_eq_true, decide_eq_true_eq] at hm
    rw [List.filter_cons]
    split
    · simp only [swfFrom, Bool.and_eq_true, decide_eq_true_eq]; exact ⟨hm.1, ih hm.2⟩
    · exact swfFrom_of_le (by omega) (ih hm.2)

/-- A table stays canonical when entries go. -/
theorem swf_filter {m : Sparse α} (p : Nat × α → Bool) (hm : swf d m = true) : swf d (m.filter p) = true := swfFrom_filter p hm
theorem swf_sclear {m : Sparse α} (lo n : Nat) (hm : swf d m = true) : swf d (sclear m lo n) = true := swf_filter _ hm

theorem sget_of_lt {lo a : Nat} {m : Sparse α} (hm : swfFrom d lo m = true) (ha : a < lo) : sget d m a = d := by
  induction m generalizing lo with
  | nil => rfl
  | cons q r ih =>
    simp only [swfFrom, Bool.and_eq_true, decide_eq_true_eq] at hm
    unfold sget
    rw [if_neg (by omega)]
    exact ih hm.2 (by omega)

theorem sget_sset_from {lo a b : Nat} {m : Sparse α} (v : α) (hm : swfFrom d lo m = true) :
    sget d (sset d m a v) b = if b = a then v else sget d m b := by
  induction m generalizing lo with
  | nil => unfold sset; split <;> simp_all [sget]
  | cons p r ih =>
    have hm' := hm
    simp only [swfFrom, Bool.and_eq_true, decide_eq_true_eq] at hm
    unfold sset
    split
    · next h =>
      split
      · next hv =>
        split
        · next hb => subst hb; rw [hv]; exact sget_of_lt (lo := p.1) (by simp only [swfFrom, Bool.and_eq_true, decide_eq_true_eq]; exact ⟨⟨Nat.le_refl _, hm.1.2⟩, hm.2⟩) h
        · rfl
      · simp [sget]
    · split
      · next h1 h2 =>
        subst h2
        split
        · next hv =>
          by_cases hb : b = p.1
          · subst hb; rw [if_pos rfl, hv]; exact sget_of_lt hm.2 (by omega)
          · rw [if_neg hb]; simp [sget, hb]
        · by_cases hb : b = p.1 <;> simp [sget, hb]
      · next h1 h2 =>
        simp only [sget, ih hm.2]
        by_cases hb : b = p.1
        · subst hb; rw [if_pos rfl, if_neg (by omega), if_pos rfl]
        · rw [if_neg hb, if_neg hb]

/-- A read after a write to a canonical table. -/
theorem sget_sset {a b : Nat} {m : Sparse α} (v : α) (hm : swf d m = true) : sget d (sset d m a v) b = if b = a then v else sget d m b :=
  sget_sset_from v hm

end Sparse

/-! ### Stores -/

theorem storeWf_revive {m : Store} (h : StoreWf m) (pa : Nat) : StoreWf (m.revive pa) := by
  unfold Store.revive
  split
  · exact h
  · exact ⟨swf_sclear _ _ h.dram, swf_sclear _ _ h.dirty, h.host, swf_sset _ h.frames⟩

theorem storeWf_put {m : Store} (h : StoreWf m) (cached : Bool) (pa : Nat) (b : Byte) : StoreWf (m.put cached pa b) := by
  have h' := storeWf_revive h pa
  unfold Store.put
  cases cached
  · exact ⟨swf_sset _ h'.dram, swf_sset _ h'.dirty, h'.host, h'.frames⟩
  · exact ⟨h'.dram, swf_sset _ h'.dirty, h'.host, h'.frames⟩

theorem storeWf_putBytes {m : Store} (h : StoreWf m) (cached : Bool) (pa : Nat) (l : List Byte) : StoreWf (m.putBytes cached pa l) := by
  induction l generalizing m pa with
  | nil => exact h
  | cons b r ih => exact ih (storeWf_put h cached pa b) (pa + 1)

theorem storeWf_hostPut {m : Store} (h : StoreWf m) (a : Nat) (l : List Byte) : StoreWf (m.hostPut a l) := by
  induction l generalizing m a with
  | nil => exact h
  | cons b r ih => exact ih (m := { m with host := sset 0 m.host a b }) ⟨h.dram, h.dirty, swf_sset _ h.host, h.frames⟩ (a + 1)

theorem storeWf_kill {m : Store} (h : StoreWf m) (key : Option (BitVec 10)) (f : Nat) : StoreWf (m.kill key f) :=
  ⟨swf_sclear _ _ h.dram, swf_sclear _ _ h.dirty, h.host, swf_sset _ h.frames⟩

theorem storeWf_tag {m : Store} (h : StoreWf m) (f : Nat) (key : BitVec 10) : StoreWf (m.tag f key) :=
  ⟨h.dram, h.dirty, h.host, swf_sset _ h.frames⟩

theorem storeWf_takeFrame {m : Store} (h : StoreWf m) (f : Nat) (key : BitVec 10) : StoreWf (m.takeFrame f key) :=
  storeWf_tag (m := { m with usedFr := f :: m.usedFr, freed := m.freed.filter (· != f) }) ⟨h.dram, h.dirty, h.host, h.frames⟩ f key

theorem storeWf_freeFrame {m : Store} (h : StoreWf m) (f : Nat) : StoreWf (m.freeFrame f) := ⟨h.dram, h.dirty, h.host, h.frames⟩
theorem storeWf_clearMark {m : Store} (h : StoreWf m) (l : PoisonLoc) : StoreWf (m.clearMark l) := ⟨h.dram, h.dirty, h.host, h.frames⟩
theorem storeWf_clearAcc {m : Store} (h : StoreWf m) (g n : Nat) : StoreWf (m.clearAcc g n) := ⟨h.dram, h.dirty, h.host, h.frames⟩
theorem storeWf_cacheEntries {m : Store} (h : StoreWf m) (core : Option (Nat × Nat)) (es : List TlbEntry) : StoreWf (m.cacheEntries core es) :=
  ⟨h.dram, h.dirty, h.host, h.frames⟩

theorem storeWf_cleanse {m : Store} (h : StoreWf m) (pa n : Nat) : StoreWf (m.cleanse pa n) := ⟨h.dram, h.dirty, h.host, h.frames⟩

theorem storeWf_spoil {m : Store} (h : StoreWf m) (l : PoisonLoc) : StoreWf (m.spoil l) := by
  unfold Store.spoil
  split
  · exact h
  · exact ⟨h.dram, h.dirty, h.host, h.frames⟩

/-- A fold of operations that keep the canonical form keeps it. -/
theorem storeWf_foldl {α : Type} {f : Store → α → Store} (hf : ∀ m a, StoreWf m → StoreWf (f m a)) {m : Store} (h : StoreWf m) (l : List α) :
    StoreWf (l.foldl f m) := by
  induction l generalizing m with
  | nil => exact h
  | cons a r ih => exact ih (hf m a h)

theorem storeWf_spoilRange {m : Store} (h : StoreWf m) (pa n : Nat) : StoreWf (m.spoilRange pa n) := by
  unfold Store.spoilRange
  split
  · exact h
  · exact storeWf_foldl (fun _ _ hm => storeWf_spoil hm _) h _

theorem storeWf_carryPoison {m : Store} (h : StoreWf m) (pa n dst : Nat) : StoreWf (m.carryPoison pa n dst) := by
  refine storeWf_foldl (fun m a hm => ?_) h _
  split
  · exact storeWf_spoil hm _
  · exact hm

theorem storeWf_writeBack {m : Store} (h : StoreWf m) (line : Nat) : StoreWf (m.writeBack line) := by
  unfold Store.writeBack
  generalize List.range 128 = l
  induction l generalizing m with
  | nil => exact h
  | cons i r ih =>
    refine ih ?_
    dsimp only
    split
    · exact ⟨swf_sset _ h.dram, swf_sset _ h.dirty, h.host, h.frames⟩
    · exact h

theorem storeWf_dropLine {m : Store} (h : StoreWf m) (line : Nat) : StoreWf (m.dropLine line) := by
  have h' := storeWf_writeBack h line
  unfold Store.dropLine
  generalize m.writeBack line = n at h' ⊢
  exact ⟨h'.dram, h'.dirty, h'.host, h'.frames⟩

theorem storeWf_reset : StoreWf Store.reset := ⟨rfl, rfl, rfl, rfl⟩

end Sys2Proof.Laws
end

