-- ==== Sys2Proof/Laws/Scalar.lean ====
section
/-!
SUPPORT. What the shared operations of the scalar stream do: issuing, going on, and writing SD.
-/

namespace Sys2Proof.Laws

open Sys2Proof.Machine Sys2Proof.Safety

theorem getD_of_getElem? {α : Type} {l : List α} {n : Nat} {x d : α} (h : l[n]? = some x) : l.getD n d = x := by
  simp [List.getD_eq_getElem?_getD, h]

theorem issues_lt {s r g sp} (h : Issues s r g sp) : r.sp < g.splits.length := by
  have := h.split; exact (List.getElem?_eq_some_iff.mp this).1

/-- An instruction of a split that issues runs its meaning on its group and its split. -/
theorem withIssuer_of_issues {s r g sp} (h : Issues s r g sp) (f : SplitRef → Group → Split → State) :
    withIssuer s f = .next (f r g sp) := by
  have hs : g.split r.sp = sp := getD_of_getElem? h.split
  simp [withIssuer, h.cur, State.group?, h.group, hs]

/-- The same for a scalar instruction that waits for no clause. -/
theorem scalarRun_of_runs {s r g sp rs} (h : Runs s r g sp rs) (f : SplitRef → Group → Split → State) :
    scalarRun s rs f = .next (f r g sp) := by
  simp [scalarRun, withIssuer_of_issues h.toIssues, h.free]

theorem modAt_eq_set {α : Type} {l : List α} {n : Nat} {x : α} (f : α → α) (h : l[n]? = some x) : modAt l n f = l.set n (f x) := by
  induction l generalizing n with
  | nil => simp at h
  | cons y l ih => cases n with
    | zero => simp at h; simp [modAt, h]
    | succ n => simp at h; simp [modAt, ih h]

/-- No JOIN of a group is released while a split can still reach it. -/
theorem settle_of_reaches {g : Group} {k : Nat} {q : Split} (now : Nat) (h : g.splits[k]? = some q) (hq : q.reaches = true) :
    g.settle now = g := by
  have : g.splits.any (·.reaches) = true := List.any_eq_true.mpr ⟨q, List.mem_of_getElem? h, hq⟩
  simp [Group.settle, this]

/-- A group changed by a function is a group replaced. -/
theorem modGroup_eq {s : State} {n g} (f : Group → Group) (h : s.exec.groups[n]? = some g) : s.modGroup n f = setGroup s n (f g) := by
  simp [State.modGroup, setGroup, modAt_eq_set f h]

/-- Putting a split that can still reach a JOIN releases none: nothing else changes. -/
theorem putSplit_eq {s r g sp} (q : Split) (h : Issues s r g sp) (hq : q.reaches = true) :
    s.putSplit r q = became s r g q := by
  rw [State.putSplit, modGroup_eq _ h.group, became]
  congr 1
  exact settle_of_reaches (k := r.sp) (q := q) _ (by simp [issues_lt h]) hq


theorem advance_reaches (sp : Split) (n : W64) : (sp.advance n).reaches = true := rfl

theorem issues_became {s r g sp} (h : Issues s r g sp) (q : Split) :
    Issues (became s r g q) r { g with splits := g.splits.set r.sp q } q := by
  have hl : r.g < s.exec.groups.length := (List.getElem?_eq_some_iff.mp h.group).1
  exact ⟨h.cur, by simp [became, setGroup, hl], by simp [issues_lt h]⟩

/-- An instruction without a result leaves its split at the next address, and nothing else changed. -/
theorem finish0_eq {s r g sp} (n : W64) (q : Split) (h : Issues s r g sp) : s.finish0 r q n = moved s r g q (q.pc + n) := by
  rw [State.finish0, putSplit_eq _ h (advance_reaches _ _)]; rfl

/-- A jump leaves its split at its target, and nothing else changed. -/
theorem goTo_eq {s r g sp} (pc : W64) (q : Split) (h : Issues s r g sp) : s.goTo r q pc = moved s r g q pc := by
  rw [State.goTo, putSplit_eq _ h rfl]; rfl

theorem setSreg_eq (g : Group) (d : SReg) (v : W64) : g.setSreg d v = { g with sregs := sregsWith g.sregs d v, spois := spoisWith g.spois d } := by
  unfold Group.setSreg sregsWith spoisWith; split <;> rfl

/-- After a change of the issuing group that keeps its splits, the split issues still. -/
theorem issues_modGroup {s r g sp} (h : Issues s r g sp) (f : Group → Group) (hf : (f g).splits = g.splits) :
    Issues (s.modGroup r.g f) r (f g) sp := by
  have hl : r.g < s.exec.groups.length := (List.getElem?_eq_some_iff.mp h.group).1
  rw [modGroup_eq f h.group]
  exact ⟨h.cur, by simp [setGroup, hl], by rw [hf]; exact h.split⟩

theorem setGroup_setGroup (s : State) (n : Nat) (g g' : Group) : setGroup (setGroup s n g) n g' = setGroup s n g' := by
  simp [setGroup]

/-- An instruction with a result leaves its split at the next address and SD written, and nothing else changed. -/
theorem finish_eq {s r g sp} (n : W64) (d : SReg) (v : W64) (q : Split) (h : Issues s r g sp) :
    s.finish r q n d v = wrote s r g q (q.pc + n) d v := by
  have h' := issues_modGroup h (fun g => g.setSreg d v) (by simp only [setSreg_eq])
  rw [State.finish, putSplit_eq _ h' (advance_reaches _ _), became, modGroup_eq _ h.group, setGroup_setGroup]
  simp [wrote, setSreg_eq, goesOn, Split.advance]

/-- The instructions of the ALU, immediate and LIW families. -/
theorem scalarOp_of_runs {s r g sp rs} (n : W64) (d : SReg) (val : Group → W64) (h : Runs s r g sp rs) :
    scalarOp s rs n d val = .next (wrote s r g sp (sp.pc + n) d (val g)) := by
  simp [scalarOp, withIssuer_of_issues h.toIssues, h.free, finish_eq _ _ _ _ h.toIssues]

end Sys2Proof.Laws
end

