-- ==== Sys2Proof/Laws/State.lean ====
section
/-!
SUPPORT. What each plain update of the state leaves alone, one lemma per update and field, and what the changed part holds.
-/

namespace Sys2Proof.Laws

open Sys2Proof.Machine Sys2Proof.Safety

/-! ### Lists -/

/-- An entry of a list after a change of one entry. -/
theorem getElem?_modAt {α : Type} (l : List α) (n k : Nat) (f : α → α) : (modAt l n f)[k]? = if k = n then l[k]?.map f else l[k]? := by
  induction l generalizing n k with
  | nil => simp [modAt]
  | cons x r ih => cases n <;> cases k <;> simp [modAt, ih]

@[simp] theorem length_modAt {α : Type} (l : List α) (n : Nat) (f : α → α) : (modAt l n f).length = l.length := by
  induction l generalizing n with
  | nil => rfl
  | cons x r ih => cases n <;> simp [modAt, ih]

/-! ### Updates -/

@[simp] theorem modOp_part (s : State) (id : Nat) (f : MOp → MOp) : (s.modOp id f).part = s.part := rfl
@[simp] theorem modOp_sites (s : State) (id : Nat) (f : MOp → MOp) : (s.modOp id f).sites = s.sites := rfl
@[simp] theorem modOp_lost (s : State) (id : Nat) (f : MOp → MOp) : (s.modOp id f).lost = s.lost := rfl
@[simp] theorem modOp_clock (s : State) (id : Nat) (f : MOp → MOp) : (s.modOp id f).clock = s.clock := rfl
@[simp] theorem modOp_power (s : State) (id : Nat) (f : MOp → MOp) : (s.modOp id f).power = s.power := rfl
@[simp] theorem modOp_fabric (s : State) (id : Nat) (f : MOp → MOp) : (s.modOp id f).fabric = s.fabric := rfl
@[simp] theorem modOp_host (s : State) (id : Nat) (f : MOp → MOp) : (s.modOp id f).host = s.host := rfl
@[simp] theorem modOp_memctl (s : State) (id : Nat) (f : MOp → MOp) : (s.modOp id f).memctl = s.memctl := rfl
@[simp] theorem modOp_store (s : State) (id : Nat) (f : MOp → MOp) : (s.modOp id f).store = s.store := rfl
@[simp] theorem modOp_caches (s : State) (id : Nat) (f : MOp → MOp) : (s.modOp id f).caches = s.caches := rfl
@[simp] theorem modOp_exec (s : State) (id : Nat) (f : MOp → MOp) : (s.modOp id f).exec = s.exec := rfl
@[simp] theorem modOp_berths (s : State) (id : Nat) (f : MOp → MOp) : (s.modOp id f).berths = s.berths := rfl
@[simp] theorem modOp_ropes (s : State) (id : Nat) (f : MOp → MOp) : (s.modOp id f).ropes = s.ropes := rfl
@[simp] theorem modOp_mgmt (s : State) (id : Nat) (f : MOp → MOp) : (s.modOp id f).mgmt = s.mgmt := rfl
@[simp] theorem modOp_cur (s : State) (id : Nat) (f : MOp → MOp) : (s.modOp id f).cur = s.cur := rfl
@[simp] theorem modOp_sel (s : State) (id : Nat) (f : MOp → MOp) : (s.modOp id f).sel = s.sel := rfl
@[simp] theorem modOp_agenda (s : State) (id : Nat) (f : MOp → MOp) : (s.modOp id f).agenda = s.agenda := rfl
@[simp] theorem modOp_fresh (s : State) (id : Nat) (f : MOp → MOp) : (s.modOp id f).fresh = s.fresh := rfl
@[simp] theorem modOp_out (s : State) (id : Nat) (f : MOp → MOp) : (s.modOp id f).out = s.out := rfl

@[simp] theorem modPiece_part (s : State) (id i : Nat) (f : Piece → Piece) : (s.modPiece id i f).part = s.part := rfl
@[simp] theorem modPiece_sites (s : State) (id i : Nat) (f : Piece → Piece) : (s.modPiece id i f).sites = s.sites := rfl
@[simp] theorem modPiece_lost (s : State) (id i : Nat) (f : Piece → Piece) : (s.modPiece id i f).lost = s.lost := rfl
@[simp] theorem modPiece_clock (s : State) (id i : Nat) (f : Piece → Piece) : (s.modPiece id i f).clock = s.clock := rfl
@[simp] theorem modPiece_power (s : State) (id i : Nat) (f : Piece → Piece) : (s.modPiece id i f).power = s.power := rfl
@[simp] theorem modPiece_fabric (s : State) (id i : Nat) (f : Piece → Piece) : (s.modPiece id i f).fabric = s.fabric := rfl
@[simp] theorem modPiece_host (s : State) (id i : Nat) (f : Piece → Piece) : (s.modPiece id i f).host = s.host := rfl
@[simp] theorem modPiece_memctl (s : State) (id i : Nat) (f : Piece → Piece) : (s.modPiece id i f).memctl = s.memctl := rfl
@[simp] theorem modPiece_store (s : State) (id i : Nat) (f : Piece → Piece) : (s.modPiece id i f).store = s.store := rfl
@[simp] theorem modPiece_caches (s : State) (id i : Nat) (f : Piece → Piece) : (s.modPiece id i f).caches = s.caches := rfl
@[simp] theorem modPiece_exec (s : State) (id i : Nat) (f : Piece → Piece) : (s.modPiece id i f).exec = s.exec := rfl
@[simp] theorem modPiece_berths (s : State) (id i : Nat) (f : Piece → Piece) : (s.modPiece id i f).berths = s.berths := rfl
@[simp] theorem modPiece_ropes (s : State) (id i : Nat) (f : Piece → Piece) : (s.modPiece id i f).ropes = s.ropes := rfl
@[simp] theorem modPiece_mgmt (s : State) (id i : Nat) (f : Piece → Piece) : (s.modPiece id i f).mgmt = s.mgmt := rfl
@[simp] theorem modPiece_cur (s : State) (id i : Nat) (f : Piece → Piece) : (s.modPiece id i f).cur = s.cur := rfl
@[simp] theorem modPiece_sel (s : State) (id i : Nat) (f : Piece → Piece) : (s.modPiece id i f).sel = s.sel := rfl
@[simp] theorem modPiece_agenda (s : State) (id i : Nat) (f : Piece → Piece) : (s.modPiece id i f).agenda = s.agenda := rfl
@[simp] theorem modPiece_fresh (s : State) (id i : Nat) (f : Piece → Piece) : (s.modPiece id i f).fresh = s.fresh := rfl
@[simp] theorem modPiece_out (s : State) (id i : Nat) (f : Piece → Piece) : (s.modPiece id i f).out = s.out := rfl

@[simp] theorem dropOp_part (s : State) (id : Nat) : (s.dropOp id).part = s.part := rfl
@[simp] theorem dropOp_sites (s : State) (id : Nat) : (s.dropOp id).sites = s.sites := rfl
@[simp] theorem dropOp_lost (s : State) (id : Nat) : (s.dropOp id).lost = s.lost := rfl
@[simp] theorem dropOp_clock (s : State) (id : Nat) : (s.dropOp id).clock = s.clock := rfl
@[simp] theorem dropOp_power (s : State) (id : Nat) : (s.dropOp id).power = s.power := rfl
@[simp] theorem dropOp_fabric (s : State) (id : Nat) : (s.dropOp id).fabric = s.fabric := rfl
@[simp] theorem dropOp_host (s : State) (id : Nat) : (s.dropOp id).host = s.host := rfl
@[simp] theorem dropOp_memctl (s : State) (id : Nat) : (s.dropOp id).memctl = s.memctl := rfl
@[simp] theorem dropOp_store (s : State) (id : Nat) : (s.dropOp id).store = s.store := rfl
@[simp] theorem dropOp_caches (s : State) (id : Nat) : (s.dropOp id).caches = s.caches := rfl
@[simp] theorem dropOp_exec (s : State) (id : Nat) : (s.dropOp id).exec = s.exec := rfl
@[simp] theorem dropOp_berths (s : State) (id : Nat) : (s.dropOp id).berths = s.berths := rfl
@[simp] theorem dropOp_ropes (s : State) (id : Nat) : (s.dropOp id).ropes = s.ropes := rfl
@[simp] theorem dropOp_mgmt (s : State) (id : Nat) : (s.dropOp id).mgmt = s.mgmt := rfl
@[simp] theorem dropOp_cur (s : State) (id : Nat) : (s.dropOp id).cur = s.cur := rfl
@[simp] theorem dropOp_sel (s : State) (id : Nat) : (s.dropOp id).sel = s.sel := rfl
@[simp] theorem dropOp_agenda (s : State) (id : Nat) : (s.dropOp id).agenda = s.agenda := rfl
@[simp] theorem dropOp_fresh (s : State) (id : Nat) : (s.dropOp id).fresh = s.fresh := rfl
@[simp] theorem dropOp_out (s : State) (id : Nat) : (s.dropOp id).out = s.out := rfl

@[simp] theorem modTile_part (s : State) (t h : Nat) (f : Tile → Tile) : (s.modTile t h f).part = s.part := rfl
@[simp] theorem modTile_sites (s : State) (t h : Nat) (f : Tile → Tile) : (s.modTile t h f).sites = s.sites := rfl
@[simp] theorem modTile_lost (s : State) (t h : Nat) (f : Tile → Tile) : (s.modTile t h f).lost = s.lost := rfl
@[simp] theorem modTile_clock (s : State) (t h : Nat) (f : Tile → Tile) : (s.modTile t h f).clock = s.clock := rfl
@[simp] theorem modTile_power (s : State) (t h : Nat) (f : Tile → Tile) : (s.modTile t h f).power = s.power := rfl
@[simp] theorem modTile_fabric (s : State) (t h : Nat) (f : Tile → Tile) : (s.modTile t h f).fabric = s.fabric := rfl
@[simp] theorem modTile_host (s : State) (t h : Nat) (f : Tile → Tile) : (s.modTile t h f).host = s.host := rfl
@[simp] theorem modTile_memctl (s : State) (t h : Nat) (f : Tile → Tile) : (s.modTile t h f).memctl = s.memctl := rfl
@[simp] theorem modTile_store (s : State) (t h : Nat) (f : Tile → Tile) : (s.modTile t h f).store = s.store := rfl
@[simp] theorem modTile_caches (s : State) (t h : Nat) (f : Tile → Tile) : (s.modTile t h f).caches = s.caches := rfl
@[simp] theorem modTile_ops (s : State) (t h : Nat) (f : Tile → Tile) : (s.modTile t h f).ops = s.ops := rfl
@[simp] theorem modTile_berths (s : State) (t h : Nat) (f : Tile → Tile) : (s.modTile t h f).berths = s.berths := rfl
@[simp] theorem modTile_ropes (s : State) (t h : Nat) (f : Tile → Tile) : (s.modTile t h f).ropes = s.ropes := rfl
@[simp] theorem modTile_mgmt (s : State) (t h : Nat) (f : Tile → Tile) : (s.modTile t h f).mgmt = s.mgmt := rfl
@[simp] theorem modTile_cur (s : State) (t h : Nat) (f : Tile → Tile) : (s.modTile t h f).cur = s.cur := rfl
@[simp] theorem modTile_sel (s : State) (t h : Nat) (f : Tile → Tile) : (s.modTile t h f).sel = s.sel := rfl
@[simp] theorem modTile_agenda (s : State) (t h : Nat) (f : Tile → Tile) : (s.modTile t h f).agenda = s.agenda := rfl
@[simp] theorem modTile_fresh (s : State) (t h : Nat) (f : Tile → Tile) : (s.modTile t h f).fresh = s.fresh := rfl
@[simp] theorem modTile_out (s : State) (t h : Nat) (f : Tile → Tile) : (s.modTile t h f).out = s.out := rfl

@[simp] theorem modBerth_part (s : State) (bd slot : Nat) (f : Berth → Berth) : (s.modBerth bd slot f).part = s.part := rfl
@[simp] theorem modBerth_sites (s : State) (bd slot : Nat) (f : Berth → Berth) : (s.modBerth bd slot f).sites = s.sites := rfl
@[simp] theorem modBerth_lost (s : State) (bd slot : Nat) (f : Berth → Berth) : (s.modBerth bd slot f).lost = s.lost := rfl
@[simp] theorem modBerth_clock (s : State) (bd slot : Nat) (f : Berth → Berth) : (s.modBerth bd slot f).clock = s.clock := rfl
@[simp] theorem modBerth_power (s : State) (bd slot : Nat) (f : Berth → Berth) : (s.modBerth bd slot f).power = s.power := rfl
@[simp] theorem modBerth_fabric (s : State) (bd slot : Nat) (f : Berth → Berth) : (s.modBerth bd slot f).fabric = s.fabric := rfl
@[simp] theorem modBerth_host (s : State) (bd slot : Nat) (f : Berth → Berth) : (s.modBerth bd slot f).host = s.host := rfl
@[simp] theorem modBerth_memctl (s : State) (bd slot : Nat) (f : Berth → Berth) : (s.modBerth bd slot f).memctl = s.memctl := rfl
@[simp] theorem modBerth_store (s : State) (bd slot : Nat) (f : Berth → Berth) : (s.modBerth bd slot f).store = s.store := rfl
@[simp] theorem modBerth_caches (s : State) (bd slot : Nat) (f : Berth → Berth) : (s.modBerth bd slot f).caches = s.caches := rfl
@[simp] theorem modBerth_exec (s : State) (bd slot : Nat) (f : Berth → Berth) : (s.modBerth bd slot f).exec = s.exec := rfl
@[simp] theorem modBerth_ops (s : State) (bd slot : Nat) (f : Berth → Berth) : (s.modBerth bd slot f).ops = s.ops := rfl
@[simp] theorem modBerth_ropes (s : State) (bd slot : Nat) (f : Berth → Berth) : (s.modBerth bd slot f).ropes = s.ropes := rfl
@[simp] theorem modBerth_mgmt (s : State) (bd slot : Nat) (f : Berth → Berth) : (s.modBerth bd slot f).mgmt = s.mgmt := rfl
@[simp] theorem modBerth_cur (s : State) (bd slot : Nat) (f : Berth → Berth) : (s.modBerth bd slot f).cur = s.cur := rfl
@[simp] theorem modBerth_sel (s : State) (bd slot : Nat) (f : Berth → Berth) : (s.modBerth bd slot f).sel = s.sel := rfl
@[simp] theorem modBerth_agenda (s : State) (bd slot : Nat) (f : Berth → Berth) : (s.modBerth bd slot f).agenda = s.agenda := rfl
@[simp] theorem modBerth_fresh (s : State) (bd slot : Nat) (f : Berth → Berth) : (s.modBerth bd slot f).fresh = s.fresh := rfl
@[simp] theorem modBerth_out (s : State) (bd slot : Nat) (f : Berth → Berth) : (s.modBerth bd slot f).out = s.out := rfl

@[simp] theorem modForward_part (s : State) (n : W64) (f : Forward → Forward) : (s.modForward n f).part = s.part := rfl
@[simp] theorem modForward_sites (s : State) (n : W64) (f : Forward → Forward) : (s.modForward n f).sites = s.sites := rfl
@[simp] theorem modForward_lost (s : State) (n : W64) (f : Forward → Forward) : (s.modForward n f).lost = s.lost := rfl
@[simp] theorem modForward_clock (s : State) (n : W64) (f : Forward → Forward) : (s.modForward n f).clock = s.clock := rfl
@[simp] theorem modForward_power (s : State) (n : W64) (f : Forward → Forward) : (s.modForward n f).power = s.power := rfl
@[simp] theorem modForward_fabric (s : State) (n : W64) (f : Forward → Forward) : (s.modForward n f).fabric = s.fabric := rfl
@[simp] theorem modForward_host (s : State) (n : W64) (f : Forward → Forward) : (s.modForward n f).host = s.host := rfl
@[simp] theorem modForward_memctl (s : State) (n : W64) (f : Forward → Forward) : (s.modForward n f).memctl = s.memctl := rfl
@[simp] theorem modForward_store (s : State) (n : W64) (f : Forward → Forward) : (s.modForward n f).store = s.store := rfl
@[simp] theorem modForward_caches (s : State) (n : W64) (f : Forward → Forward) : (s.modForward n f).caches = s.caches := rfl
@[simp] theorem modForward_exec (s : State) (n : W64) (f : Forward → Forward) : (s.modForward n f).exec = s.exec := rfl
@[simp] theorem modForward_ops (s : State) (n : W64) (f : Forward → Forward) : (s.modForward n f).ops = s.ops := rfl
@[simp] theorem modForward_ropes (s : State) (n : W64) (f : Forward → Forward) : (s.modForward n f).ropes = s.ropes := rfl
@[simp] theorem modForward_mgmt (s : State) (n : W64) (f : Forward → Forward) : (s.modForward n f).mgmt = s.mgmt := rfl
@[simp] theorem modForward_cur (s : State) (n : W64) (f : Forward → Forward) : (s.modForward n f).cur = s.cur := rfl
@[simp] theorem modForward_sel (s : State) (n : W64) (f : Forward → Forward) : (s.modForward n f).sel = s.sel := rfl
@[simp] theorem modForward_agenda (s : State) (n : W64) (f : Forward → Forward) : (s.modForward n f).agenda = s.agenda := rfl
@[simp] theorem modForward_fresh (s : State) (n : W64) (f : Forward → Forward) : (s.modForward n f).fresh = s.fresh := rfl
@[simp] theorem modForward_out (s : State) (n : W64) (f : Forward → Forward) : (s.modForward n f).out = s.out := rfl

@[simp] theorem modCopy_part (s : State) (id : Nat) (f : Copy → Copy) : (s.modCopy id f).part = s.part := rfl
@[simp] theorem modCopy_sites (s : State) (id : Nat) (f : Copy → Copy) : (s.modCopy id f).sites = s.sites := rfl
@[simp] theorem modCopy_lost (s : State) (id : Nat) (f : Copy → Copy) : (s.modCopy id f).lost = s.lost := rfl
@[simp] theorem modCopy_clock (s : State) (id : Nat) (f : Copy → Copy) : (s.modCopy id f).clock = s.clock := rfl
@[simp] theorem modCopy_power (s : State) (id : Nat) (f : Copy → Copy) : (s.modCopy id f).power = s.power := rfl
@[simp] theorem modCopy_fabric (s : State) (id : Nat) (f : Copy → Copy) : (s.modCopy id f).fabric = s.fabric := rfl
@[simp] theorem modCopy_host (s : State) (id : Nat) (f : Copy → Copy) : (s.modCopy id f).host = s.host := rfl
@[simp] theorem modCopy_memctl (s : State) (id : Nat) (f : Copy → Copy) : (s.modCopy id f).memctl = s.memctl := rfl
@[simp] theorem modCopy_store (s : State) (id : Nat) (f : Copy → Copy) : (s.modCopy id f).store = s.store := rfl
@[simp] theorem modCopy_caches (s : State) (id : Nat) (f : Copy → Copy) : (s.modCopy id f).caches = s.caches := rfl
@[simp] theorem modCopy_exec (s : State) (id : Nat) (f : Copy → Copy) : (s.modCopy id f).exec = s.exec := rfl
@[simp] theorem modCopy_berths (s : State) (id : Nat) (f : Copy → Copy) : (s.modCopy id f).berths = s.berths := rfl
@[simp] theorem modCopy_ropes (s : State) (id : Nat) (f : Copy → Copy) : (s.modCopy id f).ropes = s.ropes := rfl
@[simp] theorem modCopy_mgmt (s : State) (id : Nat) (f : Copy → Copy) : (s.modCopy id f).mgmt = s.mgmt := rfl
@[simp] theorem modCopy_cur (s : State) (id : Nat) (f : Copy → Copy) : (s.modCopy id f).cur = s.cur := rfl
@[simp] theorem modCopy_sel (s : State) (id : Nat) (f : Copy → Copy) : (s.modCopy id f).sel = s.sel := rfl
@[simp] theorem modCopy_agenda (s : State) (id : Nat) (f : Copy → Copy) : (s.modCopy id f).agenda = s.agenda := rfl
@[simp] theorem modCopy_fresh (s : State) (id : Nat) (f : Copy → Copy) : (s.modCopy id f).fresh = s.fresh := rfl
@[simp] theorem modCopy_out (s : State) (id : Nat) (f : Copy → Copy) : (s.modCopy id f).out = s.out := rfl

@[simp] theorem dropCopy_part (s : State) (id : Nat) : (s.dropCopy id).part = s.part := rfl
@[simp] theorem dropCopy_sites (s : State) (id : Nat) : (s.dropCopy id).sites = s.sites := rfl
@[simp] theorem dropCopy_lost (s : State) (id : Nat) : (s.dropCopy id).lost = s.lost := rfl
@[simp] theorem dropCopy_clock (s : State) (id : Nat) : (s.dropCopy id).clock = s.clock := rfl
@[simp] theorem dropCopy_power (s : State) (id : Nat) : (s.dropCopy id).power = s.power := rfl
@[simp] theorem dropCopy_fabric (s : State) (id : Nat) : (s.dropCopy id).fabric = s.fabric := rfl
@[simp] theorem dropCopy_host (s : State) (id : Nat) : (s.dropCopy id).host = s.host := rfl
@[simp] theorem dropCopy_memctl (s : State) (id : Nat) : (s.dropCopy id).memctl = s.memctl := rfl
@[simp] theorem dropCopy_store (s : State) (id : Nat) : (s.dropCopy id).store = s.store := rfl
@[simp] theorem dropCopy_caches (s : State) (id : Nat) : (s.dropCopy id).caches = s.caches := rfl
@[simp] theorem dropCopy_exec (s : State) (id : Nat) : (s.dropCopy id).exec = s.exec := rfl
@[simp] theorem dropCopy_berths (s : State) (id : Nat) : (s.dropCopy id).berths = s.berths := rfl
@[simp] theorem dropCopy_ropes (s : State) (id : Nat) : (s.dropCopy id).ropes = s.ropes := rfl
@[simp] theorem dropCopy_mgmt (s : State) (id : Nat) : (s.dropCopy id).mgmt = s.mgmt := rfl
@[simp] theorem dropCopy_cur (s : State) (id : Nat) : (s.dropCopy id).cur = s.cur := rfl
@[simp] theorem dropCopy_sel (s : State) (id : Nat) : (s.dropCopy id).sel = s.sel := rfl
@[simp] theorem dropCopy_agenda (s : State) (id : Nat) : (s.dropCopy id).agenda = s.agenda := rfl
@[simp] theorem dropCopy_fresh (s : State) (id : Nat) : (s.dropCopy id).fresh = s.fresh := rfl
@[simp] theorem dropCopy_out (s : State) (id : Nat) : (s.dropCopy id).out = s.out := rfl

@[simp] theorem modLink_part (s : State) (w : BitVec 7) (f : Link → Link) : (s.modLink w f).part = s.part := rfl
@[simp] theorem modLink_sites (s : State) (w : BitVec 7) (f : Link → Link) : (s.modLink w f).sites = s.sites := rfl
@[simp] theorem modLink_lost (s : State) (w : BitVec 7) (f : Link → Link) : (s.modLink w f).lost = s.lost := rfl
@[simp] theorem modLink_clock (s : State) (w : BitVec 7) (f : Link → Link) : (s.modLink w f).clock = s.clock := rfl
@[simp] theorem modLink_power (s : State) (w : BitVec 7) (f : Link → Link) : (s.modLink w f).power = s.power := rfl
@[simp] theorem modLink_host (s : State) (w : BitVec 7) (f : Link → Link) : (s.modLink w f).host = s.host := rfl
@[simp] theorem modLink_memctl (s : State) (w : BitVec 7) (f : Link → Link) : (s.modLink w f).memctl = s.memctl := rfl
@[simp] theorem modLink_store (s : State) (w : BitVec 7) (f : Link → Link) : (s.modLink w f).store = s.store := rfl
@[simp] theorem modLink_caches (s : State) (w : BitVec 7) (f : Link → Link) : (s.modLink w f).caches = s.caches := rfl
@[simp] theorem modLink_exec (s : State) (w : BitVec 7) (f : Link → Link) : (s.modLink w f).exec = s.exec := rfl
@[simp] theorem modLink_ops (s : State) (w : BitVec 7) (f : Link → Link) : (s.modLink w f).ops = s.ops := rfl
@[simp] theorem modLink_berths (s : State) (w : BitVec 7) (f : Link → Link) : (s.modLink w f).berths = s.berths := rfl
@[simp] theorem modLink_ropes (s : State) (w : BitVec 7) (f : Link → Link) : (s.modLink w f).ropes = s.ropes := rfl
@[simp] theorem modLink_mgmt (s : State) (w : BitVec 7) (f : Link → Link) : (s.modLink w f).mgmt = s.mgmt := rfl
@[simp] theorem modLink_cur (s : State) (w : BitVec 7) (f : Link → Link) : (s.modLink w f).cur = s.cur := rfl
@[simp] theorem modLink_sel (s : State) (w : BitVec 7) (f : Link → Link) : (s.modLink w f).sel = s.sel := rfl
@[simp] theorem modLink_agenda (s : State) (w : BitVec 7) (f : Link → Link) : (s.modLink w f).agenda = s.agenda := rfl
@[simp] theorem modLink_fresh (s : State) (w : BitVec 7) (f : Link → Link) : (s.modLink w f).fresh = s.fresh := rfl
@[simp] theorem modLink_out (s : State) (w : BitVec 7) (f : Link → Link) : (s.modLink w f).out = s.out := rfl

@[simp] theorem modSpent_part (s : State) (e : Nat) (f : Spent → Spent) : (s.modSpent e f).part = s.part := rfl
@[simp] theorem modSpent_sites (s : State) (e : Nat) (f : Spent → Spent) : (s.modSpent e f).sites = s.sites := rfl
@[simp] theorem modSpent_lost (s : State) (e : Nat) (f : Spent → Spent) : (s.modSpent e f).lost = s.lost := rfl
@[simp] theorem modSpent_clock (s : State) (e : Nat) (f : Spent → Spent) : (s.modSpent e f).clock = s.clock := rfl
@[simp] theorem modSpent_power (s : State) (e : Nat) (f : Spent → Spent) : (s.modSpent e f).power = s.power := rfl
@[simp] theorem modSpent_fabric (s : State) (e : Nat) (f : Spent → Spent) : (s.modSpent e f).fabric = s.fabric := rfl
@[simp] theorem modSpent_memctl (s : State) (e : Nat) (f : Spent → Spent) : (s.modSpent e f).memctl = s.memctl := rfl
@[simp] theorem modSpent_store (s : State) (e : Nat) (f : Spent → Spent) : (s.modSpent e f).store = s.store := rfl
@[simp] theorem modSpent_caches (s : State) (e : Nat) (f : Spent → Spent) : (s.modSpent e f).caches = s.caches := rfl
@[simp] theorem modSpent_exec (s : State) (e : Nat) (f : Spent → Spent) : (s.modSpent e f).exec = s.exec := rfl
@[simp] theorem modSpent_ops (s : State) (e : Nat) (f : Spent → Spent) : (s.modSpent e f).ops = s.ops := rfl
@[simp] theorem modSpent_berths (s : State) (e : Nat) (f : Spent → Spent) : (s.modSpent e f).berths = s.berths := rfl
@[simp] theorem modSpent_ropes (s : State) (e : Nat) (f : Spent → Spent) : (s.modSpent e f).ropes = s.ropes := rfl
@[simp] theorem modSpent_mgmt (s : State) (e : Nat) (f : Spent → Spent) : (s.modSpent e f).mgmt = s.mgmt := rfl
@[simp] theorem modSpent_cur (s : State) (e : Nat) (f : Spent → Spent) : (s.modSpent e f).cur = s.cur := rfl
@[simp] theorem modSpent_sel (s : State) (e : Nat) (f : Spent → Spent) : (s.modSpent e f).sel = s.sel := rfl
@[simp] theorem modSpent_agenda (s : State) (e : Nat) (f : Spent → Spent) : (s.modSpent e f).agenda = s.agenda := rfl
@[simp] theorem modSpent_fresh (s : State) (e : Nat) (f : Spent → Spent) : (s.modSpent e f).fresh = s.fresh := rfl
@[simp] theorem modSpent_out (s : State) (e : Nat) (f : Spent → Spent) : (s.modSpent e f).out = s.out := rfl

@[simp] theorem log_part (s : State) (kind : W16) (data : W64) : (s.log kind data).part = s.part := rfl
@[simp] theorem log_sites (s : State) (kind : W16) (data : W64) : (s.log kind data).sites = s.sites := rfl
@[simp] theorem log_lost (s : State) (kind : W16) (data : W64) : (s.log kind data).lost = s.lost := rfl
@[simp] theorem log_clock (s : State) (kind : W16) (data : W64) : (s.log kind data).clock = s.clock := rfl
@[simp] theorem log_power (s : State) (kind : W16) (data : W64) : (s.log kind data).power = s.power := rfl
@[simp] theorem log_fabric (s : State) (kind : W16) (data : W64) : (s.log kind data).fabric = s.fabric := rfl
@[simp] theorem log_host (s : State) (kind : W16) (data : W64) : (s.log kind data).host = s.host := rfl
@[simp] theorem log_memctl (s : State) (kind : W16) (data : W64) : (s.log kind data).memctl = s.memctl := rfl
@[simp] theorem log_store (s : State) (kind : W16) (data : W64) : (s.log kind data).store = s.store := rfl
@[simp] theorem log_caches (s : State) (kind : W16) (data : W64) : (s.log kind data).caches = s.caches := rfl
@[simp] theorem log_exec (s : State) (kind : W16) (data : W64) : (s.log kind data).exec = s.exec := rfl
@[simp] theorem log_ops (s : State) (kind : W16) (data : W64) : (s.log kind data).ops = s.ops := rfl
@[simp] theorem log_berths (s : State) (kind : W16) (data : W64) : (s.log kind data).berths = s.berths := rfl
@[simp] theorem log_ropes (s : State) (kind : W16) (data : W64) : (s.log kind data).ropes = s.ropes := rfl
@[simp] theorem log_cur (s : State) (kind : W16) (data : W64) : (s.log kind data).cur = s.cur := rfl
@[simp] theorem log_sel (s : State) (kind : W16) (data : W64) : (s.log kind data).sel = s.sel := rfl
@[simp] theorem log_agenda (s : State) (kind : W16) (data : W64) : (s.log kind data).agenda = s.agenda := rfl
@[simp] theorem log_fresh (s : State) (kind : W16) (data : W64) : (s.log kind data).fresh = s.fresh := rfl
@[simp] theorem log_out (s : State) (kind : W16) (data : W64) : (s.log kind data).out = s.out := rfl

@[simp] theorem modJournal_part (s : State) (e : Nat) (f : Journal → Journal) : (s.modJournal e f).part = s.part := rfl
@[simp] theorem modJournal_sites (s : State) (e : Nat) (f : Journal → Journal) : (s.modJournal e f).sites = s.sites := rfl
@[simp] theorem modJournal_lost (s : State) (e : Nat) (f : Journal → Journal) : (s.modJournal e f).lost = s.lost := rfl
@[simp] theorem modJournal_clock (s : State) (e : Nat) (f : Journal → Journal) : (s.modJournal e f).clock = s.clock := rfl
@[simp] theorem modJournal_power (s : State) (e : Nat) (f : Journal → Journal) : (s.modJournal e f).power = s.power := rfl
@[simp] theorem modJournal_fabric (s : State) (e : Nat) (f : Journal → Journal) : (s.modJournal e f).fabric = s.fabric := rfl
@[simp] theorem modJournal_memctl (s : State) (e : Nat) (f : Journal → Journal) : (s.modJournal e f).memctl = s.memctl := rfl
@[simp] theorem modJournal_store (s : State) (e : Nat) (f : Journal → Journal) : (s.modJournal e f).store = s.store := rfl
@[simp] theorem modJournal_caches (s : State) (e : Nat) (f : Journal → Journal) : (s.modJournal e f).caches = s.caches := rfl
@[simp] theorem modJournal_exec (s : State) (e : Nat) (f : Journal → Journal) : (s.modJournal e f).exec = s.exec := rfl
@[simp] theorem modJournal_ops (s : State) (e : Nat) (f : Journal → Journal) : (s.modJournal e f).ops = s.ops := rfl
@[simp] theorem modJournal_berths (s : State) (e : Nat) (f : Journal → Journal) : (s.modJournal e f).berths = s.berths := rfl
@[simp] theorem modJournal_ropes (s : State) (e : Nat) (f : Journal → Journal) : (s.modJournal e f).ropes = s.ropes := rfl
@[simp] theorem modJournal_mgmt (s : State) (e : Nat) (f : Journal → Journal) : (s.modJournal e f).mgmt = s.mgmt := rfl
@[simp] theorem modJournal_cur (s : State) (e : Nat) (f : Journal → Journal) : (s.modJournal e f).cur = s.cur := rfl
@[simp] theorem modJournal_sel (s : State) (e : Nat) (f : Journal → Journal) : (s.modJournal e f).sel = s.sel := rfl
@[simp] theorem modJournal_agenda (s : State) (e : Nat) (f : Journal → Journal) : (s.modJournal e f).agenda = s.agenda := rfl
@[simp] theorem modJournal_fresh (s : State) (e : Nat) (f : Journal → Journal) : (s.modJournal e f).fresh = s.fresh := rfl
@[simp] theorem modJournal_out (s : State) (e : Nat) (f : Journal → Journal) : (s.modJournal e f).out = s.out := rfl

@[simp] theorem modXlat_part (s : State) (e : Nat) (f : Xlat → Xlat) : (s.modXlat e f).part = s.part := rfl
@[simp] theorem modXlat_sites (s : State) (e : Nat) (f : Xlat → Xlat) : (s.modXlat e f).sites = s.sites := rfl
@[simp] theorem modXlat_lost (s : State) (e : Nat) (f : Xlat → Xlat) : (s.modXlat e f).lost = s.lost := rfl
@[simp] theorem modXlat_clock (s : State) (e : Nat) (f : Xlat → Xlat) : (s.modXlat e f).clock = s.clock := rfl
@[simp] theorem modXlat_power (s : State) (e : Nat) (f : Xlat → Xlat) : (s.modXlat e f).power = s.power := rfl
@[simp] theorem modXlat_fabric (s : State) (e : Nat) (f : Xlat → Xlat) : (s.modXlat e f).fabric = s.fabric := rfl
@[simp] theorem modXlat_host (s : State) (e : Nat) (f : Xlat → Xlat) : (s.modXlat e f).host = s.host := rfl
@[simp] theorem modXlat_store (s : State) (e : Nat) (f : Xlat → Xlat) : (s.modXlat e f).store = s.store := rfl
@[simp] theorem modXlat_caches (s : State) (e : Nat) (f : Xlat → Xlat) : (s.modXlat e f).caches = s.caches := rfl
@[simp] theorem modXlat_exec (s : State) (e : Nat) (f : Xlat → Xlat) : (s.modXlat e f).exec = s.exec := rfl
@[simp] theorem modXlat_ops (s : State) (e : Nat) (f : Xlat → Xlat) : (s.modXlat e f).ops = s.ops := rfl
@[simp] theorem modXlat_berths (s : State) (e : Nat) (f : Xlat → Xlat) : (s.modXlat e f).berths = s.berths := rfl
@[simp] theorem modXlat_ropes (s : State) (e : Nat) (f : Xlat → Xlat) : (s.modXlat e f).ropes = s.ropes := rfl
@[simp] theorem modXlat_mgmt (s : State) (e : Nat) (f : Xlat → Xlat) : (s.modXlat e f).mgmt = s.mgmt := rfl
@[simp] theorem modXlat_cur (s : State) (e : Nat) (f : Xlat → Xlat) : (s.modXlat e f).cur = s.cur := rfl
@[simp] theorem modXlat_sel (s : State) (e : Nat) (f : Xlat → Xlat) : (s.modXlat e f).sel = s.sel := rfl
@[simp] theorem modXlat_agenda (s : State) (e : Nat) (f : Xlat → Xlat) : (s.modXlat e f).agenda = s.agenda := rfl
@[simp] theorem modXlat_fresh (s : State) (e : Nat) (f : Xlat → Xlat) : (s.modXlat e f).fresh = s.fresh := rfl
@[simp] theorem modXlat_out (s : State) (e : Nat) (f : Xlat → Xlat) : (s.modXlat e f).out = s.out := rfl

@[simp] theorem chargeAct_part (s : State) (act n : Nat) : (s.chargeAct act n).part = s.part := rfl
@[simp] theorem chargeAct_sites (s : State) (act n : Nat) : (s.chargeAct act n).sites = s.sites := rfl
@[simp] theorem chargeAct_lost (s : State) (act n : Nat) : (s.chargeAct act n).lost = s.lost := rfl
@[simp] theorem chargeAct_clock (s : State) (act n : Nat) : (s.chargeAct act n).clock = s.clock := rfl
@[simp] theorem chargeAct_power (s : State) (act n : Nat) : (s.chargeAct act n).power = s.power := rfl
@[simp] theorem chargeAct_fabric (s : State) (act n : Nat) : (s.chargeAct act n).fabric = s.fabric := rfl
@[simp] theorem chargeAct_memctl (s : State) (act n : Nat) : (s.chargeAct act n).memctl = s.memctl := rfl
@[simp] theorem chargeAct_store (s : State) (act n : Nat) : (s.chargeAct act n).store = s.store := rfl
@[simp] theorem chargeAct_caches (s : State) (act n : Nat) : (s.chargeAct act n).caches = s.caches := rfl
@[simp] theorem chargeAct_exec (s : State) (act n : Nat) : (s.chargeAct act n).exec = s.exec := rfl
@[simp] theorem chargeAct_ops (s : State) (act n : Nat) : (s.chargeAct act n).ops = s.ops := rfl
@[simp] theorem chargeAct_berths (s : State) (act n : Nat) : (s.chargeAct act n).berths = s.berths := rfl
@[simp] theorem chargeAct_ropes (s : State) (act n : Nat) : (s.chargeAct act n).ropes = s.ropes := rfl
@[simp] theorem chargeAct_mgmt (s : State) (act n : Nat) : (s.chargeAct act n).mgmt = s.mgmt := rfl
@[simp] theorem chargeAct_cur (s : State) (act n : Nat) : (s.chargeAct act n).cur = s.cur := rfl
@[simp] theorem chargeAct_sel (s : State) (act n : Nat) : (s.chargeAct act n).sel = s.sel := rfl
@[simp] theorem chargeAct_agenda (s : State) (act n : Nat) : (s.chargeAct act n).agenda = s.agenda := rfl
@[simp] theorem chargeAct_fresh (s : State) (act n : Nat) : (s.chargeAct act n).fresh = s.fresh := rfl
@[simp] theorem chargeAct_out (s : State) (act n : Nat) : (s.chargeAct act n).out = s.out := rfl

@[simp] theorem modPool_part (s : State) (die : Nat) (f : List PoolSlot → List PoolSlot) : (s.modPool die f).part = s.part := rfl
@[simp] theorem modPool_sites (s : State) (die : Nat) (f : List PoolSlot → List PoolSlot) : (s.modPool die f).sites = s.sites := rfl
@[simp] theorem modPool_lost (s : State) (die : Nat) (f : List PoolSlot → List PoolSlot) : (s.modPool die f).lost = s.lost := rfl
@[simp] theorem modPool_clock (s : State) (die : Nat) (f : List PoolSlot → List PoolSlot) : (s.modPool die f).clock = s.clock := rfl
@[simp] theorem modPool_power (s : State) (die : Nat) (f : List PoolSlot → List PoolSlot) : (s.modPool die f).power = s.power := rfl
@[simp] theorem modPool_host (s : State) (die : Nat) (f : List PoolSlot → List PoolSlot) : (s.modPool die f).host = s.host := rfl
@[simp] theorem modPool_memctl (s : State) (die : Nat) (f : List PoolSlot → List PoolSlot) : (s.modPool die f).memctl = s.memctl := rfl
@[simp] theorem modPool_store (s : State) (die : Nat) (f : List PoolSlot → List PoolSlot) : (s.modPool die f).store = s.store := rfl
@[simp] theorem modPool_caches (s : State) (die : Nat) (f : List PoolSlot → List PoolSlot) : (s.modPool die f).caches = s.caches := rfl
@[simp] theorem modPool_exec (s : State) (die : Nat) (f : List PoolSlot → List PoolSlot) : (s.modPool die f).exec = s.exec := rfl
@[simp] theorem modPool_ops (s : State) (die : Nat) (f : List PoolSlot → List PoolSlot) : (s.modPool die f).ops = s.ops := rfl
@[simp] theorem modPool_berths (s : State) (die : Nat) (f : List PoolSlot → List PoolSlot) : (s.modPool die f).berths = s.berths := rfl
@[simp] theorem modPool_ropes (s : State) (die : Nat) (f : List PoolSlot → List PoolSlot) : (s.modPool die f).ropes = s.ropes := rfl
@[simp] theorem modPool_mgmt (s : State) (die : Nat) (f : List PoolSlot → List PoolSlot) : (s.modPool die f).mgmt = s.mgmt := rfl
@[simp] theorem modPool_cur (s : State) (die : Nat) (f : List PoolSlot → List PoolSlot) : (s.modPool die f).cur = s.cur := rfl
@[simp] theorem modPool_sel (s : State) (die : Nat) (f : List PoolSlot → List PoolSlot) : (s.modPool die f).sel = s.sel := rfl
@[simp] theorem modPool_agenda (s : State) (die : Nat) (f : List PoolSlot → List PoolSlot) : (s.modPool die f).agenda = s.agenda := rfl
@[simp] theorem modPool_fresh (s : State) (die : Nat) (f : List PoolSlot → List PoolSlot) : (s.modPool die f).fresh = s.fresh := rfl
@[simp] theorem modPool_out (s : State) (die : Nat) (f : List PoolSlot → List PoolSlot) : (s.modPool die f).out = s.out := rfl

@[simp] theorem modCtl_part (s : State) (f : MemCtl → MemCtl) : (s.modCtl f).part = s.part := rfl
@[simp] theorem modCtl_sites (s : State) (f : MemCtl → MemCtl) : (s.modCtl f).sites = s.sites := rfl
@[simp] theorem modCtl_lost (s : State) (f : MemCtl → MemCtl) : (s.modCtl f).lost = s.lost := rfl
@[simp] theorem modCtl_clock (s : State) (f : MemCtl → MemCtl) : (s.modCtl f).clock = s.clock := rfl
@[simp] theorem modCtl_power (s : State) (f : MemCtl → MemCtl) : (s.modCtl f).power = s.power := rfl
@[simp] theorem modCtl_fabric (s : State) (f : MemCtl → MemCtl) : (s.modCtl f).fabric = s.fabric := rfl
@[simp] theorem modCtl_host (s : State) (f : MemCtl → MemCtl) : (s.modCtl f).host = s.host := rfl
@[simp] theorem modCtl_store (s : State) (f : MemCtl → MemCtl) : (s.modCtl f).store = s.store := rfl
@[simp] theorem modCtl_caches (s : State) (f : MemCtl → MemCtl) : (s.modCtl f).caches = s.caches := rfl
@[simp] theorem modCtl_exec (s : State) (f : MemCtl → MemCtl) : (s.modCtl f).exec = s.exec := rfl
@[simp] theorem modCtl_ops (s : State) (f : MemCtl → MemCtl) : (s.modCtl f).ops = s.ops := rfl
@[simp] theorem modCtl_berths (s : State) (f : MemCtl → MemCtl) : (s.modCtl f).berths = s.berths := rfl
@[simp] theorem modCtl_ropes (s : State) (f : MemCtl → MemCtl) : (s.modCtl f).ropes = s.ropes := rfl
@[simp] theorem modCtl_mgmt (s : State) (f : MemCtl → MemCtl) : (s.modCtl f).mgmt = s.mgmt := rfl
@[simp] theorem modCtl_cur (s : State) (f : MemCtl → MemCtl) : (s.modCtl f).cur = s.cur := rfl
@[simp] theorem modCtl_sel (s : State) (f : MemCtl → MemCtl) : (s.modCtl f).sel = s.sel := rfl
@[simp] theorem modCtl_agenda (s : State) (f : MemCtl → MemCtl) : (s.modCtl f).agenda = s.agenda := rfl
@[simp] theorem modCtl_fresh (s : State) (f : MemCtl → MemCtl) : (s.modCtl f).fresh = s.fresh := rfl
@[simp] theorem modCtl_out (s : State) (f : MemCtl → MemCtl) : (s.modCtl f).out = s.out := rfl

@[simp] theorem modSnap_part (s : State) (e : Nat) (f : Snapshot → Snapshot) : (s.modSnap e f).part = s.part := rfl
@[simp] theorem modSnap_sites (s : State) (e : Nat) (f : Snapshot → Snapshot) : (s.modSnap e f).sites = s.sites := rfl
@[simp] theorem modSnap_lost (s : State) (e : Nat) (f : Snapshot → Snapshot) : (s.modSnap e f).lost = s.lost := rfl
@[simp] theorem modSnap_clock (s : State) (e : Nat) (f : Snapshot → Snapshot) : (s.modSnap e f).clock = s.clock := rfl
@[simp] theorem modSnap_power (s : State) (e : Nat) (f : Snapshot → Snapshot) : (s.modSnap e f).power = s.power := rfl
@[simp] theorem modSnap_fabric (s : State) (e : Nat) (f : Snapshot → Snapshot) : (s.modSnap e f).fabric = s.fabric := rfl
@[simp] theorem modSnap_memctl (s : State) (e : Nat) (f : Snapshot → Snapshot) : (s.modSnap e f).memctl = s.memctl := rfl
@[simp] theorem modSnap_store (s : State) (e : Nat) (f : Snapshot → Snapshot) : (s.modSnap e f).store = s.store := rfl
@[simp] theorem modSnap_caches (s : State) (e : Nat) (f : Snapshot → Snapshot) : (s.modSnap e f).caches = s.caches := rfl
@[simp] theorem modSnap_exec (s : State) (e : Nat) (f : Snapshot → Snapshot) : (s.modSnap e f).exec = s.exec := rfl
@[simp] theorem modSnap_ops (s : State) (e : Nat) (f : Snapshot → Snapshot) : (s.modSnap e f).ops = s.ops := rfl
@[simp] theorem modSnap_berths (s : State) (e : Nat) (f : Snapshot → Snapshot) : (s.modSnap e f).berths = s.berths := rfl
@[simp] theorem modSnap_ropes (s : State) (e : Nat) (f : Snapshot → Snapshot) : (s.modSnap e f).ropes = s.ropes := rfl
@[simp] theorem modSnap_mgmt (s : State) (e : Nat) (f : Snapshot → Snapshot) : (s.modSnap e f).mgmt = s.mgmt := rfl
@[simp] theorem modSnap_cur (s : State) (e : Nat) (f : Snapshot → Snapshot) : (s.modSnap e f).cur = s.cur := rfl
@[simp] theorem modSnap_sel (s : State) (e : Nat) (f : Snapshot → Snapshot) : (s.modSnap e f).sel = s.sel := rfl
@[simp] theorem modSnap_agenda (s : State) (e : Nat) (f : Snapshot → Snapshot) : (s.modSnap e f).agenda = s.agenda := rfl
@[simp] theorem modSnap_fresh (s : State) (e : Nat) (f : Snapshot → Snapshot) : (s.modSnap e f).fresh = s.fresh := rfl
@[simp] theorem modSnap_out (s : State) (e : Nat) (f : Snapshot → Snapshot) : (s.modSnap e f).out = s.out := rfl

@[simp] theorem modGroup_part (s : State) (g : Nat) (f : Group → Group) : (s.modGroup g f).part = s.part := rfl
@[simp] theorem modGroup_sites (s : State) (g : Nat) (f : Group → Group) : (s.modGroup g f).sites = s.sites := rfl
@[simp] theorem modGroup_lost (s : State) (g : Nat) (f : Group → Group) : (s.modGroup g f).lost = s.lost := rfl
@[simp] theorem modGroup_clock (s : State) (g : Nat) (f : Group → Group) : (s.modGroup g f).clock = s.clock := rfl
@[simp] theorem modGroup_power (s : State) (g : Nat) (f : Group → Group) : (s.modGroup g f).power = s.power := rfl
@[simp] theorem modGroup_fabric (s : State) (g : Nat) (f : Group → Group) : (s.modGroup g f).fabric = s.fabric := rfl
@[simp] theorem modGroup_host (s : State) (g : Nat) (f : Group → Group) : (s.modGroup g f).host = s.host := rfl
@[simp] theorem modGroup_memctl (s : State) (g : Nat) (f : Group → Group) : (s.modGroup g f).memctl = s.memctl := rfl
@[simp] theorem modGroup_store (s : State) (g : Nat) (f : Group → Group) : (s.modGroup g f).store = s.store := rfl
@[simp] theorem modGroup_caches (s : State) (g : Nat) (f : Group → Group) : (s.modGroup g f).caches = s.caches := rfl
@[simp] theorem modGroup_ops (s : State) (g : Nat) (f : Group → Group) : (s.modGroup g f).ops = s.ops := rfl
@[simp] theorem modGroup_berths (s : State) (g : Nat) (f : Group → Group) : (s.modGroup g f).berths = s.berths := rfl
@[simp] theorem modGroup_ropes (s : State) (g : Nat) (f : Group → Group) : (s.modGroup g f).ropes = s.ropes := rfl
@[simp] theorem modGroup_mgmt (s : State) (g : Nat) (f : Group → Group) : (s.modGroup g f).mgmt = s.mgmt := rfl
@[simp] theorem modGroup_cur (s : State) (g : Nat) (f : Group → Group) : (s.modGroup g f).cur = s.cur := rfl
@[simp] theorem modGroup_sel (s : State) (g : Nat) (f : Group → Group) : (s.modGroup g f).sel = s.sel := rfl
@[simp] theorem modGroup_agenda (s : State) (g : Nat) (f : Group → Group) : (s.modGroup g f).agenda = s.agenda := rfl
@[simp] theorem modGroup_fresh (s : State) (g : Nat) (f : Group → Group) : (s.modGroup g f).fresh = s.fresh := rfl
@[simp] theorem modGroup_out (s : State) (g : Nat) (f : Group → Group) : (s.modGroup g f).out = s.out := rfl

@[simp] theorem modTeam_part (s : State) (t : Nat) (f : Team → Team) : (s.modTeam t f).part = s.part := rfl
@[simp] theorem modTeam_sites (s : State) (t : Nat) (f : Team → Team) : (s.modTeam t f).sites = s.sites := rfl
@[simp] theorem modTeam_lost (s : State) (t : Nat) (f : Team → Team) : (s.modTeam t f).lost = s.lost := rfl
@[simp] theorem modTeam_clock (s : State) (t : Nat) (f : Team → Team) : (s.modTeam t f).clock = s.clock := rfl
@[simp] theorem modTeam_power (s : State) (t : Nat) (f : Team → Team) : (s.modTeam t f).power = s.power := rfl
@[simp] theorem modTeam_fabric (s : State) (t : Nat) (f : Team → Team) : (s.modTeam t f).fabric = s.fabric := rfl
@[simp] theorem modTeam_host (s : State) (t : Nat) (f : Team → Team) : (s.modTeam t f).host = s.host := rfl
@[simp] theorem modTeam_memctl (s : State) (t : Nat) (f : Team → Team) : (s.modTeam t f).memctl = s.memctl := rfl
@[simp] theorem modTeam_store (s : State) (t : Nat) (f : Team → Team) : (s.modTeam t f).store = s.store := rfl
@[simp] theorem modTeam_caches (s : State) (t : Nat) (f : Team → Team) : (s.modTeam t f).caches = s.caches := rfl
@[simp] theorem modTeam_ops (s : State) (t : Nat) (f : Team → Team) : (s.modTeam t f).ops = s.ops := rfl
@[simp] theorem modTeam_berths (s : State) (t : Nat) (f : Team → Team) : (s.modTeam t f).berths = s.berths := rfl
@[simp] theorem modTeam_ropes (s : State) (t : Nat) (f : Team → Team) : (s.modTeam t f).ropes = s.ropes := rfl
@[simp] theorem modTeam_mgmt (s : State) (t : Nat) (f : Team → Team) : (s.modTeam t f).mgmt = s.mgmt := rfl
@[simp] theorem modTeam_cur (s : State) (t : Nat) (f : Team → Team) : (s.modTeam t f).cur = s.cur := rfl
@[simp] theorem modTeam_sel (s : State) (t : Nat) (f : Team → Team) : (s.modTeam t f).sel = s.sel := rfl
@[simp] theorem modTeam_agenda (s : State) (t : Nat) (f : Team → Team) : (s.modTeam t f).agenda = s.agenda := rfl
@[simp] theorem modTeam_fresh (s : State) (t : Nat) (f : Team → Team) : (s.modTeam t f).fresh = s.fresh := rfl
@[simp] theorem modTeam_out (s : State) (t : Nat) (f : Team → Team) : (s.modTeam t f).out = s.out := rfl

@[simp] theorem modCtx_part (s : State) (c : Nat) (f : Ctx → Ctx) : (s.modCtx c f).part = s.part := rfl
@[simp] theorem modCtx_sites (s : State) (c : Nat) (f : Ctx → Ctx) : (s.modCtx c f).sites = s.sites := rfl
@[simp] theorem modCtx_lost (s : State) (c : Nat) (f : Ctx → Ctx) : (s.modCtx c f).lost = s.lost := rfl
@[simp] theorem modCtx_clock (s : State) (c : Nat) (f : Ctx → Ctx) : (s.modCtx c f).clock = s.clock := rfl
@[simp] theorem modCtx_power (s : State) (c : Nat) (f : Ctx → Ctx) : (s.modCtx c f).power = s.power := rfl
@[simp] theorem modCtx_fabric (s : State) (c : Nat) (f : Ctx → Ctx) : (s.modCtx c f).fabric = s.fabric := rfl
@[simp] theorem modCtx_host (s : State) (c : Nat) (f : Ctx → Ctx) : (s.modCtx c f).host = s.host := rfl
@[simp] theorem modCtx_memctl (s : State) (c : Nat) (f : Ctx → Ctx) : (s.modCtx c f).memctl = s.memctl := rfl
@[simp] theorem modCtx_store (s : State) (c : Nat) (f : Ctx → Ctx) : (s.modCtx c f).store = s.store := rfl
@[simp] theorem modCtx_caches (s : State) (c : Nat) (f : Ctx → Ctx) : (s.modCtx c f).caches = s.caches := rfl
@[simp] theorem modCtx_ops (s : State) (c : Nat) (f : Ctx → Ctx) : (s.modCtx c f).ops = s.ops := rfl
@[simp] theorem modCtx_berths (s : State) (c : Nat) (f : Ctx → Ctx) : (s.modCtx c f).berths = s.berths := rfl
@[simp] theorem modCtx_ropes (s : State) (c : Nat) (f : Ctx → Ctx) : (s.modCtx c f).ropes = s.ropes := rfl
@[simp] theorem modCtx_mgmt (s : State) (c : Nat) (f : Ctx → Ctx) : (s.modCtx c f).mgmt = s.mgmt := rfl
@[simp] theorem modCtx_cur (s : State) (c : Nat) (f : Ctx → Ctx) : (s.modCtx c f).cur = s.cur := rfl
@[simp] theorem modCtx_sel (s : State) (c : Nat) (f : Ctx → Ctx) : (s.modCtx c f).sel = s.sel := rfl
@[simp] theorem modCtx_agenda (s : State) (c : Nat) (f : Ctx → Ctx) : (s.modCtx c f).agenda = s.agenda := rfl
@[simp] theorem modCtx_fresh (s : State) (c : Nat) (f : Ctx → Ctx) : (s.modCtx c f).fresh = s.fresh := rfl
@[simp] theorem modCtx_out (s : State) (c : Nat) (f : Ctx → Ctx) : (s.modCtx c f).out = s.out := rfl

@[simp] theorem modQueue_part (s : State) (q : Nat) (f : Queue → Queue) : (s.modQueue q f).part = s.part := rfl
@[simp] theorem modQueue_sites (s : State) (q : Nat) (f : Queue → Queue) : (s.modQueue q f).sites = s.sites := rfl
@[simp] theorem modQueue_lost (s : State) (q : Nat) (f : Queue → Queue) : (s.modQueue q f).lost = s.lost := rfl
@[simp] theorem modQueue_clock (s : State) (q : Nat) (f : Queue → Queue) : (s.modQueue q f).clock = s.clock := rfl
@[simp] theorem modQueue_power (s : State) (q : Nat) (f : Queue → Queue) : (s.modQueue q f).power = s.power := rfl
@[simp] theorem modQueue_fabric (s : State) (q : Nat) (f : Queue → Queue) : (s.modQueue q f).fabric = s.fabric := rfl
@[simp] theorem modQueue_memctl (s : State) (q : Nat) (f : Queue → Queue) : (s.modQueue q f).memctl = s.memctl := rfl
@[simp] theorem modQueue_store (s : State) (q : Nat) (f : Queue → Queue) : (s.modQueue q f).store = s.store := rfl
@[simp] theorem modQueue_caches (s : State) (q : Nat) (f : Queue → Queue) : (s.modQueue q f).caches = s.caches := rfl
@[simp] theorem modQueue_exec (s : State) (q : Nat) (f : Queue → Queue) : (s.modQueue q f).exec = s.exec := rfl
@[simp] theorem modQueue_ops (s : State) (q : Nat) (f : Queue → Queue) : (s.modQueue q f).ops = s.ops := rfl
@[simp] theorem modQueue_berths (s : State) (q : Nat) (f : Queue → Queue) : (s.modQueue q f).berths = s.berths := rfl
@[simp] theorem modQueue_ropes (s : State) (q : Nat) (f : Queue → Queue) : (s.modQueue q f).ropes = s.ropes := rfl
@[simp] theorem modQueue_mgmt (s : State) (q : Nat) (f : Queue → Queue) : (s.modQueue q f).mgmt = s.mgmt := rfl
@[simp] theorem modQueue_cur (s : State) (q : Nat) (f : Queue → Queue) : (s.modQueue q f).cur = s.cur := rfl
@[simp] theorem modQueue_sel (s : State) (q : Nat) (f : Queue → Queue) : (s.modQueue q f).sel = s.sel := rfl
@[simp] theorem modQueue_agenda (s : State) (q : Nat) (f : Queue → Queue) : (s.modQueue q f).agenda = s.agenda := rfl
@[simp] theorem modQueue_fresh (s : State) (q : Nat) (f : Queue → Queue) : (s.modQueue q f).fresh = s.fresh := rfl
@[simp] theorem modQueue_out (s : State) (q : Nat) (f : Queue → Queue) : (s.modQueue q f).out = s.out := rfl

@[simp] theorem modFn_part (s : State) (n : Nat) (f : Fn → Fn) : (s.modFn n f).part = s.part := rfl
@[simp] theorem modFn_sites (s : State) (n : Nat) (f : Fn → Fn) : (s.modFn n f).sites = s.sites := rfl
@[simp] theorem modFn_lost (s : State) (n : Nat) (f : Fn → Fn) : (s.modFn n f).lost = s.lost := rfl
@[simp] theorem modFn_clock (s : State) (n : Nat) (f : Fn → Fn) : (s.modFn n f).clock = s.clock := rfl
@[simp] theorem modFn_power (s : State) (n : Nat) (f : Fn → Fn) : (s.modFn n f).power = s.power := rfl
@[simp] theorem modFn_fabric (s : State) (n : Nat) (f : Fn → Fn) : (s.modFn n f).fabric = s.fabric := rfl
@[simp] theorem modFn_memctl (s : State) (n : Nat) (f : Fn → Fn) : (s.modFn n f).memctl = s.memctl := rfl
@[simp] theorem modFn_store (s : State) (n : Nat) (f : Fn → Fn) : (s.modFn n f).store = s.store := rfl
@[simp] theorem modFn_caches (s : State) (n : Nat) (f : Fn → Fn) : (s.modFn n f).caches = s.caches := rfl
@[simp] theorem modFn_exec (s : State) (n : Nat) (f : Fn → Fn) : (s.modFn n f).exec = s.exec := rfl
@[simp] theorem modFn_ops (s : State) (n : Nat) (f : Fn → Fn) : (s.modFn n f).ops = s.ops := rfl
@[simp] theorem modFn_berths (s : State) (n : Nat) (f : Fn → Fn) : (s.modFn n f).berths = s.berths := rfl
@[simp] theorem modFn_ropes (s : State) (n : Nat) (f : Fn → Fn) : (s.modFn n f).ropes = s.ropes := rfl
@[simp] theorem modFn_mgmt (s : State) (n : Nat) (f : Fn → Fn) : (s.modFn n f).mgmt = s.mgmt := rfl
@[simp] theorem modFn_cur (s : State) (n : Nat) (f : Fn → Fn) : (s.modFn n f).cur = s.cur := rfl
@[simp] theorem modFn_sel (s : State) (n : Nat) (f : Fn → Fn) : (s.modFn n f).sel = s.sel := rfl
@[simp] theorem modFn_agenda (s : State) (n : Nat) (f : Fn → Fn) : (s.modFn n f).agenda = s.agenda := rfl
@[simp] theorem modFn_fresh (s : State) (n : Nat) (f : Fn → Fn) : (s.modFn n f).fresh = s.fresh := rfl
@[simp] theorem modFn_out (s : State) (n : Nat) (f : Fn → Fn) : (s.modFn n f).out = s.out := rfl

@[simp] theorem modPart_part (s : State) (e : Nat) (f : PartEntry → PartEntry) : (s.modPart e f).part = s.part := rfl
@[simp] theorem modPart_sites (s : State) (e : Nat) (f : PartEntry → PartEntry) : (s.modPart e f).sites = s.sites := rfl
@[simp] theorem modPart_lost (s : State) (e : Nat) (f : PartEntry → PartEntry) : (s.modPart e f).lost = s.lost := rfl
@[simp] theorem modPart_clock (s : State) (e : Nat) (f : PartEntry → PartEntry) : (s.modPart e f).clock = s.clock := rfl
@[simp] theorem modPart_power (s : State) (e : Nat) (f : PartEntry → PartEntry) : (s.modPart e f).power = s.power := rfl
@[simp] theorem modPart_fabric (s : State) (e : Nat) (f : PartEntry → PartEntry) : (s.modPart e f).fabric = s.fabric := rfl
@[simp] theorem modPart_memctl (s : State) (e : Nat) (f : PartEntry → PartEntry) : (s.modPart e f).memctl = s.memctl := rfl
@[simp] theorem modPart_store (s : State) (e : Nat) (f : PartEntry → PartEntry) : (s.modPart e f).store = s.store := rfl
@[simp] theorem modPart_caches (s : State) (e : Nat) (f : PartEntry → PartEntry) : (s.modPart e f).caches = s.caches := rfl
@[simp] theorem modPart_exec (s : State) (e : Nat) (f : PartEntry → PartEntry) : (s.modPart e f).exec = s.exec := rfl
@[simp] theorem modPart_ops (s : State) (e : Nat) (f : PartEntry → PartEntry) : (s.modPart e f).ops = s.ops := rfl
@[simp] theorem modPart_berths (s : State) (e : Nat) (f : PartEntry → PartEntry) : (s.modPart e f).berths = s.berths := rfl
@[simp] theorem modPart_ropes (s : State) (e : Nat) (f : PartEntry → PartEntry) : (s.modPart e f).ropes = s.ropes := rfl
@[simp] theorem modPart_mgmt (s : State) (e : Nat) (f : PartEntry → PartEntry) : (s.modPart e f).mgmt = s.mgmt := rfl
@[simp] theorem modPart_cur (s : State) (e : Nat) (f : PartEntry → PartEntry) : (s.modPart e f).cur = s.cur := rfl
@[simp] theorem modPart_sel (s : State) (e : Nat) (f : PartEntry → PartEntry) : (s.modPart e f).sel = s.sel := rfl
@[simp] theorem modPart_agenda (s : State) (e : Nat) (f : PartEntry → PartEntry) : (s.modPart e f).agenda = s.agenda := rfl
@[simp] theorem modPart_fresh (s : State) (e : Nat) (f : PartEntry → PartEntry) : (s.modPart e f).fresh = s.fresh := rfl
@[simp] theorem modPart_out (s : State) (e : Nat) (f : PartEntry → PartEntry) : (s.modPart e f).out = s.out := rfl

@[simp] theorem emit_part (s : State) (o : Output) : (s.emit o).part = s.part := rfl
@[simp] theorem emit_sites (s : State) (o : Output) : (s.emit o).sites = s.sites := rfl
@[simp] theorem emit_lost (s : State) (o : Output) : (s.emit o).lost = s.lost := rfl
@[simp] theorem emit_clock (s : State) (o : Output) : (s.emit o).clock = s.clock := rfl
@[simp] theorem emit_power (s : State) (o : Output) : (s.emit o).power = s.power := rfl
@[simp] theorem emit_fabric (s : State) (o : Output) : (s.emit o).fabric = s.fabric := rfl
@[simp] theorem emit_host (s : State) (o : Output) : (s.emit o).host = s.host := rfl
@[simp] theorem emit_memctl (s : State) (o : Output) : (s.emit o).memctl = s.memctl := rfl
@[simp] theorem emit_store (s : State) (o : Output) : (s.emit o).store = s.store := rfl
@[simp] theorem emit_caches (s : State) (o : Output) : (s.emit o).caches = s.caches := rfl
@[simp] theorem emit_exec (s : State) (o : Output) : (s.emit o).exec = s.exec := rfl
@[simp] theorem emit_ops (s : State) (o : Output) : (s.emit o).ops = s.ops := rfl
@[simp] theorem emit_berths (s : State) (o : Output) : (s.emit o).berths = s.berths := rfl
@[simp] theorem emit_ropes (s : State) (o : Output) : (s.emit o).ropes = s.ropes := rfl
@[simp] theorem emit_mgmt (s : State) (o : Output) : (s.emit o).mgmt = s.mgmt := rfl
@[simp] theorem emit_cur (s : State) (o : Output) : (s.emit o).cur = s.cur := rfl
@[simp] theorem emit_sel (s : State) (o : Output) : (s.emit o).sel = s.sel := rfl
@[simp] theorem emit_agenda (s : State) (o : Output) : (s.emit o).agenda = s.agenda := rfl
@[simp] theorem emit_fresh (s : State) (o : Output) : (s.emit o).fresh = s.fresh := rfl

@[simp] theorem modPage_part (s : State) (n : Nat) (f : ResetPage → ResetPage) : (s.modPage n f).part = s.part := rfl
@[simp] theorem modPage_sites (s : State) (n : Nat) (f : ResetPage → ResetPage) : (s.modPage n f).sites = s.sites := rfl
@[simp] theorem modPage_lost (s : State) (n : Nat) (f : ResetPage → ResetPage) : (s.modPage n f).lost = s.lost := rfl
@[simp] theorem modPage_clock (s : State) (n : Nat) (f : ResetPage → ResetPage) : (s.modPage n f).clock = s.clock := rfl
@[simp] theorem modPage_power (s : State) (n : Nat) (f : ResetPage → ResetPage) : (s.modPage n f).power = s.power := rfl
@[simp] theorem modPage_fabric (s : State) (n : Nat) (f : ResetPage → ResetPage) : (s.modPage n f).fabric = s.fabric := rfl
@[simp] theorem modPage_memctl (s : State) (n : Nat) (f : ResetPage → ResetPage) : (s.modPage n f).memctl = s.memctl := rfl
@[simp] theorem modPage_store (s : State) (n : Nat) (f : ResetPage → ResetPage) : (s.modPage n f).store = s.store := rfl
@[simp] theorem modPage_caches (s : State) (n : Nat) (f : ResetPage → ResetPage) : (s.modPage n f).caches = s.caches := rfl
@[simp] theorem modPage_exec (s : State) (n : Nat) (f : ResetPage → ResetPage) : (s.modPage n f).exec = s.exec := rfl
@[simp] theorem modPage_ops (s : State) (n : Nat) (f : ResetPage → ResetPage) : (s.modPage n f).ops = s.ops := rfl
@[simp] theorem modPage_berths (s : State) (n : Nat) (f : ResetPage → ResetPage) : (s.modPage n f).berths = s.berths := rfl
@[simp] theorem modPage_ropes (s : State) (n : Nat) (f : ResetPage → ResetPage) : (s.modPage n f).ropes = s.ropes := rfl
@[simp] theorem modPage_mgmt (s : State) (n : Nat) (f : ResetPage → ResetPage) : (s.modPage n f).mgmt = s.mgmt := rfl
@[simp] theorem modPage_cur (s : State) (n : Nat) (f : ResetPage → ResetPage) : (s.modPage n f).cur = s.cur := rfl
@[simp] theorem modPage_sel (s : State) (n : Nat) (f : ResetPage → ResetPage) : (s.modPage n f).sel = s.sel := rfl
@[simp] theorem modPage_agenda (s : State) (n : Nat) (f : ResetPage → ResetPage) : (s.modPage n f).agenda = s.agenda := rfl
@[simp] theorem modPage_fresh (s : State) (n : Nat) (f : ResetPage → ResetPage) : (s.modPage n f).fresh = s.fresh := rfl
@[simp] theorem modPage_out (s : State) (n : Nat) (f : ResetPage → ResetPage) : (s.modPage n f).out = s.out := rfl

@[simp] theorem modAct_part (s : State) (a : RopeAct) (f : RopeAct → RopeAct) : (s.modAct a f).part = s.part := rfl
@[simp] theorem modAct_sites (s : State) (a : RopeAct) (f : RopeAct → RopeAct) : (s.modAct a f).sites = s.sites := rfl
@[simp] theorem modAct_lost (s : State) (a : RopeAct) (f : RopeAct → RopeAct) : (s.modAct a f).lost = s.lost := rfl
@[simp] theorem modAct_clock (s : State) (a : RopeAct) (f : RopeAct → RopeAct) : (s.modAct a f).clock = s.clock := rfl
@[simp] theorem modAct_power (s : State) (a : RopeAct) (f : RopeAct → RopeAct) : (s.modAct a f).power = s.power := rfl
@[simp] theorem modAct_fabric (s : State) (a : RopeAct) (f : RopeAct → RopeAct) : (s.modAct a f).fabric = s.fabric := rfl
@[simp] theorem modAct_host (s : State) (a : RopeAct) (f : RopeAct → RopeAct) : (s.modAct a f).host = s.host := rfl
@[simp] theorem modAct_memctl (s : State) (a : RopeAct) (f : RopeAct → RopeAct) : (s.modAct a f).memctl = s.memctl := rfl
@[simp] theorem modAct_store (s : State) (a : RopeAct) (f : RopeAct → RopeAct) : (s.modAct a f).store = s.store := rfl
@[simp] theorem modAct_caches (s : State) (a : RopeAct) (f : RopeAct → RopeAct) : (s.modAct a f).caches = s.caches := rfl
@[simp] theorem modAct_exec (s : State) (a : RopeAct) (f : RopeAct → RopeAct) : (s.modAct a f).exec = s.exec := rfl
@[simp] theorem modAct_ops (s : State) (a : RopeAct) (f : RopeAct → RopeAct) : (s.modAct a f).ops = s.ops := rfl
@[simp] theorem modAct_berths (s : State) (a : RopeAct) (f : RopeAct → RopeAct) : (s.modAct a f).berths = s.berths := rfl
@[simp] theorem modAct_mgmt (s : State) (a : RopeAct) (f : RopeAct → RopeAct) : (s.modAct a f).mgmt = s.mgmt := rfl
@[simp] theorem modAct_cur (s : State) (a : RopeAct) (f : RopeAct → RopeAct) : (s.modAct a f).cur = s.cur := rfl
@[simp] theorem modAct_sel (s : State) (a : RopeAct) (f : RopeAct → RopeAct) : (s.modAct a f).sel = s.sel := rfl
@[simp] theorem modAct_agenda (s : State) (a : RopeAct) (f : RopeAct → RopeAct) : (s.modAct a f).agenda = s.agenda := rfl
@[simp] theorem modAct_fresh (s : State) (a : RopeAct) (f : RopeAct → RopeAct) : (s.modAct a f).fresh = s.fresh := rfl
@[simp] theorem modAct_out (s : State) (a : RopeAct) (f : RopeAct → RopeAct) : (s.modAct a f).out = s.out := rfl

@[simp] theorem dropAct_part (s : State) (a : RopeAct) : (s.dropAct a).part = s.part := rfl
@[simp] theorem dropAct_sites (s : State) (a : RopeAct) : (s.dropAct a).sites = s.sites := rfl
@[simp] theorem dropAct_lost (s : State) (a : RopeAct) : (s.dropAct a).lost = s.lost := rfl
@[simp] theorem dropAct_clock (s : State) (a : RopeAct) : (s.dropAct a).clock = s.clock := rfl
@[simp] theorem dropAct_power (s : State) (a : RopeAct) : (s.dropAct a).power = s.power := rfl
@[simp] theorem dropAct_fabric (s : State) (a : RopeAct) : (s.dropAct a).fabric = s.fabric := rfl
@[simp] theorem dropAct_host (s : State) (a : RopeAct) : (s.dropAct a).host = s.host := rfl
@[simp] theorem dropAct_memctl (s : State) (a : RopeAct) : (s.dropAct a).memctl = s.memctl := rfl
@[simp] theorem dropAct_store (s : State) (a : RopeAct) : (s.dropAct a).store = s.store := rfl
@[simp] theorem dropAct_caches (s : State) (a : RopeAct) : (s.dropAct a).caches = s.caches := rfl
@[simp] theorem dropAct_exec (s : State) (a : RopeAct) : (s.dropAct a).exec = s.exec := rfl
@[simp] theorem dropAct_ops (s : State) (a : RopeAct) : (s.dropAct a).ops = s.ops := rfl
@[simp] theorem dropAct_berths (s : State) (a : RopeAct) : (s.dropAct a).berths = s.berths := rfl
@[simp] theorem dropAct_mgmt (s : State) (a : RopeAct) : (s.dropAct a).mgmt = s.mgmt := rfl
@[simp] theorem dropAct_cur (s : State) (a : RopeAct) : (s.dropAct a).cur = s.cur := rfl
@[simp] theorem dropAct_sel (s : State) (a : RopeAct) : (s.dropAct a).sel = s.sel := rfl
@[simp] theorem dropAct_agenda (s : State) (a : RopeAct) : (s.dropAct a).agenda = s.agenda := rfl
@[simp] theorem dropAct_fresh (s : State) (a : RopeAct) : (s.dropAct a).fresh = s.fresh := rfl
@[simp] theorem dropAct_out (s : State) (a : RopeAct) : (s.dropAct a).out = s.out := rfl

@[simp] theorem countError_part (s : State) (k : Nat) (fixed : Bool) : (s.countError k fixed).part = s.part := rfl
@[simp] theorem countError_sites (s : State) (k : Nat) (fixed : Bool) : (s.countError k fixed).sites = s.sites := rfl
@[simp] theorem countError_lost (s : State) (k : Nat) (fixed : Bool) : (s.countError k fixed).lost = s.lost := rfl
@[simp] theorem countError_clock (s : State) (k : Nat) (fixed : Bool) : (s.countError k fixed).clock = s.clock := rfl
@[simp] theorem countError_power (s : State) (k : Nat) (fixed : Bool) : (s.countError k fixed).power = s.power := rfl
@[simp] theorem countError_fabric (s : State) (k : Nat) (fixed : Bool) : (s.countError k fixed).fabric = s.fabric := rfl
@[simp] theorem countError_host (s : State) (k : Nat) (fixed : Bool) : (s.countError k fixed).host = s.host := rfl
@[simp] theorem countError_memctl (s : State) (k : Nat) (fixed : Bool) : (s.countError k fixed).memctl = s.memctl := rfl
@[simp] theorem countError_store (s : State) (k : Nat) (fixed : Bool) : (s.countError k fixed).store = s.store := rfl
@[simp] theorem countError_caches (s : State) (k : Nat) (fixed : Bool) : (s.countError k fixed).caches = s.caches := rfl
@[simp] theorem countError_exec (s : State) (k : Nat) (fixed : Bool) : (s.countError k fixed).exec = s.exec := rfl
@[simp] theorem countError_ops (s : State) (k : Nat) (fixed : Bool) : (s.countError k fixed).ops = s.ops := rfl
@[simp] theorem countError_berths (s : State) (k : Nat) (fixed : Bool) : (s.countError k fixed).berths = s.berths := rfl
@[simp] theorem countError_ropes (s : State) (k : Nat) (fixed : Bool) : (s.countError k fixed).ropes = s.ropes := rfl
@[simp] theorem countError_cur (s : State) (k : Nat) (fixed : Bool) : (s.countError k fixed).cur = s.cur := rfl
@[simp] theorem countError_sel (s : State) (k : Nat) (fixed : Bool) : (s.countError k fixed).sel = s.sel := rfl
@[simp] theorem countError_agenda (s : State) (k : Nat) (fixed : Bool) : (s.countError k fixed).agenda = s.agenda := rfl
@[simp] theorem countError_fresh (s : State) (k : Nat) (fixed : Bool) : (s.countError k fixed).fresh = s.fresh := rfl
@[simp] theorem countError_out (s : State) (k : Nat) (fixed : Bool) : (s.countError k fixed).out = s.out := rfl

@[simp] theorem flushL1_part (s : State) (d c : Nat) : (s.flushL1 d c).part = s.part := rfl
@[simp] theorem flushL1_sites (s : State) (d c : Nat) : (s.flushL1 d c).sites = s.sites := rfl
@[simp] theorem flushL1_lost (s : State) (d c : Nat) : (s.flushL1 d c).lost = s.lost := rfl
@[simp] theorem flushL1_clock (s : State) (d c : Nat) : (s.flushL1 d c).clock = s.clock := rfl
@[simp] theorem flushL1_power (s : State) (d c : Nat) : (s.flushL1 d c).power = s.power := rfl
@[simp] theorem flushL1_fabric (s : State) (d c : Nat) : (s.flushL1 d c).fabric = s.fabric := rfl
@[simp] theorem flushL1_host (s : State) (d c : Nat) : (s.flushL1 d c).host = s.host := rfl
@[simp] theorem flushL1_memctl (s : State) (d c : Nat) : (s.flushL1 d c).memctl = s.memctl := rfl
@[simp] theorem flushL1_exec (s : State) (d c : Nat) : (s.flushL1 d c).exec = s.exec := rfl
@[simp] theorem flushL1_ops (s : State) (d c : Nat) : (s.flushL1 d c).ops = s.ops := rfl
@[simp] theorem flushL1_berths (s : State) (d c : Nat) : (s.flushL1 d c).berths = s.berths := rfl
@[simp] theorem flushL1_ropes (s : State) (d c : Nat) : (s.flushL1 d c).ropes = s.ropes := rfl
@[simp] theorem flushL1_mgmt (s : State) (d c : Nat) : (s.flushL1 d c).mgmt = s.mgmt := rfl
@[simp] theorem flushL1_cur (s : State) (d c : Nat) : (s.flushL1 d c).cur = s.cur := rfl
@[simp] theorem flushL1_sel (s : State) (d c : Nat) : (s.flushL1 d c).sel = s.sel := rfl
@[simp] theorem flushL1_agenda (s : State) (d c : Nat) : (s.flushL1 d c).agenda = s.agenda := rfl
@[simp] theorem flushL1_fresh (s : State) (d c : Nat) : (s.flushL1 d c).fresh = s.fresh := rfl
@[simp] theorem flushL1_out (s : State) (d c : Nat) : (s.flushL1 d c).out = s.out := rfl

@[simp] theorem acquire_part (s : State) (g : Nat) : (s.acquire g).part = s.part := rfl
@[simp] theorem acquire_sites (s : State) (g : Nat) : (s.acquire g).sites = s.sites := rfl
@[simp] theorem acquire_lost (s : State) (g : Nat) : (s.acquire g).lost = s.lost := rfl
@[simp] theorem acquire_clock (s : State) (g : Nat) : (s.acquire g).clock = s.clock := rfl
@[simp] theorem acquire_power (s : State) (g : Nat) : (s.acquire g).power = s.power := rfl
@[simp] theorem acquire_fabric (s : State) (g : Nat) : (s.acquire g).fabric = s.fabric := rfl
@[simp] theorem acquire_host (s : State) (g : Nat) : (s.acquire g).host = s.host := rfl
@[simp] theorem acquire_memctl (s : State) (g : Nat) : (s.acquire g).memctl = s.memctl := rfl
@[simp] theorem acquire_exec (s : State) (g : Nat) : (s.acquire g).exec = s.exec := rfl
@[simp] theorem acquire_ops (s : State) (g : Nat) : (s.acquire g).ops = s.ops := rfl
@[simp] theorem acquire_berths (s : State) (g : Nat) : (s.acquire g).berths = s.berths := rfl
@[simp] theorem acquire_ropes (s : State) (g : Nat) : (s.acquire g).ropes = s.ropes := rfl
@[simp] theorem acquire_mgmt (s : State) (g : Nat) : (s.acquire g).mgmt = s.mgmt := rfl
@[simp] theorem acquire_cur (s : State) (g : Nat) : (s.acquire g).cur = s.cur := rfl
@[simp] theorem acquire_sel (s : State) (g : Nat) : (s.acquire g).sel = s.sel := rfl
@[simp] theorem acquire_agenda (s : State) (g : Nat) : (s.acquire g).agenda = s.agenda := rfl
@[simp] theorem acquire_fresh (s : State) (g : Nat) : (s.acquire g).fresh = s.fresh := rfl
@[simp] theorem acquire_out (s : State) (g : Nat) : (s.acquire g).out = s.out := rfl

@[simp] theorem flushL1_store_lines (s : State) (d c : Nat) : (s.flushL1 d c).store.lines = s.store.lines := rfl
@[simp] theorem flushL1_store_dram (s : State) (d c : Nat) : (s.flushL1 d c).store.dram = s.store.dram := rfl
@[simp] theorem flushL1_store_dirty (s : State) (d c : Nat) : (s.flushL1 d c).store.dirty = s.store.dirty := rfl
@[simp] theorem flushL1_store_host (s : State) (d c : Nat) : (s.flushL1 d c).store.host = s.store.host := rfl
@[simp] theorem flushL1_store_frames (s : State) (d c : Nat) : (s.flushL1 d c).store.frames = s.store.frames := rfl
@[simp] theorem flushL1_store_tlb (s : State) (d c : Nat) : (s.flushL1 d c).store.tlb = s.store.tlb := rfl
@[simp] theorem flushL1_store_follow (s : State) (d c : Nat) : (s.flushL1 d c).store.follow = s.store.follow := rfl
@[simp] theorem flushL1_store_usedFr (s : State) (d c : Nat) : (s.flushL1 d c).store.usedFr = s.store.usedFr := rfl
@[simp] theorem flushL1_store_freed (s : State) (d c : Nat) : (s.flushL1 d c).store.freed = s.store.freed := rfl
@[simp] theorem acquire_store_lines (s : State) (g : Nat) : (s.acquire g).store.lines = s.store.lines := rfl
@[simp] theorem acquire_store_dram (s : State) (g : Nat) : (s.acquire g).store.dram = s.store.dram := rfl
@[simp] theorem acquire_store_dirty (s : State) (g : Nat) : (s.acquire g).store.dirty = s.store.dirty := rfl
@[simp] theorem acquire_store_host (s : State) (g : Nat) : (s.acquire g).store.host = s.store.host := rfl
@[simp] theorem acquire_store_frames (s : State) (g : Nat) : (s.acquire g).store.frames = s.store.frames := rfl
@[simp] theorem acquire_store_tlb (s : State) (g : Nat) : (s.acquire g).store.tlb = s.store.tlb := rfl
@[simp] theorem acquire_store_follow (s : State) (g : Nat) : (s.acquire g).store.follow = s.store.follow := rfl
@[simp] theorem acquire_store_usedFr (s : State) (g : Nat) : (s.acquire g).store.usedFr = s.store.usedFr := rfl
@[simp] theorem acquire_store_freed (s : State) (g : Nat) : (s.acquire g).store.freed = s.store.freed := rfl

@[simp] theorem touch_part (s : State) (cn bit : Nat) : (s.touch cn bit).part = s.part := rfl
@[simp] theorem touch_sites (s : State) (cn bit : Nat) : (s.touch cn bit).sites = s.sites := rfl
@[simp] theorem touch_lost (s : State) (cn bit : Nat) : (s.touch cn bit).lost = s.lost := rfl
@[simp] theorem touch_clock (s : State) (cn bit : Nat) : (s.touch cn bit).clock = s.clock := rfl
@[simp] theorem touch_power (s : State) (cn bit : Nat) : (s.touch cn bit).power = s.power := rfl
@[simp] theorem touch_fabric (s : State) (cn bit : Nat) : (s.touch cn bit).fabric = s.fabric := rfl
@[simp] theorem touch_host (s : State) (cn bit : Nat) : (s.touch cn bit).host = s.host := rfl
@[simp] theorem touch_memctl (s : State) (cn bit : Nat) : (s.touch cn bit).memctl = s.memctl := rfl
@[simp] theorem touch_store (s : State) (cn bit : Nat) : (s.touch cn bit).store = s.store := rfl
@[simp] theorem touch_caches (s : State) (cn bit : Nat) : (s.touch cn bit).caches = s.caches := rfl
@[simp] theorem touch_ops (s : State) (cn bit : Nat) : (s.touch cn bit).ops = s.ops := rfl
@[simp] theorem touch_berths (s : State) (cn bit : Nat) : (s.touch cn bit).berths = s.berths := rfl
@[simp] theorem touch_ropes (s : State) (cn bit : Nat) : (s.touch cn bit).ropes = s.ropes := rfl
@[simp] theorem touch_mgmt (s : State) (cn bit : Nat) : (s.touch cn bit).mgmt = s.mgmt := rfl
@[simp] theorem touch_cur (s : State) (cn bit : Nat) : (s.touch cn bit).cur = s.cur := rfl
@[simp] theorem touch_sel (s : State) (cn bit : Nat) : (s.touch cn bit).sel = s.sel := rfl
@[simp] theorem touch_agenda (s : State) (cn bit : Nat) : (s.touch cn bit).agenda = s.agenda := rfl
@[simp] theorem touch_fresh (s : State) (cn bit : Nat) : (s.touch cn bit).fresh = s.fresh := rfl
@[simp] theorem touch_out (s : State) (cn bit : Nat) : (s.touch cn bit).out = s.out := rfl
@[simp] theorem touch_exec_teams (s : State) (cn bit : Nat) : (s.touch cn bit).exec.teams = s.exec.teams := rfl
@[simp] theorem touch_exec_groups (s : State) (cn bit : Nat) : (s.touch cn bit).exec.groups = s.exec.groups := rfl
@[simp] theorem touch_exec_victims (s : State) (cn bit : Nat) : (s.touch cn bit).exec.victims = s.exec.victims := rfl
@[simp] theorem touch_exec_windows (s : State) (cn bit : Nat) : (s.touch cn bit).exec.windows = s.exec.windows := rfl
@[simp] theorem touch_exec_misses (s : State) (cn bit : Nat) : (s.touch cn bit).exec.misses = s.exec.misses := rfl

@[simp] theorem useFeat_part (s : State) (cn bit : Nat) : (s.useFeat cn bit).part = s.part := rfl
@[simp] theorem useFeat_sites (s : State) (cn bit : Nat) : (s.useFeat cn bit).sites = s.sites := rfl
@[simp] theorem useFeat_lost (s : State) (cn bit : Nat) : (s.useFeat cn bit).lost = s.lost := rfl
@[simp] theorem useFeat_clock (s : State) (cn bit : Nat) : (s.useFeat cn bit).clock = s.clock := rfl
@[simp] theorem useFeat_power (s : State) (cn bit : Nat) : (s.useFeat cn bit).power = s.power := rfl
@[simp] theorem useFeat_fabric (s : State) (cn bit : Nat) : (s.useFeat cn bit).fabric = s.fabric := rfl
@[simp] theorem useFeat_host (s : State) (cn bit : Nat) : (s.useFeat cn bit).host = s.host := rfl
@[simp] theorem useFeat_memctl (s : State) (cn bit : Nat) : (s.useFeat cn bit).memctl = s.memctl := rfl
@[simp] theorem useFeat_store (s : State) (cn bit : Nat) : (s.useFeat cn bit).store = s.store := rfl
@[simp] theorem useFeat_caches (s : State) (cn bit : Nat) : (s.useFeat cn bit).caches = s.caches := rfl
@[simp] theorem useFeat_ops (s : State) (cn bit : Nat) : (s.useFeat cn bit).ops = s.ops := rfl
@[simp] theorem useFeat_berths (s : State) (cn bit : Nat) : (s.useFeat cn bit).berths = s.berths := rfl
@[simp] theorem useFeat_ropes (s : State) (cn bit : Nat) : (s.useFeat cn bit).ropes = s.ropes := rfl
@[simp] theorem useFeat_mgmt (s : State) (cn bit : Nat) : (s.useFeat cn bit).mgmt = s.mgmt := rfl
@[simp] theorem useFeat_cur (s : State) (cn bit : Nat) : (s.useFeat cn bit).cur = s.cur := rfl
@[simp] theorem useFeat_sel (s : State) (cn bit : Nat) : (s.useFeat cn bit).sel = s.sel := rfl
@[simp] theorem useFeat_agenda (s : State) (cn bit : Nat) : (s.useFeat cn bit).agenda = s.agenda := rfl
@[simp] theorem useFeat_fresh (s : State) (cn bit : Nat) : (s.useFeat cn bit).fresh = s.fresh := rfl
@[simp] theorem useFeat_out (s : State) (cn bit : Nat) : (s.useFeat cn bit).out = s.out := rfl
@[simp] theorem useFeat_exec_teams (s : State) (cn bit : Nat) : (s.useFeat cn bit).exec.teams = s.exec.teams := rfl
@[simp] theorem useFeat_exec_groups (s : State) (cn bit : Nat) : (s.useFeat cn bit).exec.groups = s.exec.groups := rfl
@[simp] theorem useFeat_exec_victims (s : State) (cn bit : Nat) : (s.useFeat cn bit).exec.victims = s.exec.victims := rfl
@[simp] theorem useFeat_exec_windows (s : State) (cn bit : Nat) : (s.useFeat cn bit).exec.windows = s.exec.windows := rfl
@[simp] theorem useFeat_exec_misses (s : State) (cn bit : Nat) : (s.useFeat cn bit).exec.misses = s.exec.misses := rfl

@[simp] theorem noteError_part (s : State) (e : ErrorEvt) : (s.noteError e).part = s.part := rfl
@[simp] theorem noteError_sites (s : State) (e : ErrorEvt) : (s.noteError e).sites = s.sites := rfl
@[simp] theorem noteError_lost (s : State) (e : ErrorEvt) : (s.noteError e).lost = s.lost := rfl
@[simp] theorem noteError_clock (s : State) (e : ErrorEvt) : (s.noteError e).clock = s.clock := rfl
@[simp] theorem noteError_power (s : State) (e : ErrorEvt) : (s.noteError e).power = s.power := rfl
@[simp] theorem noteError_fabric (s : State) (e : ErrorEvt) : (s.noteError e).fabric = s.fabric := rfl
@[simp] theorem noteError_host (s : State) (e : ErrorEvt) : (s.noteError e).host = s.host := rfl
@[simp] theorem noteError_memctl (s : State) (e : ErrorEvt) : (s.noteError e).memctl = s.memctl := rfl
@[simp] theorem noteError_store (s : State) (e : ErrorEvt) : (s.noteError e).store = s.store := rfl
@[simp] theorem noteError_caches (s : State) (e : ErrorEvt) : (s.noteError e).caches = s.caches := rfl
@[simp] theorem noteError_exec (s : State) (e : ErrorEvt) : (s.noteError e).exec = s.exec := rfl
@[simp] theorem noteError_ops (s : State) (e : ErrorEvt) : (s.noteError e).ops = s.ops := rfl
@[simp] theorem noteError_berths (s : State) (e : ErrorEvt) : (s.noteError e).berths = s.berths := rfl
@[simp] theorem noteError_ropes (s : State) (e : ErrorEvt) : (s.noteError e).ropes = s.ropes := rfl
@[simp] theorem noteError_cur (s : State) (e : ErrorEvt) : (s.noteError e).cur = s.cur := rfl
@[simp] theorem noteError_sel (s : State) (e : ErrorEvt) : (s.noteError e).sel = s.sel := rfl
@[simp] theorem noteError_agenda (s : State) (e : ErrorEvt) : (s.noteError e).agenda = s.agenda := rfl
@[simp] theorem noteError_fresh (s : State) (e : ErrorEvt) : (s.noteError e).fresh = s.fresh := rfl
@[simp] theorem noteError_out (s : State) (e : ErrorEvt) : (s.noteError e).out = s.out := rfl
@[simp] theorem noteError_mgmt_errors (s : State) (e : ErrorEvt) : (s.noteError e).mgmt.errors = s.mgmt.errors := rfl
@[simp] theorem noteError_mgmt_rascfg (s : State) (e : ErrorEvt) : (s.noteError e).mgmt.rascfg = s.mgmt.rascfg := rfl
@[simp] theorem noteError_mgmt_fw (s : State) (e : ErrorEvt) : (s.noteError e).mgmt.fw = s.mgmt.fw := rfl
@[simp] theorem noteError_mgmt_risk (s : State) (e : ErrorEvt) : (s.noteError e).mgmt.risk = s.mgmt.risk := rfl
@[simp] theorem noteError_mgmt_log (s : State) (e : ErrorEvt) : (s.noteError e).mgmt.log = s.mgmt.log := rfl
@[simp] theorem noteError_mgmt_sensors (s : State) (e : ErrorEvt) : (s.noteError e).mgmt.sensors = s.mgmt.sensors := rfl

@[simp] theorem dropL1_part (s : State) (gone : (die site line : Nat) → Bool) : (s.dropL1 gone).part = s.part := rfl
@[simp] theorem dropL1_sites (s : State) (gone : (die site line : Nat) → Bool) : (s.dropL1 gone).sites = s.sites := rfl
@[simp] theorem dropL1_lost (s : State) (gone : (die site line : Nat) → Bool) : (s.dropL1 gone).lost = s.lost := rfl
@[simp] theorem dropL1_clock (s : State) (gone : (die site line : Nat) → Bool) : (s.dropL1 gone).clock = s.clock := rfl
@[simp] theorem dropL1_power (s : State) (gone : (die site line : Nat) → Bool) : (s.dropL1 gone).power = s.power := rfl
@[simp] theorem dropL1_fabric (s : State) (gone : (die site line : Nat) → Bool) : (s.dropL1 gone).fabric = s.fabric := rfl
@[simp] theorem dropL1_host (s : State) (gone : (die site line : Nat) → Bool) : (s.dropL1 gone).host = s.host := rfl
@[simp] theorem dropL1_memctl (s : State) (gone : (die site line : Nat) → Bool) : (s.dropL1 gone).memctl = s.memctl := rfl
@[simp] theorem dropL1_exec (s : State) (gone : (die site line : Nat) → Bool) : (s.dropL1 gone).exec = s.exec := rfl
@[simp] theorem dropL1_ops (s : State) (gone : (die site line : Nat) → Bool) : (s.dropL1 gone).ops = s.ops := rfl
@[simp] theorem dropL1_berths (s : State) (gone : (die site line : Nat) → Bool) : (s.dropL1 gone).berths = s.berths := rfl
@[simp] theorem dropL1_ropes (s : State) (gone : (die site line : Nat) → Bool) : (s.dropL1 gone).ropes = s.ropes := rfl
@[simp] theorem dropL1_mgmt (s : State) (gone : (die site line : Nat) → Bool) : (s.dropL1 gone).mgmt = s.mgmt := rfl
@[simp] theorem dropL1_cur (s : State) (gone : (die site line : Nat) → Bool) : (s.dropL1 gone).cur = s.cur := rfl
@[simp] theorem dropL1_sel (s : State) (gone : (die site line : Nat) → Bool) : (s.dropL1 gone).sel = s.sel := rfl
@[simp] theorem dropL1_agenda (s : State) (gone : (die site line : Nat) → Bool) : (s.dropL1 gone).agenda = s.agenda := rfl
@[simp] theorem dropL1_fresh (s : State) (gone : (die site line : Nat) → Bool) : (s.dropL1 gone).fresh = s.fresh := rfl
@[simp] theorem dropL1_out (s : State) (gone : (die site line : Nat) → Bool) : (s.dropL1 gone).out = s.out := rfl
@[simp] theorem dropL1_caches_peers (s : State) (gone : (die site line : Nat) → Bool) : (s.dropL1 gone).caches.peers = s.caches.peers := rfl
@[simp] theorem dropL1_caches_leases (s : State) (gone : (die site line : Nat) → Bool) : (s.dropL1 gone).caches.leases = s.caches.leases := rfl
@[simp] theorem dropL1_caches_held (s : State) (gone : (die site line : Nat) → Bool) : (s.dropL1 gone).caches.held = s.caches.held := rfl
@[simp] theorem dropL1_caches_recalls (s : State) (gone : (die site line : Nat) → Bool) : (s.dropL1 gone).caches.recalls = s.caches.recalls := rfl
@[simp] theorem dropL1_store_lines (s : State) (gone : (die site line : Nat) → Bool) : (s.dropL1 gone).store.lines = s.store.lines := rfl
@[simp] theorem dropL1_store_dram (s : State) (gone : (die site line : Nat) → Bool) : (s.dropL1 gone).store.dram = s.store.dram := rfl
@[simp] theorem dropL1_store_dirty (s : State) (gone : (die site line : Nat) → Bool) : (s.dropL1 gone).store.dirty = s.store.dirty := rfl
@[simp] theorem dropL1_store_host (s : State) (gone : (die site line : Nat) → Bool) : (s.dropL1 gone).store.host = s.store.host := rfl
@[simp] theorem dropL1_store_frames (s : State) (gone : (die site line : Nat) → Bool) : (s.dropL1 gone).store.frames = s.store.frames := rfl
@[simp] theorem dropL1_store_tlb (s : State) (gone : (die site line : Nat) → Bool) : (s.dropL1 gone).store.tlb = s.store.tlb := rfl
@[simp] theorem dropL1_store_follow (s : State) (gone : (die site line : Nat) → Bool) : (s.dropL1 gone).store.follow = s.store.follow := rfl
@[simp] theorem dropL1_store_usedFr (s : State) (gone : (die site line : Nat) → Bool) : (s.dropL1 gone).store.usedFr = s.store.usedFr := rfl
@[simp] theorem dropL1_store_freed (s : State) (gone : (die site line : Nat) → Bool) : (s.dropL1 gone).store.freed = s.store.freed := rfl

@[simp] theorem dropPeers_part (s : State) (gone : Nat → Bool) : (s.dropPeers gone).part = s.part := rfl
@[simp] theorem dropPeers_sites (s : State) (gone : Nat → Bool) : (s.dropPeers gone).sites = s.sites := rfl
@[simp] theorem dropPeers_lost (s : State) (gone : Nat → Bool) : (s.dropPeers gone).lost = s.lost := rfl
@[simp] theorem dropPeers_clock (s : State) (gone : Nat → Bool) : (s.dropPeers gone).clock = s.clock := rfl
@[simp] theorem dropPeers_power (s : State) (gone : Nat → Bool) : (s.dropPeers gone).power = s.power := rfl
@[simp] theorem dropPeers_fabric (s : State) (gone : Nat → Bool) : (s.dropPeers gone).fabric = s.fabric := rfl
@[simp] theorem dropPeers_host (s : State) (gone : Nat → Bool) : (s.dropPeers gone).host = s.host := rfl
@[simp] theorem dropPeers_memctl (s : State) (gone : Nat → Bool) : (s.dropPeers gone).memctl = s.memctl := rfl
@[simp] theorem dropPeers_exec (s : State) (gone : Nat → Bool) : (s.dropPeers gone).exec = s.exec := rfl
@[simp] theorem dropPeers_ops (s : State) (gone : Nat → Bool) : (s.dropPeers gone).ops = s.ops := rfl
@[simp] theorem dropPeers_berths (s : State) (gone : Nat → Bool) : (s.dropPeers gone).berths = s.berths := rfl
@[simp] theorem dropPeers_ropes (s : State) (gone : Nat → Bool) : (s.dropPeers gone).ropes = s.ropes := rfl
@[simp] theorem dropPeers_mgmt (s : State) (gone : Nat → Bool) : (s.dropPeers gone).mgmt = s.mgmt := rfl
@[simp] theorem dropPeers_cur (s : State) (gone : Nat → Bool) : (s.dropPeers gone).cur = s.cur := rfl
@[simp] theorem dropPeers_sel (s : State) (gone : Nat → Bool) : (s.dropPeers gone).sel = s.sel := rfl
@[simp] theorem dropPeers_agenda (s : State) (gone : Nat → Bool) : (s.dropPeers gone).agenda = s.agenda := rfl
@[simp] theorem dropPeers_fresh (s : State) (gone : Nat → Bool) : (s.dropPeers gone).fresh = s.fresh := rfl
@[simp] theorem dropPeers_out (s : State) (gone : Nat → Bool) : (s.dropPeers gone).out = s.out := rfl
@[simp] theorem dropPeers_caches_l1 (s : State) (gone : Nat → Bool) : (s.dropPeers gone).caches.l1 = s.caches.l1 := rfl
@[simp] theorem dropPeers_caches_leases (s : State) (gone : Nat → Bool) : (s.dropPeers gone).caches.leases = s.caches.leases := rfl
@[simp] theorem dropPeers_caches_held (s : State) (gone : Nat → Bool) : (s.dropPeers gone).caches.held = s.caches.held := rfl
@[simp] theorem dropPeers_caches_recalls (s : State) (gone : Nat → Bool) : (s.dropPeers gone).caches.recalls = s.caches.recalls := rfl
@[simp] theorem dropPeers_store_dram (s : State) (gone : Nat → Bool) : (s.dropPeers gone).store.dram = s.store.dram := rfl
@[simp] theorem dropPeers_store_dirty (s : State) (gone : Nat → Bool) : (s.dropPeers gone).store.dirty = s.store.dirty := rfl
@[simp] theorem dropPeers_store_host (s : State) (gone : Nat → Bool) : (s.dropPeers gone).store.host = s.store.host := rfl
@[simp] theorem dropPeers_store_frames (s : State) (gone : Nat → Bool) : (s.dropPeers gone).store.frames = s.store.frames := rfl
@[simp] theorem dropPeers_store_tlb (s : State) (gone : Nat → Bool) : (s.dropPeers gone).store.tlb = s.store.tlb := rfl
@[simp] theorem dropPeers_store_follow (s : State) (gone : Nat → Bool) : (s.dropPeers gone).store.follow = s.store.follow := rfl
@[simp] theorem dropPeers_store_usedFr (s : State) (gone : Nat → Bool) : (s.dropPeers gone).store.usedFr = s.store.usedFr := rfl
@[simp] theorem dropPeers_store_freed (s : State) (gone : Nat → Bool) : (s.dropPeers gone).store.freed = s.store.freed := rfl

@[simp] theorem setXoff_part (s : State) (die : Nat) : (s.setXoff die).part = s.part := rfl
@[simp] theorem setXoff_sites (s : State) (die : Nat) : (s.setXoff die).sites = s.sites := rfl
@[simp] theorem setXoff_lost (s : State) (die : Nat) : (s.setXoff die).lost = s.lost := rfl
@[simp] theorem setXoff_clock (s : State) (die : Nat) : (s.setXoff die).clock = s.clock := rfl
@[simp] theorem setXoff_power (s : State) (die : Nat) : (s.setXoff die).power = s.power := rfl
@[simp] theorem setXoff_host (s : State) (die : Nat) : (s.setXoff die).host = s.host := rfl
@[simp] theorem setXoff_memctl (s : State) (die : Nat) : (s.setXoff die).memctl = s.memctl := rfl
@[simp] theorem setXoff_store (s : State) (die : Nat) : (s.setXoff die).store = s.store := rfl
@[simp] theorem setXoff_caches (s : State) (die : Nat) : (s.setXoff die).caches = s.caches := rfl
@[simp] theorem setXoff_exec (s : State) (die : Nat) : (s.setXoff die).exec = s.exec := rfl
@[simp] theorem setXoff_ops (s : State) (die : Nat) : (s.setXoff die).ops = s.ops := rfl
@[simp] theorem setXoff_berths (s : State) (die : Nat) : (s.setXoff die).berths = s.berths := rfl
@[simp] theorem setXoff_ropes (s : State) (die : Nat) : (s.setXoff die).ropes = s.ropes := rfl
@[simp] theorem setXoff_mgmt (s : State) (die : Nat) : (s.setXoff die).mgmt = s.mgmt := rfl
@[simp] theorem setXoff_cur (s : State) (die : Nat) : (s.setXoff die).cur = s.cur := rfl
@[simp] theorem setXoff_sel (s : State) (die : Nat) : (s.setXoff die).sel = s.sel := rfl
@[simp] theorem setXoff_agenda (s : State) (die : Nat) : (s.setXoff die).agenda = s.agenda := rfl
@[simp] theorem setXoff_fresh (s : State) (die : Nat) : (s.setXoff die).fresh = s.fresh := rfl
@[simp] theorem setXoff_out (s : State) (die : Nat) : (s.setXoff die).out = s.out := rfl
@[simp] theorem setXoff_fabric_slot (s : State) (die : Nat) : (s.setXoff die).fabric.slot = s.fabric.slot := rfl
@[simp] theorem setXoff_fabric_links (s : State) (die : Nat) : (s.setXoff die).fabric.links = s.fabric.links := rfl
@[simp] theorem setXoff_fabric_pools (s : State) (die : Nat) : (s.setXoff die).fabric.pools = s.fabric.pools := rfl
@[simp] theorem setXoff_fabric_high (s : State) (die : Nat) : (s.setXoff die).fabric.high = s.fabric.high := rfl
@[simp] theorem setXoff_fabric_low (s : State) (die : Nat) : (s.setXoff die).fabric.low = s.fabric.low := rfl

@[simp] theorem modOpen_part (s : State) (w : BitVec 7) (f : List OpenMsg → List OpenMsg) : (s.modOpen w f).part = s.part := rfl
@[simp] theorem modOpen_sites (s : State) (w : BitVec 7) (f : List OpenMsg → List OpenMsg) : (s.modOpen w f).sites = s.sites := rfl
@[simp] theorem modOpen_lost (s : State) (w : BitVec 7) (f : List OpenMsg → List OpenMsg) : (s.modOpen w f).lost = s.lost := rfl
@[simp] theorem modOpen_clock (s : State) (w : BitVec 7) (f : List OpenMsg → List OpenMsg) : (s.modOpen w f).clock = s.clock := rfl
@[simp] theorem modOpen_power (s : State) (w : BitVec 7) (f : List OpenMsg → List OpenMsg) : (s.modOpen w f).power = s.power := rfl
@[simp] theorem modOpen_host (s : State) (w : BitVec 7) (f : List OpenMsg → List OpenMsg) : (s.modOpen w f).host = s.host := rfl
@[simp] theorem modOpen_memctl (s : State) (w : BitVec 7) (f : List OpenMsg → List OpenMsg) : (s.modOpen w f).memctl = s.memctl := rfl
@[simp] theorem modOpen_store (s : State) (w : BitVec 7) (f : List OpenMsg → List OpenMsg) : (s.modOpen w f).store = s.store := rfl
@[simp] theorem modOpen_caches (s : State) (w : BitVec 7) (f : List OpenMsg → List OpenMsg) : (s.modOpen w f).caches = s.caches := rfl
@[simp] theorem modOpen_exec (s : State) (w : BitVec 7) (f : List OpenMsg → List OpenMsg) : (s.modOpen w f).exec = s.exec := rfl
@[simp] theorem modOpen_ops (s : State) (w : BitVec 7) (f : List OpenMsg → List OpenMsg) : (s.modOpen w f).ops = s.ops := rfl
@[simp] theorem modOpen_berths (s : State) (w : BitVec 7) (f : List OpenMsg → List OpenMsg) : (s.modOpen w f).berths = s.berths := rfl
@[simp] theorem modOpen_ropes (s : State) (w : BitVec 7) (f : List OpenMsg → List OpenMsg) : (s.modOpen w f).ropes = s.ropes := rfl
@[simp] theorem modOpen_mgmt (s : State) (w : BitVec 7) (f : List OpenMsg → List OpenMsg) : (s.modOpen w f).mgmt = s.mgmt := rfl
@[simp] theorem modOpen_cur (s : State) (w : BitVec 7) (f : List OpenMsg → List OpenMsg) : (s.modOpen w f).cur = s.cur := rfl
@[simp] theorem modOpen_sel (s : State) (w : BitVec 7) (f : List OpenMsg → List OpenMsg) : (s.modOpen w f).sel = s.sel := rfl
@[simp] theorem modOpen_agenda (s : State) (w : BitVec 7) (f : List OpenMsg → List OpenMsg) : (s.modOpen w f).agenda = s.agenda := rfl
@[simp] theorem modOpen_fresh (s : State) (w : BitVec 7) (f : List OpenMsg → List OpenMsg) : (s.modOpen w f).fresh = s.fresh := rfl
@[simp] theorem modOpen_out (s : State) (w : BitVec 7) (f : List OpenMsg → List OpenMsg) : (s.modOpen w f).out = s.out := rfl
@[simp] theorem modOpen_fabric_slot (s : State) (w : BitVec 7) (f : List OpenMsg → List OpenMsg) : (s.modOpen w f).fabric.slot = s.fabric.slot := rfl
@[simp] theorem modOpen_fabric_pools (s : State) (w : BitVec 7) (f : List OpenMsg → List OpenMsg) : (s.modOpen w f).fabric.pools = s.fabric.pools := rfl
@[simp] theorem modOpen_fabric_xoff (s : State) (w : BitVec 7) (f : List OpenMsg → List OpenMsg) : (s.modOpen w f).fabric.xoff = s.fabric.xoff := rfl
@[simp] theorem modOpen_fabric_high (s : State) (w : BitVec 7) (f : List OpenMsg → List OpenMsg) : (s.modOpen w f).fabric.high = s.fabric.high := rfl
@[simp] theorem modOpen_fabric_low (s : State) (w : BitVec 7) (f : List OpenMsg → List OpenMsg) : (s.modOpen w f).fabric.low = s.fabric.low := rfl

/-! ### The changed part -/

theorem group_modGroup (s : State) (g k : Nat) (f : Group → Group) :
    (s.modGroup g f).exec.groups[k]? = if k = g then s.exec.groups[k]?.map f else s.exec.groups[k]? := getElem?_modAt ..
theorem team_modTeam (s : State) (t k : Nat) (f : Team → Team) :
    (s.modTeam t f).exec.teams[k]? = if k = t then s.exec.teams[k]?.map f else s.exec.teams[k]? := getElem?_modAt ..
theorem ctx_modCtx (s : State) (c k : Nat) (f : Ctx → Ctx) :
    (s.modCtx c f).exec.ctxs[k]? = if k = c then s.exec.ctxs[k]?.map f else s.exec.ctxs[k]? := getElem?_modAt ..
theorem queue_modQueue (s : State) (q k : Nat) (f : Queue → Queue) :
    (s.modQueue q f).host.queues[k]? = if k = q then s.host.queues[k]?.map f else s.host.queues[k]? := getElem?_modAt ..
theorem fn_modFn (s : State) (n k : Nat) (f : Fn → Fn) :
    (s.modFn n f).host.fns[k]? = if k = n then s.host.fns[k]?.map f else s.host.fns[k]? := getElem?_modAt ..
theorem link_modLink (s : State) (w : BitVec 7) (k : Nat) (f : Link → Link) :
    (s.modLink w f).fabric.links[k]? = if k = w.toNat then s.fabric.links[k]?.map f else s.fabric.links[k]? := getElem?_modAt ..

@[simp] theorem teams_modGroup (s : State) (g : Nat) (f : Group → Group) : (s.modGroup g f).exec.teams = s.exec.teams := rfl
@[simp] theorem ctxs_modGroup (s : State) (g : Nat) (f : Group → Group) : (s.modGroup g f).exec.ctxs = s.exec.ctxs := rfl
@[simp] theorem groups_modTeam (s : State) (t : Nat) (f : Team → Team) : (s.modTeam t f).exec.groups = s.exec.groups := rfl
@[simp] theorem ctxs_modTeam (s : State) (t : Nat) (f : Team → Team) : (s.modTeam t f).exec.ctxs = s.exec.ctxs := rfl
@[simp] theorem groups_modCtx (s : State) (c : Nat) (f : Ctx → Ctx) : (s.modCtx c f).exec.groups = s.exec.groups := rfl
@[simp] theorem teams_modCtx (s : State) (c : Nat) (f : Ctx → Ctx) : (s.modCtx c f).exec.teams = s.exec.teams := rfl
@[simp] theorem emit_out_mem (s : State) (o : Output) : (s.emit o).out = s.out ++ [o] := rfl
theorem ctx_touch (s : State) (cn bit k : Nat) :
    (s.touch cn bit).exec.ctxs[k]? =
      if k = cn then s.exec.ctxs[k]?.map (fun c => { c with touched := c.touched ||| BitVec.ofNat 12 (2 ^ bit) }) else s.exec.ctxs[k]? :=
  getElem?_modAt ..
theorem ctx_useFeat (s : State) (cn bit k : Nat) :
    (s.useFeat cn bit).exec.ctxs[k]? =
      if k = cn then s.exec.ctxs[k]?.map (fun c => { c with featUsed := c.featUsed ||| BitVec.ofNat 64 (2 ^ bit) }) else s.exec.ctxs[k]? :=
  getElem?_modAt ..
theorem snap_modSnap (s : State) (e k : Nat) (f : Snapshot → Snapshot) :
    (s.modSnap e f).host.snaps[k]? = if k = e then s.host.snaps[k]?.map f else s.host.snaps[k]? := getElem?_modAt ..
/-- An L1 line stays exactly when it is not among those that go. -/
theorem mem_l1_dropL1 (s : State) (gone : (die site line : Nat) → Bool) (l : L1Line) :
    l ∈ (s.dropL1 gone).caches.l1 ↔ l ∈ s.caches.l1 ∧ gone l.die l.site l.line = false := by
  simp [State.dropL1]
/-- A copy of a peer's line stays exactly when its line is not among those that go. -/
theorem mem_peers_dropPeers (s : State) (gone : Nat → Bool) (c : PeerCopy) :
    c ∈ (s.dropPeers gone).caches.peers ↔ c ∈ s.caches.peers ∧ gone c.line = false := by
  simp [State.dropPeers]

@[simp] theorem fencePassed_part (s : State) (r : SplitRef) (hit : BitVec 12 → Bool) : (s.fencePassed r hit).part = s.part := rfl
@[simp] theorem fencePassed_sites (s : State) (r : SplitRef) (hit : BitVec 12 → Bool) : (s.fencePassed r hit).sites = s.sites := rfl
@[simp] theorem fencePassed_lost (s : State) (r : SplitRef) (hit : BitVec 12 → Bool) : (s.fencePassed r hit).lost = s.lost := rfl
@[simp] theorem fencePassed_clock (s : State) (r : SplitRef) (hit : BitVec 12 → Bool) : (s.fencePassed r hit).clock = s.clock := rfl
@[simp] theorem fencePassed_power (s : State) (r : SplitRef) (hit : BitVec 12 → Bool) : (s.fencePassed r hit).power = s.power := rfl
@[simp] theorem fencePassed_fabric (s : State) (r : SplitRef) (hit : BitVec 12 → Bool) : (s.fencePassed r hit).fabric = s.fabric := rfl
@[simp] theorem fencePassed_host (s : State) (r : SplitRef) (hit : BitVec 12 → Bool) : (s.fencePassed r hit).host = s.host := rfl
@[simp] theorem fencePassed_memctl (s : State) (r : SplitRef) (hit : BitVec 12 → Bool) : (s.fencePassed r hit).memctl = s.memctl := rfl
@[simp] theorem fencePassed_store (s : State) (r : SplitRef) (hit : BitVec 12 → Bool) : (s.fencePassed r hit).store = s.store := rfl
@[simp] theorem fencePassed_caches (s : State) (r : SplitRef) (hit : BitVec 12 → Bool) : (s.fencePassed r hit).caches = s.caches := rfl
@[simp] theorem fencePassed_berths (s : State) (r : SplitRef) (hit : BitVec 12 → Bool) : (s.fencePassed r hit).berths = s.berths := rfl
@[simp] theorem fencePassed_ropes (s : State) (r : SplitRef) (hit : BitVec 12 → Bool) : (s.fencePassed r hit).ropes = s.ropes := rfl
@[simp] theorem fencePassed_mgmt (s : State) (r : SplitRef) (hit : BitVec 12 → Bool) : (s.fencePassed r hit).mgmt = s.mgmt := rfl
@[simp] theorem fencePassed_cur (s : State) (r : SplitRef) (hit : BitVec 12 → Bool) : (s.fencePassed r hit).cur = s.cur := rfl
@[simp] theorem fencePassed_sel (s : State) (r : SplitRef) (hit : BitVec 12 → Bool) : (s.fencePassed r hit).sel = s.sel := rfl
@[simp] theorem fencePassed_agenda (s : State) (r : SplitRef) (hit : BitVec 12 → Bool) : (s.fencePassed r hit).agenda = s.agenda := rfl
@[simp] theorem fencePassed_fresh (s : State) (r : SplitRef) (hit : BitVec 12 → Bool) : (s.fencePassed r hit).fresh = s.fresh := rfl
@[simp] theorem fencePassed_out (s : State) (r : SplitRef) (hit : BitVec 12 → Bool) : (s.fencePassed r hit).out = s.out := rfl

@[simp] theorem markSeen_part (s : State) (f : MOp → Piece → Bool) : (s.markSeen f).part = s.part := rfl
@[simp] theorem markSeen_sites (s : State) (f : MOp → Piece → Bool) : (s.markSeen f).sites = s.sites := rfl
@[simp] theorem markSeen_lost (s : State) (f : MOp → Piece → Bool) : (s.markSeen f).lost = s.lost := rfl
@[simp] theorem markSeen_clock (s : State) (f : MOp → Piece → Bool) : (s.markSeen f).clock = s.clock := rfl
@[simp] theorem markSeen_power (s : State) (f : MOp → Piece → Bool) : (s.markSeen f).power = s.power := rfl
@[simp] theorem markSeen_fabric (s : State) (f : MOp → Piece → Bool) : (s.markSeen f).fabric = s.fabric := rfl
@[simp] theorem markSeen_host (s : State) (f : MOp → Piece → Bool) : (s.markSeen f).host = s.host := rfl
@[simp] theorem markSeen_memctl (s : State) (f : MOp → Piece → Bool) : (s.markSeen f).memctl = s.memctl := rfl
@[simp] theorem markSeen_store (s : State) (f : MOp → Piece → Bool) : (s.markSeen f).store = s.store := rfl
@[simp] theorem markSeen_caches (s : State) (f : MOp → Piece → Bool) : (s.markSeen f).caches = s.caches := rfl
@[simp] theorem markSeen_exec (s : State) (f : MOp → Piece → Bool) : (s.markSeen f).exec = s.exec := rfl
@[simp] theorem markSeen_berths (s : State) (f : MOp → Piece → Bool) : (s.markSeen f).berths = s.berths := rfl
@[simp] theorem markSeen_ropes (s : State) (f : MOp → Piece → Bool) : (s.markSeen f).ropes = s.ropes := rfl
@[simp] theorem markSeen_mgmt (s : State) (f : MOp → Piece → Bool) : (s.markSeen f).mgmt = s.mgmt := rfl
@[simp] theorem markSeen_cur (s : State) (f : MOp → Piece → Bool) : (s.markSeen f).cur = s.cur := rfl
@[simp] theorem markSeen_sel (s : State) (f : MOp → Piece → Bool) : (s.markSeen f).sel = s.sel := rfl
@[simp] theorem markSeen_agenda (s : State) (f : MOp → Piece → Bool) : (s.markSeen f).agenda = s.agenda := rfl
@[simp] theorem markSeen_fresh (s : State) (f : MOp → Piece → Bool) : (s.markSeen f).fresh = s.fresh := rfl
@[simp] theorem markSeen_out (s : State) (f : MOp → Piece → Bool) : (s.markSeen f).out = s.out := rfl

@[simp] theorem performedAtGrp_part (s : State) (g : Nat) : (s.performedAtGrp g).part = s.part := rfl
@[simp] theorem performedAtGrp_sites (s : State) (g : Nat) : (s.performedAtGrp g).sites = s.sites := rfl
@[simp] theorem performedAtGrp_lost (s : State) (g : Nat) : (s.performedAtGrp g).lost = s.lost := rfl
@[simp] theorem performedAtGrp_clock (s : State) (g : Nat) : (s.performedAtGrp g).clock = s.clock := rfl
@[simp] theorem performedAtGrp_power (s : State) (g : Nat) : (s.performedAtGrp g).power = s.power := rfl
@[simp] theorem performedAtGrp_fabric (s : State) (g : Nat) : (s.performedAtGrp g).fabric = s.fabric := rfl
@[simp] theorem performedAtGrp_host (s : State) (g : Nat) : (s.performedAtGrp g).host = s.host := rfl
@[simp] theorem performedAtGrp_memctl (s : State) (g : Nat) : (s.performedAtGrp g).memctl = s.memctl := rfl
@[simp] theorem performedAtGrp_store (s : State) (g : Nat) : (s.performedAtGrp g).store = s.store := rfl
@[simp] theorem performedAtGrp_caches (s : State) (g : Nat) : (s.performedAtGrp g).caches = s.caches := rfl
@[simp] theorem performedAtGrp_exec (s : State) (g : Nat) : (s.performedAtGrp g).exec = s.exec := rfl
@[simp] theorem performedAtGrp_berths (s : State) (g : Nat) : (s.performedAtGrp g).berths = s.berths := rfl
@[simp] theorem performedAtGrp_ropes (s : State) (g : Nat) : (s.performedAtGrp g).ropes = s.ropes := rfl
@[simp] theorem performedAtGrp_mgmt (s : State) (g : Nat) : (s.performedAtGrp g).mgmt = s.mgmt := rfl
@[simp] theorem performedAtGrp_cur (s : State) (g : Nat) : (s.performedAtGrp g).cur = s.cur := rfl
@[simp] theorem performedAtGrp_sel (s : State) (g : Nat) : (s.performedAtGrp g).sel = s.sel := rfl
@[simp] theorem performedAtGrp_agenda (s : State) (g : Nat) : (s.performedAtGrp g).agenda = s.agenda := rfl
@[simp] theorem performedAtGrp_fresh (s : State) (g : Nat) : (s.performedAtGrp g).fresh = s.fresh := rfl
@[simp] theorem performedAtGrp_out (s : State) (g : Nat) : (s.performedAtGrp g).out = s.out := rfl

@[simp] theorem readThrough_part (s : State) (o : MOp) (is : List Nat) : (s.readThrough o is).part = s.part := rfl
@[simp] theorem readThrough_sites (s : State) (o : MOp) (is : List Nat) : (s.readThrough o is).sites = s.sites := rfl
@[simp] theorem readThrough_lost (s : State) (o : MOp) (is : List Nat) : (s.readThrough o is).lost = s.lost := rfl
@[simp] theorem readThrough_clock (s : State) (o : MOp) (is : List Nat) : (s.readThrough o is).clock = s.clock := rfl
@[simp] theorem readThrough_power (s : State) (o : MOp) (is : List Nat) : (s.readThrough o is).power = s.power := rfl
@[simp] theorem readThrough_fabric (s : State) (o : MOp) (is : List Nat) : (s.readThrough o is).fabric = s.fabric := rfl
@[simp] theorem readThrough_host (s : State) (o : MOp) (is : List Nat) : (s.readThrough o is).host = s.host := rfl
@[simp] theorem readThrough_memctl (s : State) (o : MOp) (is : List Nat) : (s.readThrough o is).memctl = s.memctl := rfl
@[simp] theorem readThrough_store (s : State) (o : MOp) (is : List Nat) : (s.readThrough o is).store = s.store := rfl
@[simp] theorem readThrough_caches (s : State) (o : MOp) (is : List Nat) : (s.readThrough o is).caches = s.caches := rfl
@[simp] theorem readThrough_exec (s : State) (o : MOp) (is : List Nat) : (s.readThrough o is).exec = s.exec := rfl
@[simp] theorem readThrough_berths (s : State) (o : MOp) (is : List Nat) : (s.readThrough o is).berths = s.berths := rfl
@[simp] theorem readThrough_ropes (s : State) (o : MOp) (is : List Nat) : (s.readThrough o is).ropes = s.ropes := rfl
@[simp] theorem readThrough_mgmt (s : State) (o : MOp) (is : List Nat) : (s.readThrough o is).mgmt = s.mgmt := rfl
@[simp] theorem readThrough_cur (s : State) (o : MOp) (is : List Nat) : (s.readThrough o is).cur = s.cur := rfl
@[simp] theorem readThrough_sel (s : State) (o : MOp) (is : List Nat) : (s.readThrough o is).sel = s.sel := rfl
@[simp] theorem readThrough_agenda (s : State) (o : MOp) (is : List Nat) : (s.readThrough o is).agenda = s.agenda := rfl
@[simp] theorem readThrough_fresh (s : State) (o : MOp) (is : List Nat) : (s.readThrough o is).fresh = s.fresh := rfl
@[simp] theorem readThrough_out (s : State) (o : MOp) (is : List Nat) : (s.readThrough o is).out = s.out := rfl

@[simp] theorem inherit_part (s : State) (r : SplitRef) (n : Nat) : (s.inherit r n).part = s.part := rfl
@[simp] theorem inherit_sites (s : State) (r : SplitRef) (n : Nat) : (s.inherit r n).sites = s.sites := rfl
@[simp] theorem inherit_lost (s : State) (r : SplitRef) (n : Nat) : (s.inherit r n).lost = s.lost := rfl
@[simp] theorem inherit_clock (s : State) (r : SplitRef) (n : Nat) : (s.inherit r n).clock = s.clock := rfl
@[simp] theorem inherit_power (s : State) (r : SplitRef) (n : Nat) : (s.inherit r n).power = s.power := rfl
@[simp] theorem inherit_fabric (s : State) (r : SplitRef) (n : Nat) : (s.inherit r n).fabric = s.fabric := rfl
@[simp] theorem inherit_host (s : State) (r : SplitRef) (n : Nat) : (s.inherit r n).host = s.host := rfl
@[simp] theorem inherit_memctl (s : State) (r : SplitRef) (n : Nat) : (s.inherit r n).memctl = s.memctl := rfl
@[simp] theorem inherit_store (s : State) (r : SplitRef) (n : Nat) : (s.inherit r n).store = s.store := rfl
@[simp] theorem inherit_caches (s : State) (r : SplitRef) (n : Nat) : (s.inherit r n).caches = s.caches := rfl
@[simp] theorem inherit_berths (s : State) (r : SplitRef) (n : Nat) : (s.inherit r n).berths = s.berths := rfl
@[simp] theorem inherit_ropes (s : State) (r : SplitRef) (n : Nat) : (s.inherit r n).ropes = s.ropes := rfl
@[simp] theorem inherit_mgmt (s : State) (r : SplitRef) (n : Nat) : (s.inherit r n).mgmt = s.mgmt := rfl
@[simp] theorem inherit_cur (s : State) (r : SplitRef) (n : Nat) : (s.inherit r n).cur = s.cur := rfl
@[simp] theorem inherit_sel (s : State) (r : SplitRef) (n : Nat) : (s.inherit r n).sel = s.sel := rfl
@[simp] theorem inherit_agenda (s : State) (r : SplitRef) (n : Nat) : (s.inherit r n).agenda = s.agenda := rfl
@[simp] theorem inherit_fresh (s : State) (r : SplitRef) (n : Nat) : (s.inherit r n).fresh = s.fresh := rfl
@[simp] theorem inherit_out (s : State) (r : SplitRef) (n : Nat) : (s.inherit r n).out = s.out := rfl

/-- A fence or a WAITF that is passed, and a new split, leave the teams and the contexts. -/
@[simp] theorem fencePassed_teams (s : State) (r : SplitRef) (hit : BitVec 12 → Bool) : (s.fencePassed r hit).exec.teams = s.exec.teams := rfl
@[simp] theorem fencePassed_ctxs (s : State) (r : SplitRef) (hit : BitVec 12 → Bool) : (s.fencePassed r hit).exec.ctxs = s.exec.ctxs := rfl
@[simp] theorem inherit_teams (s : State) (r : SplitRef) (n : Nat) : (s.inherit r n).exec.teams = s.exec.teams := rfl
@[simp] theorem inherit_ctxs (s : State) (r : SplitRef) (n : Nat) : (s.inherit r n).exec.ctxs = s.exec.ctxs := rfl

/-- Work of an activity changes the host side alone: what is charged, and what of it is made. -/
theorem work_rest (s : State) (a n : Nat) : (s.work a n).1 = { s with host := (s.work a n).1.host } := by
  unfold State.work
  dsimp only
  split <;> rfl

end Sys2Proof.Laws
end

