-- ==== Sys2Proof/Tests/Slice0.lean ====
section
/-!
SUPPORT. Tests: well-formedness with an ill-formed term for each check, decoding of words written out from the manual's encodings,
single steps with results worked out by hand from the rules, and states that meet the hypotheses of every statement.
-/

namespace Sys2Proof.Tests

open Sys2Proof.Machine Sys2Proof.Safety

/-! ### Decoding (R310 to R316, R329) -/

/-- Every pair of words decodes to the instruction beside it. -/
def allDecode (l : List (W32 × W32 × Instr)) : Bool := l.all (fun p => match decode p.1 p.2.1 with | .ok i => i == p.2.2 | .error _ => false)
def allLane (l : List (W96 × Instr)) : Bool := l.all (fun p => match decodeLane p.1 with | .ok i => i == p.2 | .error _ => false)

/-- The fields of the lane words below, every one at a value of its own: DST 10, SA 20, SB 30, SC 31, KA 1, LA, MSK 5, MNOT, TY 8,
RM 1, FS 6, CW, CND 9, IMM16 0x1234. -/
def sample (mod : BitVec 9) : LaneWord := ⟨10, 20, 30, 31, 1, 0, 0, true, false, false, false, false, false, 5, true, 8, 1, 6, true, 9, mod, 0x1234⟩

/-- R310, R311, R347 to R353, R446: SOP 0x00, and 0x10 to 0x17. -/
theorem test_decode_control : allDecode [
    (0x00000000, 0xFFFFFFFF, .nop),
    (0x00000001, 0xFFFFFFFF, .exit),
    (0x00000002, 0xFFFFFFFF, .join),
    (0x00000003, 0xFFFFFFFF, .yield),
    (0x00000004, 0xFFFFFFFF, .brk),
    (0x00000005, 0xFFFFFFFF, .ret),
    (0x00048006, 0xFFFFFFFF, .jmpr 18),
    (0x00900007, 0xFFFFFFFF, .time 9),
    (0x00048008, 0xFFFFFFFF, .sleept 18),
    (0x00048009, 0xFFFFFFFF, .pagereq 18),
    (0x0000000A, 0xFFFFFFFF, .rett),
    (0x41296EA5, 0xFFFFFFFF, .brc 18 37 5 0x6a5),
    (0x52AAAA55, 0xFFFFFFFF, .run 0x2aaaa55),
    (0x56000A5C, 0xFFFFFFFF, .waitf true 0xa5c),
    (0x58000005, 0xFFFFFFFF, .seg 5),
    (0x5C04AA55, 0xFFFFFFFF, .trap 18 0x2a55),
    (0x46AAAA55, 0xFFFFFFFF, .jmp 0x2AAAA55),
    (0x4AAAAA55, 0xFFFFFFFF, .call 0x2AAAA55),
    (0x4EC00000, 0x8001FFFE, .bspl 5 true 0x8001 0xFFFE)] = true := by decide

/-- R340: SOP 0x01, by FN. -/
theorem test_decode_alu : allDecode [
    (0x0494A500, 0xFFFFFFFF, .add 9 18 37),
    (0x0494A501, 0xFFFFFFFF, .sub 9 18 37),
    (0x0494A502, 0xFFFFFFFF, .mul 9 18 37),
    (0x0494A503, 0xFFFFFFFF, .mulhn 9 18 37),
    (0x0494A504, 0xFFFFFFFF, .mulhi 9 18 37),
    (0x0494A505, 0xFFFFFFFF, .divn 9 18 37),
    (0x0494A506, 0xFFFFFFFF, .divi 9 18 37),
    (0x0494A507, 0xFFFFFFFF, .remn 9 18 37),
    (0x0494A508, 0xFFFFFFFF, .remi 9 18 37),
    (0x0494A510, 0xFFFFFFFF, .and 9 18 37),
    (0x0494A511, 0xFFFFFFFF, .or 9 18 37),
    (0x0494A512, 0xFFFFFFFF, .xor 9 18 37),
    (0x0494A513, 0xFFFFFFFF, .andn 9 18 37),
    (0x0494A518, 0xFFFFFFFF, .shl 9 18 37),
    (0x0494A519, 0xFFFFFFFF, .shr 9 18 37),
    (0x0494A51A, 0xFFFFFFFF, .sra 9 18 37),
    (0x0494A520, 0xFFFFFFFF, .minn 9 18 37),
    (0x0494A521, 0xFFFFFFFF, .mini 9 18 37),
    (0x0494A522, 0xFFFFFFFF, .maxn 9 18 37),
    (0x0494A523, 0xFFFFFFFF, .maxi 9 18 37),
    (0x0494A528, 0xFFFFFFFF, .seq 9 18 37),
    (0x0494A529, 0xFFFFFFFF, .sne 9 18 37),
    (0x0494A52A, 0xFFFFFFFF, .sltn 9 18 37),
    (0x0494A52B, 0xFFFFFFFF, .slti 9 18 37),
    (0x04948030, 0xFFFFFFFF, .clz 9 18),
    (0x04948031, 0xFFFFFFFF, .popc 9 18)] = true := by decide

/-- R342, R344: SOP 0x02 to 0x0B. -/
theorem test_decode_immediates : allDecode [
    (0x0894AA55, 0xFFFFFFFF, .addi 9 18 0x2a55),
    (0x0C94AA55, 0xFFFFFFFF, .andi 9 18 0x2a55),
    (0x1094AA55, 0xFFFFFFFF, .ori 9 18 0x2a55),
    (0x1494AA55, 0xFFFFFFFF, .xori 9 18 0x2a55),
    (0x18948029, 0xFFFFFFFF, .shli 9 18 41),
    (0x1C948029, 0xFFFFFFFF, .shri 9 18 41),
    (0x20948029, 0xFFFFFFFF, .srai 9 18 41),
    (0x2494AA55, 0xFFFFFFFF, .sltin 9 18 0x2a55),
    (0x2894AA55, 0xFFFFFFFF, .sltii 9 18 0x2a55),
    (0x2C900000, 0x89ABCDEF, .liwSx 9 0x89ABCDEF),
    (0x2C900001, 0x89ABCDEF, .liwZx 9 0x89ABCDEF),
    (0x2C900002, 0x89ABCDEF, .liwHi 9 0x89ABCDEF)] = true := by decide

/-- R345, R449: SOP 0x0C to 0x0F, 0x1B and 0x1C. -/
theorem test_decode_scalar_memory_and_special : allDecode [
    (0x3094AA55, 0xFFFFFFFF, .slw 9 18 0x2a55),
    (0x3494AA55, 0xFFFFFFFF, .sld 9 18 0x2a55),
    (0x3894AA55, 0xFFFFFFFF, .ssw 9 18 0x2a55),
    (0x3C94AA55, 0xFFFFFFFF, .ssd 9 18 0x2a55),
    (0x6C901234, 0xFFFFFFFF, .smr 9 0x1234),
    (0x70049234, 0xFFFFFFFF, .smw 18 0x1234)] = true := by decide

/-- R356, R359, R222: SOP 0x18 to 0x1A. -/
theorem test_decode_barriers_and_fences : allDecode [
    (0x609000B0, 0xFFFFFFFF, .tbarArrive 9 11),
    (0x609000B1, 0xFFFFFFFF, .tbarWait 9 11),
    (0x609000B2, 0xFFFFFFFF, .tbarSync 9 11),
    (0x6094A5B3, 0xFFFFFFFF, .tbarExpect 9 18 37 11),
    (0x609025B4, 0xFFFFFFFF, .tbarAddb 9 37 11),
    (0x609000B5, 0xFFFFFFFF, .tbarTest 9 11),
    (0x64900000, 0xFFFFFFFF, .cbarArrive 9),
    (0x64900001, 0xFFFFFFFF, .cbarWait 9),
    (0x64900002, 0xFFFFFFFF, .cbarSync 9),
    (0x68000004, 0xFFFFFFFF, .fenceAcq 4),
    (0x6800000B, 0xFFFFFFFF, .fenceRel 3),
    (0x68000013, 0xFFFFFFFF, .fenceAr 3),
    (0x6800001B, 0xFFFFFFFF, .fenceSc 3)] = true := by decide

/-- R361 to R364, R425, R434 to R441: SOP 0x20 to 0x2C. -/
theorem test_decode_tiles_copies_and_berths : allDecode [
    (0x8094A5AD, 0xFFFFFFFF, .talloc 9 18 37 2 45),
    (0x849000AD, 0xFFFFFFFF, .tfree 9 2 45),
    (0x889000AD, 0xFFFFFFFF, .tinfo 9 2 45),
    (0x9494A52D, 0xFFFFFFFF, .dprobe 9 18 37 45),
    (0xA0948054, 0xFFFFFFFF, .bmint 9 18 1 20),
    (0xA4948000, 0xFFFFFFFF, .bwait 9 18),
    (0xA804A501, 0xFFFFFFFF, .bput 18 37 1),
    (0xAC048000, 0xFFFFFFFF, .bdrop 18),
    (0xB094A500, 0xFFFFFFFF, .stage 9 18 37),
    (0x9004A52D, 0x5DF01234, .drayM2t 18 37 45 ⟨5, true, 11, true, 3, 0x1234⟩),
    (0x9004A56D, 0x5DF01234, .drayT2m 18 37 45 ⟨5, true, 11, true, 3, 0x1234⟩),
    (0x900480AD, 0x5DF01234, .drayT2t 18 45 ⟨5, true, 11, true, 3, 0x1234⟩),
    (0x9004A5C0, 0x5DF00000, .drayRed 18 37 ⟨5, true, 11, true, 3, 0⟩)] = true := by decide

/-- R329: LOP 0x00 to 0x22. -/
theorem test_decode_lane_integers : allLane [
    (0x000A141E1F420B83B3451234, .iadd (sample 0x145)),
    (0x010A141E1F420B83B3451234, .isub (sample 0x145)),
    (0x020A141E1F420B83B3451234, .iadc (sample 0x145)),
    (0x030A141E1F420B83B3451234, .isbc (sample 0x145)),
    (0x040A141E1F420B83B3451234, .imul (sample 0x145)),
    (0x050A141E1F420B83B3451234, .imulh (sample 0x145)),
    (0x060A141E1F420B83B3451234, .imad (sample 0x145)),
    (0x070A141E1F420B83B3451234, .idiv (sample 0x145)),
    (0x080A141E1F420B83B3451234, .irem (sample 0x145)),
    (0x090A141E1F420B83B3451234, .imin (sample 0x145)),
    (0x0A0A141E1F420B83B3451234, .imax (sample 0x145)),
    (0x0B0A141E1F420B83B3451234, .iabs (sample 0x145)),
    (0x0C0A141E1F420B83B3451234, .isad (sample 0x145)),
    (0x100A141E1F420B83B3451234, .blut (sample 0x145)),
    (0x110A141E1F420B83B3451234, .laneShl (sample 0x145)),
    (0x120A141E1F420B83B3451234, .laneShr (sample 0x145)),
    (0x130A141E1F420B83B3451234, .laneSra (sample 0x145)),
    (0x140A141E1F420B83B3451234, .fshl (sample 0x145)),
    (0x150A141E1F420B83B3451234, .fshr (sample 0x145)),
    (0x160A141E1F420B83B3451234, .bfx (sample 0x145)),
    (0x170A141E1F420B83B3451234, .bfi (sample 0x145)),
    (0x180A141E1F420B83B3451234, .lanePopc (sample 0x145)),
    (0x190A141E1F420B83B3451234, .laneClz (sample 0x145)),
    (0x1A0A141E1F420B83B3451234, .brev (sample 0x145)),
    (0x1B0A141E1F420B83B3451234, .prmt (sample 0x145)),
    (0x200A141E1F420B83B3451234, .iset (sample 0x145)),
    (0x210A141E1F420B83B3451234, .sel (sample 0x145)),
    (0x220A141E1F420B83B3451234, .mov (sample 0x145))] = true := by decide

/-- R329: LOP 0x40 to 0x63. -/
theorem test_decode_lane_floats : allLane [
    (0x400A141E1F420B83B3451234, .fadd (sample 0x145)),
    (0x410A141E1F420B83B3451234, .fsub (sample 0x145)),
    (0x420A141E1F420B83B3451234, .fmul (sample 0x145)),
    (0x430A141E1F420B83B3451234, .ffma (sample 0x145)),
    (0x440A141E1F420B83B3451234, .fmin (sample 0x145)),
    (0x450A141E1F420B83B3451234, .fmax (sample 0x145)),
    (0x460A141E1F420B83B3451234, .fdiv (sample 0x145)),
    (0x470A141E1F420B83B3451234, .fsqrt (sample 0x145)),
    (0x480A141E1F420B83B3451234, .frcp (sample 0x145)),
    (0x490A141E1F420B83B3451234, .frsq (sample 0x145)),
    (0x4A0A141E1F420B83B3451234, .fex2 (sample 0x145)),
    (0x4B0A141E1F420B83B3451234, .flg2 (sample 0x145)),
    (0x4C0A141E1F420B83B3451234, .fsinp (sample 0x145)),
    (0x4D0A141E1F420B83B3451234, .fcosp (sample 0x145)),
    (0x500A141E1F420B83B3451234, .fset (sample 0x145)),
    (0x510A141E1F420B83B3451234, .fclass (sample 0x145)),
    (0x520A141E1F420B83B3451234, .frnd (sample 0x145)),
    (0x530A141E1F420B83B3451234, .fscale (sample 0x145)),
    (0x540A141E1F420B83B3451234, .fgete (sample 0x145)),
    (0x600A141E1F420B83B3451234, .cvt (sample 0x145)),
    (0x610A141E1F420B83B3441234, .cvtsEnc (sample 0x144)),
    (0x610A141E1F420B83B3451234, .cvtsDec (sample 0x145)),
    (0x620A141E1F420B83B3451234, .pack (sample 0x145)),
    (0x630A141E1F420B83B3451234, .unpk (sample 0x145))] = true := by decide

/-- R329: LOP 0x70 to 0x7B. -/
theorem test_decode_lane_cross_and_masks : allLane [
    (0x700A141E1F420B83B3451234, .lxch (sample 0x145)),
    (0x710A141E1F420B83B3451234, .lpoll (sample 0x145)),
    (0x720A141E1F420B83B3451234, .lred (sample 0x145)),
    (0x730A141E1F420B83B3451234, .lscan (sample 0x145)),
    (0x740A141E1F420B83B3451234, .lpeer (sample 0x145)),
    (0x780A141E1F420B83B3451234, .mop (sample 0x145)),
    (0x790A141E1F420B83B3441234, .mcopyV2m (sample 0x144)),
    (0x790A141E1F420B83B3451234, .mcopyM2v (sample 0x145)),
    (0x790A141E1F420B83B3461234, .mcopyS2m (sample 0x146)),
    (0x790A141E1F420B83B3471234, .mcopyM2s (sample 0x147)),
    (0x7A0A141E1F420B83B3451234, .ccget (sample 0x145)),
    (0x7B0A141E1F420B83B3451234, .ccput (sample 0x145))] = true := by decide

/-- R329: LOP 0x80 to 0xA5, and 0xE0. -/
theorem test_decode_lane_memory_and_matrix : allLane [
    (0x800A141E1F420B83B3451234, .ld (sample 0x145)),
    (0x810A141E1F420B83B3451234, .st (sample 0x145)),
    (0x820A141E1F420B83B3451234, .atom (sample 0x145)),
    (0x830A141E1F420B83B3451234, .atomn (sample 0x145)),
    (0x840A141E1F420B83B3451234, .cas (sample 0x145)),
    (0x850A141E1F420B83B3451234, .pref (sample 0x145)),
    (0x880A141E1F420B83B3451234, .tld (sample 0x145)),
    (0x890A141E1F420B83B3451234, .tst (sample 0x145)),
    (0x8A0A141E1F420B83B3451234, .tatom (sample 0x145)),
    (0xA00A141E1F420B83B3451234, .mma (sample 0x145)),
    (0xA10A141E1F420B83B3451234, .mmac (sample 0x145)),
    (0xA20A141E1F420B83B3451234, .aclr (sample 0x145)),
    (0xA30A141E1F420B83B3451234, .acvt (sample 0x145)),
    (0xA40A141E1F420B83B3451234, .mclose (sample 0x145)),
    (0xA50A141E1F420B83B3451234, .ald (sample 0x145)),
    (0xE00A141E1F420B83B3451234, .fmma (sample 0x145))] = true := by decide

/-- R310, R312, R313, R315, R330, R425: words that no rule defines, a reserved bit set, a selector value without a row, and a lane
opcode without a row or of a header, are refused. -/
theorem test_decode_refuses : [0x00000100, 0x0000000B, 0x04100009, 0x04048130, 0x18940040, 0x2C900003, 0x2C900100, 0x40043000, 0x4C000001,
    0x54001000, 0x58000000, 0x58000007, 0x5C100000, 0x60000006, 0x60004000, 0x64000003, 0x68000005, 0x68000020, 0x70100000, 0x74000000,
    0x7FFFFFFF, 0x84000100, 0x8C000000, 0xA00000C0, 0xA000003F, 0xA8000003, 0xB0000001, 0xC0000000, 0xFC000000].all
      (fun w => match decode (BitVec.ofNat 32 w) 0 with | .ok _ => false | .error e => e == .illegalScalar (BitVec.ofNat 32 w)) = true ∧
    [0x0D, 0x0F, 0x1C, 0x23, 0x4E, 0x4F, 0x55, 0x64, 0x75, 0x77, 0x7C, 0x86, 0x8B, 0xA6, 0xDF, 0xE1, 0xEF, 0xF0, 0xFF].all
      (fun l => decodeLane (BitVec.ofNat 96 (l * 2 ^ 88)) == .error (.illegalLop (BitVec.ofNat 8 l))) = true ∧
    decodeLane (0xFC#8 ++ 0#88) = .error .header := by decide

/-- The worked header of R326, and the invalid ones of R327 step 2 and R163. -/
theorem test_decode_header :
    decodeHeader 0xFC20121F8000000000000000#96 = some { len := 4, wait := 0x024, set0 := 3, set1 := 15 } ∧
    [0xFB20121F8000000000000000, 0xFC20121F8000000000000001, 0xFC2012678000000000000000, 0xFC20121F0000000000000000 + 0x6 * 2 ^ 60 + 2 ^ 63,
      0xFC20121980000000 * 2 ^ 32].all (fun w => decodeHeader (BitVec.ofNat 96 w) == none) = true := by decide

/-- The words of the listing of the kernel inc32, with their derivations, in spec/10_assembly_and_objects.md ("A kernel assembled"). -/
theorem test_decode_listing :
    allDecode [(0x50000000, 0x50000009, .run 0), (0x50000009, 1, .run 9), (0x00000001, 0, .exit)] = true ∧
    decodeHeader 0xFC0800078000000000000000#96 = some { len := 1, wait := 0, set0 := 0, set1 := 15 } ∧
    decodeHeader 0xFC0800F88000000000000000#96 = some { len := 1, wait := 1, set0 := 15, set1 := 1 } ∧
    allLane [
      (0x11000000FFE000D000000002, .laneShl ⟨0, 0, 0, 255, 3, 2, 0, false, false, false, false, false, false, 0, false, 13, 0, 0, false, 0, 0, 2⟩),
      (0x800100000040000000020000, .ld ⟨1, 0, 0, 0, 1, 0, 0, false, false, false, false, false, false, 0, false, 0, 0, 0, false, 0, 2, 0⟩),
      (0x00010100FF22001000000001, .iadd ⟨1, 1, 0, 255, 0, 2, 0, true, false, false, false, false, false, 0, false, 1, 0, 0, false, 0, 0, 1⟩),
      (0x81FF00000140A00000020000, .st ⟨255, 0, 0, 1, 1, 0, 0, false, false, true, false, true, false, 0, false, 0, 0, 0, false, 0, 2, 0⟩)] = true := by
  decide

/-! ### Well-formedness: one ill-formed term for each check -/

/-- The checks on scalar words (R222, R347, R355, R425, R436, R438) and on the row that a lane word selects (R387, R396). -/
theorem test_wf_refuses : ([.brc 0 0 6 0, .seg 0, .seg 7, .fenceAcq 5, .fenceRel 5, .fenceAr 6, .fenceSc 7,
    .drayM2t 0 0 0 ⟨0, false, 0, false, 0, 0⟩, .drayT2m 0 0 0 ⟨0, false, 12, true, 1, 0⟩, .drayT2t 0 0 ⟨0, false, 1, false, 1, 0⟩,
    .drayM2t 0 0 0 ⟨1, false, 0, false, 1, 0⟩, .drayRed 0 0 ⟨0, false, 0, false, 1, 1⟩,
    .bmint 9 0 3 0, .bmint 9 0 2 60, .bmint 9 0 1 8, .bput 0 0 3, .bput 0 61 2,
    .cvtsEnc (sample 1), .cvtsDec (sample 0), .mcopyV2m (sample 1), .mcopyM2v (sample 2), .mcopyS2m (sample 3), .mcopyM2s (sample 0)] :
      List Instr).all (fun i => !i.wf) = true ∧
    ([.brc 0 0 5 0, .seg 1, .seg 6, .fenceAcq 4, .fenceRel 0, .drayM2t 0 0 0 ⟨15, true, 11, true, 3, 9⟩, .bmint 9 0 2 59, .bmint 9 0 1 10,
    .bput 0 60 2, .cvtsDec (sample 1), .mcopyM2s (sample 3)] : List Instr).all Instr.wf = true := by decide

/-- A launch with 64 vector registers, and slot 2 bound to the worked descriptor of R95. -/
def cfg : LaneCfg := { vregs := 64, slots := [0, 0, 0x02801A76, 0, 0, 0, 0, 0] }
/-- v2 := v4 op v6, with TY 0 and nothing else; its variants. -/
def word : LaneWord :=
  { dst := 2, sa := 4, sb := 6, sc := 255, ka := 0, kb := 0, kc := 0, la := false, kpa := false, lb := false, kpb := false, lc := false,
    kpc := false, msk := 0, mnot := false, ty := 0, rm := 0, fs := 0, cw := false, cnd := 0, mod := 0, imm := 0 }

theorem test_legal : laneLegal cfg (.iadd word) = true ∧ laneLegal cfg (.fadd { word with ty := 8 }) = true ∧
    laneLegal cfg (.ld { word with sa := 5, ka := 1, sc := 0 }) = true ∧ laneLegal cfg (.mop { word with sa := 1, sb := 2 }) = true ∧
    laneLegal cfg (.mclose { word with dst := 255, sa := 255, sb := 255, imm := 11 }) = true := by decide

/-- The checks on a source: its kind, its register, a pair's alignment, both marks, a scalar past s31, a mark on a scalar or an immediate,
a special value that does not exist or of a float type, and a field that is not used (R167, R317, R318, R324, R327). -/
theorem test_source_refuses : ([.iadd { word with sa := 64 }, .iadd { word with ty := 2, sa := 5 }, .iadd { word with la := true, kpa := true },
    .iadd { word with ka := 1, sa := 32 }, .iadd { word with ka := 1, la := true }, .iadd { word with ka := 2, kpa := true },
    .iadd { word with ka := 3, sa := 11 }, .fadd { word with ty := 8, ka := 3, sa := 0 }, .iadd { word with sc := 0 },
    .iadd { word with kc := 1 }, .iadd { word with lc := true }, .mcopyS2m { word with dst := 1, sb := 255, mod := 2, ka := 0 },
    .mop { word with sa := 8, sb := 1 }, .mop { word with sa := 1, sb := 1, ka := 1 }, .cas { word with ty := 14, ka := 1, sa := 1, sc := 6 },
    .cas { word with ty := 13, ka := 1, sa := 1, sc := 63 }] : List Instr).all (fun i => !laneLegal cfg i) = true := by decide

/-- The checks on a destination: a null one, a vector register, a scalar register and a mask (R324, R325, R327, R395). -/
theorem test_destination_refuses : ([.iadd { word with dst := 64 }, .iadd { word with ty := 2, dst := 3 }, .ccput { word with sb := 255 },
    .lpoll { word with ty := 13, sb := 255, dst := 48, mod := 0x104 }, .lpoll { word with ty := 13, sb := 255, dst := 31, mod := 0x104 },
    .mop { word with sa := 1, sb := 2, dst := 0 }, .mop { word with sa := 1, sb := 2, dst := 8 }, .ld { word with sa := 5, ka := 1, sc := 0, dst := 255 }] :
      List Instr).all (fun i => !laneLegal cfg i) = true := by decide

/-- The checks on TY, RM, FS, CW, MOD, IMM16 and CND of an entry (R319 to R324). -/
theorem test_field_refuses : ([.iadd { word with ty := 8 }, .fadd { word with ty := 0 }, .iadd { word with rm := 1 }, .fadd { word with ty := 8, rm := 5 },
    .iadd { word with fs := 1 }, .cvt { word with sb := 255, ty := 12, fs := 1, mod := 8 }, .mop { word with sa := 1, sb := 2, cw := true },
    .iadd { word with mod := 2 }, .iset { word with mod := 6 }, .lred { word with sb := 255, mod := 6 }, .iadd { word with imm := 1 },
    .pack { word with ty := 13, imm := 8 }, .mclose { word with dst := 255, sa := 255, sb := 255, imm := 12 }, .iadd { word with cnd := 15 },
    .exit] : List Instr).all (fun i => !laneLegal cfg i) = true := by decide

/-- The worked descriptor of R95, and one that breaks each of its conditions. -/
theorem test_slot : slotValid 0x02801A76 = true ∧ [0x0A801A76, 0x06801A76, 0x02001A76, 0x03001A76, 0x02E01A76, 0x02C01A76, 0x02981A76,
    0x02881A16, 0x02801A77, 0x02981B16, 0x02A01B15, 0x02800010 + 1, 0x02801F79].all (fun d => !slotValid (BitVec.ofNat 32 d)) = true := by decide

/-! ### One step on a small state -/

/-- A running context of one group of 32 lanes, whose split 0 issues at 0x10000. -/
def r0 : SplitRef := ⟨0, 0⟩
def w0 : State := { (State.reset.plant [] none).1 with cur := some r0 }
def blankGroup : Group := newGroup 0 0 0 LaunchRec.blank 0
def grp (s : State) : Group := s.exec.groups.getD 0 blankGroup
def spl (s : State) : Split := (grp s).splits.getD 0 Split.absent
/-- The state after an instruction, or the same when it stops. -/
def after (i : Instr) (s : State) : State := match exec i s with | .next t => t | _ => s
/-- w0 with its group, its split, its team or its context changed. -/
def onGroup (f : Group → Group) (s : State := w0) : State := s.modGroup 0 f
def onSplit (f : Split → Split) (s : State := w0) : State := onGroup (fun g => { g with splits := modAt g.splits 0 f }) s
def onCtx (f : Ctx → Ctx) (s : State := w0) : State := s.modCtx 0 f
def onTeam (f : Team → Team) (s : State := w0) : State := s.modTeam 0 f
/-- w0 with scalar registers. -/
def regs (l : List (Nat × W64)) (s : State := w0) : State := onGroup (fun g => { g with sregs := l.foldl (fun a p => a.set p.1 p.2) g.sregs }) s
/-- s1 after an instruction on s2 and s3. -/
def alu (i : Instr) (x y : W64) : W64 := (grp (after i (regs [(2, x), (3, y)]))).sreg 1

/-- R340, R341: wraps, signs, and the two corners of division. -/
theorem test_alu : [alu (.add 1 2 3) (~~~0) 2 == 1, alu (.sub 1 2 3) 0 1 == ~~~0, alu (.mul 1 2 3) (2 ^ 63) 2 == 0,
    alu (.mulhn 1 2 3) (~~~0) (~~~0) == ~~~1, alu (.mulhi 1 2 3) (~~~0) (~~~0) == 0, alu (.mulhi 1 2 3) (2 ^ 63) 2 == ~~~0,
    alu (.divn 1 2 3) 7 2 == 3, alu (.divn 1 2 3) 7 0 == ~~~0, alu (.divi 1 2 3) (-7) 2 == -3, alu (.divi 1 2 3) (2 ^ 63) (-1) == 2 ^ 63,
    alu (.divi 1 2 3) 5 0 == ~~~0, alu (.remn 1 2 3) 7 0 == 7, alu (.remi 1 2 3) (-7) 2 == -1, alu (.remi 1 2 3) (2 ^ 63) (-1) == 0].all id = true := by
  decide +kernel

/-- R340: logic, shift counts taken modulo 64, both orders, and the counts. -/
theorem test_logic : [alu (.and 1 2 3) 0xC 0xA == 8, alu (.or 1 2 3) 0xC 0xA == 0xE, alu (.xor 1 2 3) 0xC 0xA == 6, alu (.andn 1 2 3) 0xC 0xA == 4,
    alu (.shl 1 2 3) 1 65 == 2, alu (.shr 1 2 3) (2 ^ 63) 63 == 1, alu (.sra 1 2 3) (2 ^ 63) 127 == ~~~0, alu (.minn 1 2 3) (-1) 1 == 1,
    alu (.mini 1 2 3) (-1) 1 == -1, alu (.maxn 1 2 3) (-1) 1 == -1, alu (.maxi 1 2 3) (-1) 1 == 1, alu (.seq 1 2 3) 4 4 == 1,
    alu (.sne 1 2 3) 4 4 == 0, alu (.sltn 1 2 3) (-1) 1 == 0, alu (.slti 1 2 3) (-1) 1 == 1, alu (.clz 1 2) 0 0 == 64, alu (.clz 1 2) 1 0 == 63,
    alu (.popc 1 2) (~~~0) 0 == 64].all id = true := by decide +kernel

/-- R342 to R344: SIMM14 is sign-extended for every immediate form; LIW.HI keeps the low half; a write to s63 is discarded (R312). -/
theorem test_immediates : [alu (.addi 1 2 0x3FFF) 5 0 == 4, alu (.andi 1 2 0x2000) (~~~0) 0 == 0xFFFFFFFFFFFFE000, alu (.ori 1 2 0x1FFF) 0 0 == 0x1FFF,
    alu (.xori 1 2 0x3FFF) 0 0 == ~~~0, alu (.shli 1 2 63) 1 0 == 2 ^ 63, alu (.shri 1 2 1) (~~~0) 0 == 2 ^ 63 - 1, alu (.srai 1 2 63) (2 ^ 63) 0 == ~~~0,
    alu (.sltin 1 2 0x3FFF) 5 0 == 1, alu (.sltii 1 2 0x3FFF) 5 0 == 0, alu (.liwSx 1 0x80000000) 0 0 == 0xFFFFFFFF80000000,
    alu (.liwZx 1 0x80000000) 0 0 == 0x80000000, (grp (after (.liwHi 2 0x12345678) (regs [(2, 9)]))).sreg 2 == 0x1234567800000009,
    (grp (after (.addi 63 2 1) w0)).sreg 63 == 0].all id = true := by decide +kernel

/-- R347 to R349: the six conditions at −1 and 1, the jumps, and a misaligned register jump (R311). -/
theorem test_branches : (List.range 6).map (fun c => (spl (after (.brc 2 3 (BitVec.ofNat 3 c) 0x7FF) (regs [(2, -1), (3, 1)]))).pc) =
      [0x10004, 0xFFFC, 0x10004, 0xFFFC, 0xFFFC, 0x10004] ∧
    (spl (after (.jmp 0x3FFFFFF) w0)).pc = 0xFFFC ∧ (grp (after (.call 2) w0)).sreg 62 = 0x10004 ∧ (spl (after (.call 2) w0)).pc = 0x10008 ∧
    (spl (after .ret (regs [(62, 0x20000)]))).pc = 0x20000 ∧
    ((after (.jmpr 2) (regs [(2, 0x20002)])).exec.ctxs.map (fun c => (c.fault.map (fun f => (f.cause, f.trapPc))))) = [some (4, 0x10000)] := by decide +kernel

/-- R152, R350, R351: BSPL with both sides makes split 1 at the target; JOIN waits for it. -/
theorem test_bspl_join :
    let s := after (.bspl 1 false 16 32) (onGroup (fun g => { g with masks := g.masks.set 1 0xF0 }))
    let t := after .join s
    (grp s).splits.map (fun q => (q.mask, q.pc)) = [(0xFFFFFF0F, 0x10008), (0xF0, 0x10040), (0, 0), (0, 0)] ∧ (spl t).status = .join := by decide +kernel

/-- R171, R173, R446, R448: TRAP without a handler ends the context with cause 8; with one it enters it, and RETT returns. -/
theorem test_trap_rett :
    let h := onCtx (fun c => { c with lr := { c.lr with thoff := 0x100 } }) (regs [(2, 77)])
    let t := after (.trap 2 0x3FFF) h
    let u := after .rett t
    ((after (.trap 2 5) w0).exec.ctxs.map (fun c => (c.state, c.fault.map (fun f => (f.cause, f.trapPc, f.trapAddr))))) =
      [(.ending, some (8, 0x10004, 5))] ∧
    ((spl t).pc, (spl t).cause, (spl t).tpc, (spl t).taddr, (spl t).tinfo) = (0x10400, 8, 0x10004, ~~~0, 77) ∧
    ((spl u).pc, (spl u).handler) = (0x10004, none) := by decide +kernel

/-- R205, R206: ARRIVE of 32 lanes counts them; with LQUOTA 32 it completes the phase. -/
theorem test_tbar :
    let q (n : Nat) := onTeam (fun t => { t with bars := modAt t.bars 3 (fun b => { b with lquota := n }) })
    let bar (s : State) := (s.exec.teams.map (fun t => (t.bars.map (fun b => (b.larr, b.parity))).getD 3 (0, false)))
    bar (after (.tbarArrive 1 3) (q 33)) = [(32, false)] ∧ bar (after (.tbarArrive 1 3) (q 32)) = [(0, true)] := by decide +kernel

/-- R361 to R363: a scratchpad tile of 2 rows of 8 elements of 4 bytes, and its description. -/
theorem test_tiles :
    let s := regs [(2, 0x0000000200000008), (3, 4)] (onCtx (fun c => { c with lr := { c.lr with spmb := 4096 } }))
    let t := after (.talloc 1 2 3 0 5) s
    (grp t).sreg 1 = 0 ∧ (t.exec.teams.map (fun x => (x.tiles.getD 5 none).map (fun y => (y.level, y.rows, y.cols, y.esize)))) = [some (0, 2, 8, 4)] ∧
    (grp (after (.tfree 1 0 6) t)).sreg 1 = 1 := by decide +kernel

/-- R442, R443: TIME reads device time; SLEEPT of a later time sleeps. -/
theorem test_time : (grp (after (.time 1) { w0 with clock := { w0.clock with dtime := 1234 } })).sreg 1 = 1234 ∧
    (spl (after (.sleept 2) (regs [(2, 9)]))).status = .sleep ∧ (spl (after (.sleept 2) (regs [(2, 0)]))).pc = 0x10004 := by decide +kernel

/-- A state whose split 0 issues a lane instruction, with vector registers that hold one value in every lane. -/
def lane (i : Instr) (v : List (Nat × W32)) (snap : List W64 := List.replicate 32 0) : State :=
  onGroup (fun g => { g with
    splits := modAt g.splits 0 (fun sp => { sp with
      clause := some { id := 0, addr := 0x20000, hdr := { len := 0, wait := 0, set0 := 15, set1 := 15 }, code := [i, i], done := 0,
                       mask := lanesMask 32, snap } })
    vregs := v.foldl (fun a p => a.set p.1 { live := true, unpub := none, vals := List.replicate 32 p.2 }) g.vregs })
/-- Lane 3 of v2, and its codes and the group's flags, after a lane instruction on v4, v6 and v8. -/
def res (i : Instr) (a b c : W32) : W32 × BitVec 4 × BitVec 5 :=
  let g := grp (after i (lane i [(4, a), (6, b), (8, c)]))
  ((((g.vregs.getD 2 VReg.dead).vals).getD 3 0), g.ccs.getD 3 0, g.fxf)
def word3 : LaneWord := { word with sc := 8 }

/-- R370 to R372: wrapping and clamping at I8, an unsigned borrow, and the division corners. -/
theorem test_lane_integers : (res (.iadd { word with ty := 7 }) 0x7F 1 0).1 = 0xFFFFFF80 ∧ (res (.iadd { word with ty := 7, mod := 1 }) 0x7F 1 0).1 = 0x7F ∧
    (res (.isub word) 0 1 0).1 = 0xFFFFFFFF ∧ (res (.isub { word with mod := 1 }) 0 1 0).1 = 0 ∧
    (res (.idiv { word with ty := 1 }) 0x80000000 0xFFFFFFFF 0).1 = 0x80000000 ∧ (res (.idiv word) 5 0 0).1 = 0xFFFFFFFF ∧
    (res (.irem { word with ty := 1 }) 0xFFFFFFF9 2 0).1 = 0xFFFFFFFF ∧ (res (.imulh { word with ty := 1 }) 0xFFFFFFFF 0xFFFFFFFF 0).1 = 0 ∧
    (res (.imad { word3 with ty := 1 }) 3 0xFFFFFFFE 10 ).1 = 4 ∧ (res (.isad { word3 with ty := 1 }) 0xFFFFFFFE 3 10).1 = 15 ∧
    (res (.iabs { word with ty := 1, sb := 255 }) 0xFFFFFFFE 0 0).1 = 2 := by decide +kernel

/-- R371: IADC and ISBC carry C in, bit 0 of the lane's codes, and no other of them. -/
theorem test_lane_carries :
    let put (cc : BitVec 4) (i : Instr) : W32 := let s := lane i [(4, 5), (6, 3)]
      ((((grp (after i (onGroup (fun g => { g with ccs := List.replicate 32 cc }) s))).vregs.getD 2 VReg.dead).vals).getD 3 0)
    [put 1 (.iadc word), put 14 (.iadc word), put 1 (.isbc word), put 14 (.isbc word)] = [9, 8, 2, 1] := by decide +kernel

/-- R373, R374: a shift of the whole width and more, a funnel shift, a three-input function, and fields. -/
theorem test_lane_bits : (res (.laneShl { word with ty := 13 }) 1 32 0).1 = 0 ∧ (res (.laneSra { word with ty := 13 }) 0x80000000 200 0).1 = 0xFFFFFFFF ∧
    (res (.fshl { word3 with ty := 13 }) 0x12345678 0x9ABCDEF0 8).1 = 0x3456789A ∧ (res (.blut { word3 with ty := 13, imm := 0x96 }) 0xC 0xA 0x3).1 = 5 ∧
    (res (.lanePopc { word with ty := 13, sb := 255 }) 0xF0F 0 0).1 = 8 ∧ (res (.laneClz { word with ty := 13, sb := 255 }) 0 0 0).1 = 32 ∧
    (res (.brev { word with ty := 13, sb := 255 }) 1 0 0).1 = 0x80000000 ∧ (res (.sel { word3 with ty := 13 }) 7 9 0).1 = 9 := by decide +kernel

/-- R377 to R380, R384, R385: F32 sums that are exact, that round to even and that overflow, a signed zero, a fused product, an exact root, and
conversions that truncate the way RM says or clamp. -/
theorem test_lane_floats : (res (.fadd { word with ty := 8 }) 0x3F800000 0x40000000 0).1 = 0x40400000 ∧
    (res (.fadd { word with ty := 8 }) 0x4B800000 0x3F800000 0).1 = 0x4B800000 ∧ (res (.fmul { word with ty := 8 }) 0x7F7FFFFF 0x40000000 0).1 = 0x7F800000 ∧
    (res (.fsub { word with ty := 8 }) 0x3F800000 0x3F800000 0).1 = 0 ∧ (res (.ffma { word3 with ty := 8 }) 0x40000000 0x40400000 0xC0A00000).1 = 0x3F800000 ∧
    (res (.fsqrt { word with ty := 8, sb := 255 }) 0x40800000 0 0).1 = 0x40000000 ∧ (res (.fdiv { word with ty := 8 }) 0x3F800000 0 0).1 = 0x7F800000 ∧
    (res (.fmin { word with ty := 8 }) 0x7FC00000 0x3F800000 0).1 = 0x3F800000 ∧ (res (.cvt { word with ty := 1, sb := 255, mod := 8, rm := 1 }) 0xBFC00000 0 0).1 = 0xFFFFFFFF ∧
    (res (.cvt { word with ty := 8, sb := 255, mod := 1 }) 0xFFFFFFFF 0 0).1 = 0xBF800000 ∧ (res (.fclass { word with ty := 8, sb := 255 }) 0x80000000 0 0).1.toNat.isPowerOfTwo = true := by
  decide +kernel

/-! ### States that meet the hypotheses of the statements

The hypotheses are those of `Runs`, `InGrid` and `LaneAt` at split 0 of group 0, checked by the two functions and the lemmas below, and what
each statement asks besides. -/

def tm0 (s : State) : Team := s.exec.teams.getD 0 (newTeam 0 0 (0, 0, 0) 0 0 0 0 0)
def cx0 (s : State) : Ctx := s.exec.ctxs.getD 0 (newCtx 0 0 0 0 LaunchRec.blank [])
def runsOk (s : State) (rs : List SReg) : Bool :=
  s.cur == some r0 && decide (0 < s.exec.groups.length) && decide (0 < (grp s).splits.length) && !s.scalarWait r0 (spl s) rs
def gridOk (s : State) : Bool :=
  decide (0 < s.exec.teams.length) && decide (0 < s.exec.ctxs.length) && (grp s).team == 0 && (tm0 s).ctx == 0

theorem getElem?_zero {α : Type} {l : List α} (d : α) (h : 0 < l.length) : l[0]? = some (l.getD 0 d) := by
  cases l with
  | nil => simp at h
  | cons x r => rfl

theorem runs_of {s : State} {rs : List SReg} (h : runsOk s rs = true) : Runs s r0 (grp s) (spl s) rs := by
  simp only [runsOk, Bool.and_eq_true, beq_iff_eq, decide_eq_true_eq, Bool.not_eq_true'] at h
  exact ⟨⟨h.1.1.1, getElem?_zero _ h.1.1.2, getElem?_zero _ h.1.2⟩, h.2⟩

theorem inGrid_of {s : State} (h : gridOk s = true) : InGrid s (grp s) (tm0 s) 0 (cx0 s) := by
  simp only [gridOk, Bool.and_eq_true, beq_iff_eq, decide_eq_true_eq] at h
  exact ⟨by rw [h.1.2]; exact getElem?_zero _ h.1.1.1, getElem?_zero _ h.1.1.2, h.2⟩

/-- What a lane instruction of split 0 reads. -/
def env (s : State) : Env :=
  { r := r0, g := grp s, sp := spl s, tm := tm0 s, ctx := cx0 s,
    c := (spl s).clause.getD { id := 0, addr := 0, hdr := { len := 0, wait := 0, set0 := 15, set1 := 15 }, code := [], done := 0, mask := 0, snap := [] } }
def laneOk (s : State) : Bool :=
  s.cur == some r0 && decide (0 < s.exec.groups.length) && decide (0 < (grp s).splits.length) && (spl s).clause.isSome && gridOk s

theorem laneAt_of {s : State} (h : laneOk s = true) : LaneAt s (env s) := by
  simp only [laneOk, Bool.and_eq_true, beq_iff_eq, decide_eq_true_eq] at h
  obtain ⟨c, hc⟩ := Option.isSome_iff_exists.mp h.1.2
  have hg := inGrid_of h.2
  exact ⟨h.1.1.1.1, getElem?_zero _ h.1.1.1.2, getElem?_zero _ h.1.1.2, by simp [env, hc], hg.team, by rw [env, hg.of]; exact hg.ctx⟩

theorem witness_AluWritesTheTableValue : runsOk w0 [1, 2, 3] = true ∧ runsOk w0 [63, 63, 0] = true := by decide +kernel
theorem witness_ImmediatesAndLiwWriteSd : runsOk w0 [63, 2] = true ∧ runsOk w0 [1] = true := by decide +kernel
theorem witness_AluFrameIsSdAlone : runsOk w0 [] = true ∧ aluDst (.liwHi 63 0) = some 63 ∧
    (match exec (.liwHi 63 0) w0 with | .next _ => true | _ => false) = true := by decide +kernel

/-- A split with the clause of its RUN queue in progress, which writes s40. -/
def busy : State := lane (.mcopyM2s { word with dst := 40, sa := 1, sb := 255, mod := 0x103 }) []
theorem witness_ScalarInstructionWaitsForItsClauses : runsOk busy [] = true ∧ gridOk busy = true ∧ runsOk busy [40] = false ∧
    .mcopyM2s { word with dst := 40, sa := 1, sb := 255, mod := 0x103 } ∈ busy.pendingCode (cx0 busy) (spl busy) ∧
    laneScalarDst (.mcopyM2s { word with dst := 40, sa := 1, sb := 255, mod := 0x103 }) = some 40 ∧
    ([.add 40 2 3, .sub 1 40 3, .divi 1 2 40, .clz 1 40, .addi 40 2 0, .sltin 1 40 0, .liwHi 40 0] : List Instr).all
      (fun i => (aluDst i).isSome && (aluRegs i).contains 40) = true := by decide +kernel

theorem witness_BranchesAndJumpsGoOn : runsOk (regs [(2, -1), (3, 1), (62, 0x20000)]) [2, 3] = true ∧
    (grp (regs [(62, 0x20000)])).sreg 62 = 0x20000 ∧ runsOk w0 [] = true := by decide +kernel
theorem witness_JumpsTrapBrkAndIllegalTakeTraps : runsOk (regs [(2, 0x20002), (62, 3)]) [2] = true ∧ runsOk (regs [(62, 3)]) [] = true ∧
    (grp (regs [(2, 0x20002), (62, 3)])).sreg 2 = 0x20002 ∧ (grp (regs [(2, 0x20002), (62, 3)])).sreg 62 = 3 ∧ 6 ≤ (6 : BitVec 3).toNat := by decide +kernel

/-- Mask m1 selects lanes 4 to 7; and a split whose stack holds n entries. -/
def split1 : State := onGroup (fun g => { g with masks := g.masks.set 1 0xF0 })
def deep (n : Nat) (e : StackEntry := ⟨0x10000, 0xF00, 0x10010⟩) : State := onSplit (fun sp => { sp with stack := List.replicate n e }) split1
theorem witness_BsplSplitsOrPushes : runsOk split1 [] = true ∧ split1.maskBusy 0 (spl split1) 1 = false ∧ (grp split1).maskUnpub 1 = false ∧
    (spl split1).mask &&& 0xF0 ≠ 0 ∧ (spl split1).mask &&& ~~~0xF0 ≠ 0 ∧ (spl w0).mask &&& 0 = 0 ∧ (spl w0).mask &&& (spl w0).mask = (spl w0).mask ∧
    (grp split1).freeSplit = some 1 ∧ (spl (deep 7)).stack.length = 7 ∧ runsOk (deep 7) [] = true ∧ runsOk (deep 8) [] = true := by decide +kernel

/-- A second split of the group, ready. -/
def two (s : State) : State := onGroup (fun g => { g with splits := g.splits.set 1 { Split.absent with status := .ready, mask := 1 } }) s
theorem witness_JoinAndExitFollowTheStack : runsOk (two w0) [] = true ∧ (spl (two w0)).stack = [] ∧ (spl (two w0)).clausesIssued = true ∧
    (grp (two w0)).splits[1]?.map (·.reaches) = some true ∧ (spl (two w0)).handler = none ∧
    (({ Split.absent with status := .waitf, handler := some .scalar } : Split)).reaches = true ∧
    (let s := two (deep 1 ⟨0x10000, 0xF00, 0x10011⟩); runsOk s [] = true ∧ (spl s).stack = [⟨0x10000, 0xF00, 0x10011⟩] ∧ (spl s).pc = 0x10000) ∧
    (spl (deep 1)).stack = [⟨0x10000, 0xF00, 0x10010⟩] ∧ (spl (deep 1)).pc = 0x10000 ∧ runsOk (deep 1) [] = true ∧
    (spl (deep 2 ⟨0x10004, 0xF00, 0x10011⟩)).stack.length = 2 ∧ runsOk (deep 2 ⟨0x10000, 0xF00, 0x10011⟩) [] = true := by decide +kernel

/-- w0 with the page at 0x10000 mapped whoever asks, with bytes there. -/
def coded (mem : List Byte) (s : State := w0) : State :=
  let fr := (State.reset.freeFrame 0).getD 0
  { s with store := { s.store.putBytes false (fr * 65536) mem with
                      tlb := { core := none, pent := 0, page := 1, leaf := probeLeaf fr, level := 3, entry := 0 } :: s.store.tlb } }
/-- A split whose RUN queue holds a clause, not started, that sets flag 3, which is set now. -/
def ahead : State := two (onGroup (fun g => { g with flags := 8, splits := modAt g.splits 0 (fun sp => { sp with runq := [{ addr := 0x10000, mask := ~~~0, snap := [] }] }) })
  (coded (bytesOf 12 0xFC0000798000000000000000)))
theorem witness_RunWaitfSegYieldSleept : runsOk (two w0) [] = true ∧ gridOk (two w0) = true ∧ (spl w0).queued = 0 ∧ (spl w0).status = .ready ∧
    (two w0).flagAhead (cx0 w0) (spl w0) 0xFFF = false ∧ (grp w0).flags &&& 0 = 0 ∧ (grp w0).flags.getLsbD 11 = false ∧
    (grp (two w0)).flags &&& 0xFFF = 0 ∧ (grp (two w0)).splits[1]?.map (·.reaches) = some true ∧
    (let s := ahead; runsOk s [] = true ∧ gridOk s = true ∧ s.flagAhead (cx0 s) (spl s) 8 = true ∧ s.flagAhead (cx0 s) (spl s) 4 = false ∧
     (grp s).flags &&& 8 = 8) ∧
    (let g := grp (onGroup (fun g => { g with flags := 0x801, mflags := 1 })); g.flags &&& 0x801 = 0x801 ∧ g.flags &&& 0x002 ≠ 0x002 ∧ g.mflags &&& 1 ≠ 0) ∧
    2 ^ (5 : BitVec 3).toNat ≤ (cx0 w0).lr.gw ∧ (grp w0).splits.all (fun q => q.clausesIssued) = true ∧
    (grp (regs [(2, 1)])).sreg 2 = 1 ∧ w0.now = 0 := by decide +kernel

def bars (n : Nat) (b : Barrier → Barrier) (s : State := two w0) : State := onTeam (fun t => { t with bars := modAt t.bars n b }) s
/-- A split that an image re-planted while it waited in the phase of this parity; the phase of its barrier is even. -/
def replanted (par : Bool) : State := onSplit (fun sp => { sp with arrived := true, wpar := par })
theorem witness_TeamBarrierCountsArrivals : runsOk (two w0) [1] = true ∧ gridOk (two w0) = true ∧ (two w0).mayArrive r0 1 = true ∧
    (({ Barrier.zero with larr := 32, arrived := [0] } : Barrier)).full = false ∧ (spl w0).arrived = false ∧
    (grp (two w0)).splits[1]?.map (·.reaches) = some true ∧
    (let s := two (replanted true); runsOk s [1] = true ∧ (spl s).arrived = true ∧ (tm0 s).bars[15]?.map (·.parity) = some false ∧ (spl s).wpar = true) ∧
    (let s := two (replanted false); runsOk s [1] = true ∧ (spl s).arrived = true ∧ (spl s).wpar = false ∧ (tm0 s).cbar.parity = false) ∧ (tm0 w0).bars[15]? = some Barrier.zero ∧
    (let b := onGroup (fun g => { g with clauses := [{ id := 3, set0 := none, set1 := some 2, issued := false }] }) busy
     b.mayArrive r0 1 = false ∧ runsOk b [1] = true) := by decide +kernel
theorem witness_TeamBarrierPhaseCompletes : (let s := bars 0 (fun b => { b with lquota := 32 })
    runsOk s [1] = true ∧ s.mayArrive r0 1 = true ∧ (tm0 s).groups.Nodup ∧ (tm0 s).bars[0]? = some { Barrier.zero with lquota := 32 } ∧
    32 ≤ 0 + (spl s).lanes) := by decide +kernel
theorem witness_ExpectAndAddbChangeThePhase : (let s := regs [(2, 2 ^ 32 - 1), (3, 2 ^ 64 - 1)]
    runsOk s [1, 2, 3] = true ∧ runsOk s [1, 3] = true ∧ (grp s).sreg 2 = 2 ^ 32 - 1 ∧ (tm0 s).bars[0]? = some Barrier.zero ∧
    ({ Barrier.zero with lquota := 2 ^ 32 - 1, bquota := 2 ^ 64 - 1 } : Barrier).full = false ∧
    ({ Barrier.zero with barr := 2 ^ 64 - 1 } : Barrier).full = false) ∧ (grp (regs [(2, 2 ^ 32)])).sreg 2 = 2 ^ 32 := by decide +kernel
theorem witness_ClusterBarrierCountsArrivals : runsOk (two w0) [1] = true ∧ (tm0 w0).lead = 0 ∧ (two w0).mayArrive r0 2 = true ∧
    (let s := two (replanted true); runsOk s [1] = true ∧ (spl s).arrived = true ∧ (tm0 s).cbar.parity ≠ (spl s).wpar) ∧
    (let b := onGroup (fun g => { g with clauses := [{ id := 3, set0 := none, set1 := some 2, issued := false }] }) busy
     b.mayArrive r0 2 = false ∧ runsOk b [1] = true) := by decide +kernel

/-- A group with a remote fault pending. -/
def faulty : State := onGroup (fun g => { g with rfault := { g.rfault with pend := true } })
theorem witness_FencesWaitAndDiscardL1 : runsOk w0 [] = true ∧ gridOk w0 = true ∧ (spl w0).clausesIssued = true ∧ (spl busy).clausesIssued = false ∧
    runsOk busy [] = true ∧ w0.released 0 1 = true ∧ w0.loadsFixed 0 0 = true ∧ runsOk faulty [] = true ∧ faulty.released 0 4 = true ∧
    (grp faulty).rfault.pend = true ∧ 5 ≤ (5 : BitVec 3).toNat ∧ (grp w0).earlierIssued 0 = true ∧ (grp busy).earlierIssued 0 = false ∧
    w0.acquiring 0 0 = false ∧ gridOk faulty = true ∧ faulty.acquiring 0 0 = false ∧ w0.released 0 4 = true ∧ w0.released 0 0 = true ∧
    (cx0 w0).lr.jrnl = false := by decide +kernel

/-- A store that is not acknowledged, and a load that has not returned: two operations that w0's group has issued. -/
def stored : State := after (.ssw 2 3 0) (regs [(3, 0x10000)])
def loading : State := { after (.ld { word with sa := 3, ka := 1, sb := 6, sc := 0 }) (regs [(3, 0x10000)] (lane (.ld { word with sa := 3, ka := 1, sb := 6, sc := 0 }) [(6, 0)]
  ([0, 0, 0, 0x10000] ++ List.replicate 28 0))) with cur := some r0 }
/-- The same load as an acquire. -/
def acquiring (s : State) (scope : Nat := 3) : State := { s with ops := { s.ops with mops := s.ops.mops.map (fun o => { o with ord := 1, scope }) } }
theorem witness_FencesThatWait : (let u := onSplit (fun sp => { sp with clause := none }) (acquiring loading)
     u.acquiring 0 0 = true ∧ runsOk u [] = true ∧ gridOk u = true) ∧ stored.released 0 2 = false ∧ runsOk stored [] = true ∧ (spl stored).clausesIssued = true ∧
    (let u := onSplit (fun sp => { sp with clause := none }) loading
     u.loadsFixed 0 0 = false ∧ runsOk u [] = true ∧ (spl u).clausesIssued = true) := by decide +kernel

def tiles (t : Tile) : State := onTeam (fun x => { x with tiles := x.tiles.set 5 (some t) })
def tile8 : Tile := { level := 0, rows := 2, cols := 8, esize := 4, err := false, map := 0, data := [] }
/-- The entry of the tile is marked poisoned. -/
def entryMarked : State := let s := tiles tile8; { s with store := { s.store with poison := [.tileEntry 0 5] } }
theorem witness_TilesAreMadeFreedAndDescribed :
    (let s := regs [(2, 0x0000001000000010), (3, 4)] (onCtx (fun c => { c with lr := { c.lr with spmb := 4096, accb := 4096 } }))
     gridOk s = true ∧ runsOk s [1, 2, 3] = true ∧ (spl s).clausesIssued = true ∧
     s.tallocStatus (grp s) (tm0 s) (cx0 s) 0 63 16 16 4 = 0 ∧ s.tallocStatus (grp s) (tm0 s) (cx0 s) 1 7 16 16 4 = 0 ∧ s.tallocStatus (grp s) (tm0 s) (cx0 s) 1 8 16 16 4 ≠ 0) ∧
    runsOk (tiles tile8) [1] = true ∧ ((tm0 w0).tiles[5]?).join = none ∧ (tm0 (tiles tile8)).tiles[5]? = some (some tile8) ∧
    ((tiles tile8).copyNames 0 5 || (tiles tile8).tileLocked 0 5 || (tiles tile8).tileAsked 0 5) = false ∧ (tiles tile8).entrySpoiled 0 0 5 = false ∧
    (let s := entryMarked; s.entrySpoiled 0 0 5 = true ∧ runsOk s [1, 2, 3] = true ∧ gridOk s = true ∧ (spl s).clausesIssued = true) ∧
    (let s := onGroup (fun g => { g with acc := g.acc.set 7 (some { rows := 1, cols := 1, esize := 4, atype := 8, ctype := 8, data := [] }) })
     (grp s).acc[7]?.map Option.isSome = some true ∧ (grp s).accLocked 7 = false ∧ runsOk s [1] = true) ∧
    (let b := onGroup (fun g => { g with batches := [⟨[.mma { word with dst := 64, sa := 5, sb := 6 }], false, none, []⟩] }) (tiles tile8)
     (b.copyNames 0 5 || b.tileLocked 0 5) = true ∧ runsOk b [1] = true) := by decide +kernel

/-- A context of a rope; a split in its handler for a scalar trap. -/
def roped : State := onCtx (fun c => { c with lr := { c.lr with rope := true } })
def handling (k : TrapKind) (f : Split → Split := id) : State := onSplit (fun sp => f { sp with handler := some k })
theorem witness_SmrReadsEverySpecialRegister : gridOk roped = true ∧ runsOk roped [1] = true ∧ (cx0 roped).lr.rope = true ∧ (cx0 w0).lr.rope = false ∧
    runsOk busy [1] = true ∧ (spl busy).clausesIssued = false ∧ (0x104 : BitVec 14).toNat ∉ [0x001, 0x002, 0x003, 0x103] := by decide +kernel
theorem witness_SmwWritesWhatTheMapAllows : runsOk (handling .scalar) [1] = true ∧ (spl (handling .scalar)).handler.isSome = true ∧ (spl w0).handler = none ∧
    runsOk w0 [1] = true ∧ (spl w0).clausesIssued = true ∧ (0x044 : BitVec 14).toNat ∉ [0x010, 0x011, 0x012, 0x040, 0x041, 0x042, 0x043] := by decide +kernel
/-- The page at 0x30000 has this leaf, by tables of four levels in a frame of the fast tier. -/
def paged (leaf : W64) (s : State := w0) : State :=
  let f := (s.freeFrame 0).getD 0
  let at_ (n : Nat) : Nat := 65536 * f + 8192 * n
  let next (n : Nat) : List Byte := bytesOf 8 (at_ n + 1)
  { s with
    store := (((((s.store.takeFrame f 0).putBytes false (at_ 0) (next 1)).putBytes false (at_ 1) (next 2)).putBytes false (at_ 2) (next 3)).putBytes false
      (at_ 3 + 24) (bytesOf 8 leaf.toNat))
    memctl := { s.memctl with xlat := modAt s.memctl.xlat 0 (fun x => { x with root := BitVec.ofNat 64 (at_ 0 + 1) }) } }
def paging (st : Nat) : FollowPage := { pent := 0, va := 0x30000, origin := 2 ^ 51, okind := 0, tier := 0, leaf := 0xE00F, state := st, ctx := 0 }
def followed (st : Nat) : State := let s := paged 0xE00F; { s with store := { s.store with follow := [paging st] } }
/-- That page is not resident, and of this tier. -/
def absentAt (s : State) (tier : Nat) : Bool := (s.accEnv 0 0).any (fun e =>
  match s.look (some e.core) e.ctx.pent 0x30000 false with | .absent w _ => lfTier w == tier | _ => false)
theorem witness_TimeAndPagereq : gridOk w0 = true ∧ runsOk w0 [2] = true ∧ (cx0 w0).lr.jrnl = false ∧
    (w0.accEnv 0 0).any (fun e => (match w0.look (some e.core) e.ctx.pent 0x1FFFF false with | .hit _ => true | _ => false) &&
      (match w0.look (some e.core) e.ctx.pent 0x20000 false with | .fail => true | _ => false)) = true ∧ (grp (regs [(2, 2 ^ 56)])).sreg 2 = 2 ^ 56 ∧
    absentAt (paged 0xE00F) 0 = true ∧ (paged 0xE00F).following 0 0x30000 = false ∧ absentAt (followed 0) 0 = true ∧ (followed 0).following 0 0x30000 = true ∧
    absentAt (paged 0xE20F) 2 = true ∧ runsOk (paged 0xE00F) [2] = true ∧ gridOk (paged 0xE00F) = true ∧ (cx0 roped).lr.rope = true := by
  decide +kernel
theorem witness_TakingATrapEntersTheHandler : (let s := onCtx (fun c => { c with lr := { c.lr with thoff := 0x8000 } })
    runsOk s [] = true ∧ gridOk s = true ∧ (spl s).handler = none ∧ (cx0 s).lr.thoff ≠ 0 ∧ (cx0 s).lr.dual = false) ∧ 4 ∉ [7, 11, 12, 13] := by decide +kernel
theorem witness_TrapWithoutHandlerEndsTheContext : runsOk w0 [] = true ∧ gridOk w0 = true ∧ (cx0 w0).state = .running ∧ (tm0 w0).inst = 0 ∧
    (spl w0).handler = none ∧ (cx0 w0).lr.thoff = 0 ∧ runsOk (handling .lane) [] = true ∧ (spl (handling .lane)).handler.isSome = true := by decide +kernel
theorem witness_RettReturnsFromTheHandler : runsOk w0 [] = true ∧ (spl w0).handler = none ∧ runsOk (handling .scalar) [] = true ∧
    (spl (handling .scalar (fun sp => { sp with tpc := 2 }))).tpc.toNat % 4 ≠ 0 ∧ (spl (handling .scalar)).clause = none ∧
    (let s := onSplit (fun sp => { sp with handler := some .lane, tpc := 0x2000C }) busy
     runsOk s [] = true ∧ (spl s).clause.map (fun c => (c.done, c.code.length, c.addr + 12)) = some (0, 2, (spl s).tpc)) := by decide +kernel

/-- The instruction executes: its mask holds a lane, and no source lane holds poisoned data; and it may write its destination. -/
def laneRunsOk (s : State) (f : LaneWord) (srcs : List (Src × Nat)) : Bool :=
  laneOk s && (env s).lanes ((env s).mask f) != [] && (s.spoiledLane r0.g (srcs.flatMap (fun p => p.1.regs p.2)) ((env s).lanes ((env s).mask f))).isNone
def laneFreeOk (s : State) (f : LaneWord) (srcs : List (Src × Nat)) (w : Nat) : Bool :=
  laneRunsOk s f srcs && !s.dstBusy (env s) f w && (f.dst == 255 || decide (f.dst.toNat + w / 32 ≤ (grp s).vregs.length))

theorem laneRuns_of {s : State} {f : LaneWord} {srcs : List (Src × Nat)} (h : laneRunsOk s f srcs = true) : LaneRuns s (env s) f srcs := by
  simp only [laneRunsOk, Bool.and_eq_true, bne_iff_ne, ne_eq, Option.isNone_iff_eq_none] at h
  exact ⟨laneAt_of h.1.1, h.1.2, h.2⟩
theorem laneFree_of {s : State} {f : LaneWord} {srcs : List (Src × Nat)} {w : Nat} (h : laneFreeOk s f srcs w = true) :
    LaneFree s (env s) f srcs w := by
  simp only [laneFreeOk, Bool.and_eq_true, Bool.not_eq_true', Bool.or_eq_true, beq_iff_eq, decide_eq_true_eq] at h
  exact ⟨laneRuns_of h.1.1, h.1.2, fun hd => h.2.resolve_left hd⟩

/-- v4, v6 and v8 and their pairs hold values. -/
def laned (i : Instr) : State := lane i [(4, 5), (5, 0), (6, 3), (7, 0), (8, 1), (9, 0)]
theorem witness_LaneIntegerArithmetic :
    (List.range 8).all (fun t => let f := { word3 with ty := BitVec.ofNat 4 t }
      laneFreeOk (laned (.iadd f)) f (src2 f) (tyHeld f.ty) && laneFreeOk (laned (.iabs f)) f (src1 f) (tyHeld f.ty) &&
      laneFreeOk (laned (.imad f)) f (src3 f) (tyHeld f.ty)) = true ∧ laneFreeOk (laned (.iadd word)) { word with dst := 255 } (src2 word) 32 = true ∧
    [1, 4].all (fun cc => let s := onGroup (fun g => { g with ccs := List.replicate 32 cc }) (laned (.iadc word))
      laneFreeOk s word (src2 word) 32 && ((grp s).ccs.getD 3 0).getLsbD 0 == (cc == 1) && ((grp s).ccs.getD 3 0).getLsbD 2 == (cc == 4)) = true := by
  decide +kernel
theorem witness_LaneBitOperationsAndMoves :
    [13, 14].all (fun t => let f := { word3 with ty := t }
      laneFreeOk (laned (.laneShl f)) f (src2 f) (tyHeld t) && laneFreeOk (laned (.blut f)) f (src3 f) (tyHeld t) && laneFreeOk (laned (.mov f)) f (src1 f) (tyHeld t) &&
      laneFreeOk (laned (.bfx f)) f [(srcA f, tyHeld t), (srcB f, 32)] (tyHeld t) &&
      laneFreeOk (laned (.bfi f)) f [(srcA f, tyHeld t), (srcB f, tyHeld t), (srcC f, 32)] (tyHeld t)) = true ∧
    laneFreeOk (laned (.pack word)) word (src2 word) 32 = true ∧ laneFreeOk (laned (.unpk word)) word (src1 word) 32 = true := by decide +kernel
theorem witness_LaneFloatArithmetic :
    [8, 9, 10, 11].all (fun t => let f := { word3 with ty := t }
      laneFreeOk (laned (.fadd f)) f (src2 f) (tyHeld t) && laneFreeOk (laned (.ffma f)) f (src3 f) (tyHeld t) && laneFreeOk (laned (.fsqrt f)) f (src1 f) (tyHeld t) &&
      laneFreeOk (laned (.fscale f)) f [(srcA f, tyHeld t), (srcB f, 32)] (tyHeld t)) = true := by decide +kernel
theorem witness_LaneComparesAndConversions :
    laneFreeOk (laned (.iset word)) word (src2 word) 32 = true ∧ laneFreeOk (laned (.fset { word with ty := 8 })) { word with ty := 8 } (src2 { word with ty := 8 }) 32 = true ∧
    laneFreeOk (laned (.fclass { word with ty := 9 })) { word with ty := 9 } (src1 { word with ty := 9 }) 32 = true ∧
    laneFreeOk (laned (.cvt { word with ty := 9, mod := 8 })) { word with ty := 9, mod := 8 } [(srcA word, 32)] 64 = true ∧
    laneFreeOk (laned (.cvtsEnc word)) word [(srcA word, 32)] 32 = true ∧ (laned (.cvtsEnc word)).store.poison = [] := by decide +kernel

def vote : LaneWord := { word with ty := 13, dst := 40, mod := 0x103 }
theorem witness_LaneCrossMasksAndCodes :
    laneFreeOk (laned (.lxch word)) word [(srcA word, 32), (srcB word, 32)] 32 = true ∧ word.mod.getLsbD 8 = false ∧
    laneFreeOk (laned (.lpoll word)) word [(srcA word, 32)] 32 = true ∧ laneFreeOk (laned (.lscan word)) word (src1 word) 32 = true ∧
    laneFreeOk (laned (.ccget word)) word [] 32 = true ∧ laneRunsOk (laned (.mcopyM2s word)) word [] = true ∧
    (laned (.mop word)).loadIntoMask 0 7 = false ∧ laneRunsOk (laned (.mcopyV2m word)) word [(srcA word, 32)] = true ∧
    vote.mod.getLsbD 8 = true ∧ laneRunsOk (laned (.lpoll vote)) vote [(srcA vote, 32)] = true ∧ laneRunsOk (laned (.lred vote)) vote (src1 vote) = true ∧
    (env (laned (.lred vote))).segBases.head? = some 0 ∧
    (lredSeg { vote with mod := 0x100 } (env (laned (.lred vote))) ((env (laned (.lred vote))).mask vote) 0).isSome = true ∧
    (grp w0).sregs.length = 64 ∧ 7 < (grp w0).masks.length := by decide +kernel
theorem witness_LaneFrameIsDestinationAndLastUses :
    laneOk (laned (.iadd word)) = true ∧ (.iadd word, src2 word, 32) ∈ laneShapes word ∧
    ((laned (.iadd word)).spoiledLane 0 ((src2 word).flatMap (fun p => p.1.regs p.2)) ((env (laned (.iadd word))).lanes ((env (laned (.iadd word))).mask word))).isNone = true ∧
    (match exec (.iadd word) (laned (.iadd word)) with | .next _ => true | _ => false) = true := by decide +kernel
/-- m1 is zero, so that an instruction under it has an empty mask. -/
theorem witness_EmptyMaskWritesNothing : (let f := { word with msk := 1, la := true }
    laneOk (laned (.iadd f)) = true ∧ (env (laned (.iadd f))).lanes ((env (laned (.iadd f))).mask f) = [] ∧ (grp (laned (.iadd f))).maskUnpub 1 = false ∧
    (.iadd f, src2 f, 32) ∈ laneShapes f ∧ lastUses (src2 f) = [4]) := by decide +kernel

/-- A memory access that meets nothing: what `MemClear` asks. -/
def memOk (s : State) (f : LaneWord) (q : MemAsk) (want : Nat → Want) : Bool :=
  let e := env s
  laneOk s && e.lanes (e.mask f) != [] && !s.regsBusy r0.g q.regs && !s.loadIntoMask r0.g q.rmask &&
  ((q.ord != 2 && q.ord != 3) || (s.released r0.g q.scope && !e.g.rfault.pend)) &&
  ((asReleased s r0.g q.ord).spoiledLane r0.g (q.srcs.flatMap (fun p => p.1.regs p.2)) (e.lanes (e.mask f))).isNone &&
  (s.accEnv r0.g r0.sp).any (fun a =>
    let u := asReleased s r0.g q.ord
    let m := u.meet a e.sp.fails q.kind.acc (q.kind == .cas || q.aop == 0 || q.aop == 6) q.mis ((e.lanes (e.mask f)).map want)
    !a.ctx.lr.dual && !a.switched && !s.hbmFull a.ctx.pent (some a.cn) && m.faults == [] && m.absent == [] && m.follow == [] && m.lost == none && m.gone == [] &&
    m.missed == [] && m.pieces.all (fun p => !p.place.remote) && (!q.kind.stores || u.drainLoads a (some e.c.id) e.c.since m.pieces == some u))

theorem memClear_of {s : State} {f : LaneWord} {q : MemAsk} {want : Nat → Want} (h : memOk s f q want = true) :
    ∃ a m, MemClear s (env s) a f q want m := by
  simp only [memOk, Bool.and_eq_true, Bool.or_eq_true, bne_iff_ne, ne_eq, Bool.not_eq_true', Option.isNone_iff_eq_none] at h
  obtain ⟨⟨⟨⟨⟨⟨h1, h2⟩, h3⟩, h4⟩, h5⟩, h6⟩, h7⟩ := h
  obtain ⟨a, ha, h8⟩ := (Option.any_eq_true _ _).mp h7
  simp only [Bool.and_eq_true, Bool.or_eq_true, Bool.not_eq_true', beq_iff_eq, List.all_eq_true] at h8
  obtain ⟨⟨⟨⟨⟨⟨⟨⟨⟨⟨g1, g2⟩, g3⟩, g4⟩, g5⟩, g6⟩, g7⟩, g8⟩, g9⟩, g10⟩, g11⟩ := h8
  refine ⟨a, _, laneAt_of h1, h2, ha, g1, g2, ⟨h3, h4⟩, g3, ?_, rfl, h6, ⟨g4, g5, g6, g7, g8, g9⟩, g10, ?_⟩
  · intro ho; rcases h5 with h5 | h5
    · exact absurd ho (by omega)
    · exact h5
  · intro hs; exact g11.resolve_left (by simp [hs])

/-- A lane access to the page at 0x10000, its address in s3 of the snapshot and v6 zero. -/
def acc (f : LaneWord) : LaneWord := { f with sa := 3, ka := 1 }
def near (i : Instr) : State := lane i [(6, 0), (8, 0), (9, 0)] ([0, 0, 0, 0x10000] ++ List.replicate 28 0)
theorem witness_LaneMemoryInstructionsIssue :
    [0, 1, 2, 3, 4].all (fun z => let f := acc { word with mod := BitVec.ofNat 9 z }
      memOk (near (.ld f)) f { kind := .load, n := 2 ^ z, ord := 0, scope := 0, dst := 2, rmask := 7, srcs := [addrSrc f] }
        (fun l => { lane := l, va := (env (near (.ld f))).va f l, n := 2 ^ z })) = true ∧
    [0, 3, 4].all (fun z => let f := acc { word with mod := BitVec.ofNat 9 z, sc := 8 }
      memOk (near (.st f)) f { kind := .store, n := 2 ^ z, ord := 2, scope := 3, srcs := [addrSrc f, (srcC f, heldBits (2 ^ z))] }
        (fun l => { lane := l, va := (env (near (.st f))).va f l, n := 2 ^ z, data := bytesOf (2 ^ z) 0 })) = true ∧
    (let f := acc { word with ty := 2, sc := 8 }
     memOk (near (.atom f)) f (atomAsk f .atomic) (atomWant f (env (near (.atom f)))) = true ∧
     memOk (near (.atomn f)) f (atomAsk f .atomicN) (atomWant f (env (near (.atomn f)))) = true) ∧
    (let f := acc { word with ty := 14, sc := 8 }
     memOk (near (.cas f)) f { kind := .cas, n := 8, ty := 14, ord := 0, scope := 0, dst := 2, rmask := 0, srcs := [addrSrc f, (srcC f, 128)] }
        (fun l => { lane := l, va := (env (near (.cas f))).va f l, n := 8, cmp := bytesOf 8 0, data := bytesOf 8 0 }) = true) ∧
    lastUses [addrSrc (acc word)] = [] := by decide +kernel

def tiled (i : Instr) (rc : W32) : State := onTeam (fun x => { x with tiles := x.tiles.set 5 (some tile8) }) (lane i [(6, rc), (8, 0)])
theorem witness_TileInstructionsIssueOrTrap : (let f := { word with ty := 13, sa := 5, sc := 8 }; let s := tiled (.tld f) 0x00010007
    laneOk s = true ∧ (env s).lanes ((env s).mask f) ≠ [] ∧ (s.accEnv 0 0).isSome = true ∧ (tm0 s).tiles[5]? = some (some tile8) ∧ s.store.poison = [] ∧
    s.regsBusy 0 (dstRegs f 32) = false ∧ s.tileLocked 0 5 = false ∧ (env s).bits f (srcB f) 32 31 / 65536 < tile8.rows ∧
    (env s).bits f (srcB f) 32 31 % 65536 < tile8.cols ∧ tileTyOk false 13 4 = true ∧ tileTyOk true 0 4 = true ∧
    (env (tiled (.tld f) 0x00020000)).bits f (srcB f) 32 0 / 65536 = tile8.rows ∧ (env (tiled (.tld f) 8)).bits f (srcB f) 32 0 % 65536 = tile8.cols) := by
  decide +kernel

/-- A matrix instruction of a group whose segment and splits are whole, or of one with a second split. -/
def clears : LaneWord := { word with dst := 64, sa := 255, sb := 255, ty := 8 }
def withAcc (s : State) : State := onGroup (fun g => { g with acc := g.acc.set 0 (some { rows := 16, cols := 16, esize := 4, atype := 0, ctype := 0, data := [] }) }) s
def closes : LaneWord := { word with dst := 255, sa := 255, sb := 255, imm := 11 }
def batch (b : List Batch) (s : State) : State := onGroup (fun g => { g with batches := b }) s
theorem witness_MatrixInstructionsEnterTheBatch : (let s := withAcc (lane (.aclr clears) [])
    laneOk s = true ∧ (s.feat Config.featX0 = true ∨ (s.mgmt.fw.getD 3 Firmware.reset).ok = true) ∧ (env s).converged clears = true ∧
    matOk (grp s) (tm0 s) (.aclr clears) = true ∧ s.matSpoiled 0 (grp s) (.aclr clears) = false ∧ (grp s).batchFull = false ∧
    matOk (grp w0) (tm0 w0) (.aclr clears) = false ∧ (env (two s)).converged clears = false ∧ laneOk (two s) = true) ∧
    (let b : Batch := ⟨[.aclr clears], false, none, []⟩; let s := batch [b] (lane (.mclose closes) [])
     laneOk s = true ∧ (env s).converged closes = true ∧ closes.imm.getLsbD 4 = false ∧ (grp s).closedCount = 0 ∧ (grp s).pend.getLsbD 11 = false ∧
     (grp s).batches.getLast? = some b ∧ b.isEmpty = false ∧ (grp s).clauses = [] ∧
     (grp (batch (List.replicate 4 ⟨[.aclr clears, .mclose closes], true, none, []⟩) s)).closedCount = 4 ∧
     (grp (onGroup (fun g => { g with pend := 0x800 }) s)).pend.getLsbD 11 = true) := by decide +kernel

/-- A scalar access that meets nothing: what `ScalarClear` asks, and the drain of a store. -/
def scalarOk (s : State) (w : Acc) (va : W64) (n : Nat) (data : List Byte) : Bool :=
  (s.accEnv r0.g r0.sp).any (fun a =>
    let m := s.meet a (spl s).fails w true false [{ lane := 0, va, n, data }]
    !a.ctx.lr.dual && !a.switched && !s.hbmFull a.ctx.pent (some a.cn) && !s.scalarHeldBy a r0 && m.faults == [] && m.absent == [] && m.follow == [] &&
    m.lost == none && m.gone == [] && m.pieces.all (fun p => !p.place.remote) && (w != .write || s.drainLoads a none 0 m.pieces == some s))
theorem scalarClear_of {s : State} {w : Acc} {va : W64} {n : Nat} {data : List Byte} (h : scalarOk s w va n data = true) :
    ∃ a m, ScalarClear s r0 (spl s) a w va n data m := by
  obtain ⟨a, ha, h8⟩ := (Option.any_eq_true _ _).mp h
  simp only [Bool.and_eq_true, Bool.not_eq_true', beq_iff_eq, List.all_eq_true] at h8
  obtain ⟨⟨⟨⟨⟨⟨⟨⟨⟨⟨g1, g2⟩, g3⟩, g9⟩, g4⟩, g5⟩, g6⟩, g7⟩, g8⟩, g10⟩, -⟩ := h8
  exact ⟨a, _, ha, g1, g2, g3, g9, rfl, ⟨g4, g5, g6, g7, g8⟩, g10⟩
theorem witness_ScalarAccessesIssueOrTrap : (let s := regs [(3, 0x10000)]
    runsOk s [2, 3] = true ∧ scalarOk s .write 0x10000 4 [0, 0, 0, 0] = true ∧ scalarOk s .write 0x1FFF8 8 (List.replicate 8 0) = true ∧
    scalarOk s .read 0x1FFFC 4 [] = true ∧ scalarOk s .read 0x10000 8 [] = true ∧ (s.accEnv 0 0).any (fun a => !s.hbmFull a.ctx.pent (some a.cn)) = true ∧
    ((grp s).sreg 3 + (2 : BitVec 14).signExtend 64).toNat % 4 ≠ 0 ∧ ((grp s).sreg 3 + (4 : BitVec 14).signExtend 64).toNat % 8 ≠ 0) := by decide +kernel

def dray : DrayWord := ⟨15, true, 11, true, 3, 0⟩
theorem witness_DrayStartsItsCopy : (let s := regs [(18, 0x10000)] (tiles tile8)
    runsOk s [18, 62, 63] = true ∧ runsOk s [18, 0] = true ∧ runsOk s [18, 62] = true ∧ s.tile? 0 5 = some tile8 ∧ s.tile? 0 6 = none ∧
    s.tileLocked 0 5 = false ∧ (grp s).pend.getLsbD 11 = false ∧ (grp (onGroup (fun g => { g with pend := 0x800 }) s)).pend.getLsbD 11 = true ∧
    (s.accEnv 0 0).any (fun e => !e.ctx.lr.dual && !e.switched && !s.etimeFull e.ctx.pent (some e.cn) && !s.hbmFull e.ctx.pent (some e.cn) && decide (s.coreCopies e.core < 64) &&
      (match s.readRec e (spl s).fails 0x10000 128 with | .ok .. => true | _ => false) && (s.t2tTeam e.tm 0x10000).isNone) = true ∧
    (cx0 s).lr.rope = false ∧ (cx0 (onCtx (fun c => { c with lr := { c.lr with rope := true } }) s)).lr.rope = true) := by decide +kernel
/-- The HBM budget of entry 0 is used up; tile 5 is an operand of a batch that has not committed. -/
def spent (s : State) : State := s.modPart 0 (fun p => { p with hbmb := 0 })
def locked (s : State) : State := onGroup (fun g => { g with batches := [⟨[.mma { word with dst := 64, sa := 5, sb := 6 }], false, none, []⟩] }) s
theorem witness_DraysThatWaitOrTrap :
    (let s := spent (regs [(18, 0x10000)] (tiles tile8))
     runsOk s [18, 62, 63] = true ∧ runsOk s [18, 0] = true ∧ (s.accEnv 0 0).any (fun e => s.hbmFull e.ctx.pent (some e.cn)) = true) ∧
    (let s := spent (regs [(18, 0x10000)] roped)
     runsOk s [18, 62] = true ∧ (s.accEnv 0 0).any (fun e => s.hbmFull e.ctx.pent (some e.cn) && e.ctx.lr.rope) = true) ∧
    (let s := locked (regs [(18, 0x500)] (tiles tile8))
     runsOk s [18, 62, 63] = true ∧ s.tileLocked 0 5 = true ∧ runsOk s [18, 0] = true ∧ s.tileLocked 0 6 = true ∧
     (s.accEnv 0 0).any (fun e => (s.t2tTeam e.tm ((grp s).sreg 18)).any (fun t => s.tileLocked t (t2tTile ((grp s).sreg 18)))) = true) ∧
    (let s := regs [(18, 0x500)] entryMarked
     s.entrySpoiled 0 0 5 = true ∧ s.tileLocked 0 5 = false ∧ runsOk s [18, 0] = true ∧ runsOk s [18, 62, 63] = true ∧ runsOk s [1, 2, 3] = true ∧
     (s.accEnv 0 0).any (fun e => !s.etimeFull e.ctx.pent (some e.cn) && !s.hbmFull e.ctx.pent (some e.cn) &&
       (s.t2tTeam e.tm ((grp s).sreg 18)).any (fun t => !s.tileLocked t (t2tTile ((grp s).sreg 18)))) = true) ∧
    (tiles tile8).tile? 0 6 = none ∧ (tiles tile8).entrySpoiled 0 0 6 = false := by decide +kernel
theorem witness_DprobeReadsTheChunkMap : runsOk (tiles tile8) [1, 2, 3] = true ∧ (tiles tile8).tile? 0 5 = some tile8 ∧ (tiles tile8).tile? 0 6 = none := by
  decide +kernel

def berthOk (s : State) (feat : Nat) : Bool := s.feat feat && (s.accEnv r0.g r0.sp).any (fun a => !a.ctx.lr.dual)
theorem berthClear_of {s : State} {feat : Nat} (h : berthOk s feat = true) : ∃ a, BerthClear s r0 a feat := by
  simp only [berthOk, Bool.and_eq_true] at h
  obtain ⟨a, ha, h'⟩ := (Option.any_eq_true _ _).mp h.2
  exact ⟨a, ha, h.1, by simpa using h'⟩
def minted : State := { after (.bmint 1 2 0 62) (regs [(2, 1000000)]) with cur := some r0 }
theorem witness_BmintMintsABerth : berthOk (regs [(2, 1)]) Config.featBerth = true ∧ runsOk (regs [(2, 1)]) (1 :: 2 :: regRange 59 4) = true ∧
    (grp w0).sregs.length = 64 ∧ w0.freeSlot 0 4096 0 = some 0 ∧ (grp (regs [(2, 0)])).sreg 2 = 0 ∧ (grp (regs [(2, 1000001)])).sreg 2 = 1000001 ∧
    runsOk w0 (1 :: 2 :: regRange 0 8) = true := by decide +kernel

theorem name_fields (n : W64) (h : 65536 ≤ n.toNat) (h' : n.toNat < 131072) : n ≠ 0 ∧ nameSlot n = 0 ∧ nameBd n = 0 ∧ nameTslot n = 0 := by
  refine ⟨fun h0 => by simp [h0] at h, BitVec.eq_of_toNat_eq ?_, ?_, ?_⟩ <;>
    simp [nameSlot, nameBd, nameTslot, Nat.shiftRight_eq_div_pow] <;> omega
theorem name_range (c : BitVec 16) : 65536 ≤ (1#48 ++ c).toNat ∧ (1#48 ++ c).toNat < 131072 := by
  have h : (1#48 ++ c).toNat = 65536 + c.toNat := by
    rw [BitVec.toNat_append, Nat.shiftLeft_eq, Nat.mul_comm, ← Nat.two_pow_add_eq_or_of_lt c.isLt]; rfl
  have := c.isLt
  omega
def bth (st : SlotState) (y : Byte) : Berth :=
  { bd := 0, slot := 0, state := st, gen := 1, g := some 0, queue := 0, idx := 0, pent := 0, k := 62, bytes := 8, expiry := 1000000, status := y,
    data := [], stage := false, loc := .resident, waiter := none, filled := false, ptime := 0, sentAt := none, acked := false, held := false, slotVa := none,
    res := 0, sig := 0, tag := 0 }
def withB (b : Berth) (s : State) : State := { s with berths := { s.berths with slots := [b] } }
theorem named_of {s : State} {b : Berth} (hs : s.selfSlot = 0) (h : b.bd = 0 ∧ b.slot = 0 ∧ b.gen = 1 ∧ b.state ≠ .free) :
    (withB b s).named ((withB b s).berthName b) = some b := by
  obtain ⟨h1, h2, h3, h6⟩ := h
  obtain ⟨n, hn⟩ : ∃ n, n = (withB b s).berthName b := ⟨_, rfl⟩
  have hr := name_range (Config.berthCheck b.bd (withB b s).berths.epoch 1#48)
  rw [show 1#48 ++ Config.berthCheck b.bd (withB b s).berths.epoch 1#48 = n by
    rw [hn, State.berthName, h1, h2, h3, show (withB b s).selfSlot = 0 from hs]; rfl] at hr
  obtain ⟨g0, g1, g2, g3⟩ := name_fields n hr.1 hr.2
  have hb : (withB b s).berth? 0 0 = some b := by simp [State.berth?, withB, h1, h2]
  rw [← hn, State.named, if_neg (by rw [g1]; exact fun h => h.elim g0 (fun h => h hs.symm)), g2, g3, hb]
  simp [h6, ← hn]
theorem owned_of {s : State} {b : Berth} (hs : s.selfSlot = 0) (hw : s.berths.forwards = [])
    (h : b.bd = 0 ∧ b.slot = 0 ∧ b.gen = 1 ∧ b.state ≠ .free) (h4 : b.g = some 0 ∧ b.loc = .resident) :
    (withB b s).ownedBerth 0 ((withB b s).berthName b) =
      some { live := b.state == .live, waiter := b.waiter, k := b.k, bytes := b.bytes, status := b.status, data := b.data, stage := b.stage, home := some (0, 0) } := by
  have hf : (withB b s).forward? ((withB b s).berthName b) = none := by simp [State.forward?, withB, hw]
  simp [State.ownedBerth, hf, named_of hs h, h4.1, h4.2, h.1, h.2.1]
/-- A group with a berth, whose name s5 holds. -/
def named (b : Berth) : State := withB b (regs [(5, (withB b w0).berthName b)])
theorem witness_BwaitAndBdropActOnTheGroupsBerths :
    (let s := named (bth .live 0)
     berthOk s Config.featBerth = true ∧ runsOk s [1, 5] = true ∧ s.replays 0 = false ∧ s.ownedBerth 0 0 = none ∧
     ∃ o, s.ownedBerth 0 (s.berthName (bth .live 0)) = some o ∧ o.live = true ∧ o.home = some (0, 0) ∧ s.ownedPoison o = false ∧ o.waiter = none ∧
       (∀ sp ∈ (grp s).splits.drop 1, sp.status ≠ .join)) ∧
    (let s := named (bth .resolved 255)
     berthOk s Config.featBerth = true ∧ runsOk s [1, 5] = true ∧ s.replays 0 = false ∧
     ∃ o, s.ownedBerth 0 (s.berthName (bth .resolved 255)) = some o ∧ o.live = false ∧ o.status = 255 ∧ o.home = some (0, 0) ∧ s.ownedPoison o = false ∧
       o.waiter = none ∧ ({ s with store := { s.store with poison := [.berth 0 0] } } : State).ownedPoison o = true) := by
  refine ⟨⟨by decide +kernel, by decide +kernel, by decide +kernel, by decide +kernel, _, owned_of (by decide +kernel) (by decide +kernel) (by decide) (by decide), ?_⟩,
    by decide +kernel, by decide +kernel, by decide +kernel, _, owned_of (by decide +kernel) (by decide +kernel) (by decide) (by decide), ?_⟩ <;> decide
/-- Entry 0 records its journal, of whose budget this many bytes have been used. -/
def journalOn (used : Nat) (s : State := w0) : State :=
  { s with host := { s.host with journals := modAt s.host.journals 0 (fun j => { j with jctl := 1 })
                                 spentAct := modAt s.host.spentAct 3 (fun x => { x with hbmb := used }) } }
def journaled (used : Nat) : State := journalOn used (onCtx (fun c => { c with lr := { c.lr with jrnl := true } }))
theorem witness_BwaitAndBdropActOnTheGroupsBerths_journal :
    (let s := withB (bth .resolved 0) (journaled 0)
     berthOk s Config.featBerth = true ∧ runsOk s [1, 5] = true ∧ s.replays 0 = false ∧ (cx0 s).lr.jrnl = true ∧ s.jrnlHeld (cx0 s).pent true = false ∧
     (cx0 (named (bth .resolved 0))).lr.jrnl = false ∧
     ∃ o, s.ownedBerth 0 (s.berthName (bth .resolved 0)) = some o ∧ o.live = false ∧ o.home = some (0, 0) ∧ s.ownedPoison o = false ∧ o.waiter = none) ∧
    (let s := withB (bth .resolved 0) (journaled 1048576)
     berthOk s Config.featBerth = true ∧ runsOk s [1, 5] = true ∧ s.replays 0 = false ∧ s.jrnlHeld (cx0 s).pent (cx0 s).lr.jrnl = true ∧
     ∃ o, s.ownedBerth 0 (s.berthName (bth .resolved 0)) = some o ∧ o.live = false) := by
  refine ⟨⟨by decide +kernel, by decide +kernel, by decide +kernel, by decide +kernel, by decide +kernel, by decide +kernel, _,
      owned_of (by decide +kernel) (by decide +kernel) (by decide) (by decide), ?_⟩,
    by decide +kernel, by decide +kernel, by decide +kernel, by decide +kernel, _, owned_of (by decide +kernel) (by decide +kernel) (by decide) (by decide), ?_⟩ <;> decide
theorem witness_BwaitAndBdropActOnTheGroupsBerths_acquire :
    (let s := named (bth .resolved 0)
     berthOk s Config.featBerth = true ∧ runsOk s [1, 5] = true ∧ runsOk s [5] = true ∧ s.replays 0 = false ∧ (cx0 s).lr.jrnl = false ∧
     ∃ o, s.ownedBerth 0 (s.berthName (bth .resolved 0)) = some o ∧ o.live = false ∧ o.status = 0 ∧ o.home = some (0, 0) ∧ s.ownedPoison o = false ∧ o.waiter = none) := by
  refine ⟨by decide +kernel, by decide +kernel, by decide +kernel, by decide +kernel, by decide +kernel, _,
    owned_of (by decide +kernel) (by decide +kernel) (by decide) (by decide), ?_⟩ <;> decide
theorem test_berth_name : (grp (named (bth .live 0))).sreg 5 = (named (bth .live 0)).berthName (bth .live 0) := by
  have hl : 0 < w0.exec.groups.length ∧ 5 < (grp w0).sregs.length := by decide +kernel
  have hv : ∀ v, (grp (regs [(5, v)])).sreg 5 = v := fun v => by
    cases hg : w0.exec.groups with
    | nil => rw [hg] at hl; exact absurd hl.1 (by decide)
    | cons x l =>
      have h5 : 5 < x.sregs.length := by simpa [grp, hg] using hl.2
      simp [regs, onGroup, grp, State.modGroup, Group.sreg, modAt, hg, h5]
  exact hv _
theorem witness_BputAndStageSend : berthOk w0 Config.featBerth = true ∧ runsOk w0 (5 :: regRange 60 4) = true ∧ berthOk roped Config.featStage = true ∧
    runsOk (regs [(3, 0x10000)] roped) [1, 2, 3] = true ∧ (cx0 roped).lr.rope = true ∧ (cx0 w0).lr.rope = false ∧
    (let s := regs [(3, 0x10000)] roped
     (s.accEnv 0 0).any (fun e => !e.switched && (match s.readRec e [] 0x10000 64 with
      | .ok t _ l => (let u := t.useLines l; u.cur == some r0 && u.exec.groups[0]? == some (grp s) && (grp s).splits[0]? == some (spl s)) | _ => false))) = true := by
  decide +kernel
/-! Events act on a device with the fabric, or on w0. -/

def go (l : List Instr) (s : State) : State := l.foldl (fun s i => after i s) s
/-- Slot 1, with link 1 up on all its stripes. -/
def linked : State := go [.linkTraining 1 ⟨0xFFFF, 0xFFFF⟩, .linkUp 1 true] (after (.powerOn (some 1)) State.reset)
def sel (a : Nat) (b : Nat := 0) (c : Nat := 0) (s : State) : State := { s with sel := ⟨a, b, c⟩ }
def onClock (f : Clock → Clock) (s : State := w0) : State := { s with clock := f s.clock }
def onPower (f : Power → Power) (s : State := w0) : State := { s with power := f s.power }
def onLink (f : Link → Link) : State := linked.modLink 1 f
def flit (type : Byte) (m : Option FabMsg := none) : Flit := ⟨⟨0, false, false, 0, 0, 0, 0, true, 0, 0, 0, 0, 0, false, type⟩, true, m⟩
def synced (st : TimeState) : State := onClock (fun c => { c with tstate := st, ptp := some (-40, 60), u := some 100 })
theorem witness_TimeAndPowerEvents : w0.clock.domain = 0 ∧ (synced .free).timeMove .locked 500 = true ∧ (synced .free).timeMove .locked 501 = false ∧
    (synced .locked).timeMove .holdover 1000 = true ∧ (synced .locked).timeMove .degraded 1001 = true ∧ linked.linkOn (BitVec.ofNat 7 (sel 1 0 0 linked).sel.a) = true ∧
    (linked.takeLocal 1 (flit 0x13) 0x13).2 = true ∧ w0.power.background = false ∧ w0.power.on = true ∧ w0.power.hotDies[7]? = some false ∧
    15 < w0.power.hotStacks.length ∧ w0.clock.aclk = 350 + 70 * (4 + 1) ∧
    (let s := sel 4000 0 0 w0; 95 * s.power.bound ≤ 100 * s.sel.a) ∧ (let s := sel 3799 0 0 w0; ¬ 95 * s.power.bound ≤ 100 * s.sel.a) ∧
    (let s := sel 3800 1000000 0 w0; 100 * s.sel.a ≤ 95 * s.power.bound ∧ 1000000 ≤ s.sel.b) ∧ (let s := sel 3800 999999 0 w0; ¬ 1000000 ≤ s.sel.b) ∧
    (synced .locked).clock.u = some 100 ∧ (synced .locked).peerUs = [] ∧ (40 : Int).natAbs + 960 ≤ 1000 ∧ 1000 < (-41 : Int).natAbs + 960 ∧
    tripDue (.junction 7 115) = true ∧ tripDue (.hbm 15 105) = true ∧ tripDue (.mainInput 39999 100001) = true ∧
    tripDue (.junction 7 114) = false ∧ tripDue (.hbm 15 104) = false ∧ tripDue (.mainInput 40000 100001) = false ∧
    [350, 420].all (fun a => let s := sel 4000 0 0 (onPower (fun p => { p with background := true }) (onClock (fun c => { c with aclk := a })))
      s.power.background && decide (95 * s.power.bound ≤ 100 * s.sel.a)) = true ∧
    [(true, 0), (true, 5), (false, 5), (false, 0)].all (fun x => let s := sel 3800 1000000 0 (onPower (fun p => { p with background := true, bandwidth := x.1, steps := x.2 }))
      decide (100 * s.sel.a ≤ 95 * s.power.bound) && s.power.bandwidth == x.1 && s.power.steps == x.2) = true ∧
    (let s := onPower (fun p => { p with hotDies := p.hotDies.set 7 true, hotStacks := p.hotStacks.set 15 true })
     s.power.hotDies[7]? = some true ∧ s.power.hotDies.countP id = 1 ∧ (List.range 15).all (fun k => s.power.hotStacks[k]? != some true) = true) := by decide +kernel

/-- A flit that begins the message m, and one in the middle of a message of two. -/
def req1 : FabMsg := .request { id := 7, src := 0, dst := 1, part := 0, sub := 0, pgen := 0, rope := none, addr := 0x10000, key := 0, lease := none, notime := false, kind := .load 32 false false }
def known : State := onLink (fun l => { l with h := l.h.set 0 (some 0) })
def taken (t : Byte) (m : Option FabMsg) (s : State := known) : Bool := (s.takeFlit 1 (flit t m) t).2
def local1 (t : Byte) (s : State := linked) : Bool := (s.takeLocal 1 (flit t) t).2
theorem witness_AcceptedFlitsAct :
    (let u := (known.takeFlit 1 (flit 0x01 (some req1)) 0x01).1
     taken 0x01 (some req1) = true ∧ (flit 0x01).hdr.last = true ∧ (u.link 1).h.getD (hdrEntry (flit 1).hdr) none = some 0) ∧
    (let s := onLink (fun l => { l with h := List.replicate 40 (some 0) })
     let u := (s.takeFlit 1 (flit 0x01 (some req1)) 0x01).1
     taken 0x01 (some req1) s = true ∧ (u.link 1).h.any (·.isNone) = false ∧ (u.link 1).h.getD 0 none = some 0 ∧
     (let v := onLink (fun l => { l with h := List.replicate 40 (some 9) })
      ((v.takeFlit 1 (flit 0x01 (some req1)) 0x01).1.link 1).h.getD 0 none ≠ some (flit 1).hdr.pgen)) ∧
    (taken 0x02 (some req1) = true ∧ (flit 2).hdr.pgen = (linked.partEnt 0).gen) ∧
    (let o : OpenMsg := { cls := 0, part := 0, sub := 0, msg := some req1, pois := false, stale := false }
     let s := onLink (fun l => { l with rx := { l.rx with open_ := [o] } })
     taken 0x03 none s = true ∧ ((s.takeFlit 1 (flit 0x03) 0x03).1.link 1).rx.open_.find? (·.fits (flit 3).hdr) = some o ∧
     (let o : OpenMsg := { o with type := 0x02 }
      let t := (onLink (fun l => { l with rx := { l.rx with open_ := [o] } })).modPart 0 (fun p => { p with gen := 1 })
      taken 0x03 none t = true ∧ ((t.takeFlit 1 (flit 0x03) 0x03).1.link 1).rx.open_.find? (·.fits (flit 3).hdr) = some o ∧
      (flit 3).hdr.pgen ≠ ((t.takeFlit 1 (flit 0x03) 0x03).1.partEnt 0).gen)) ∧
    taken 0x15 none = true ∧ (known.link 1).h.length = 40 ∧
    (let s := onLink (fun l => { l with tx := { l.tx with kg := true } })
     let v := ((s.takeFlit 1 (flit 0x14) 0x14).1.poolDone 1 (flit 0x14).hdr none).link 1
     taken 0x14 none s = true ∧ v.tx.kg ≠ false ∧ (bankOf v.tx.banks false).valid = true) ∧ local1 0x00 = true ∧ local1 0x10 = true ∧ local1 0x16 = true ∧ local1 0x11 = true ∧
    (0x8001 : W16) &&& ~~~(linked.link 1).rx.lit = 0 ∧ (linked.link 1).rx.expect = 0 ∧
    ((linked.link 1).rx.expect - 0xFFFB).toNat < 32768 ∧ ¬ ((linked.link 1).rx.expect - 5).toNat < 32768 ∧
    (let s := onLink (fun l => { l with tx := { l.tx with awaiting := true } })
     local1 0x12 s = true ∧ (s.link 1).tx.awaiting = true ∧ (s.link 1).tx.active &&& ~~~0x7FFF ≠ 0 ∧ (s.link 1).tx.active &&& ~~~0xFFFF = 0) := by decide +kernel

/-- w0 after device time has come to t. -/
def at_ (t : Nat) (s : State := w0) : State := onClock (fun c => { c with dtime := t }) s
def theFrame : Nat := (State.reset.freeFrame 0).getD 0
def ask (k : ReqKind) (rope : Option W32 := none) (notime : Bool := false) : RemoteReq :=
  { id := 5, src := 9, dst := 0, part := 0, sub := 0, pgen := 0, rope, addr := BitVec.ofNat 64 (65536 * theFrame), key := 0, lease := none, notime, kind := k }
def rsp0 : RemoteRsp := { id := 5, src := 0, part := 0, sub := 0, pgen := 0, result := .ok [] 0 none }
def asked (stale : Bool) : Request := { id := 5, op := 0, piece := 0, copy := false, req := { ask (.load 32 false false) with dst := 9 }, pent := 0, sentAt := 0, stale }
def withReqs (l : List Request) (s : State := w0) : State := { s with ops := { s.ops with reqs := l } }
theorem witness_LinkEventsWithoutFlits :
    (let s := after (.powerOn (some 1)) State.reset
     s.fabric.slot ≠ none ∧ (s.link 126).runs = false ∧ (s.link 127).runs = false ∧ s.power.on = true ∧ (126 : BitVec 7).toNat < s.fabric.links.length) ∧
    (let s := after (.linkTraining 1 ⟨1, 1⟩) (after (.powerOn (some 1)) State.reset)
     (s.link 1).trained = true ∧ (s.link 1).up = false ∧ s.fabric.slot ≠ none) ∧
    linked.linkOn 1 = true ∧ (linked.link 1).rx.active &&& ~~~0xFFFF = 0 ∧ (linked.link 1).rx.active &&& ~~~1 ≠ 0 ∧ (linked.link 1).rx.active &&& 1 ≠ 0 ∧
    (let s := onLink (fun l => { l with tx := { l.tx with active := 0x7FFF, awaiting := true }, rx := { l.rx with nakAt := some 5, loss := true } })
     (s.link 1).rx.lit.getLsbD 15 = true ∧ (s.link 1).tx.active.getLsbD 15 = false ∧ (s.link 1).rx.nakAt.isSome = true ∧ (s.link 1).tx.awaiting = true ∧
     (s.link 1).rx.loss = true ∧ s.linkOn 1 = true) ∧
    (let s := onLink (fun l => { l with rx := { l.rx with lit := 0x7FFF } })
     s.linkOn 1 = true ∧ (s.link 1).rx.lit &&& 0x8000 = 0 ∧ (s.link 1).rx.lit &&& ~~~0x7FFF = 0) ∧
    linked.fabric.slot ≠ none ∧ linked.power.on = true ∧ (linked.link 1).trained = true ∧ (linked.link 1).rx.lit &&& ~~~0x7FFF ≠ 0 ∧
    (linked.link 1).rx.active &&& ((linked.link 1).rx.lit &&& ~~~0x7FFF) ≠ 0 ∧ (linked.link 1).rx.active &&& (linked.link 1).rx.lit &&& 0 = 0 ∧
    (let s := onLink (fun l => { l with up := false }); (s.link 1).up = false ∧ (s.link 1).trained = true ∧ (s.link 1).rx.lit &&& ~~~0 ≠ 0) ∧
    (let s := onLink (fun l => { l with rx := { l.rx with active := 0x7FFF } })
     (s.link 1).up = true ∧ (s.link 1).rx.active &&& ((s.link 1).rx.lit &&& ~~~0x7FFF) = 0 ∧ (s.link 1).rx.lit &&& ~~~0x7FFF ≠ 0) ∧
    (linked.link 1).tx.retire = none ∧
    (bankOf (linked.link 1).rx.banks true).valid = false ∧ (bankOf (linked.link 1).rx.banks false).valid = true ∧
    (let s := withReqs [asked true] (at_ 4000000)
     s.ops.reqs.find? (fun q => q.stale && q.id == 5) = some (asked true) ∧ (asked true).sentAt + 4000000 ≤ s.now) := by decide +kernel
/-- A packet, or a record, with fields at offsets. -/
def fields (n : Nat) (l : List (Nat × Nat × Nat)) : List Byte :=
  l.foldl (fun b f => b.take f.1 ++ bytesOf f.2.1 f.2.2 ++ b.drop (f.1 + f.2.1)) (List.replicate n 0)
def pkt (type : Nat) (l : List (Nat × Nat × Nat)) : List Byte := fields 64 ((0, 1, type) :: l)
/-- w0 with the page at 0x10000 mapped for the command processor too, with bytes there, and queue 0 bound and ENABLED. -/
def cp (mem : List Byte) (f : Queue → Queue := id) (s : State := w0) : State :=
  let s := coded mem s
  { s with
    host := { s.host with queues := modAt s.host.queues 0 (fun k => f { k with state := 1, enable := true, size := 6, func := 0, base := 0x10000, wridx := 1 }) } }
def fetched (b : List Byte) (mem : List Byte := []) (s : State := w0) : State := cp mem (fun k => { k with cur := some (0, b) }) s

def gives (r : CpRes (List Byte)) (b : List Byte) : Bool := match r with | .ok x => x == b | _ => false
def failsWith {α : Type} (r : CpRes α) (n : Nat) : Bool := match r with | .fail x => x == n | _ => false

/-- w0 while a function is in reset. -/
def shut (fn : Nat) : State := w0.modFn fn (fun f => { f with inReset := true })
theorem witness_QueueRegisterEvents :
    (w0.answers 0 = true ∧ (shut 0).answers 0 = false ∧ (shut 0).answers ((shut 0).fnOfQueue (shut 0).sel.a) = false ∧ w0.fnOfQueue 0 = 0 ∧ w0.host.window = [] ∧ (w0.queue 0).enable = false ∧
     (let s := { w0 with host := { w0.host with window := [.doorbell 0 0] } }; s.answers 0 = true ∧ s.fnOfQueue 0 = 0 ∧ s.host.window ≠ [])) ∧
    ((w0.host.queues[(255 : Byte).toNat]?).isSome = true ∧ (63 : W16).toNat < 64 ∧ (0 : Byte).toNat < 40 ∧
     ((List.range 256).filter (· != 255)).countP (fun i => (w0.queue i).func == 63) < 16 ∧
     (let s := w0.modPart 0 (fun p => { p with queues := 1 })
      ((List.range 256).filter (· != 255)).countP (fun i => (s.queue i).func != 0xFFFF && (s.queue i).pent.toNat == 0) < (s.partEnt 0).queues.toNat)) ∧
    (let k := { w0.queue 0 with size := 16 }
     k.enable = false ∧ k.state = 0 ∧ k.pause = false ∧ k.barrier = none ∧ k.size.toNat = 16) ∧
    (let s := cp []
     (s.host.queues[s.sel.a]?).isSome = true ∧ (s.queue 0).state = 1 ∧ (s.queue 0).cur = none ∧ (s.queue 0).fetchOk = true ∧ (s.queue 0).rdidx ≠ (s.queue 0).wridx ∧
     (s.partEnt 0).state = 1 ∧ (s.queue 0).held ≤ 2 ^ 6 ∧ gives (s.cpRead State.askLine 0 0 0 2 0x10000 64) (List.replicate 64 0) = true) ∧
    (let s := cp [] (fun k => { k with base := 0x20000 })
     failsWith (s.cpRead State.askLine 0 0 0 2 0x20000 64) 1 = true) := by decide +kernel

/-- A launch record of one group of 32 lanes. -/
def launchRec : List Byte :=
  fields 256 [(0, 2, 0x4C52), (2, 2, 3), (4, 2, 2), (6, 2, 8), (8, 8, 0x10000), (0x10, 8, 0x10000), (0x18, 4, 1), (0x1C, 4, 1), (0x20, 4, 1), (0x24, 2, 1)]
def sited (s : State) : State := s.modPart 0 (fun p => { p with sites := p.sites.set 0 1 })
def due (s : State) (type : Nat) (image : Bool := false) : Bool := (s.toDispatch 0 type image).isSome
def readOk {α : Type} (r : CpRes α) : Bool := match r with | .ok _ => true | _ => false
def checks (s : State) (raw : List Byte) (k : Nat) : Bool := match s.checkRecord 0 0 raw false with | .ok .. => k == 0 | .refused .. => k == 1 | .wait _ => k == 2
def mark0 (va : Nat) (f : Queue → Queue := id) : State := let s := fetched (pkt 7 [(8, 8, va)]); { s with host := { s.host with queues := modAt s.host.queues 0 f } }
/-- A rope of this device alone, which launches the record at 0x10100 at T = 20,000; its map stands at 0x10080. -/
def ropeRec : List Byte := fields 64 [(0, 4, 9), (4, 1, 1), (5, 1, 1), (8, 8, 0x10080), (0x10, 8, 20000), (0x28, 8, 0x10100)]
def ropeMem : List Byte := ropeRec ++ List.replicate 64 0 ++ [1] ++ List.replicate 127 0 ++ launchRec
def roping : State := let s := sited (fetched (pkt 5 [(8, 8, 0x10000)]) ropeMem); { s with fabric := { s.fabric with slot := some 1 } }
/-- The COPY of 512 bytes, every chunk of it landed. -/
def copied : State :=
  let s := after .copy (fetched (pkt 2 [(8, 8, 0x10000), (0x10, 8, 0x10200), (0x18, 8, 512), (0x28, 1, 2)]))
  sel (s.ops.nextId - 1) 0 0 { s with ops := { s.ops with copies := s.ops.copies.map (fun c => { c with landed := List.range c.memChunks }) } }
theorem witness_PacketsAreDispatched :
    (let s := sited (fetched (pkt 1 [(8, 8, 0x10000)]) launchRec)
     due s 1 = true ∧ gives (s.cpRead State.askLine 0 0 0 3 0x10000 256) launchRec = true ∧ checks s launchRec 0 = true ∧ checks s (launchRec.set 0 0) 1 = true ∧
     (let j := (launchRec.set 0x68 4).set (0x78 + Config.featJrnl / 8) (BitVec.ofNat 8 (2 ^ (Config.featJrnl % 8)))
      let t := journalOn 1048576 s
      (match s.checkRecord 0 0 launchRec false with | .ok u l _ _ => !u.jrnlHeld 0 l.jrnl | _ => false) = true ∧
      (match t.checkRecord 0 0 j false with | .ok u l _ _ => u.jrnlHeld 0 l.jrnl | _ => false) = true ∧ s.jrnlHeld 0 (LaunchRec.ofBytes launchRec).jrnl = false) ∧
     readOk (s.launchArgs 0 0 (LaunchRec.ofBytes launchRec)) = true ∧ due (fetched (pkt 1 [(8, 8, 0x10001)])) 1 = true) ∧
    (let s := fetched (pkt 1 [(8, 8, 0x20000)])
     due s 1 = true ∧ (0x20000 : W64).toNat % 64 = 0 ∧ failsWith (s.cpRead State.askLine 0 0 0 3 0x20000 256) 1 = true) ∧
    (let s := fetched (pkt 5 [(8, 8, 0x20000)])
     due s 5 = true ∧ s.sigOk 0 0 = true ∧ failsWith (s.cpRead State.askLine 0 0 0 2 0x20000 64) 1 = true) ∧
    (let x := fields 64 [(4, 1, 128), (8, 8, 0x20000)]; let s := fetched (pkt 5 [(8, 8, 0x10000)]) x
     due s 5 = true ∧ s.sigOk 0 0 = true ∧ gives (s.cpRead State.askLine 0 0 0 2 0x10000 64) x = true ∧ fieldAt x 4 1 = 128 ∧
     failsWith (s.cpRead State.askLine 0 0 0 3 (pktVa x 8) 128) 1 = true) ∧
    (let s := fetched (pkt 1 [(1, 1, 4), (8, 8, 0x20000)])
     due s 1 true = true ∧ failsWith (s.readImage 0 0 0 0x20000) 1 = true) ∧
    (due (fetched (pkt 2 [])) 2 = true ∧ (w0.hbmFull 0 none || w0.etimeFull 0 none) = false ∧ (fetched (pkt 2 [])).sigOk 0 0 = true ∧
     fieldAt (pkt 2 [(0x18, 8, 2 ^ 40), (0x28, 1, 3)]) 0x18 8 = 2 ^ 40 ∧ fieldAt (pkt 2 [(0x18, 8, 2 ^ 40), (0x28, 1, 3)]) 0x28 1 = 3) ∧
    (due (fetched (pkt 3 [])) 3 = true ∧ [0, 0, 0].all ((fetched (pkt 3 [])).sigOk 0) = true) ∧
    (let s := fetched (pkt 4 [(8, 8, 0x1FFF8), (0x18, 1, 1)])
     due s 4 = true ∧ s.sigOk 0 0x1FFF8 = true ∧ fieldAt (pkt 4 [(8, 8, 0x1FFF8), (0x18, 1, 1)]) 0x18 1 = 1 ∧ due (fetched (pkt 4 [])) 4 = true) ∧
    (due roping 5 = true ∧ gives (roping.cpRead State.askLine 0 0 0 2 0x10000 64) ropeRec = true ∧
     gives (roping.cpRead State.askLine 0 0 0 3 0x10080 1) [1] = true ∧ roping.ropeBad ropeRec [1] none = false ∧
     (match roping.ropeRead 0 0 ropeRec with | .ok (u, _, img) => !u.ropeBad ropeRec [1] (some img) | _ => false) = true ∧
     roping.sigOk 0 0 = true ∧ roping.sigOk 0 4 = false) ∧
    (let s := fetched (pkt 6 [(0x10, 8, 1)])
     due s 6 = true ∧ ((s.dispatched 0 { kind := .stage, idx := 0, tag := 0, sig := 0 } false).stageMint 0
       { idx := 0, tag := 0, pkt := pkt 6 [(0x10, 8, 1)], got := [], bad := 7, until_ := 1000000000 }).isSome = true ∧
     due (fetched (pkt 6 [(0x2C, 4, 1000001)])) 6 = true ∧ fieldAt (pkt 6 [(0x10, 8, 1)]) 0x2C 4 = 0 ∧ s.sigOk 0 0 = true ∧
     due (fetched (pkt 6 [(0x10, 8, 0x10000)])) 6 = true ∧
     gives ((fetched (pkt 6 [(0x10, 8, 0x10000)])).cpRead State.askLine 0 0 0 2 0x10000 64) (List.replicate 64 0) = true ∧
     failsWith ((fetched (pkt 6 [(0x10, 8, 0x20000)])).cpRead State.askLine 0 0 0 2 0x20000 64) 1 = true) ∧
    (due (mark0 0x10010) 7 = true ∧ ((mark0 0x10010).queue 0).work = [] ∧
     ((mark0 0x10010 (fun k => { k with work := [{ kind := .signal, idx := 9, tag := 0, sig := 0 }] })).queue 0).work ≠ [] ∧
     (match (mark0 0x10010).translate none 0 none 0x10010 .atomic with | .prot _ | .poison => false | _ => true) = true ∧
     due (mark0 0x10008) 7 = true) ∧
    (copied.copy? copied.sel.a).any (fun c => decide (c.dir = .mem) && !copied.copyFlying c.id none && !copied.leasing && c.allLanded && c.fault.isNone && c.poison.isNone &&
      ((copied.queue c.queue).work.find? (fun w => w.idx == c.idx && w.kind == .copy)).isSome) = true ∧ copied.caches.held = [] ∧
    (let w : StageWait := { idx := 0, tag := 0, pkt := pkt 6 [(0x10, 8, 1)], got := [], bad := 7, until_ := 1 }
     let s := cp [] (fun k => { k with stages := [w], wait := some { idx := 0, tag := 0, sigs := [0], deadline := some 0 } })
     ((s.queue 0).stages.find? (fun w => w.idx.toNat == s.sel.b)) = some w ∧ (s.stageMint 0 w).isSome = true ∧ (s.queue 0).wait.isSome = true) := by decide +kernel
/-- The same context on a TZ5, which has no capacity tier. -/
def tz5 : State := { ((State.resetOf .tz5).plant [] none).1 with cur := some r0 }
/-- The page at 0x30000 is to be staged into a tier. -/
def staged (tier : Nat) (s : State) : State := onCtx (fun c => { c with stage := [{ va := 0x30000, tier, required := true }] }) s
def walked (s : State) (va : Nat) : Option W64 := match s.walk 0 va with | .leaf w _ _ => some w | _ => none
/-- A context that waits for room on the one core of its entry. -/
def waiting : State := onCtx (fun c => { c with next := 0, lr := { c.lr with grid := (1, 1, 1), gpt := 1, crows := 1, ccols := 1, vregs := 8, thoff := 0 } })
  { sited w0 with exec := { w0.exec with teams := [], groups := [] } }
def halted : State := onTeam (fun t => { t with halted := true }) (onCtx (fun c => { c with next := 1 }) (sited w0))
/-- A context with a halted team and teams to come, which yields to another that waits too, of a lower PRIO. -/
def yielded : State :=
  let c := { cx0 waiting with next := 0, queue := 1 }
  let s := onCtx (fun c => { c with next := 1, yields := [1], lr := { c.lr with prio := 1, grid := (2, 1, 1), gpt := 1, crows := 1, ccols := 1, vregs := 8, thoff := 0 } }) halted
  { s with exec := { s.exec with ctxs := s.exec.ctxs ++ [c] } }
/-- Four groups of the first partition of the first core, each with one hit, m misses and a window of w. -/
def windowed (m w : Nat) : State :=
  { w0 with exec := { w0.exec with groups := List.replicate 4 { grp w0 with hits := 1 }, windows := [(0, 0, 0, w)], misses := [(0, 0, 0, m)] } }
def serial : Serial := { asker := some 0, rope := false, snap := none, keep := false, start := 0, drainTo := 0, drained := true, phase := 0, hdr := [] }
/-- A small group that a serialisation has stopped. -/
def stopped (va size : W64) : State :=
  (onCtx (fun c => { c with ser := some serial, lr := { c.lr with vregs := 1, gw := 8 } }) (onGroup (fun g => { g with stop := some { lanes := 0, scalar := true, held := [], waits := [] } }))).modFn 0
    (fun f => { f with ser := { f.ser with imgva := va, imgsize := size } })
def nexts (s : State) : Bool := (s.settleHalts.firstWaiter s.sel.a).any (fun p => p.2.load.isNone && s.settleHalts.haltedOf p.1 == [] && !p.2.lr.cores &&
  p.2.nextInst.any (fun i => (s.settleHalts.placeNext p.1 i).any (fun t => !s.settleHalts.unsaved t)))
theorem witness_PlacementClausesAndEnds :
    nexts waiting = true ∧
    ((halted.settleHalts.firstWaiter 0).any (fun p => p.2.load.isNone && halted.settleHalts.haltedOf p.1 == [0] && !halted.settleHalts.yielding 0 p.2) = true ∧
     (halted.settleHalts.resumeTeam 0).any (fun t => !halted.settleHalts.unsaved t) = true ∧ (cx0 halted).ser = none) ∧
    (let s := yielded
     (s.settleHalts.firstWaiter 0).any (fun p => p.1 == 0 && s.settleHalts.yielding 0 p.2 && s.settleHalts.haltedOf p.1 == [0] && p.2.nextInst.isSome) = true) ∧
    (let s := at_ 1000000 (onCtx (fun c => { c with slices := [(0, 0, 0)] }))
     (cx0 s).slices = [(0, 0, 0)] ∧ (cx0 s).ser = none ∧ (cx0 s).state = .running ∧ 0 + 1000 * (s.partEnt 0).slice.toNat ≤ s.now ∧
     s.wanting 0 (cx0 s) 0 0 = []) ∧
    (let ok (m w k : Nat) : Bool := let s := windowed m w; let rs := s.residents 0 0 0; let hits := (rs.map (·.2.hits)).sum; let v := s.window 0 0 0
       m == s.missesOf 0 0 0 && (match k with
        | 0 => decide (8 * hits ≤ m ∧ m ≤ 32 * hits ∧ 2 ≤ v ∧ v ≤ rs.length)
        | 1 => decide (32 * hits < m ∧ 8 * hits ≤ m ∧ v < rs.length ∧ 1 ≤ v)
        | _ => decide (m < 8 * hits ∧ 3 ≤ v ∧ v ≤ rs.length))
     ok 32 2 0 && ok 128 4 0 && ok 129 1 1 && ok 129 3 1 && ok 31 3 2 && ok 31 4 2) = true ∧
    (let s := onCtx (fun c => { c with lr := { c.lr with cores := true } }) waiting
     (s.settleHalts.firstWaiter 0).any (fun p => p.2.load.isNone && s.settleHalts.haltedOf p.1 == [] && p.2.nextInst.isSome && p.2.lr.cores &&
       (s.settleHalts.placeAll p.1 (gridSize p.2.lr + 1)).any (fun t => !s.settleHalts.unsaved t)) = true) ∧
    (let b := ((stopped 0x40000 11200).imageOf 0 (cx0 (stopped 0x40000 11200)) false true).bytes
     let s := onCtx (fun c => { c with load := some (b, []) }) waiting
     (s.settleHalts.firstWaiter 0).any (fun p => p.2.load.any (fun x => x.1.length == 11200 && x.2 == []) && (s.settleHalts.plantImage p.1 b []).any (fun t => !s.settleHalts.unsaved t)) = true) ∧
    (let s := onSplit (fun q => { q with runq := [{ addr := 0x10000, mask := ~~~0, snap := [] }] })
     (s.accEnv 0 0).isSome = true ∧ s.mayIssue 0 = true ∧ (spl s).handler = none ∧ (grp s).stop = none ∧ (spl s).waitPg = [] ∧ (spl s).clause = none ∧
     (spl s).runq.length = 1) ∧
    (let s := onSplit (fun q => { q with status := .sleep, wval := 0 })
     (spl s).status = .sleep ∧ (spl s).wval.toNat ≤ s.now ∧ s.mayIssue 0 = true ∧ (grp s).stop = none) ∧
    (let s := onSplit (fun q => { q with status := .tbar, wbar := 15 }) (bars 15 (fun b => { b with dog := 100000001 }) w0)
     (tm0 s).bars[15]?.any (fun b => decide (1000 * (cx0 s).lr.btimeout < b.dog)) = true ∧
     (s.firstBlocked (tm0 s).groups (·.waitsAt 15)).isSome = true) ∧
    (let s := after (.trap 2 5) w0
     s.ops.mops = [] ∧ (cx0 s).state = .ending ∧ s.outstanding 0 = false ∧ (cx0 s).fault.any (fun f => f.code != 8) = true) ∧
    (let s := at_ 1 (onCtx (fun c => { c with retired := gridSize c.lr }) (onGroup (fun g => { g with gwct := 0 })))
     s.gridDone 0 (cx0 s) = true ∧ (cx0 s).lr.dual = false) ∧
    walked (staged 0 w0) 0x30000 = none ∧ walked (staged 0 (paged 0xE40F)) 0x30000 = some 0xE40F ∧ lfTier 0xE40F = 0 ∧ lfRes 0xE40F = true ∧
    (let s := staged 1 (paged 0xE40F)
     leafValid s.part 0xE40F 3 = true ∧ s.mayUnit 0 = true ∧ s.rangeBusy (lfFrame 0xE40F) 65536 = false ∧ (s.freeRun 1 1 1 []).isSome = true ∧
     s.stagingFails 0 0xE40F 1 = false ∧ (s.work 0 65536).2 = true ∧ s.stagingFails 0 0xFFFFFFFFFFFFE40F 1 = true) ∧
    (let s := staged 1 (paged 0xE40F tz5)
     walked s 0x30000 = some 0xE40F ∧ leafValid s.part 0xE40F 3 = true ∧ s.mayUnit 0 = true ∧ s.rangeBusy (lfFrame 0xE40F) 65536 = false ∧
     s.freeRun 1 1 1 [] = none) := by decide +kernel
def rung (k : Nat) (held : Bool) : Rung :=
  { rung := k, queue := 0, pent := 0, index := 0, replay := false, allctx := false, start := 0, flr := false, held, ctxs := [], queues := [], links := [], cores := [],
    teardown := false }
def resetting (k : Nat) (held : Bool) (s : State := w0) : State := s.modPage 0 (fun p => { p with active := some (rung k held) })
def reqs (q : W16) : ResetReq := ⟨q, 0, 0, false, false, false⟩
theorem witness_ResetRequestsAndRungs :
    (let s := cp []
     (s.host.fns[0]?.any (fun p => !p.rpage.rctl.getLsbD 0)) = true ∧ [1, 2, 3, 4, 5].all (fun k => (s.resetCheck 0 k (reqs 0)).isNone) = true ∧
     [1, 2, 3].all (fun k => s.resetCheck 0 k (reqs 256) == some 4) = true ∧ s.resetCheck 0 5 ⟨0, 0, 0, true, false, false⟩ = some 6 ∧
     s.resetCheck 0 1 ⟨0, 0, 0, false, false, true⟩ = some 6 ∧
     (w0.modPage 63 (fun p => { p with rctl := 1 })).host.fns[63]?.any (fun p => p.rpage.rctl.getLsbD 0) = true) ∧
    [1, 2, 3, 4, 5].all (fun k => let s := resetting k false (at_ 1000000000)
      (s.page 0).active.any (fun x => (s.drainAll x).2 && (s.drainAll x).1.rungDone x && !x.teardown && decide (x.start + rungLimit x.rung ≤ s.now))) = true ∧
    (let s := resetting 4 true
     (s.page 0).active.any (fun x => x.held && !s.rungWaits x.pent.toNat) = true) ∧
    (let s := w0.modPart 0 (fun p => { p with func := 63 })
     s.entryOf 63 = some 0) ∧
    (let s : State := { w0 with host := { w0.host with numVfs := 63 } }
     s.host.numVfs = 62 + 1 ∧ s.entryOf (62 + 1) = none) := by decide +kernel

theorem witness_RegisterAndPartitionWrites :
    (w0.writtenParts[39]?).isSome = true ∧ (0x1380 : W16).toNat / 128 = 39 ∧
    (let old := w0.writtenParts.getD 39 PartEntry.reset
     let p := old.written (({ off := 0x1380, n := 1, v := 1 } : RegWr).from_ (128 * 39))
     p.inRange old = true ∧ tableOk (w0.writtenParts.set 39 p) 39 = true ∧ p.moves old = false ∧
     (let q := old.written (({ off := 0x1380, n := 1, v := 3 } : RegWr).from_ (128 * 39)); q.inRange old = false)) ∧
    (let old := w0.writtenParts.getD 39 PartEntry.reset
     let w (v : W64) := ({ off := 0x1388, n := 4, v } : RegWr).from_ (128 * 39)
     old.tooWide (w 0x0FFFFFFF) = false ∧ old.tooWide (w 0x10000000) = true) ∧ w0.answers 0 = true ∧
    (let s := { w0 with host := { w0.host with numVfs := 63 } }
     s.ideFails 63 = false ∧ s.answers 63 = true ∧ (0x1FFF : BitVec 25).toNat < 0x2000) ∧ w0.answers 63 = false ∧
    (shut 0).ideFails 0 = false ∧ (shut 0).answers 0 = false ∧ w0.ideFails 0 = false ∧ w0.host.numVfs ≤ 63 ∧
    (let s := at_ 100000; s.host.period < s.now / 100000 ∧ s.upLinks = []) ∧
    (1 : W16).getLsbD 0 = true ∧ (1 : W16).getLsbD 1 = false ∧ (w0.journal 39).enabled = false ∧ 39 < w0.host.journals.length := by decide +kernel

theorem witness_MemoryControlEvents :
    (let s := w0.modCtl (fun m => { m with invctl := 1 })
     s.memctl.invctl.getLsbD 0 = true ∧ s.invBusy = false ∧ w0.memctl.invctl.getLsbD 0 = false ∧ (3 : Byte).getLsbD 0 = true) ∧
    (let m (k : Byte) (pa : W64) : MemCtl := { w0.memctl with fopkind := k, foppa := pa, fopcount := 1 }
     (m 1 0x10000).fopRefused .tz9 1 = false ∧ (m 2 0x10000).fopRefused .tz9 1 = false ∧ (m 0 0x10000).fopRefused .tz9 1 = true ∧
     (m 1 0x10008).fopRefused .tz9 1 = true ∧ (m 0 0).fopRefused .tz9 0 = false) ∧
    16 < popc 24 ((0x1FFFF : W64) &&& 0xFFFFFF).toNat ∧ popc 24 ((0xFFFF : W64) &&& 0xFFFFFF).toNat ≤ 16 ∧ w0.store.lines = [] ∧
    (List.range 4).all (fun k => (List.range 24).all (fun w => !w0.holdsSide k w)) = true ∧
    (let s := w0.modCtl (fun m => { m with reqs := [{ pent := 0, page := 0x20000, write := false, expl := false, sent := none, queue := 0, index := 0 }] })
     s.memctl.reqs.any (fun r => r.pent == 0 && r.page == 0x2FFFF &&& ~~~(0xFFFF : W64)) = true) ∧
    (0x9C0 : W16).toNat / 64 = 39 ∧
    (let w : RegWr := ({ off := 0x9C0, n := 8, v := 1 } : RegWr).from_ (64 * 39)
     w.r64 0 0 &&& 0x000FFFFFFFFFE001 ≠ (w0.memctl.xlat.getD 39 Xlat.reset).root ∧ w0.resident 39 = false ∧ w.hits 0x20 8 = false ∧ w0.resident 0 = true) := by
  decide +kernel
theorem witness_SerialisationAndFollowingEvents :
    (let s := cp []
     (s.host.fns[0]?.any (fun f => !f.ser.ctl.getLsbD 0)) = true ∧ (s.ctxNamed 0 0 0).isSome = true ∧ (cx0 s).ser = none ∧ s.ctxNamed 0 1 0 = none) ∧
    (let s := stopped 0x40000 11200
     (cx0 s).ser = some serial ∧ serial.drainTo ≤ s.now ∧ s.canSeal 0 (cx0 s) serial = true ∧ serial.snap = none ∧ serial.rope = false ∧ serial.phase = 0 ∧
     s.imageArea 0 serial = some (0x40000, some 11200) ∧ (s.imageOf 0 (cx0 s) false true).bytes.length = 11200 ∧ s.mayUnit 4 = true ∧ s.spoiledGroup (s.groupsOf 0) = none ∧ (s.work 4 11200).2 = true ∧
     (let t : State := { s with store := { s.store with poison := [.tile 0 5 0] } }
      t.spoiledGroup (t.groupsOf 0) = some 0 ∧ t.canSeal 0 (cx0 t) serial = true ∧ t.imageArea 0 serial = some (0x40000, some 11200)) ∧
     (stopped 1 0).canSeal 0 (cx0 (stopped 1 0)) serial = true ∧ (stopped 1 0).imageArea 0 serial = some (1, some 0)) ∧
    (let s := sel 39 0 0 { w0 with host := { w0.host with snaps := modAt w0.host.snaps 39 (fun k => { k with status := 1 }) } }
     s.sel.a < 40 ∧ (s.snap s.sel.a).status = 1 ∧ s.snapLive s.sel.a = []) ∧
    (let s := sel 39 0 0 { w0 with host := { w0.host with snaps := modAt w0.host.snaps 39 (fun k => { k with status := 2 }) } }
     (s.snap s.sel.a).status = 2 ∧ (s.snap s.sel.a).failed = false ∧ (s.snap s.sel.a).begun = false) ∧
    (((followed 0).work 0 65536).2 = true ∧ leastBy (fun (f : FollowPage) => f.va.toNat) ((followed 0).store.follow.filter (fun f => f.pent == 0 && f.state == 0)) = some (paging 0)) ∧
    ((followed 1).store.follow.find? (fun f => f.pent == 0 && f.va == 0x30000 && f.state == 1) = some (paging 1) ∧ ((followed 1).freeFrame 0).isSome = true ∧
     walked (followed 1) 0x30000 = some 0xE00F ∧ lfRes 0xE00F = false) := by decide +kernel
theorem witness_FollowingBytes : ∃ d, (followed 1).originBytes (paging 1) [(65535, 1)] = .ok d := ⟨_, rfl⟩
theorem witness_RegistrationNamesABerth : ∃ n, (withB (bth .live 0) w0).named n = some (bth .live 0) := ⟨_, named_of (by decide +kernel) (by decide)⟩
def answers (s : State) (r : RemoteReq) (k : Nat) : Bool := match s.serve r with | .answer _ x => k == 0 && x != .nack | .late _ => k == 1 | .hold .. => k == 2
def heldAck (after : Option Nat) : HeldAck := { id := 5, rsp := rsp0, after, line := 7, dst := 9, waiting := [0 + 8 + 1], sentAt := 0 }
/-- The load and the store that a lane instruction and SSW issued. -/
def firstOp (s : State) : State := sel ((s.ops.mops.head?.map (·.id)).getD 0) 0 0 s
def returned (s : State) (f : MOp → Bool) : Bool := let u := s.performAll s.sel.a; (u.op? s.sel.a).any f && u.opDone s.sel.a
theorem witness_PeerRequestsAndProgress :
    (let s : State := { linked with caches := { linked.caches with held := [heldAck none] } }
     s.peerSlot 7 = 9 ∧ (heldAck none).rsp.result ≠ .nack ∧ (let t := at_ 4000000 s; t.caches.held = [heldAck none] ∧ t.linkUp (t.peerSlot 7) = false)) ∧
    (answers w0 (ask (.load 32 false false)) 0 = true ∧ answers w0 (ask (.store [1] false)) 0 = true ∧
     answers w0 (ask (.store [1] false) none true) 1 = true ∧
     (let s : State := { w0 with ropes := { w0.ropes with binds := [{ id := 3, pent := 0, map := [0], rank := 0, ctx := 0 }] } }
      answers s { ask (.load 32 false false) (some 3) with addr := 0x50000 } 0 = true ∧
      answers (paged 0x800F s) { ask (.load 32 false false) (some 3) with addr := 0x30000 } 2 = true) ∧
     w0.reqPart (ask (.load 32 false false)) = some 0 ∧ ((w0.modPart 0 (fun p => { p with state := 2 })).partEnt 0).state = 2) ∧
    (let s := withReqs [asked false] (at_ 4000000)
     s.ops.reqs.find? (fun q => q.id == 5 && q.req.dst == 9) = some (asked false) ∧ (s.partEnt 0).gen = rsp0.pgen ∧ rsp0.pgen ≠ ((s.modPart 0 (fun p => { p with gen := 1 })).partEnt 0).gen ∧
     (asked false).sentAt + 4000000 ≤ s.now) ∧
    (let s := withReqs [asked true] (at_ 4000000)
     s.ops.reqs.find? (fun q => q.stale && q.id == 5) = some (asked true) ∧ (asked true).sentAt + 4000000 ≤ s.now) ∧
    (let i : Inbound := { req := ask (.load 32 false false), at_ := 0, pent := 0, page := 0x30000 }
     let s := sel 5 9 0 (at_ 3000000 { w0 with ops := { w0.ops with inbound := [i] } })
     s.ops.inbound.find? (fun i => i.req.id == s.sel.a && i.req.src.toNat == s.sel.b && i.page != 0) = some i ∧ i.at_ + 3000000 ≤ s.now) ∧
    (let last : Nat := 2 ^ 36 - 8
     w0.ideFails 0 = false ∧ w0.answers 0 = true ∧ (shut 0).answers 0 = false ∧ w0.host.bar2 < (2 ^ 36 - 1) + windowBytes (.read 2) ∧
     windowOk last (.read 8) = true ∧ windowOk last (.write [1]) = true ∧ windowOk last (.atomic .fetchAdd (List.replicate 8 255)) = true ∧
     last + 8 ≤ w0.host.bar2 ∧ last + 8 ≤ Config.hbmSize w0.part ∧ w0.host.window = [] ∧ w0.ownedIn last 8 = false ∧
     w0.lost.getLsbD (8 + homeDie last) = false ∧ w0.store.poisoned (w0.shadowed last) 8 = false ∧ (w0.windowWrite last [1]).isSome = true ∧
     ((List.range 40).any (fun e => w0.storeHeld e last || w0.storeKept e last)) = false ∧
     (w0.windowWrite last (pcieBytes .fetchAdd (w0.store.bytes (w0.shadowed last) 8) (List.replicate 8 255))).isSome = true ∧
     (let s : State := { copied with ops := { copied.ops with copies := copied.ops.copies.map (fun c => { c with owned := [(2 ^ 29 - 1, 1)] }) } }
      s.ownedIn last 8 = true ∧ s.answers 0 = true ∧ s.host.window = [])) ∧
    (returned (firstOp loading) (fun o => o.kind == .load && o.ord == 0) = true ∧ returned (firstOp (acquiring loading)) (fun o => o.ord == 1 && o.scope == 3) = true ∧
     returned (firstOp (acquiring loading 4)) (fun o => o.ord == 1 && o.scope == 4 && !o.noted) = true ∧ loading.acquireHeld 0 = false ∧
     (let s := acquiring loading 4
      returned (firstOp { s with ops := { s.ops with mops := s.ops.mops.map (fun o => { o with noted := true }) } }) (fun o => o.ord == 1 && o.scope == 4 && o.noted) = true) ∧
     returned (firstOp stored) (fun o => o.kind == .scalarStore && o.ord == 0 && o.pieces.all (fun p => match p.place with | .host _ => false | _ => true)) = true) ∧
    (let s := sel 5 9 0 (at_ 8 { w0 with caches := { w0.caches with held := [heldAck (some 7)] } })
     s.caches.held.find? (fun h => h.id == s.sel.a && h.dst.toNat == s.sel.b &&
        (match h.after with | some g => decide (g < s.now) | none => false)) = some (heldAck (some 7))) ∧
    (let s := at_ 1 (cp (bytesOf 4 0x6800000C))
     let u : State := { s with cur := some r0 }
     runsOk u [] = true ∧ gridOk s = true ∧ (grp s).earlierIssued 0 = true ∧ s.acquiring 0 0 = false ∧ s.released 0 4 = true ∧ (grp s).rfault.pend = false ∧ (grp s).gwct < s.now ∧
     s.scalarReady r0 = true ∧ (spl s).status = .ready ∧ (s.peek4 (cx0 s) (spl s).pc).map (fun b => instrOf (wordOf 32 b) 0) = some (.fenceRel 4)) := by decide +kernel
def msg (k : Byte) : ArmMsg := { rope := 9, rank := k, digest := 0, tstate := .locked, u := 100 }
def act0 : RopeAct :=
  { id := 9, count := 1, action := 1, policy := 0, map := [0], rank := 0, t := 20000, window := 1000, imgva := 0, queue := 0, idx := 0, tag := 0, sig := 0, pent := 0,
    digest := 0, arms := [], ready := [], stopped := [], agreed := false, mode := none, said := false, switched := none, started := false, extended := false,
    abandoned := false, sealOk := false, ctx := none }
def acting (f : RopeAct → RopeAct) (s : State := w0) : State := sel 9 0 0 { s with ropes := { s.ropes with acts := [f act0] } }
def fwd (st : SlotState) : Forward :=
  { name := 77, g := 0, k := 62, bytes := 8, expiry := 1000000, state := st, status := 0, data := [], waiter := none, freed := false, parked := false, filled := false, ptime := 0,
    slotVa := none, sentAt := 0 }
def forwarding (st : SlotState) : State := { w0 with berths := { w0.berths with forwards := [fwd st] } }
theorem witness_BerthsResolveAndStagesRun :
    (∃ n, (withB (bth .live 0) w0).named n = some (bth .live 0) ∧ (bth .live 0).state = .live ∧ w0.now < (bth .live 0).expiry ∧
      (0 : BitVec 3) = partBits (bth .live 0).pent) ∧ (withB (bth .live 0) w0).berthReplays (bth .live 0) = false ∧ (withB (bth .live 0) w0).store.marked (.berth 0 0) = false ∧ w0.named 0 = none ∧
    (let s := at_ 1000000 (withB (bth .live 0) w0)
     s.berth? 0 0 = some (bth .live 0) ∧ (bth .live 0).expiry ≤ s.now ∧ s.berthReplays (bth .live 0) = false) ∧
    w0.forward? 77 = none ∧ (forwarding .resolved).forward? 77 = some (fwd .resolved) ∧ (forwarding .live).forward? 77 = some (fwd .live) ∧
    (let b := { bth .resolved 0 with loc := .forwarding 3 }
     (∃ n, (withB b w0).named n = some b ∧ b.loc = .forwarding 3) ∧
     (withB b linked).berth? 0 0 = some b ∧ b.acked = false ∧ b.sentAt = none ∧ (withB b linked).linkUp 3 = true ∧
     (withB b w0).berth? 0 0 = some b ∧ (withB b w0).named ((withB b w0).berthName b) = some b) := by
  refine ⟨⟨_, named_of (by decide +kernel) (by decide), by decide, by decide +kernel, by decide⟩, by decide +kernel, by decide +kernel, by decide +kernel, by decide +kernel,
    by decide +kernel, by decide +kernel, by decide +kernel, ⟨_, named_of (by decide +kernel) (by decide), rfl⟩, by decide +kernel, by decide, by decide,
    by decide +kernel, by decide +kernel, named_of (by decide +kernel) (by decide)⟩

theorem witness_BerthsThatAreSpoiled :
    (let s := withB (bth .live 0) w0
     s.berth? 0 0 = some (bth .live 0) ∧ s.berthSpoiled (bth .live 0) = false ∧
     (let t : State := { s with store := { s.store with poison := [.berth 0 0] } }
      t.berth? 0 0 = some (bth .live 0) ∧ t.berthSpoiled (bth .live 0) = true)) ∧
    ((forwarding .live).ctxOf? 0).map (·.1) = some 0 ∧ (forwarding .live).replays 0 = false := by decide +kernel

theorem witness_RopeActionsFollowTheirMessages :
    (acting id).ropeAct? (msg 0).rope = some act0 ∧ (acting id).ropeAct? (BitVec.ofNat 32 (acting id).sel.a) = some act0 ∧ act0.switched = none ∧ act0.mode = none ∧
    (acting id).now < act0.t ∧ act0.ready.contains 0 = false ∧
    (let a := { act0 with action := 2 }
     (acting (fun _ => a)).preempt? 9 = some a ∧ a.stopped.contains 0 = false) ∧
    (let s := at_ 15000 (acting id)
     act0.agreed = false ∧ act0.t ≤ s.now + 5000 ∧ act0.unequal = [] ∧ ({ act0 with map := [0, 5], count := 2 } : RopeAct).unequal = [1] ∧
     act0.t ≤ s.now + 10000) ∧
    ((synced .locked).clock.tstate = .locked ∧ w0.clock.tstate ≠ .locked ∧ (({ act0 with arms := [(1, msg 1)] } : RopeAct).arms.any (fun x => decide (x.1 = 1) && decide (x.2.tstate = TimeState.locked))) = true) ∧
    (let a := { act0 with agreed := true, mode := some true }
     a.agreed = true ∧ a.t ≤ (at_ 20000).now ∧ (acting (fun _ => a)).ropeAct? 9 = some a ∧ a.straggler 0 = some 0 ∧ a.abandoned = false ∧ a.deadline.any (fun d => decide (d ≤ 20000 + 1000000)) = true ∧
     ({ a with policy := 1 } : RopeAct).extended = false) := by decide +kernel

theorem witness_BatchesCommitAndChunksLand :
    (let b : Batch := ⟨[.aclr clears, .mclose closes], true, some 11, []⟩
     let s := batch [b] (withAcc w0)
     gridOk s = true ∧ (grp s).batches = [b] ∧ (grp s).live = true ∧ s.rasOff 4 = false ∧ s.firstSpoiled 0 (grp s) [] 0 b.code = none ∧
     (let m : Instr := .acvt { clears with sa := 71 }
      ({ s with store := { s.store with poison := [.acc 0 7 0] } } : State).firstSpoiled 0 (grp s) [] 0 [.aclr clears, m] = some 1) ∧
     (b.code.foldl (matStep { g := grp s, tm := tm0 s, lr := (cx0 s).lr }) { acc := (grp s).acc, fl := 0, writes := [], dead := false }).writes = [] ∧
     (grp s).splits.any (fun sp => sp.status.present) = true) ∧
    (let s := after .copy (fetched (pkt 2 [(8, 8, 0x10000), (0x10, 8, 0x10200), (0x18, 8, 512), (0x28, 1, 2)]))
     s.ops.copies.all (fun x => s.copy? x.id == some x && x.awaits 0 && !s.copyHeld x && decide (x.dir ≠ .t2t)) = true ∧ s.ops.copies.length = 1) ∧
    (let q : Request := { asked false with copy := true, op := copied.sel.a }
     let s := withReqs [q] copied
     s.ops.reqs.find? (fun q => q.id == 5 && q.req.dst == 9) = some q ∧ (s.partEnt q.pent).gen = rsp0.pgen ∧ (s.copy? q.op).isSome = true) := by decide +kernel

def sensors : Sensors := ⟨0, 0, 0, 0, [], [], [], []⟩
theorem witness_ManagementEvents : w0.mgmt.ran = none ∧ w0.restarting = false ∧ w0.mgmt.risk ≤ (w0.sublevels sensors).foldl max 0 ∧
    (let f := fun m : Sensors => (nextRisk w0.mgmt.risk w0.mgmt.below ((w0.sublevels m).foldl max 0)).1
     f sensors = w0.mgmt.risk ∧ f { sensors with junction := [114] } ≠ w0.mgmt.risk) ∧
    (let s := cp [1]; s.holds (.sector (65536 * theFrame)) = true ∧ s.holds (.sreg 0 62) = true ∧ s.mayUnit 2 = true ∧ s.rasOff 3 = false ∧ poisonClass (.icache 0 0 0) = 2 ∧
     (sited s).holds (.icache 0 0 0) = true ∧ s.rasOff 2 = false) ∧
    (let f := w0.mgmt.fw.getD 4 Firmware.reset
     f.minVer ≤ 0 ∧ fwIndex .hbmb < w0.mgmt.fw.length ∧ (let g := { f with minVer := 1 }; (0 : Nat) < g.minVer)) ∧
    (let s := sel 7 0 3 State.reset; s.sel.a < Config.computeDies s.part ∧ s.lost.getLsbD 7 = false ∧ s.sel.b = 0 ∧ 3 ≤ s.sel.c ∧ s.exec.ctxs = []) ∧
    (let s := State.reset.modQueue 0 (fun k => { k with func := 0 })
     0 < Config.baseDies s.part ∧ s.sel.b ≠ 1 ∧ s.rasOff 6 = false ∧ s.exec.ctxs = [] ∧
     (List.range 256).filter (fun q => (s.queue q).func != 0xFFFF && s.cpDie q == s.sel.a && !s.inRung q) = [0]) ∧
    (let s : State := { w0 with mgmt := { w0.mgmt with fw := modAt w0.mgmt.fw 4 (fun f => { f with minVer := 1 }) } }
     0 < (s.mgmt.fw.getD (fwIndex .hbmb) Firmware.reset).minVer) := by decide +kernel
/-- w0 with the bytes of a scalar instruction at its pc, and its step due. -/
def toRun (b : List Byte) (o : Occurrence := .scalar r0) (s : State := w0) : State := { cp b id s with agenda := [o] }
def fetches (s : State) (i : Instr) : Bool := let t : State := { s with out := [], agenda := [] }
  (t.accEnv 0 0).any (fun a => t.scalarReady r0 && !s.lost.getLsbD a.core.1 && (spl s).waitOp.isNone && (spl s).status != .waitf &&
    (match t.fetch4 a (spl s).pc with
     | .ok u b _ => if isTwoWord (wordOf 32 b) then (match u.fetch4 a ((spl s).pc + 4) with
         | .ok _ c _ => (match decode (wordOf 32 b) (wordOf 32 c) with | .ok j => j == i | _ => false) | _ => false)
       else (match decode (wordOf 32 b) 0 with | .ok j => j == i | _ => false)
     | _ => false))
theorem witness_StepRunsTheDecodedInstruction :
    fetches (toRun (bytesOf 4 0x04108300)) (.add 1 2 3) = true ∧ fetches (toRun (bytesOf 8 0x800000002C500001)) (.liwZx 5 0x80000000) = true ∧
    (grp w0).readsPoison (.add 1 2 3) = false ∧ (grp (onGroup (fun g => { g with spois := 4 }))).readsPoison (.add 1 2 3) = true ∧
    (let s := toRun [] (.lane r0) busy
     let t : State := { s with out := [], agenda := [] }
     (t.accEnv 0 0).any (fun a => (t.laneNext r0).any (fun i => !t.laneWaits r0 i) && !s.lost.getLsbD a.core.1) = true) ∧
    (toRun [] (.event ⟨0, 0, 0⟩ .powerLimit)).power.on = true := by decide +kernel
/-- R340: a step that fetches, decodes and runs ADD. -/
theorem test_step : (match step (toRun (bytesOf 4 0x04108300) (.scalar r0) (regs [(2, 5), (3, 6)])) with | .next t => (grp t).sreg 1 == 11 | _ => false) = true := by decide +kernel

theorem witness_MemoryReadsBackWhatWasWritten : MemoryWf State.reset := Sys2Proof.Laws.storeWf_reset
theorem witness_EveryStepKeepsMemoryCanonical : MemoryWf State.reset ∧ (match step State.reset with | .next _ => true | _ => false) = true :=
  ⟨Sys2Proof.Laws.storeWf_reset, by decide +kernel⟩
theorem witness_DecodingTheEncodingGivesTheInstruction : (Instr.add 63 0 63).wf = true ∧ encode (.add 63 0 63) = some (.one 0x07F03F00) ∧
    (Instr.liwHi 63 0xFFFFFFFF).wf = true ∧ encode (.liwHi 63 0xFFFFFFFF) = some (.two 0x2FF00002 0xFFFFFFFF) ∧
    (Instr.iadd word).wf = true ∧ (encode (.iadd word)).isSome = true := by decide +kernel
theorem witness_EncodingTheDecodedGivesTheWords : decode 0x07F03F00 0xFFFFFFFF = .ok (.add 63 0 63) ∧ decode 0x2FF00002 0xFFFFFFFF = .ok (.liwHi 63 0xFFFFFFFF) ∧
    decodeLane 0x00020406FF00000000000000 = .ok (.iadd word) := by decide +kernel

end Sys2Proof.Tests
end

/-!
PROOF. The frame of the ALU, immediate and LIW families (R6, R312, R339): each of them is `scalarOp`, which either waits, and then
changes nothing, or writes SD and goes on.
-/

namespace Sys2Proof.Proofs

open Sys2Proof.Machine Sys2Proof.Safety Sys2Proof.Laws

/-- Every instruction of the ALU, immediate and LIW families is `scalarOp` on the registers that it names. -/
theorem exec_eq_scalarOp_of_aluDst {i : Instr} {d : SReg} (h : aluDst i = some d) :
    ∃ (n : W64) (val : Group → W64), ∀ s, exec i s = scalarOp s (aluRegs i) n d val := by
  unfold aluDst at h
  split at h <;> cases h
  all_goals exact ⟨_, _, fun _ => rfl⟩

/-- A scalar operation of a split that issues waits with no effect (R161), or writes SD and goes on (R339). -/
theorem scalarOp_next_cases {s t : State} {r : SplitRef} {g : Group} {sp : Split} {rs : List SReg} {n : W64} {d : SReg}
    {val : Group → W64} (h : Issues s r g sp) (ht : scalarOp s rs n d val = .next t) :
    t = s ∨ t = wrote s r g sp (sp.pc + n) d (val g) := by
  cases hw : s.scalarWait r sp rs with
  | true =>
    left
    rw [scalarOp, withIssuer_of_issues h, if_pos hw] at ht
    exact (Host.Outcome.next.inj ht).symm
  | false =>
    right
    rw [scalarOp_of_runs n d val ⟨h, hw⟩] at ht
    exact (Host.Outcome.next.inj ht).symm

/-- R312: s63 reads zero. -/
theorem sreg_63 (g : Group) : g.sreg 63 = 0 := rfl

/-- A register other than SD reads as before a write to SD. -/
theorem getD_sregsWith_of_ne {l : List W64} {d k : SReg} {v : W64} (h : k ≠ d) :
    (sregsWith l d v).getD k.toNat 0 = l.getD k.toNat 0 := by
  have hne : d.toNat ≠ k.toNat := fun e => h (BitVec.eq_of_toNat_eq e.symm)
  unfold sregsWith
  split
  · rfl
  · simp [List.getD_eq_getElem?_getD, List.getElem?_set_ne hne]

/-- The frame is met by a step that changes nothing. -/
theorem onlySd_refl {s : State} {r : SplitRef} {g : Group} {sp : Split} (d : SReg) (h : Issues s r g sp) : OnlySd s s r g g d where
  rest := rfl
  others _ _ := rfl
  group := ⟨h.group, rfl⟩
  sregs _ _ := rfl
  spois := .inl rfl
  splits _ _ := rfl
  own _ _ hsp hsp' := by
    cases Option.some.inj (hsp.symm.trans hsp')
    rfl
  bytes := ⟨fun _ => rfl, fun _ => rfl, fun _ _ _ => rfl⟩

/-- The group of `wrote`. -/
def wroteGroup (r : SplitRef) (g : Group) (sp : Split) (pc : W64) (d : SReg) (v : W64) : Group :=
  { g with sregs := sregsWith g.sregs d v, spois := spoisWith g.spois d, splits := g.splits.set r.sp (goesOn sp pc) }

theorem wrote_eq_setGroup (s : State) (r : SplitRef) (g : Group) (sp : Split) (pc : W64) (d : SReg) (v : W64) :
    wrote s r g sp pc d v = setGroup s r.g (wroteGroup r g sp pc d v) := rfl

theorem wroteGroup_sreg_of_ne {r : SplitRef} {g : Group} {sp : Split} {pc : W64} {d k : SReg} {v : W64} (h : k ≠ d) :
    (wroteGroup r g sp pc d v).sreg k = g.sreg k := by
  simp only [Group.sreg, wroteGroup, getD_sregsWith_of_ne h]

/-- The frame is met by a write to SD that goes on at another address. -/
theorem onlySd_wrote {s : State} {r : SplitRef} {g : Group} {sp : Split} (pc : W64) (d : SReg) (v : W64) (h : Issues s r g sp) :
    OnlySd s (wrote s r g sp pc d v) r g (wroteGroup r g sp pc d v) d where
  rest := rfl
  others n hn := by simp [wrote_eq_setGroup, setGroup, List.getElem?_set_ne (Ne.symm hn)]
  group := by
    have hl : r.g < s.exec.groups.length := (List.getElem?_eq_some_iff.mp h.group).1
    exact ⟨by simp [wrote_eq_setGroup, setGroup, hl], rfl⟩
  sregs _ hk := wroteGroup_sreg_of_ne hk
  spois := .inr rfl
  splits k hk := by simp [wroteGroup, List.getElem?_set_ne (Ne.symm hk)]
  own sp₀ sp' hsp hsp' := by
    have hsp₀ : sp = sp₀ := Option.some.inj (h.split.symm.trans hsp)
    have hgo : goesOn sp pc = sp' := by simpa [wroteGroup, issues_lt h] using hsp'
    subst hsp₀ hgo
    rfl
  bytes := ⟨fun _ => rfl, fun _ => rfl, fun _ _ _ => rfl⟩

/-- Settles O3: such an instruction is `scalarOp`, which waits or writes SD, and either meets the frame. -/
theorem aluFrameIsSdAlone : Obligations.AluFrameIsSdAlone := by
  intro i d s t r g sp hd hi ht
  obtain ⟨n, val, hexec⟩ := exec_eq_scalarOp_of_aluDst hd
  rw [hexec] at ht
  obtain rfl | rfl := scalarOp_next_cases hi ht
  · exact ⟨g, onlySd_refl d hi, sreg_63 g⟩
  · exact ⟨_, onlySd_wrote _ d _ hi, sreg_63 _⟩

end Sys2Proof.Proofs

/-!
PROOF. Register writes (R53, R54), the partition table (R77, R78), budget periods (R79) and the journal's control (R277): what each
meaning answers, case by case, and the obligation assembled from that.
-/

namespace Sys2Proof.Proofs

open Sys2Proof.Machine Sys2Proof.Safety Sys2Proof.Laws

/-! ### The partition table -/

theorem exec_partitionTableWrite (off : W16) (size : Nat) (v : W64) (s : State) :
    exec (.partitionTableWrite off size v) s =
      .next (if s.answers 0 then s.partWrite { off := off.toNat, n := size, v } else s.emit .unsupported) := rfl

/-- Whether R77 or R78 refuse that entry e, which holds old, becomes p by a write that its page sees as w. -/
def PartRefused (s : State) (e : Nat) (old p : PartEntry) (w : RegWr) : Prop :=
  old.tooWide w = true ∨ p.inRange old = false ∨ tableOk (s.writtenParts.set e p) e = false ∨ (p.moves old = true ∧ s.resident e = true)

/-- A write within the table is refused with its offset in PTERR, or is what the written table holds. -/
theorem partWrite_eq {s : State} {w : RegWr} {old : PartEntry} (he : w.off / 128 < 40) (ho : s.writtenParts[w.off / 128]? = some old) :
    let e := w.off / 128
    let p := old.written (w.from_ (128 * e))
    (PartRefused s e old p (w.from_ (128 * e)) → s.partWrite w = { s with host := { s.host with pterr := BitVec.ofNat 32 w.off } }) ∧
    (¬ PartRefused s e old p (w.from_ (128 * e)) → s.partWrite w =
      { s with host := { s.host with
        nextPart := s.writtenParts.set e p, parts := modAt s.host.parts e (fun q => p.hold q) } }) := by
  have hd : s.writtenParts.getD (w.off / 128) PartEntry.reset = old := getD_of_getElem? ho
  simp only [State.partWrite, hd, modAt_eq_set _ ho, if_neg (Nat.not_le.mpr he)]
  constructor
  · intro h
    exact if_pos (by simpa [PartRefused, or_assoc] using h)
  · intro h
    exact if_neg (by simpa [PartRefused, or_assoc] using h)

/-- What R77 and R78 ask of an accepted write. -/
theorem not_partRefused {s : State} {e : Nat} {old p : PartEntry} {w : RegWr} (hwide : old.tooWide w = false) (hrange : p.inRange old = true)
    (htab : tableOk (s.writtenParts.set e p) e = true) (hmove : p.moves old = false ∨ s.resident e = false) :
    ¬ PartRefused s e old p w := by
  rcases hmove with hm | hr
  · simp [PartRefused, hwide, hrange, htab, hm]
  · simp [PartRefused, hwide, hrange, htab, hr]

/-- PARTITION_TABLE_WRITE while PF0 answers: a refused write changes PTERR alone, another is held for the next period. -/
theorem partitionTableWrite_refused_or_held {s : State} {off : W16} {old : PartEntry} (size : Nat) (v : W64) (ha : s.answers 0 = true)
    (he : off.toNat / 128 < 40) (ho : s.writtenParts[off.toNat / 128]? = some old) :
    let e := off.toNat / 128
    let w : RegWr := { off := off.toNat, n := size, v }
    let p := old.written (w.from_ (128 * e))
    (PartRefused s e old p (w.from_ (128 * e)) →
      exec (.partitionTableWrite off size v) s = .next { s with host := { s.host with pterr := BitVec.ofNat 32 off.toNat } }) ∧
    (¬ PartRefused s e old p (w.from_ (128 * e)) → ∃ t, exec (.partitionTableWrite off size v) s = .next t ∧
      t.host.nextPart = s.writtenParts.set e p ∧ t.host.pterr = s.host.pterr ∧ t.exec = s.exec) := by
  obtain ⟨href, hacc⟩ := partWrite_eq (w := { off := off.toNat, n := size, v }) he ho
  rw [exec_partitionTableWrite, if_pos ha]
  constructor
  · intro h
    rw [href h]
  · intro h
    rw [hacc h]
    exact ⟨_, rfl, rfl, rfl, rfl⟩

/-! ### Writes to a page of BAR0 and to a setting -/

theorem exec_registerWrite (fn : BitVec 6) (p : RegPlace) (size : Nat) (v : W64) (s : State) :
    exec (.registerWrite fn p size v) s = execRegisterWrite fn p size v s := rfl

/-- A write to BAR0 of a function that does not answer completes with Unsupported Request (R90). -/
theorem exec_registerWrite_bar0_unanswered {s : State} {fn : BitVec 6} (off : BitVec 25) (size : Nat) (v : W64)
    (hi : s.ideFails fn.toNat = false) (ha : s.answers fn.toNat = false) :
    exec (.registerWrite fn (.bar0 off) size v) s = .next (s.emit .unsupported) := by
  simp [exec_registerWrite, execRegisterWrite, hi, ha]

/-- A write to BAR0 of a function that answers goes to its pages, PF0's or a VF's. -/
theorem exec_registerWrite_bar0_answered {s : State} {fn : BitVec 6} (off : BitVec 25) (size : Nat) (v : W64)
    (hi : s.ideFails fn.toNat = false) (ha : s.answers fn.toNat = true) :
    exec (.registerWrite fn (.bar0 off) size v) s =
      if fn = 0 then s.pfWrite { off := off.toNat, n := size, v } else s.vfWrite fn { off := off.toNat, n := size, v } := by
  simp [exec_registerWrite, execRegisterWrite, hi, ha]

/-- R54: 0x1000 to 0x1FFF of PF0's BAR0 is its event queue page. -/
theorem pfWrite_evq (s : State) {w : RegWr} (hlo : 0x1000 ≤ w.off) (hhi : w.off < 0x2000) :
    s.pfWrite w = .next (s.modFn 0 (fun f => { f with evq := f.evq.wrote (w.from_ 0x1000) })) := by
  rw [State.pfWrite, if_neg (Nat.not_lt.mpr hlo), if_pos hhi]

/-- R54: so it is of a VF's. -/
theorem vfWrite_evq (s : State) (fn : BitVec 6) {w : RegWr} (hlo : 0x1000 ≤ w.off) (hhi : w.off < 0x2000) :
    s.vfWrite fn w = .next (s.modFn fn.toNat (fun f => { f with evq := f.evq.wrote (w.from_ 0x1000) })) := by
  rw [State.vfWrite, if_neg (Nat.not_lt.mpr hlo), if_pos hhi]

/-- PF0's settings outside the BARs. -/
theorem exec_registerWrite_setting {s : State} {p : RegPlace} (hp : ∀ off, p ≠ .bar0 off) (size : Nat) (v : W64) (hi : s.ideFails 0 = false) :
    exec (.registerWrite 0 p size v) s = s.sysWrite p v.toNat := by
  rw [exec_registerWrite]
  cases p with
  | bar0 off => exact absurd rfl (hp off)
  | _ => simp [execRegisterWrite, hi]

/-! ### Budget periods and the journal -/

/-- The state in which a budget period begins: counters at zero, and the written table in effect (R78, R79). -/
def periodBegun (s : State) : State :=
  { s with
    host := { s.host with
      period := s.now / 100000, parts := s.writtenParts, nextPart := [], spentPart := List.replicate 40 Spent.zero,
      spentAct := List.replicate 6 Spent.zero }
    exec := { s.exec with ctxs := s.exec.ctxs.map (fun c => { c with spent := Spent.zero }) } }

theorem exec_budgetPeriod (s : State) : exec .budgetPeriod s = execBudgetPeriod s := rfl

@[simp] theorem periodBegun_upLinks (s : State) : (periodBegun s).upLinks = s.upLinks := rfl

/-- A period that is over is followed by the next one, in which the messages held at the links that are up go. -/
theorem exec_budgetPeriod_of_lt {s : State} (h : s.host.period < s.now / 100000) :
    exec .budgetPeriod s = .next ((periodBegun s).upLinks.foldl (fun t w => t.pump w) (periodBegun s)) := by
  rw [exec_budgetPeriod, execBudgetPeriod, if_neg (Nat.not_le.mpr h)]
  rfl

/-- R277: setting ENABLE without REPLAY of a journal that is not enabled starts a recording, at JWR 0 and not stopped. -/
theorem exec_journalEnable_starts {s : State} {e : Nat} {c : W16} (hon : c.getLsbD 0 = true) (hrep : c.getLsbD 1 = false)
    (hoff : (s.journal e).enabled = false) (he : e < s.host.journals.length) :
    ∃ t j, exec (.journalEnable e c) s = .next t ∧ t.host.journals[e]? = some j ∧ j.jwr = 0 ∧ j.jctl = c &&& 3 ∧ j.stopped = false := by
  obtain ⟨k, hk⟩ : ∃ k, s.host.journals[e]? = some k := ⟨_, List.getElem?_eq_getElem he⟩
  have hkoff : k.enabled = false := by rwa [State.journal, getD_of_getElem? hk] at hoff
  refine ⟨_, _, rfl, (getElem?_modAt ..).trans ((if_pos rfl).trans (congrArg _ hk)), ?_⟩
  simp only [hon, hrep, hkoff, Bool.not_false, Bool.true_and, Bool.true_or, if_true, and_self]

/-! ### The obligation -/

/-- Settles O45: a clause for each kind of write, each by what its meaning answers. -/
theorem registerAndPartitionWrites : Obligations.RegisterAndPartitionWrites := by
  intro s v size
  refine ⟨fun off ha => ?_, fun off old ha he ho => ?_, fun fn off hi => ⟨fun ha => ?_, fun ha hlo hhi => ?_⟩,
    fun hi => ⟨fun hv => ?_, fun hlo hhi => ?_, fun hlo hhi => ?_, ?_⟩, fun hp hl => ?_, fun e c hon hrep hoff he => ?_⟩
  · rw [exec_partitionTableWrite, if_neg (by simp [ha])]
  · obtain ⟨href, hheld⟩ := partitionTableWrite_refused_or_held size v ha he ho
    exact ⟨href, fun hw hr hk hm => hheld (not_partRefused hw hr hk hm)⟩
  · exact exec_registerWrite_bar0_unanswered off size v hi ha
  · rw [exec_registerWrite_bar0_answered off size v hi ha]
    split
    case isTrue hfn =>
      subst hfn
      exact pfWrite_evq s hlo hhi
    case isFalse => exact vfWrite_evq s fn hlo hhi
  · exact ⟨_, by rw [exec_registerWrite_setting (by simp) size v hi, State.sysWrite, if_pos hv], rfl⟩
  · rw [exec_registerWrite_setting (by simp) size v hi, State.sysWrite, if_pos ⟨hlo, hhi⟩]
  · rw [exec_registerWrite_setting (by simp) size v hi, State.sysWrite, if_neg (Nat.not_lt.mpr hhi), if_neg (Nat.not_lt.mpr hlo)]
  · exact exec_registerWrite_setting (by simp) size v hi
  · rw [exec_budgetPeriod_of_lt hp, periodBegun_upLinks, hl]
    rfl
  · exact exec_journalEnable_starts hon hrep hoff he

end Sys2Proof.Proofs

/-!
PROOF. Reset (R16, R59, R77, R80, R199, R271): each table of the machine holds the reset value of its entries.
-/

namespace Sys2Proof.Proofs

open Sys2Proof.Machine Sys2Proof.Safety Sys2Proof.Laws

theorem queue_reset (q : Nat) : State.reset.queue q = Queue.reset :=
  List.getD_eq_getElem?_getD.trans (List.getElem?_getD_replicate_default_eq _ 256 q)

theorem partEnt_reset (e : Nat) : State.reset.partEnt e = PartEntry.reset :=
  List.getD_eq_getElem?_getD.trans (List.getElem?_getD_replicate_default_eq _ 40 e)

theorem link_reset (w : BitVec 7) : State.reset.link w = Link.reset :=
  List.getD_eq_getElem?_getD.trans (List.getElem?_getD_replicate_default_eq _ 128 w.toNat)

/-- R199: at reset every frame is dead, so every byte reads as zero. -/
theorem byteAt_reset (pa : Nat) : byteAt State.reset pa = 0 := rfl

/-- Settles O54: the tables' entries by the lemmas above, the single registers as the reset state writes them. -/
theorem resetLeavesTheStatedValues : Obligations.ResetLeavesTheStatedValues := by
  refine ⟨rfl, rfl, rfl, rfl, fun q _ => ?_, fun e _ => ?_, rfl, byteAt_reset, rfl, rfl, rfl, rfl, rfl, fun w _ => ?_, rfl⟩
  · rw [queue_reset]
    exact ⟨rfl, rfl, rfl, rfl, rfl, rfl, rfl, rfl⟩
  · rw [partEnt_reset]
    exact ⟨rfl, rfl, rfl, rfl, rfl, rfl, rfl, rfl⟩
  · rw [link_reset]
    rfl

end Sys2Proof.Proofs

/-!
PROOF. Rope actions (R108 to R113): what each message and each time does to the action that a rope's id names, and the obligation
assembled from that.
-/

namespace Sys2Proof.Proofs

open Sys2Proof.Machine Sys2Proof.Safety Sys2Proof.Laws

section RopeActs

variable {s : State} {a : RopeAct} {rope : W32}

/-! ### Messages that name the rope -/

theorem exec_armMessage_of_unswitched {m : ArmMsg} (ha : s.ropeAct? m.rope = some a) (hs : a.switched = none) :
    exec (.arm m) s = .next (s.modAct a (fun a => { a with
      arms := (m.rank.toNat, m) :: a.arms.filter (fun x => x.1 != m.rank.toNat) })) := by
  change execArm m s = _
  simp [execArm, ha, hs]

theorem exec_abandon_of_unswitched (k : Byte) (ha : s.ropeAct? rope = some a) (hs : a.switched = none) :
    exec (.abandon rope k) s = .next (s.ropeDisagree a k.toNat) := by
  change execAbandon rope k s = _
  simp [execAbandon, ha, hs]

theorem exec_mode_before_switch (timed : Bool) (ha : s.ropeAct? rope = some a) (hm : a.mode = none) (hs : a.switched = none)
    (ht : s.now < a.t) : exec (.mode rope timed) s = .next (s.modAct a (fun a => { a with mode := some timed })) := by
  change execMode rope timed s = _
  simp [execMode, ha, hm, hs, ht]

theorem exec_ready_of_new {k : Byte} (ha : s.ropeAct? rope = some a) (hk : a.ready.contains k.toNat = false) :
    exec (.ready rope k) s = .next (s.modAct a (fun a => { a with ready := k.toNat :: a.ready })) := by
  change execReady rope k s = _
  simp only [execReady, ha, hk, Bool.false_eq_true, if_false]

theorem exec_stopped_of_new {k : Byte} (ha : s.preempt? rope = some a) (hk : a.stopped.contains k.toNat = false) :
    exec (.stopped rope k) s = .next (s.modAct a (fun a => { a with stopped := k.toNat :: a.stopped })) := by
  change execStopped rope k s = _
  simp only [execStopped, ha, hk, Bool.false_eq_true, if_false]

theorem exec_sealNow_of_preempt (ha : s.preempt? (BitVec.ofNat 32 s.sel.a) = some a) :
    exec .sealNow s = .next (s.modAct a (fun a => { a with sealOk := true })) := by
  change execSealNow s = _
  simp only [execSealNow, ha]

end RopeActs

/-! ### Times of the rope that sel.a names -/

/-- R113: whether rank 0 chooses TIMED: this member and every other is LOCKED. -/
def modeChoice (s : State) (a : RopeAct) : Bool :=
  s.clock.tstate == .locked && (List.range a.count).all (fun r => r == 0 || a.arms.any (fun x => x.1 == r && x.2.tstate == .locked))

theorem modeChoice_of_all_locked {s : State} {a : RopeAct} (hl : s.clock.tstate = .locked)
    (h : ∀ k, 0 < k → k < a.count → ∃ x ∈ a.arms, x.1 = k ∧ x.2.tstate = .locked) : modeChoice s a = true := by
  rw [modeChoice, hl, beq_self_eq_true, Bool.true_and, List.all_eq_true]
  intro k hk
  rcases Nat.eq_zero_or_pos k with rfl | hpos
  · rfl
  · obtain ⟨x, hx, hrank, hlock⟩ := h k hpos (List.mem_range.mp hk)
    exact Bool.or_eq_true_iff.mpr (.inr (List.any_eq_true.mpr ⟨x, hx, by simp [hrank, hlock]⟩))

theorem modeChoice_of_unlocked {s : State} (a : RopeAct) (hl : s.clock.tstate ≠ .locked) : modeChoice s a = false := by
  simp [modeChoice, hl]

section RopeTimes

variable {s : State} {a : RopeAct} (ha : s.ropeAct? (BitVec.ofNat 32 s.sel.a) = some a)
include ha

/-- R109: at T − 5 µs a member from which no other differs agrees. -/
theorem exec_ropeArmDeadline_of_equal (hg : a.agreed = false) (hs : a.switched = none) (ht : a.t ≤ s.now + 5000) (hu : a.unequal = []) :
    exec .ropeArmDeadline s = .next (s.modAct a (fun a => { a with agreed := true })) := by
  change execRopeArmDeadline s = _
  simp [execRopeArmDeadline, ha, hg, hs, ht, hu]

/-- R109: else the action ends with an ABANDON to all. -/
theorem exec_ropeArmDeadline_of_unequal {k : Nat} {l : List Nat} (hg : a.agreed = false) (hs : a.switched = none)
    (ht : a.t ≤ s.now + 5000) (hu : a.unequal = k :: l) : exec .ropeArmDeadline s =
      .next ((s.ropeDisagree a k).sendAll a.map a.pent (.abandon a.id (BitVec.ofNat 8 a.rank))) := by
  change execRopeArmDeadline s = _
  simp [execRopeArmDeadline, ha, hg, hs, ht, hu]

/-- R113: rank 0 sends at T − 10 µs the mode that it chooses. -/
theorem exec_ropeModeSend_due {timed : Bool} (hr : a.rank = 0) (hm : a.mode = none) (hs : a.switched = none) (ht : a.t ≤ s.now + 10000)
    (hc : modeChoice s a = timed) : exec .ropeModeSend s =
      .next ((s.modAct a (fun a => { a with mode := some timed })).sendAll a.map a.pent (.mode a.id timed)) := by
  change execRopeModeSend s = _
  subst hc
  simp only [execRopeModeSend, ha]
  rw [if_neg (by simp [hr, hm, hs, ht])]
  rfl

theorem exec_ropeSwitch_timed (hg : a.agreed = true) (ht : a.t ≤ s.now) (hs : a.switched = none) (hm : a.mode = some true) :
    exec .ropeSwitch s = .next (s.ropeSwitchNow a) := by
  change execRopeSwitch s = _
  simp [execRopeSwitch, ha, hg, hs, hm, ht]

theorem exec_go_of_unswitched (hs : a.switched = none) (hm : a.mode ≠ some true) : exec .go s =
    .next ((s.modAct a (fun a => { a with mode := some false })).ropeSwitchNow { a with mode := some false }) := by
  change execGo s = _
  simp [execGo, ha, hs, hm]

/-- R112: a window that is over with a straggler k is extended once under POLICY 1, and else ends for it. -/
theorem exec_ropeWindowExpiry_straggler {d k : Nat} (hd : a.deadline = some d) (ht : d ≤ s.now) (hg : a.agreed = true)
    (hb : a.abandoned = false) (hk : a.straggler s.sel.b = some k) :
    exec .ropeWindowExpiry s = .next (
      if a.policy = 1 ∧ a.extended = false then s.modAct a (fun a => { a with extended := true })
      else if a.mode = some true then s.ropeStraggle a k
      else (s.ropeStraggle a k).sendAll a.map a.pent (.abandon a.id (BitVec.ofNat 8 k))) := by
  change execRopeWindowExpiry s = _
  simp only [execRopeWindowExpiry, ha, hd, hk]
  rw [if_neg (by simp [hg, hb, ht])]
  split <;> rfl

end RopeTimes

/-! ### The obligation -/

/-- Settles O50: a clause for each message and each time, each by what its meaning answers for the rope's action. -/
theorem ropeActionsFollowTheirMessages : Obligations.RopeActionsFollowTheirMessages := by
  intro s a
  refine ⟨fun m ha hs => exec_armMessage_of_unswitched ha hs,
    fun rope ha => ⟨fun k hs => exec_abandon_of_unswitched k ha hs, fun timed hm hs ht => exec_mode_before_switch timed ha hm hs ht,
      fun k hk => exec_ready_of_new ha hk⟩,
    fun rope k ha hk => exec_stopped_of_new ha hk, exec_sealNow_of_preempt,
    fun ha => ⟨fun hg hs ht => ⟨fun hu => ?_, fun k l hu => ?_⟩, fun hr hm hs ht => ⟨fun hl hall => ?_, fun hl => ?_⟩,
      fun hg ht hs hm => exec_ropeSwitch_timed ha hg ht hs hm, fun hs hm => exec_go_of_unswitched ha hs hm,
      fun d k hd ht hg hb hk => ⟨fun hp hx => ?_, fun hp hm => ?_, fun hp hm => ?_⟩⟩⟩
  · exact exec_ropeArmDeadline_of_equal ha hg hs ht hu
  · exact exec_ropeArmDeadline_of_unequal ha hg hs ht hu
  · exact exec_ropeModeSend_due ha hr hm hs ht (modeChoice_of_all_locked hl hall)
  · exact exec_ropeModeSend_due ha hr hm hs ht (modeChoice_of_unlocked a hl)
  · rw [exec_ropeWindowExpiry_straggler ha hd ht hg hb hk, if_pos ⟨hp, hx⟩]
  · rw [exec_ropeWindowExpiry_straggler ha hd ht hg hb hk, if_neg (fun h => hp h.1), if_pos hm]
  · rw [exec_ropeWindowExpiry_straggler ha hd ht hg hb hk, if_neg (fun h => hp h.1), if_neg hm]

end Sys2Proof.Proofs

/-!
PROOF. Forwarded resolutions (R249, R250): the obligation fails. A resolution is cut to the size of the record that its name finds, and is
put into every record of that name. The clause about an applied resolution writes `sized f.bytes x.data` under a binder that names the
changed record f as well, so that it asks for each record's own size: it fails where a second record of the name has another size.
-/

namespace Sys2Proof.Proofs

open Sys2Proof.Machine Sys2Proof.Safety

/-- A record of the berth 77, whose owner is here and does not wait. -/
def forward77 (bytes : Nat) (freed : Bool) : Forward :=
  { name := 77, g := 0, k := 0, bytes, expiry := 0, state := .live, status := 0, data := [], waiter := none, freed, parked := false,
    filled := false, ptime := 0, slotVa := none, sentAt := 0 }

/-- A device that holds a record of 8 bytes for the berth 77, and a consumed one of 16 bytes whose release is still on its way. -/
def twoForwards : State :=
  { State.reset with berths := { BerthTables.reset with forwards := [forward77 8 false, forward77 16 true] } }

def resolution77 : Resolution := { name := 77, src := 0, origin := ⟨0, 0, 0⟩, status := 0, data := [] }

/-- How many bytes each record holds after a step. -/
def forwardSizes (o : Res) : List Nat := (after twoForwards o).berths.forwards.map (fun f => f.data.length)

/-- The model gives both records the 8 bytes of the one that the name finds. -/
theorem forwardSizes_exec : forwardSizes (exec (.forwardedResolution resolution77) twoForwards) = [8, 8] := by decide +kernel

/-- Refutes O49: with two records of one name and different sizes the clause asks for 8 and 16 bytes, and the model keeps 8 in both. -/
theorem not_berthsResolveAndStagesRun : ¬ Obligations.BerthsResolveAndStagesRun := by
  intro h
  obtain ⟨-, -, -, -, hforwarded, -⟩ := h twoForwards
  obtain ⟨-, -, happlied⟩ := hforwarded resolution77
  have hnoOwner : twoForwards.ctxOf? (forward77 8 false).g = none := rfl
  have hasked := happlied (forward77 8 false) (by decide +kernel) (by decide) rfl rfl (fun cn c hc => by simp [hnoOwner] at hc)
  have hsizes : forwardSizes (exec (.forwardedResolution resolution77) twoForwards) = [8, 16] := by
    rw [hasked]
    decide +kernel
  exact absurd (forwardSizes_exec.symm.trans hsizes) (by decide)

end Sys2Proof.Proofs

/-!
PROOF. What recording and sending leave alone: device writes, events and the log (R72 to R74, R270) on the one hand, flits and the events of
their link (R31, R33, R45, R49, R51) on the other. The proofs about events of time, links and berths use these frames.
-/

namespace Sys2Proof.Proofs

open Sys2Proof.Machine Sys2Proof.Safety Sys2Proof.Laws

/-! ### Recording -/

/-- t with what a device write, an event or a log entry can change as it stands in s: memory and its caches, the functions' event queues, the
shadows of snapshots, the operations in flight, the controller's records, and what is handed out. -/
def unrecorded (s t : State) : State :=
  { t with
    host := { t.host with fns := s.host.fns, snaps := s.host.snaps }
    store := s.store, caches := s.caches, ops := s.ops, mgmt := s.mgmt, out := s.out }

/-- From s to t at most that has changed. -/
def Recorded (s t : State) : Prop := unrecorded s t = s

namespace Recorded

variable {s t u : State}

theorem refl (s : State) : Recorded s s := rfl

theorem trans (h : Recorded s t) (h' : Recorded t u) : Recorded s u :=
  (congrArg (unrecorded s) h' :).trans h

theorem clock (h : Recorded s t) : t.clock = s.clock := (congrArg State.clock h :)
theorem fabric (h : Recorded s t) : t.fabric = s.fabric := (congrArg State.fabric h :)

/-- A fold of recordings is one. -/
theorem foldl {α : Type} {f : State → α → State} (hf : ∀ s a, Recorded s (f s a)) (l : List α) (s : State) : Recorded s (l.foldl f s) := by
  induction l generalizing s with
  | nil => exact refl s
  | cons a l ih => exact (hf s a).trans (ih (f s a))

end Recorded

theorem recorded_noteWrite (s : State) (pa n : Nat) : Recorded s (s.noteWrite pa n) := by
  unfold State.noteWrite
  split <;> rfl

theorem recorded_forStore {s t : State} {pa p : Nat} (h : s.forStore pa = some (t, p)) : Recorded s t := by
  simp only [State.forStore] at h
  split at h
  · obtain ⟨rfl, -⟩ := Prod.mk.inj (Option.some.inj h)
    rfl
  · split at h
    · cases h
    · obtain ⟨rfl, -⟩ := Prod.mk.inj (Option.some.inj h)
      rfl

/-- A device write that is made puts its bytes in memory and is noted for the holders of leases. -/
theorem recorded_devNow {s t : State} {pa : Nat} {x : DevWrite} (h : s.devNow pa x = some t) : Recorded s t := by
  cases hu : s.forStore pa with
  | none =>
    simp [State.devNow, hu] at h
  | some up =>
    have hfor : Recorded s up.1 := recorded_forStore hu
    have hput (m : Store) (n : Nat) : Recorded s (State.noteWrite { up.1 with store := m } pa n) :=
      Recorded.trans (t := { up.1 with store := m }) hfor (recorded_noteWrite _ _ _)
    simp only [State.devNow, hu] at h
    cases x with
    | bytes b =>
      obtain ⟨-, h⟩ := Option.ite_none_left_eq_some.mp h
      obtain rfl := Option.some.inj h
      exact hput _ _
    | leaf bits clear =>
      obtain ⟨-, h⟩ := Option.ite_none_left_eq_some.mp h
      obtain rfl := Option.some.inj h
      split
      · exact hput _ _
      · exact hfor

theorem recorded_devDo (s : State) (pa : Nat) (x : DevWrite) : Recorded s (s.devDo pa x) := by
  unfold State.devDo
  split
  · rfl
  · cases h : s.devNow pa x with
    | none => rfl
    | some t => exact recorded_devNow h

theorem recorded_markLeaf (s : State) (e : TlbEntry) (va : Nat) (write : Bool) : Recorded s (s.markLeaf e va write) := by
  unfold State.markLeaf
  split
  · rfl
  · next w hw =>
    extract_lets revives bits clear e' path u
    have hu : Recorded s u := by
      unfold u
      split
      · rfl
      · exact recorded_devDo s _ _
    exact hu

theorem recorded_markWrite (s : State) (e : Nat) (va : W64) : Recorded s (s.markWrite e va) := by
  unfold State.markWrite
  split
  · exact recorded_markLeaf _ _ _ _
  · rfl

theorem recorded_putPlace (s : State) (p : Place) (b : List Byte) : Recorded s (s.putPlace p b) := by
  unfold State.putPlace
  split
  · exact recorded_devDo _ _ _
  · rfl
  · rfl

theorem recorded_modFn (s : State) (n : Nat) (f : Fn → Fn) : Recorded s (s.modFn n f) := rfl

theorem recorded_emit (s : State) (o : Output) : Recorded s (s.emit o) := rfl

/-- R72 to R74: an event records, whether or not its queue has room. -/
theorem recorded_event (s : State) (fn kind : Nat) (part sub : Byte) (body : List Byte) : Recorded s (s.event fn kind part sub body) := by
  unfold State.event
  extract_lets q es logged places room marked put wrote
  have hlog : Recorded s logged := by
    unfold logged
    split
    · refine .foldl (fun _ _ => ?_) _ _
      rfl
    · rfl
  split
  · have hmark : Recorded logged marked := by
      unfold marked
      split
      · exact .foldl (fun _ _ => recorded_markWrite _ _ _) _ _
      · rfl
    have hput : Recorded marked put := by
      unfold put
      refine .foldl (fun v x => ?_) _ _
      split
      · rfl
      · exact recorded_putPlace _ _ _
      · rfl
    have hwrote : Recorded s wrote := ((hlog.trans hmark).trans hput).trans (recorded_modFn ..)
    split
    · exact hwrote.trans (recorded_emit ..)
    · exact hwrote
  · exact hlog.trans (recorded_modFn ..)

theorem recorded_fabricEvent (s : State) (code : Nat) (peer dir : Byte) (mask seq : W16) (count : Nat) :
    Recorded s (s.fabricEvent code peer dir mask seq count) := recorded_event ..

theorem recorded_linkEvent (s : State) (w : BitVec 7) (code dir : Nat) (mask seq : W16) (count : Nat) :
    Recorded s (s.linkEvent w code dir mask seq count) := recorded_event ..

/-! ### Sending -/

/-- A context but for what its period's budget has been charged. -/
def Ctx.unspent (c : Ctx) : Ctx := { c with spent := Spent.zero }

/-- t with what sending can change as it stands in s: the links, what is charged (R79), the resolutions that wait for a link, and what
recording changes. -/
def unsent (s t : State) : State :=
  { unrecorded s t with
    fabric := { t.fabric with links := s.fabric.links }
    host := { (unrecorded s t).host with spentPart := s.host.spentPart, spentAct := s.host.spentAct }
    exec := { t.exec with ctxs := s.exec.ctxs }
    berths := { t.berths with slots := s.berths.slots } }

/-- From s to t at most that has changed; of the contexts only what they are charged; and the links that are up are the same. -/
structure Sent (s t : State) : Prop where
  rest : unsent s t = s
  ctxs : t.exec.ctxs.map Ctx.unspent = s.exec.ctxs.map Ctx.unspent
  up : t.fabric.links.map Link.up = s.fabric.links.map Link.up

namespace Sent

variable {s t u : State}

theorem refl (s : State) : Sent s s := ⟨rfl, rfl, rfl⟩

theorem trans (h : Sent s t) (h' : Sent t u) : Sent s u where
  rest := (congrArg (unsent s) h'.rest :).trans h.rest
  ctxs := h'.ctxs.trans h.ctxs
  up := h'.up.trans h.up

theorem foldl {α : Type} {f : State → α → State} (hf : ∀ s a, Sent s (f s a)) (l : List α) (s : State) : Sent s (l.foldl f s) := by
  induction l generalizing s with
  | nil => exact refl s
  | cons a l ih => exact (hf s a).trans (ih (f s a))

theorem of_recorded (h : Recorded s t) : Sent s t where
  rest := (congrArg (unsent s) h :)
  ctxs := (congrArg (fun x : State => x.exec.ctxs.map Ctx.unspent) h :)
  up := (congrArg (fun x : State => x.fabric.links.map Link.up) h :)

theorem clock (h : Sent s t) : t.clock = s.clock := (congrArg State.clock h.rest :)
theorem groups (h : Sent s t) : t.exec.groups = s.exec.groups := (congrArg (·.exec.groups) h.rest :)
theorem teams (h : Sent s t) : t.exec.teams = s.exec.teams := (congrArg (·.exec.teams) h.rest :)
theorem journals (h : Sent s t) : t.host.journals = s.host.journals := (congrArg (·.host.journals) h.rest :)
theorem now (h : Sent s t) : t.now = s.now := congrArg (·.dtime.toNat) h.clock

/-- A context is there after sending as it was before, but for what it has been charged. -/
theorem ctx (h : Sent s t) (cn : Nat) : (t.ctx? cn).map Ctx.unspent = (s.ctx? cn).map Ctx.unspent := by
  have := congrArg (·[cn]?) h.ctxs
  simpa only [List.getElem?_map, State.ctx?] using this

/-- Whether a link is up. -/
theorem link_up (h : Sent s t) (n : Nat) : t.fabric.links[n]?.map Link.up = s.fabric.links[n]?.map Link.up := by
  have := congrArg (·[n]?) h.up
  simpa only [List.getElem?_map] using this

end Sent

/-- A change of entries that keeps a value of each of them keeps the values. -/
theorem map_modAt {α β : Type} (g : α → β) (f : α → α) (hf : ∀ x, g (f x) = g x) (l : List α) (n : Nat) : (modAt l n f).map g = l.map g := by
  induction l generalizing n with
  | nil => rfl
  | cons x l ih => cases n <;> simp [modAt, hf, ih]

/-- A change of a link that does not bring it up or down. -/
theorem sent_modLink (s : State) (w : BitVec 7) (f : Link → Link) (hf : ∀ l, (f l).up = l.up) : Sent s (s.modLink w f) :=
  ⟨rfl, rfl, map_modAt _ _ hf _ _⟩

theorem sent_linkIsDown (s : State) (w : BitVec 7) (dir : Nat) : Sent s (s.linkIsDown w dir) := by
  have h := Sent.of_recorded (recorded_linkEvent s w 0x104 dir 0 (s.link w).rx.expect 0)
  exact ⟨h.rest, h.ctxs, h.up⟩

theorem sent_emit (s : State) (o : Output) : Sent s (s.emit o) := .of_recorded (recorded_emit s o)

theorem sent_keyCheck (s : State) (w : BitVec 7) : Sent s (s.keyCheck w) := by
  unfold State.keyCheck
  extract_lets l b at_
  split
  · exact (sent_modLink s w (fun l => { l with tx := { l.tx with down := true } }) (fun _ => rfl)).trans (sent_linkIsDown ..)
  · split
    · exact (sent_modLink s w (fun l => { l with tx := { l.tx with rekey := true } }) (fun _ => rfl)).trans (sent_emit ..)
    · exact .refl s

theorem sent_pay (s : State) (e : Nat) (p : Payer) (f : Spent → Spent) : Sent s (s.pay e p f) := by
  cases p with
  | part => exact ⟨rfl, rfl, rfl⟩
  | act a => exact ⟨rfl, rfl, rfl⟩
  | grid cn =>
    refine ⟨rfl, ?_, rfl⟩
    exact map_modAt Ctx.unspent (fun c => { c with spent := f c.spent }) (fun _ => rfl) s.exec.ctxs cn

theorem sent_sendFlit (s : State) (w : BitVec 7) (i : Nat) (m : TxMsg) : Sent s (s.sendFlit w i m) := by
  unfold State.sendFlit
  extract_lets l last f old t sent
  have hsent : Sent s sent := (sent_modLink s w (fun l => { l with tx := t }) (fun _ => rfl)).trans (sent_emit _ _)
  exact (hsent.trans (sent_pay ..)).trans (sent_keyCheck ..)

theorem sent_pumpN (s : State) (w : BitVec 7) (fuel : Nat) : Sent s (s.pumpN w fuel) := by
  induction fuel generalizing s with
  | zero => exact .refl s
  | succ fuel ih =>
    have hflit (i : Nat) (m : TxMsg) (t : Tx) : Sent s ((s.modLink w (fun l => { l with tx := t })).sendFlit w i m) :=
      (sent_modLink s w (fun l => { l with tx := t }) (fun _ => rfl)).trans (sent_sendFlit ..)
    rw [State.pumpN]
    split
    · exact .refl s
    · exact (hflit _ _ _).trans (ih _)

theorem sent_pump (s : State) (w : BitVec 7) : Sent s (s.pump w) := sent_pumpN ..

theorem sent_push (s : State) (w : BitVec 7) (m : TxMsg) : Sent s (s.push w m) := by
  refine Sent.trans ?_ (sent_pump _ w)
  exact sent_modLink s w _ (fun _ => rfl)

theorem sent_send (s : State) (slot : BitVec 7) (type : Byte) (cls : BitVec 2) (o : Origin) (pois : Bool) (msg : FabMsg) :
    Sent s (s.send slot type cls o pois msg) := by
  unfold State.send State.sendAs
  split
  · exact .refl s
  · split
    · exact .refl s
    · exact sent_push ..

theorem sent_sendAnswer (s : State) (slot : BitVec 7) (o : Origin) (msg : FabMsg) : Sent s (s.sendAnswer slot o msg) := sent_send ..

end Sys2Proof.Proofs

/-!
PROOF. Time and power (R14 to R22): what each event of the clock, of the power limit and of heat does, and the obligation assembled from
that.
-/

namespace Sys2Proof.Proofs

open Sys2Proof.Machine Sys2Proof.Safety Sys2Proof.Laws

/-! ### Power-on (R14, R23, R274) -/

/-- Staged firmware that becomes active changes the controller's records alone. -/
@[simp] theorem activate_clock (s : State) (bad i : Nat) : (s.activate bad i).clock = s.clock := by
  simp only [State.activate]
  split <;> rfl
@[simp] theorem activate_power (s : State) (bad i : Nat) : (s.activate bad i).power = s.power := by
  simp only [State.activate]
  split <;> rfl
@[simp] theorem activate_store (s : State) (bad i : Nat) : (s.activate bad i).store = s.store := by
  simp only [State.activate]
  split <;> rfl
@[simp] theorem activate_exec (s : State) (bad i : Nat) : (s.activate bad i).exec = s.exec := by
  simp only [State.activate]
  split <;> rfl

theorem exec_powerOn (slot : Option (BitVec 7)) (s : State) : ∃ t, exec (.powerOn slot) s = .next t ∧ t.clock = Clock.reset ∧
    t.exec = Exec.reset ∧ t.store.frames = [] ∧ t.store.host = s.store.host ∧ t.power.on = true := by
  refine ⟨s.powerOn slot, rfl, ?_⟩
  simp [State.powerOn, State.activateAll, State.activateRest, State.resetOf, Store.reset, Power.reset]

/-! ### Time states (R15 to R19) -/

/-- A time state that is entered stands, and U and device time stay. -/
theorem clock_enterTime (s : State) (st : TimeState) : (s.enterTime st).clock = { s.clock with tstate := st } := by
  unfold State.enterTime
  extract_lets t
  rw [(recorded_fabricEvent ..).clock]
  split <;> rfl

section Ptp

variable {s : State} {m : PtpMsg} (hd : m.domain = s.clock.domain) (hp : m.peerDelay = false)
include hd hp

/-- A measurement that is kept, before what R16 then says of the state. -/
theorem exec_ptpMessage_kept (hl : m.lost = false) : exec (.ptpMessage m) s = .next (State.timeSettle { s with clock := { s.clock with
    ptp := some (m.offset, m.bound)
    u := if s.clock.tstate = .locked then some (m.offset.natAbs + m.bound) else s.clock.u } }) := by
  change execPtpMessage m s = _
  simp [execPtpMessage, hd, hp, hl]

theorem exec_ptpMessage_lost (hl : m.lost = true) :
    exec (.ptpMessage m) s = .next (State.timeSettle { s with clock := { s.clock with ptp := none } }) := by
  change execPtpMessage m s = _
  simp [execPtpMessage, hd, hp, hl]

end Ptp

theorem lockedU_of_ptp {s : State} {p : Int × Nat} (h : s.clock.ptp = some p) : s.lockedU = s.clock.u := by
  simp [State.lockedU, h]

theorem lockedU_of_unlocked {s : State} (h : s.clock.tstate ≠ .locked) : s.lockedU = s.clock.u := by
  simp [State.lockedU, h]

theorem lockedU_of_no_peer {s : State} (h : s.peerUs = []) : s.lockedU = s.clock.u := by
  simp [State.lockedU, h, leastBy]

/-- No peer raises U: R18 leaves the state as it is. -/
theorem withLockedU_eq {s : State} (h : s.lockedU = s.clock.u) : ({ s with clock := { s.clock with u := s.lockedU } } : State) = s := by
  rw [h]

/-- In FREE and DEGRADED R16 asks for nothing. -/
theorem timeSettle_of_free_or_degraded {s : State} (h : s.clock.tstate = .free ∨ s.clock.tstate = .degraded) : s.timeSettle = s := by
  have hu : s.lockedU = s.clock.u := lockedU_of_unlocked (by rcases h with h | h <;> simp [h])
  rw [State.timeSettle, withLockedU_eq hu]
  rcases h with h | h <;> simp only [h]

/-- LOCKED on a PTP master stays while U is at most 1 µs. -/
theorem timeSettle_of_locked_le {s : State} {p : Int × Nat} {u : Nat} (hs : s.clock.tstate = .locked) (hp : s.clock.ptp = some p)
    (hu : s.clock.u = some u) (h : u ≤ 1000) : s.timeSettle = s := by
  rw [State.timeSettle, withLockedU_eq (lockedU_of_ptp hp)]
  simp only [hs, hu]
  simp [Nat.not_lt.mpr h, State.unreferenced, hp]

/-- U above 1 µs makes a LOCKED device DEGRADED. -/
theorem tstate_timeSettle_of_locked_gt {s : State} {p : Int × Nat} {u : Nat} (hs : s.clock.tstate = .locked) (hp : s.clock.ptp = some p)
    (hu : s.clock.u = some u) (h : 1000 < u) : s.timeSettle.clock.tstate = .degraded := by
  rw [State.timeSettle, withLockedU_eq (lockedU_of_ptp hp)]
  simp only [hs, hu]
  simp [h, clock_enterTime]

/-- The loss of every reference puts a LOCKED device in HOLDOVER. -/
theorem tstate_timeSettle_of_unreferenced {s : State} {u : Nat} (hs : s.clock.tstate = .locked) (hp : s.clock.ptp = none)
    (hr : s.peerUs = []) (hu : s.clock.u = some u) (h : u ≤ 1000) : s.timeSettle.clock.tstate = .holdover := by
  rw [State.timeSettle, withLockedU_eq (lockedU_of_no_peer hr)]
  simp only [hs, hu]
  simp [Nat.not_lt.mpr h, State.unreferenced, hp, hr, clock_enterTime]

/-- A move of R16: the state, U, and the one forward step at the first lock. -/
theorem exec_timeStateChange_of_move {s : State} {st : TimeState} {u : Nat} {n : W64} (h : s.timeMove st u = true) :
    ∃ t, exec (.timeStateChange st u n) s = .next t ∧ t.clock.tstate = st ∧
      t.clock.u = some (if st = .locked then u else max u (s.clock.u.getD 0)) ∧
      t.clock.dtime = (if st = .locked ∧ s.clock.stepped = false ∧ s.now + n.toNat < 2 ^ 64 then s.clock.dtime + n else s.clock.dtime) := by
  change ∃ t, execTimeStateChange st u n s = _ ∧ _
  simp only [execTimeStateChange, h, Bool.true_eq_false, if_false]
  refine ⟨_, rfl, ?_⟩
  simp only [clock_enterTime, true_and]
  congr 1
  simp [and_assoc]

theorem exec_timexSend_on {s : State} (h : s.linkOn (BitVec.ofNat 7 s.sel.a) = true) :
    exec .timexSend s = .next (s.local_ (BitVec.ofNat 7 s.sel.a) (.timex
      { stamp := BitVec.ofNat 64 s.now, tstate := s.clock.tstate, u := s.clock.u.getD (2 ^ 32 - 1) })) := by
  change execTimexSend s = _
  simp [execTimexSend, h]

theorem exec_timex_taken {s u : State} {w : BitVec 7} {f : Flit} (m : TimexMsg) (h : s.takeLocal w f 0x13 = (u, true)) :
    exec (.timex w f m) s = .next (u.modLink w (fun l => { l with peer := some m })) := by
  change execTimex w f m s = _
  simp only [execTimex, h, if_true]

/-! ### Power and heat (R20 to R22) -/

/-- ACLK at n steps below the full rate (R14). -/
def slowedClk (n : Nat) : Nat := 700 - 70 * min 5 n

theorem reclock_eq (s : State) :
    s.reclock = { s with clock := { s.clock with aclk := slowedClk (s.power.steps + s.power.hotDies.countP id) } } := rfl

section Limit

variable {s : State}

theorem exec_powerLimit_far (h : ¬ 95 * s.power.bound ≤ 100 * s.sel.a) : exec .powerLimit s = .next s := by
  change execPowerLimit s = _
  rw [execPowerLimit, if_pos (Nat.not_le.mp h)]

/-- R21: near the limit the background activities are reduced first, then ACLK by steps, then the bandwidth of HBM. -/
theorem exec_powerLimit_near (h : 95 * s.power.bound ≤ 100 * s.sel.a) : exec .powerLimit s =
    if s.power.background = false then .next { s with power := { s.power with background := true } }
    else if 350 < s.clock.aclk then .next (State.reclock { s with power := { s.power with steps := s.power.steps + 1 } })
    else .next { s with power := { s.power with hbm := true, bandwidth := true } } := by
  change execPowerLimit s = _
  rw [execPowerLimit, if_neg (Nat.not_lt.mpr h)]

theorem exec_powerRestore_high (h : ¬ (100 * s.sel.a ≤ 95 * s.power.bound ∧ 1000000 ≤ s.sel.b)) : exec .powerRestore s = .next s := by
  change execPowerRestore s = _
  rw [execPowerRestore, if_pos (by omega)]

/-- R21: the reductions are undone in the reverse order. -/
theorem exec_powerRestore_low (h : 100 * s.sel.a ≤ 95 * s.power.bound ∧ 1000000 ≤ s.sel.b) : exec .powerRestore s =
    if s.power.bandwidth then .next { s with power := { s.power with hbm := s.power.hotStacks.any id, bandwidth := false } }
    else if 0 < s.power.steps then .next (State.reclock { s with power := { s.power with steps := s.power.steps - 1 } })
    else .next { s with power := { s.power with background := false } } := by
  change execPowerRestore s = _
  rw [execPowerRestore, if_neg (by omega)]

theorem exec_undervoltage_due (hlo : 40000 ≤ s.sel.a) (hhi : s.sel.a < 44000) (ht : 1000000 < s.sel.b) :
    exec .undervoltage s = .next { s with power := { s.power with lowInput := true } } := by
  change execUndervoltage s = _
  rw [execUndervoltage, if_pos ⟨hlo, hhi, ht⟩]

theorem exec_mainInputRestored_due (h : 44000 ≤ s.sel.a) :
    exec .mainInputRestored s = .next { s with power := { s.power with lowInput := false } } := by
  change execMainInputRestored s = _
  rw [execMainInputRestored, if_pos h]

end Limit

/-- An entry that changes from false to true is one more, and the other way one less. -/
theorem countP_modAt_const (l : List Bool) (n : Nat) (b : Bool) (h : l[n]? = some (!b)) :
    (modAt l n (fun _ => b)).countP id + (!b).toNat = l.countP id + b.toNat := by
  induction l generalizing n with
  | nil => simp at h
  | cons x l ih =>
    cases n with
    | zero =>
      obtain rfl : x = !b := by simpa using h
      cases b <;> simp [modAt]
    | succ n =>
      have := ih n (by simpa using h)
      simp only [modAt, List.countP_cons]
      omega

/-- R20: a die that crosses its limit gives or takes back one ACLK step. -/
theorem exec_thermalThrottle_junction {s : State} {d : BitVec 4} {c : Nat} {b : Bool} (hb : decide (100 ≤ c) = b)
    (h : s.power.hotDies[d.toNat]? = some (!b)) : ∃ t n, exec (.thermalThrottle (.junction d c)) s = .next t ∧
      t.power.hotDies[d.toNat]? = some b ∧ t.clock.aclk = slowedClk (s.power.steps + n) ∧
      n + (!b).toNat = s.power.hotDies.countP id + b.toNat := by
  subst hb
  exact ⟨_, _, rfl, by simp [State.reclock, getElem?_modAt, h], rfl, countP_modAt_const _ _ _ h⟩

/-- R20: an HBM stack that crosses its limit is hot or not. -/
theorem exec_thermalThrottle_hbm (s : State) (h : BitVec 4) (c : Nat) :
    let hot := modAt s.power.hotStacks h.toNat (fun _ => decide (95 ≤ c))
    ∃ t, exec (.thermalThrottle (.hbm h c)) s = .next t ∧ t.power.hotStacks = hot ∧ t.power.hbm = (hot.any id || s.power.bandwidth) :=
  ⟨_, rfl, rfl, rfl⟩

/-- With a hot stack among them some stack is hot. -/
theorem any_id_of_getElem? {l : List Bool} {n : Nat} (h : l[n]? = some true) : l.any id = true :=
  List.any_eq_true.mpr ⟨true, List.mem_of_getElem? h, rfl⟩

/-- With the only hot stack gone none is. -/
theorem any_id_modAt_false {l : List Bool} {n : Nat} (h : ∀ k, k ≠ n → l[k]? ≠ some true) : (modAt l n (fun _ => false)).any id = false := by
  rw [Bool.eq_false_iff, Ne, List.any_eq_true]
  rintro ⟨b, hb, rfl : b = true⟩
  obtain ⟨k, hk⟩ := List.getElem?_of_mem hb
  rw [getElem?_modAt] at hk
  split at hk
  · simp at hk
  · next hne => exact h k hne hk

theorem exec_trip_due {s : State} {cause : TripCause} (hon : s.power.on = true) (hd : tripDue cause = true) :
    ∃ t, exec (.trip cause) s = .next t ∧ t.power = { s.power with on := false, trip := some cause } ∧ t.exec = s.exec ∧
      t.store = s.store := by
  change ∃ t, execTrip cause s = _ ∧ _
  rw [execTrip, if_neg (by simp [hon, hd])]
  exact ⟨_, rfl, rfl, rfl, rfl⟩

/-! ### The obligation -/

/-- Settles O38: a clause for each event of time and power, each by what its meaning answers. -/
theorem timeAndPowerEvents : Obligations.TimeAndPowerEvents := by
  intro s near low hot slowed
  refine ⟨fun slot => exec_powerOn slot s, fun m hd hp => ⟨fun hl hs => ?_, fun hl hs hu => ?_, fun hl hs hu => ?_, fun v hl hs hu hv hr => ?_⟩,
    fun st u n h => exec_timeStateChange_of_move h, exec_timexSend_on, fun w f m u h => exec_timex_taken m h, exec_powerLimit_far,
    fun hn hb => ?_, fun hn hb ha => ?_, fun hn hb ha => ?_, exec_powerRestore_high, fun hlo hb => ?_, fun k hlo hb hk => ?_, fun hlo hb hk => ?_,
    exec_undervoltage_due, exec_mainInputRestored_due, fun d c hc hd => ?_, fun d c hc hd => ?_, fun h c hh => ?_,
    fun cause hon hd => exec_trip_due hon hd⟩
  · have hne : s.clock.tstate ≠ .locked := by rcases hs with hs | hs <;> simp [hs]
    rw [exec_ptpMessage_kept hd hp hl, timeSettle_of_free_or_degraded (by exact hs), if_neg hne]
  · rw [exec_ptpMessage_kept hd hp hl, if_pos hs, timeSettle_of_locked_le (by exact hs) rfl rfl hu]
  · rw [exec_ptpMessage_kept hd hp hl, if_pos hs]
    exact ⟨_, rfl, tstate_timeSettle_of_locked_gt (by exact hs) rfl rfl hu⟩
  · exact ⟨_, exec_ptpMessage_lost hd hp hl, tstate_timeSettle_of_unreferenced (by exact hs) rfl hr (by exact hu) hv⟩
  · rw [exec_powerLimit_near hn, if_pos hb]
  · rw [exec_powerLimit_near hn, if_neg (by simp [hb]), if_neg (Nat.not_lt.mpr ha)]
  · rw [exec_powerLimit_near hn, if_neg (by simp [hb]), if_pos ha]
    rfl
  · rw [exec_powerRestore_low hlo, if_pos hb]
  · rw [exec_powerRestore_low hlo, if_neg (by simp [hb]), if_pos (by omega), hk]
    rfl
  · rw [exec_powerRestore_low hlo, if_neg (by simp [hb]), if_neg (by omega)]
  · obtain ⟨t, n, ht, hot', hclk, hn⟩ := exec_thermalThrottle_junction (b := true) (decide_eq_true hc) hd
    obtain rfl : n = hot + 1 := hn
    exact ⟨t, ht, hot', hclk⟩
  · obtain ⟨t, n, ht, hot', hclk, hn⟩ := exec_thermalThrottle_junction (b := false) (decide_eq_false (Nat.not_le.mpr hc)) hd
    obtain rfl : n = hot - 1 := Nat.eq_sub_of_add_eq hn
    exact ⟨t, ht, hot', hclk⟩
  · obtain ⟨t, ht, hhot, hhbm⟩ := exec_thermalThrottle_hbm s h c
    refine ⟨t, ht, fun hc => ?_, fun hc hcold => ?_⟩
    · have hset : t.power.hotStacks[h.toNat]? = some true := by
        rw [hhot, getElem?_modAt, if_pos rfl, List.getElem?_eq_getElem hh]
        simp [hc]
      exact ⟨hset, by rw [hhbm, ← hhot, any_id_of_getElem? hset, Bool.true_or]⟩
    · rw [hhbm, decide_eq_false (Nat.not_le.mpr hc), any_id_modAt_false hcold, Bool.false_or]

end Sys2Proof.Proofs

/-!
PROOF. Flits that are accepted (R29 to R35, R37, R38, R47, R48, R50): what each type then does, and the obligation assembled from that.
-/

namespace Sys2Proof.Proofs

open Sys2Proof.Machine Sys2Proof.Safety Sys2Proof.Laws

/-- A change of a link is told by what it makes of the link as it stands. -/
theorem modLink_congr {s : State} {w : BitVec 7} {f g : Link → Link} (h : f (s.link w) = g (s.link w)) : s.modLink w f = s.modLink w g := by
  have hmod : modAt s.fabric.links w.toNat f = modAt s.fabric.links w.toNat g := by
    refine List.ext_getElem? fun k => ?_
    rw [getElem?_modAt, getElem?_modAt]
    split
    · next hk =>
      subst hk
      cases hl : s.fabric.links[w.toNat]? with
      | none => rfl
      | some l =>
        have hlink : s.link w = l := getD_of_getElem? hl
        rw [hlink] at h
        simp only [Option.map_some, h]
    · rfl
  rw [State.modLink, State.modLink, hmod]

/-! ### Messages (R31, R50) -/

section Req

variable {s u : State} {w : BitVec 7} {f : Flit} (ht : s.takeFlit w f 0x01 = (u, true))
include ht

/-- While the sender's generations are not known a REQ is answered with NACK. -/
theorem exec_req_unknown {m : FabMsg} (hm : f.msg = some m) (hg : (u.link w).h.any (·.isNone) = true) :
    exec (.req w f) s = .next ((u.nackMsg w f.hdr m).dropMsg w f false) := by
  change execReq w f s = _
  simp only [execReq, ht, hm, hg, Bool.not_true, Bool.false_eq_true, if_false, if_true]

theorem exec_req_known (hg : (u.link w).h.any (·.isNone) = false) (hp : (u.link w).h.getD (hdrEntry f.hdr) none = some f.hdr.pgen) :
    exec (.req w f) s = .next (u.openMsg w f) := by
  change execReq w f s = _
  simp only [execReq, ht, hg, hp, Bool.not_true, Bool.false_eq_true, if_false, ne_eq, not_true_eq_false]

/-- A REQ of another generation is discarded. -/
theorem exec_req_stale (hg : (u.link w).h.any (·.isNone) = false) (hp : (u.link w).h.getD (hdrEntry f.hdr) none ≠ some f.hdr.pgen) :
    exec (.req w f) s = .next (u.dropMsg w f true) := by
  change execReq w f s = _
  simp only [execReq, ht, hg, Bool.not_true, Bool.false_eq_true, if_false]
  exact if_pos hp

end Req

theorem exec_rsp_own {s u : State} {w : BitVec 7} {f : Flit} (ht : s.takeFlit w f 0x02 = (u, true))
    (hp : f.hdr.pgen = (u.partEnt (hdrEntry f.hdr)).gen) : exec (.rsp w f) s = .next (u.openMsg w f) := by
  change execRsp w f s = _
  simp only [execRsp, ht, hp, Bool.not_true, Bool.false_eq_true, if_false, ne_eq, not_true_eq_false]

/-- A message of one flit is handled at once. -/
theorem openMsg_of_last {u : State} {w : BitVec 7} {f : Flit} {m : FabMsg} (hl : f.hdr.last = true) (hm : f.msg = some m) :
    u.openMsg w f = (((u.begin_ w f.hdr f.msg false).handle w
      (f.hdr.pois || (u.begin_ w f.hdr f.msg false).poolPois w f.hdr) m).poolDone w f.hdr (some m)) := by
  simp only [State.openMsg, hl, hm, if_true]

section Data

variable {s u : State} {w : BitVec 7} {f : Flit} {o : OpenMsg} (ht : s.takeFlit w f 0x03 = (u, true))
  (ho : (u.link w).rx.open_.find? (·.fits f.hdr) = some o) (hl : f.hdr.last = true)
include ht ho hl

/-- The last flit completes the message that it continues. -/
theorem exec_data_last {m : FabMsg} (hs : o.stale = false) (hg : ¬ (o.type = 0x02 ∧ f.hdr.pgen ≠ (u.partEnt (hdrEntry f.hdr)).gen))
    (hm : o.msg = some m) :
    let v := u.modOpen w (fun l => l.filter (fun x => !x.fits f.hdr))
    exec (.data w f) s = .next ((v.handle w (o.pois || f.hdr.pois || v.poolPois w f.hdr) m).poolDone w f.hdr (some m)) := by
  intro v
  have hkeep : ¬ (o.stale || (o.type == 0x02 && f.hdr.pgen != (u.partEnt (hdrEntry f.hdr)).gen)) = true := by
    simpa [hs] using hg
  change execData w f s = _
  simp only [execData, ht, ho, hl, hm, Bool.not_true, Bool.false_eq_true, if_false, if_true]
  exact if_neg hkeep

/-- A RSP whose generation this device has left, or that was discarded from its first flit on, is discarded. -/
theorem exec_data_stale (hg : o.stale = true ∨ (o.type = 0x02 ∧ f.hdr.pgen ≠ (u.partEnt (hdrEntry f.hdr)).gen)) :
    exec (.data w f) s = .next ((u.modOpen w (fun l => l.filter (fun x => !x.fits f.hdr))).discardFlit w f.hdr) := by
  have hdrop : (o.stale || (o.type == 0x02 && f.hdr.pgen != (u.partEnt (hdrEntry f.hdr)).gen)) = true := by
    simpa using hg
  change execData w f s = _
  simp only [execData, ht, ho, hl, Bool.not_true, Bool.false_eq_true, if_false, if_true]
  exact if_pos hdrop

end Data

/-! ### Generations (R50) -/

/-- The contents of a flit are used only if its SUB is not a reserved value. -/
theorem sub_le_of_takeFlit {s u : State} {w : BitVec 7} {f : Flit} {type : Byte} (h : s.takeFlit w f type = (u, true)) :
    f.hdr.sub.toNat ≤ 4 := by
  by_contra hsub
  simp only [State.takeFlit] at h
  split at h
  · simp at h
  · split at h
    · simp at h
    · split at h
      · simp at h
      · split at h
        · simp at h
        · split at h
          · simp at h
          · rw [if_pos (.inr (.inr (Nat.not_le.mp hsub)))] at h
            simp at h

theorem hdrEntry_lt {h : FlitHdr} (hs : h.sub.toNat ≤ 4) : hdrEntry h < 40 := by
  have := h.part.isLt
  unfold hdrEntry
  omega

theorem links_poolDone (s : State) (w : BitVec 7) (h : FlitHdr) (m : Option FabMsg) : (s.poolDone w h m).fabric.links = s.fabric.links := rfl

theorem links_foldl_poolDone {α : Type} (w : BitVec 7) (h : α → FlitHdr) (l : List α) (s : State) :
    (l.foldl (fun (s : State) a => s.poolDone w (h a) none) s).fabric.links = s.fabric.links := by
  induction l generalizing s with
  | nil => rfl
  | cons a l ih => exact (ih _).trans (links_poolDone ..)

/-- Whether an open message is of the entry that a header names. -/
def OfEntry (h : FlitHdr) (o : OpenMsg) : Bool := o.part == h.part && o.sub == h.sub

/-- A link that has a GENBUMP: the generation is remembered, and open messages of the entry are cut. -/
def bumpedLink (h : FlitHdr) (l : Link) : Link :=
  { l with h := modAt l.h (hdrEntry h) (fun _ => some h.pgen), rx := { l.rx with open_ := l.rx.open_.filter (fun o => !OfEntry h o) } }

theorem exec_genbump_taken {s u : State} {w : BitVec 7} {f : Flit} (ht : s.takeFlit w f 0x15 = (u, true)) :
    exec (.genbump w f) s = .next ((((u.link w).rx.open_.filter (OfEntry f.hdr)).foldl (fun (s : State) o =>
      s.poolDone w { f.hdr with cls := o.cls } none) (u.modLink w (bumpedLink f.hdr))).poolDone w f.hdr none) := by
  change execGenbump w f s = _
  simp only [execGenbump, ht, Bool.not_true, Bool.false_eq_true, if_false]
  rfl

theorem getElem?_h_bumpedLink {h : FlitHdr} {l : Link} (hlt : hdrEntry h < l.h.length) : (bumpedLink h l).h[hdrEntry h]? = some (some h.pgen) := by
  rw [bumpedLink, getElem?_modAt, if_pos rfl, List.getElem?_eq_getElem hlt]
  rfl

theorem not_ofEntry_of_mem_bumpedLink {h : FlitHdr} {l : Link} {o : OpenMsg} (ho : o ∈ (bumpedLink h l).rx.open_) :
    ¬ (o.part = h.part ∧ o.sub = h.sub) := by
  have := (List.mem_filter.mp ho).2
  rintro ⟨hpart, hsub⟩
  simp [OfEntry, hpart, hsub] at this

/-! ### Keys (R48) -/

section Keys

variable {s u : State} {w : BitVec 7} {f : Flit} (ht : s.takeFlit w f 0x14 = (u, true))
include ht

theorem exec_keyctl_retire (b : Bool) : exec (.keyctl w f (.retire b)) s = .next ((u.poolDone w f.hdr none).modLink w (fun l => { l with
    rx := { l.rx with banks := modBank l.rx.banks b (fun _ => KeyBank.reset) } })) := by
  change execKeyctl w f (.retire b) s = _
  simp only [execKeyctl, ht, Bool.not_true, Bool.false_eq_true, if_false]

/-- An installed bank is used from the next flit on, and the old one waits to be retired. -/
theorem exec_keyctl_installed {b : Bool} :
    let v := u.poolDone w f.hdr none
    (v.link w).tx.kg ≠ b → (bankOf (v.link w).tx.banks b).valid = true → exec (.keyctl w f (.installed b)) s =
      .next (((v.modLink w (fun l => { l with tx := { l.tx with
        kg := b, retire := some l.tx.kg, rekey := false, banks := modBank l.tx.banks b (fun k => { k with seqs := l.tx.next.toNat }) } })).linkEvent
        w 0x108 0 0 (v.link w).rx.expect 0).retireKey w) := by
  intro v hk hb
  change execKeyctl w f (.installed b) s = _
  simp only [execKeyctl, ht, Bool.not_true, Bool.false_eq_true, if_false]
  rw [if_neg (by simpa using And.intro hk hb)]
  congr 3
  exact modLink_congr rfl

end Keys

/-! ### Link-local flits (R30, R35, R37, R38) -/

section Local

variable {s u : State} {w : BitVec 7} {f : Flit}

theorem exec_idle_taken {ok : Bool} (ht : s.takeLocal w f 0x00 = (u, ok)) : exec (.idle w f) s = .next u := by
  change execIdle w f s = _
  simp only [execIdle, ht]

theorem exec_nak_taken (ht : s.takeLocal w f 0x10 = (u, true)) : exec (.nak w f) s = .next ((u.acked w f.hdr.ack).replayFrom w f.hdr.ack) := by
  change execNak w f s = _
  simp only [execNak, ht, if_true]

theorem exec_loss_taken (mask : W16) (ht : s.takeLocal w f 0x16 = (u, true)) : exec (.loss w f mask) s = .next (u.loseTx w (~~~mask)) := by
  change execLoss w f mask s = _
  simp only [execLoss, ht, if_true]

/-- R38: a RESTRIPE on stripes that carry light is answered, and NEXT is expected. -/
theorem exec_restripe_lit {mask next : W16} (ht : s.takeLocal w f 0x11 = (u, true)) (hm : mask ≠ 0) (hlit : mask &&& ~~~(u.link w).rx.lit = 0) :
    let l := u.link w
    let back := (l.rx.expect - next).toNat
    exec (.restripe w f mask next) s = .next ((u.modLink w (fun k => { k with rx := { k.rx with
      active := mask, loss := false, nakAt := none, expect := next
      again := if back < 32768 then l.rx.again + back else l.rx.again - (next - l.rx.expect).toNat } })).local_ w (.restripeAck mask)) := by
  intro l back
  change execRestripe w f mask next s = _
  simp only [execRestripe, ht]
  rw [if_neg (by simpa using And.intro hm hlit)]
  congr 2
  exact modLink_congr rfl

section Ack

variable {mask : W16} (ht : s.takeLocal w f 0x12 = (u, true)) (ha : (u.link w).tx.awaiting = true)
include ht ha

theorem exec_restripeAck_less (hm : (u.link w).tx.active &&& ~~~mask ≠ 0) :
    exec (.restripeAck w f mask) s = .next (u.loseTx w (~~~mask)) := by
  change execRestripeAck w f mask s = _
  simp only [execRestripeAck, ht]
  rw [if_neg (by simp [ha]), if_pos hm]

/-- With all stripes replay starts again. -/
theorem exec_restripeAck_all (hm : (u.link w).tx.active &&& ~~~mask = 0) : exec (.restripeAck w f mask) s =
    .next (((u.modLink w (fun l => { l with tx := { l.tx with awaiting := false, stream := 0, replay := none } })).linkEvent w 0x103 0
      (u.link w).tx.active (u.link w).tx.oldest (u.link w).tx.retry.length).replayFrom w (u.link w).tx.oldest) := by
  change execRestripeAck w f mask s = _
  simp only [execRestripeAck, ht]
  rw [if_neg (by simp [ha]), if_neg (not_not.mpr hm)]

end Ack

end Local

/-! ### The obligation -/

/-- Settles O39: a clause for each type of flit, each by what its meaning answers once the flit is taken. -/
theorem acceptedFlitsAct : Obligations.AcceptedFlitsAct := by
  intro s u w f l h first
  refine ⟨fun m ht hm => ⟨fun hg => exec_req_unknown ht hm hg, fun hg hl hp => ?_, fun hg hp => exec_req_stale ht hg hp⟩,
    fun m ht hp hl hm => ?_,
    fun o ht ho hl => ⟨fun m hs hg hm => exec_data_last ht ho hl hs hg hm, fun hg => exec_data_stale ht ho hl hg⟩,
    fun ht hn hl => ⟨_, bumpedLink h l, exec_genbump_taken ht, ?_, getElem?_h_bumpedLink ?_, fun _ => not_ofEntry_of_mem_bumpedLink⟩,
    fun b ht => ⟨exec_keyctl_retire ht b, fun hk hb => exec_keyctl_installed ht hk hb⟩,
    fun ok ht => exec_idle_taken ht, exec_nak_taken, fun mask ht => exec_loss_taken mask ht,
    fun mask next ht hm hlit => exec_restripe_lit ht hm hlit,
    fun mask ht ha hm => exec_restripeAck_less ht ha hm, fun mask ht ha hm => exec_restripeAck_all ht ha hm⟩
  · rw [exec_req_known ht hg hp, openMsg_of_last hl hm]
  · rw [exec_rsp_own ht hp, openMsg_of_last hl hm]
  · rw [links_poolDone, links_foldl_poolDone, link_modLink, if_pos rfl, hl]
    rfl
  · exact hn ▸ hdrEntry_lt (sub_le_of_takeFlit ht)

end Sys2Proof.Proofs

/-!
PROOF. Link events without a flit (R27, R34 to R39, R47 to R50, R88): training and coming up, stripes lost and restored, keys, repeats, the
loss of a light source, and request slots; and the obligation assembled from that.
-/

namespace Sys2Proof.Proofs

open Sys2Proof.Machine Sys2Proof.Safety Sys2Proof.Laws

/-! ### Training (R27) -/

/-- A link that exists holds after a change of it what the change makes of it. -/
theorem getElem?_modLink {s : State} {w : BitVec 7} (f : Link → Link) (hw : w.toNat < s.fabric.links.length) :
    (s.modLink w f).fabric.links[w.toNat]? = some (f (s.link w)) := by
  have hl : s.fabric.links[w.toNat]? = some (s.link w) := by
    rw [State.link, getD_of_getElem? (List.getElem?_eq_getElem hw), List.getElem?_eq_getElem hw]
  rw [link_modLink, if_pos rfl, hl]
  rfl

theorem exec_linkTraining_lit {s : State} {w : BitVec 7} {lit : LightMasks} (hf : s.fabric.slot ≠ none) (hi : lit.ingress ≠ 0)
    (he : lit.egress ≠ 0) (hr : (s.link w).runs = false) (hp : s.power.on = true) (hw : w.toNat < s.fabric.links.length) :
    ∃ t l, exec (.linkTraining w lit) s = .next t ∧ t.fabric.links[w.toNat]? = some l ∧ l.trained = true ∧ l.up = false ∧
      l.tx.active = lit.egress ∧ l.rx.lit = lit.ingress ∧ l.rx.active = lit.ingress := by
  change ∃ t l, execLinkTraining w lit s = _ ∧ _
  rw [execLinkTraining, if_neg (by simpa [hf, hr, hp] using And.intro hi he)]
  exact ⟨_, _, rfl, getElem?_modLink _ hw, rfl, rfl, rfl, rfl, rfl⟩

section Up

variable {s : State} {w : BitVec 7} (ht : (s.link w).trained = true) (hu : (s.link w).up = false) (hf : s.fabric.slot ≠ none)
include ht hu hf

theorem exec_linkUp_failed : exec (.linkUp w false) s = .next (s.log 0x8005 (BitVec.ofNat 64 w.toNat)) := by
  change execLinkUp w false s = _
  simp [execLinkUp, ht, hu, hf]

omit ht hu hf in
theorem sent_sendGen (s : State) (w : BitVec 7) (e : Nat) : Sent s (s.sendGen w e) := by
  unfold State.sendGen
  split
  · exact .refl s
  · exact sent_push ..

/-- A verified link comes up; the event, the GENBUMPs and what waited to be sent leave it up. -/
theorem exec_linkUp_verified (hw : w.toNat < s.fabric.links.length) :
    ∃ t l, exec (.linkUp w true) s = .next t ∧ t.fabric.links[w.toNat]? = some l ∧ l.up = true := by
  change ∃ t l, execLinkUp w true s = _ ∧ _
  rw [execLinkUp, if_neg (by simp [ht, hu, hf]), if_neg (by simp)]
  extract_lets fresh key old up event gens again
  have hup : up.fabric.links[w.toNat]?.map Link.up = some true := by
    rw [getElem?_modLink _ hw]
    rfl
  have hevent : Sent up event := .of_recorded (recorded_linkEvent ..)
  have hgens : Sent event gens := .foldl (fun t e => sent_sendGen t w e) _ _
  have hagain : Sent gens again := sent_modLink _ _ _ (fun _ => rfl)
  have hsent : Sent up (again.pump w) := ((hevent.trans hgens).trans hagain).trans (sent_pump ..)
  obtain ⟨l, hl, hlup⟩ := Option.map_eq_some_iff.mp ((hsent.link_up w.toNat).trans hup)
  exact ⟨_, l, rfl, hl, hlup⟩

end Up

/-! ### Stripes (R36 to R39) -/

theorem link_linkEvent (s : State) (w v : BitVec 7) (code dir : Nat) (mask seq : W16) (count : Nat) :
    (s.linkEvent w code dir mask seq count).link v = s.link v := by
  rw [State.link, (recorded_linkEvent ..).fabric]
  rfl

section Lost

variable {s : State} {w : BitVec 7} {lit : W16}

theorem exec_stripeLost_none (hg : (s.link w).rx.lit &&& ~~~lit = 0) : exec (.stripeLost w lit) s = .next s := by
  change execStripeLost w lit s = _
  simp only [execStripeLost, hg, or_true, if_true]

variable (hf : s.fabric.slot ≠ none) (hp : s.power.on = true) (ht : (s.link w).trained = true) (hg : (s.link w).rx.lit &&& ~~~lit ≠ 0)
include hf hp ht hg

/-- A link that is not up yet loses its stripes, and with the last of them its training. -/
theorem exec_stripeLost_untrains (hu : (s.link w).up = false) : exec (.stripeLost w lit) s =
    .next ((s.linkEvent w 0x101 1 ((s.link w).rx.lit &&& ~~~lit) (s.link w).rx.expect 0).modLink w (fun k => { k with
      trained := (s.link w).rx.lit &&& lit != 0
      rx := { k.rx with lit := (s.link w).rx.lit &&& lit, active := (s.link w).rx.active &&& lit } })) := by
  change execStripeLost w lit s = _
  simp only [execStripeLost, link_linkEvent]
  rw [if_neg (by simpa [hf, hp, ht] using hg), if_pos hu]

/-- The direction decoded on none of the lost stripes. -/
theorem exec_stripeLost_idle (hu : (s.link w).up = true) (ha : (s.link w).rx.active &&& ((s.link w).rx.lit &&& ~~~lit) = 0) :
    exec (.stripeLost w lit) s =
      .next ((s.linkEvent w 0x101 1 ((s.link w).rx.lit &&& ~~~lit) (s.link w).rx.expect 0).modLink w (fun k => { k with
        rx := { k.rx with lit := (s.link w).rx.lit &&& lit } })) := by
  change execStripeLost w lit s = _
  simp only [execStripeLost, link_linkEvent]
  rw [if_neg (by simpa [hf, hp, ht] using hg), if_neg (by simp [hu]), if_pos ha]

/-- The direction decoded on one of them: LOSS goes out, and with the last stripe the link is down. -/
theorem exec_stripeLost_reported (hu : (s.link w).up = true) (ha : (s.link w).rx.active &&& ((s.link w).rx.lit &&& ~~~lit) ≠ 0) :
    let u := ((s.linkEvent w 0x101 1 ((s.link w).rx.lit &&& ~~~lit) (s.link w).rx.expect 0).modLink w (fun k => { k with
      rx := { k.rx with lit := (s.link w).rx.lit &&& lit } })).modLink w (fun k => { k with rx := { k.rx with loss := true } })
    let v := if (s.link w).rx.active &&& (s.link w).rx.lit &&& lit = 0 then u.linkIsDown w 1 else u
    exec (.stripeLost w lit) s = .next (v.local_ w (.loss (v.link w).rx.lit)) := by
  change execStripeLost w lit s = _
  simp only [execStripeLost, link_linkEvent]
  rw [if_neg (by simpa [hf, hp, ht] using hg), if_neg (by simp [hu]), if_neg ha]

end Lost

section On

variable {s : State} {w : BitVec 7} (h : s.linkOn w = true)
include h

theorem exec_stripeRestored_egress {n : BitVec 4} (ha : (s.link w).tx.active &&& BitVec.ofNat 16 (2 ^ n.toNat) = 0) :
    exec (.stripeRestored w ⟨true, n⟩) s = .next (((s.modLink w (fun l => { l with tx := { l.tx with
      active := l.tx.active ||| BitVec.ofNat 16 (2 ^ n.toNat), awaiting := true } })).linkEvent w 0x102 0 (BitVec.ofNat 16 (2 ^ n.toNat))
        (s.link w).rx.expect 0).sendRestripe w) := by
  change execStripeRestored w ⟨true, n⟩ s = _
  rw [execStripeRestored, if_neg (by simp [h]), if_pos rfl, if_neg (not_not.mpr ha)]

theorem exec_stripeRestored_ingress {n : BitVec 4} (ha : (s.link w).rx.lit &&& BitVec.ofNat 16 (2 ^ n.toNat) = 0) :
    exec (.stripeRestored w ⟨false, n⟩) s = .next ((s.modLink w (fun l => { l with rx := { l.rx with
      lit := l.rx.lit ||| BitVec.ofNat 16 (2 ^ n.toNat) } })).linkEvent w 0x102 1 (BitVec.ofNat 16 (2 ^ n.toNat)) (s.link w).rx.expect 0) := by
  change execStripeRestored w ⟨false, n⟩ s = _
  rw [execStripeRestored, if_neg (by simp [h]), if_neg (by simp), if_neg (not_not.mpr ha)]

/-! ### Keys (R48, R49) -/

/-- No key was agreed: it is recorded. -/
theorem exec_rekey_failed (egress : Bool) :
    exec (.rekey w ⟨egress, false⟩) s = .next (s.linkEvent w 0x109 (if egress then 0 else 1) 0 (s.link w).rx.expect 0) := by
  change execRekey w ⟨egress, false⟩ s = _
  rw [execRekey, if_neg (by simp [h]), if_pos Bool.not_false]

theorem exec_rekey_egress (hr : (s.link w).tx.retire = none) : exec (.rekey w ⟨true, true⟩) s = .next (s.modLink w (fun l => { l with
    tx := { l.tx with banks := modBank l.tx.banks (!l.tx.kg) (fun _ => { KeyBank.reset with valid := true }) } })) := by
  change execRekey w ⟨true, true⟩ s = _
  rw [execRekey, if_neg (by simp [h]), if_neg (by simp), if_pos rfl, if_neg (by simp [hr])]

/-- The receiver takes the key into the bank that is idle, and confirms it. -/
theorem exec_rekey_ingress {b : Bool} (hb : (bankOf (s.link w).rx.banks b).valid = false)
    (hk : (bankOf (s.link w).rx.banks (!b)).valid = true) : exec (.rekey w ⟨false, true⟩) s = .next ((s.modLink w (fun l => { l with
      rx := { l.rx with banks := modBank l.rx.banks b (fun _ => { KeyBank.reset with valid := true }) } })).sendKeyctl w (.installed b)) := by
  change execRekey w ⟨false, true⟩ s = _
  rw [execRekey, if_neg (by simp [h]), if_neg (by simp), if_neg (by simp)]
  cases b with
  | false =>
    have h1 : (s.link w).rx.banks.1.valid = false := hb
    simp only [h1]
  | true =>
    have h1 : (s.link w).rx.banks.1.valid = true := hk
    have h2 : (s.link w).rx.banks.2.valid = false := hb
    simp only [h1, h2]

end On

/-! ### Repeats (R34, R37, R38) -/

section Repeats

variable {s : State} {w : BitVec 7} (hw : s.sel.a = w.toNat) (h : s.linkOn w = true)
include hw

theorem selLink_eq : BitVec.ofNat 7 s.sel.a = w := by
  rw [hw, BitVec.ofNat_toNat, BitVec.setWidth_eq]

include h

theorem exec_idleSend_on : exec .idleSend s = .next (s.local_ w .idle) := by
  change execIdleSend s = _
  simp only [execIdleSend, selLink_eq hw, h, if_true]

theorem exec_nakRepeat_open (hn : (s.link w).rx.nakAt.isSome = true) : exec .nakRepeat s = .next (s.sendNak w) := by
  change execNakRepeat s = _
  simp only [execNakRepeat, selLink_eq hw, h, hn, Bool.and_self, if_true]

theorem exec_restripeRepeat_awaiting (ha : (s.link w).tx.awaiting = true) : exec .restripeRepeat s = .next (s.sendRestripe w) := by
  change execRestripeRepeat s = _
  simp only [execRestripeRepeat, selLink_eq hw, h, ha, Bool.and_self, if_true]

theorem exec_lossRepeat_lost (hl : (s.link w).rx.loss = true) : exec .lossRepeat s = .next (s.local_ w (.loss (s.link w).rx.lit)) := by
  change execLossRepeat s = _
  simp only [execLossRepeat, selLink_eq hw, h, hl, Bool.and_self, if_true]

end Repeats

/-! ### The light source, and request slots -/

/-- R36: the stripes of the unit are lost on all 128 egress links. -/
theorem exec_elsFault_fabric {s : State} (hf : s.fabric.slot ≠ none) :
    let q := s.sel.a % 4
    let m : W16 := BitVec.ofNat 16 (15 * 16 ^ q)
    let seen := s.noteError { time := s.now, row := 8, fixed := false, msc := false, die := none, link := 0 }
    exec .elsFault s = .next ((List.range 128).foldl (fun (u : State) w => u.loseTx (BitVec.ofNat 7 w) m)
      (seen.fabricEvent 0x106 0xFF (BitVec.ofNat 8 q) m 0 0)) := by
  change execElsFault s = _
  rw [execElsFault, if_neg (by simp [hf])]

theorem exec_requestSlotReclaim_due {s : State} {q : Request} (hq : s.ops.reqs.find? (fun q => q.stale && q.id == s.sel.a) = some q)
    (ht : q.sentAt + 4000000 ≤ s.now) : exec .requestSlotReclaim s = .next (s.reclaim q) := by
  change execRequestSlotReclaim s = _
  simp only [execRequestSlotReclaim, hq, ht, if_true]

/-! ### The obligation -/

/-- Settles O40: a clause for each event, each by what its meaning answers. -/
theorem linkEventsWithoutFlits : Obligations.LinkEventsWithoutFlits := by
  intro s w l
  refine ⟨fun lit hf hi he hr hp hw => exec_linkTraining_lit hf hi he hr hp hw, fun ht hu hf => exec_linkUp_failed ht hu hf,
    fun ht hu hf hw => exec_linkUp_verified ht hu hf hw, fun lit hg => exec_stripeLost_none hg,
    fun lit hf hp ht hg => ⟨fun hu => exec_stripeLost_untrains hf hp ht hg hu, fun hu ha => exec_stripeLost_idle hf hp ht hg hu ha,
      fun hu ha => exec_stripeLost_reported hf hp ht hg hu ha⟩,
    fun n h => ⟨fun ha => exec_stripeRestored_egress h ha, fun ha => exec_stripeRestored_ingress h ha⟩,
    fun h => ⟨exec_rekey_failed h true, exec_rekey_failed h false⟩, fun h hr => exec_rekey_egress h hr,
    fun b h hb hk => exec_rekey_ingress h hb hk,
    fun hw => ⟨exec_idleSend_on hw, exec_nakRepeat_open hw, exec_restripeRepeat_awaiting hw, exec_lossRepeat_lost hw⟩,
    fun hf => exec_elsFault_fabric hf, fun q hq ht => exec_requestSlotReclaim_due hq ht⟩

end Sys2Proof.Proofs

/-!
PROOF. Requests between devices and the progress of accesses (R53, R54, R57, R219 to R222, R230 to R232, R240 to R243): RECALL and held
acknowledgements, requests and their answers, the host's window, operations that are performed, and a release that waits for device time;
and the obligation assembled from that.
-/

namespace Sys2Proof.Proofs

open Sys2Proof.Machine Sys2Proof.Safety Sys2Proof.Laws

/-! ### RECALL (R232) -/

/-- The lines of a peer's window that carry one line's number, under any key. -/
def recalledLine (slot : BitVec 7) (line : W64) (l : Nat) : Bool := l % 2 ^ 45 == 2 ^ 44 + slot.toNat * 2 ^ 37 + line.toNat

theorem exec_recallLine (w : BitVec 7) (x : RecallMsg) (s : State) :
    exec (.recallLine w x) s = .next (((s.dropPeers (recalledLine (s.peerSlot w) x.line)).dropL1
      (fun _ _ l => recalledLine (s.peerSlot w) x.line l)).sendAnswer (s.peerSlot w) x.origin (.recallAck x.line)) := by
  have hline : (2 ^ 51 + (s.peerSlot w).toNat * 2 ^ 44) / 128 + x.line.toNat = 2 ^ 44 + (s.peerSlot w).toNat * 2 ^ 37 + x.line.toNat := by omega
  change execRecallLine w x s = _
  simp only [execRecallLine, hline]
  rfl

section Held

variable {s : State} {h : HeldAck}

/-- An acknowledgement of a peer's write that goes reaches its requester. -/
theorem releaseAck_of_peer (hr : h.rsp.result ≠ .nack) : s.releaseAck h =
    (({ s with caches := { s.caches with held := s.caches.held.filter (fun x => x != h) } } : State).deliverRsp h.dst h.rsp) := by
  unfold State.releaseAck
  extract_lets t
  split
  · next hn => exact absurd hn hr
  · rfl

/-- The only write that is held goes with the answer of the only device for which it waits. -/
theorem answered_of_only {slot : BitVec 7} {line : Nat} {p : HeldAck → Bool} (hh : s.caches.held = [h]) (hw : h.waiting = [slot])
    (hl : h.line = line) (ha : h.after = none) (hr : h.rsp.result ≠ .nack) (hp : p h = true) :
    s.answered slot line p = (({ s with caches := { s.caches with held := [] } } : State).deliverRsp h.dst h.rsp) := by
  subst hl
  simp only [State.answered, hh, hw, hp, List.map_cons, List.map_nil, beq_self_eq_true, List.contains_cons, Bool.true_or, Bool.true_and, if_true]
  simp only [List.filter_cons, ha, Option.isNone_none, beq_self_eq_true, bne_self_eq_false, Bool.and_self, if_true, List.filter_nil,
    List.foldl_cons, List.foldl_nil, Bool.false_eq_true, if_false]
  refine (releaseAck_of_peer (by exact hr)).trans ?_
  simp

theorem exec_recallAck_only {w : BitVec 7} {line : W64} (hh : s.caches.held = [h]) (hw : h.waiting = [s.peerSlot w]) (hl : h.line = line.toNat)
    (ha : h.after = none) (hr : h.rsp.result ≠ .nack) :
    exec (.recallAck w line) s = .next (({ s with caches := { s.caches with held := [] } } : State).deliverRsp h.dst h.rsp) := by
  change execRecallAck w line s = _
  rw [execRecallAck, answered_of_only hh hw hl ha hr rfl]

/-- 4 ms without an answer count as one; a link that is down is not reported again. -/
theorem exec_recallTimeout_only {w : BitVec 7} {line : W64} (hh : s.caches.held = [h]) (hw : h.waiting = [s.peerSlot w])
    (hl : h.line = line.toNat) (ha : h.after = none) (hr : h.rsp.result ≠ .nack) (ht : h.sentAt + 4000000 ≤ s.now)
    (hd : s.linkUp (s.peerSlot w) = false) :
    exec (.recallTimeout w line) s = .next (({ s with caches := { s.caches with held := [] } } : State).deliverRsp h.dst h.rsp) := by
  change execRecallTimeout w line s = _
  simp only [execRecallTimeout, hd, Bool.false_eq_true, if_false]
  rw [if_pos (by simp [hh, hw, hl, ht]), answered_of_only hh hw hl ha hr (by simpa using ht)]

end Held

/-! ### Requests and answers (R240, R241) -/

theorem exec_remoteRequest (r : RemoteReq) (s : State) : exec (.remoteRequest r) s = execRemoteRequest r s := rfl

/-- While a partition is being prepared its requests are answered with NACK. -/
theorem serve_of_preparing {s : State} {r : RemoteReq} {e : Nat} (he : s.reqPart r = some e) (hs : (s.partEnt e).state = 2) :
    s.serve r = .answer s .nack := by
  simp only [State.serve, he]
  exact if_pos hs

section Requests

variable {s : State} {q : Request}

theorem exec_remoteResponse_own {r : RemoteRsp} (hq : s.ops.reqs.find? (fun q => q.id == r.id && q.req.dst == r.src) = some q)
    (hs : q.stale = false) : exec (.remoteResponse r) s =
      .next (if r.pgen ≠ (s.partEnt q.pent).gen then s.dropRsp r.src else s.answerReq q r.result) := by
  change execRemoteResponse r s = _
  simp only [execRemoteResponse, hq, hs, Bool.false_eq_true, if_false]

theorem exec_remoteTimeout_due (hq : s.ops.reqs.find? (fun q => !q.stale && q.id == s.sel.a) = some q) (ht : q.sentAt + 4000000 ≤ s.now) :
    exec .remoteTimeout s = .next (s.answerReq q (.fault 10)) := by
  change execRemoteTimeout s = _
  simp only [execRemoteTimeout, hq, ht, if_true]

end Requests

/-- A request that waited 3 ms for a page fails, with its record. -/
theorem exec_inboundPageTimeout_due {s : State} {i : Inbound}
    (hi : s.ops.inbound.find? (fun i => i.req.id == s.sel.a && i.req.src.toNat == s.sel.b && i.page != 0) = some i)
    (ht : i.at_ + 3000000 ≤ s.now) :
    let v : State := { s with ops := { s.ops with inbound := s.ops.inbound.filter (fun i =>
      !(i.req.id == s.sel.a && i.req.src.toNat == s.sel.b && i.page != 0)) } }
    ∃ u x, v.refuseReq i.req (some i.pent) 10 = .answer u x ∧ x = .fault 10 ∧
      exec .inboundPageTimeout s = .next (u.deliverRsp i.req.src (u.rspFor i.req x)) := by
  intro v
  refine ⟨_, _, rfl, rfl, ?_⟩
  change execInboundPageTimeout s = _
  simp only [execInboundPageTimeout, hi]
  rw [if_neg (Nat.not_lt.mpr ht)]
  rfl

/-- Whether a held acknowledgement is the one that NOTIME_ACK selects, and device time exceeds its GWCT. -/
def notimeDue (s : State) (h : HeldAck) : Bool :=
  h.id == s.sel.a && h.dst.toNat == s.sel.b && (match h.after with | some g => decide (g < s.now) | none => false)

theorem exec_notimeAck_due {s : State} {h : HeldAck} (hh : s.caches.held.find? (notimeDue s) = some h) (hr : h.rsp.result ≠ .nack) :
    exec .notimeAck s =
      .next (({ s with caches := { s.caches with held := s.caches.held.filter (fun x => x != h) } } : State).deliverRsp h.dst h.rsp) := by
  rw [← releaseAck_of_peer hr]
  change (match s.caches.held.find? (notimeDue s) with | some h => .next (s.releaseAck h) | none => .next s : Res) = _
  rw [hh]

/-! ### The host's window (R54, R230) -/

section Window

variable {s : State} {off : W64} {a : HostAccess} (hi : s.ideFails 0 = false)
include hi

theorem exec_hostWindowAccess_outside (h : s.answers 0 = false ∨ s.host.bar2 < off.toNat + windowBytes a) :
    exec (.hostWindowAccess off a) s = .next (s.emit .unsupported) := by
  change execHostWindowAccess off a s = _
  rw [execHostWindowAccess, if_neg (by simp [hi]), if_pos]
  rcases h with h | h <;> simp [h]

/-- An access within the window, with none before it, is performed, or waits. -/
theorem exec_hostWindowAccess_inside (ha : s.answers 0 = true) (hok : windowOk off.toNat a = true)
    (hb : off.toNat + windowBytes a ≤ s.host.bar2) (hm : off.toNat + windowBytes a ≤ Config.hbmSize s.part) (hw : s.host.window = []) :
    exec (.hostWindowAccess off a) s =
      .next ((s.windowDo off.toNat a).getD { s with host := { s.host with window := [.access off a] } }) := by
  have hs : ({ s with host := { s.host with window := [] } } : State) = s := by rw [← hw]
  change execHostWindowAccess off a s = _
  rw [execHostWindowAccess, if_neg (by simp [hi]), if_neg (by simp [ha, hok, hb, hm]), hw]
  rw [State.windowRetry, if_neg (by simp)]
  simp only [List.nil_append, State.windowRun, hs]
  cases s.windowDo off.toNat a <;> rfl

end Window

section WindowDo

variable {s : State} {pa : Nat}

theorem windowDo_owned {a : HostAccess} (h : s.ownedIn pa (windowBytes a) = true) : s.windowDo pa a = none := by
  simp [State.windowDo, h]

theorem windowDo_read {n : Nat} (h : s.ownedIn pa n = false) : s.windowDo pa (.read n) = some (s.emit (.hostData
    (s.store.bytes (s.shadowed pa) n) (s.store.poisoned (s.shadowed pa) n || s.lost.getLsbD (8 + homeDie pa)))) := by
  simp [State.windowDo, windowBytes, h]

/-- No entry's journal asks a store of the host to wait, or keeps it from a context that replays (R279, R280). -/
theorem journals_free (h : ∀ e < 40, s.storeHeld e pa = false ∧ s.storeKept e pa = false) :
    (List.range 40).any (fun e => s.storeHeld e pa) = false ∧ (List.range 40).any (fun e => s.storeKept e pa) = false := by
  constructor <;> simp only [List.any_eq_false, List.mem_range] <;> intro e he <;> simp [h e he]

theorem windowDo_write {d : List Byte} {u : State} (ho : s.ownedIn pa d.length = false) (hl : s.lost.getLsbD (8 + homeDie pa) = false)
    (hf : ∀ e < 40, s.storeHeld e pa = false ∧ s.storeKept e pa = false) (hu : s.windowWrite pa d = some u) :
    s.windowDo pa (.write d) = some u := by
  obtain ⟨hheld, hkept⟩ := journals_free hf
  simp [State.windowDo, windowBytes, ho, hl, hheld, hkept, hu]

theorem windowDo_atomic {op : PcieAtomic} {d : List Byte} {u : State} (ho : s.ownedIn pa d.length = false)
    (hb : (s.store.poisoned (s.shadowed pa) d.length || s.lost.getLsbD (8 + homeDie pa)) = false)
    (hf : ∀ e < 40, s.storeHeld e pa = false ∧ s.storeKept e pa = false)
    (hu : s.windowWrite pa (pcieBytes op (s.store.bytes (s.shadowed pa) d.length) d) = some u) :
    s.windowDo pa (.atomic op d) = some (u.emit (.hostData (s.store.bytes (s.shadowed pa) d.length) false)) := by
  obtain ⟨hheld, hkept⟩ := journals_free hf
  simp only [State.windowDo, windowBytes, ho, hb, hheld, hkept, hu, Bool.and_false, Bool.or_self, Bool.false_eq_true, if_false, Option.map_some]

end WindowDo

/-! ### Operations that are performed (R162, R221) -/

/-- Whether a piece of an operation is in host memory. -/
def onHost (o : MOp) : Bool := o.pieces.any (fun p => match p.place with | .host _ => true | _ => false)

/-- What the order of an access does as it completes (R220, R404): an acquire discards L1, at sys scope with its point in the journal. -/
def acquireEffect (o : MOp) (v : State) : State :=
  let w := if (o.ord = 1 ∨ o.ord = 3) ∧ 2 ≤ o.scope then v.acquire o.g else v
  if o.sysAcq && !o.noted then w.sysAcquire o.g o.sp else w

section Order

variable {o : MOp}

theorem sysAcq_of_plain (h1 : o.ord ≠ 1) (h3 : o.ord ≠ 3) : o.sysAcq = false := by
  simp [MOp.sysAcq, h1, h3]

theorem sysAcq_of_device (hs : o.scope = 2 ∨ o.scope = 3) : o.sysAcq = false := by
  rcases hs with hs | hs <;> simp [MOp.sysAcq, hs]

theorem acquireEffect_of_plain (h1 : o.ord ≠ 1) (h3 : o.ord ≠ 3) (v : State) : acquireEffect o v = v := by
  simp [acquireEffect, sysAcq_of_plain h1 h3, h1, h3]

theorem acquireEffect_of_device (ho : o.ord = 1 ∨ o.ord = 3) (hs : o.scope = 2 ∨ o.scope = 3) (v : State) : acquireEffect o v = v.acquire o.g := by
  have h2 : 2 ≤ o.scope := by omega
  simp [acquireEffect, sysAcq_of_device hs, ho, h2]

theorem acquireEffect_of_system (ho : o.ord = 1 ∨ o.ord = 3) (hs : o.scope = 4) (hn : o.noted = false) (v : State) :
    acquireEffect o v = (v.acquire o.g).sysAcquire o.g o.sp := by
  have hsys : o.sysAcq = true := by simpa [MOp.sysAcq, hs] using ho
  simp [acquireEffect, hsys, ho, hs, hn]

/-- An acquire at sys scope whose point the journal has already. -/
theorem acquireEffect_of_noted (ho : o.ord = 1 ∨ o.ord = 3) (hs : o.scope = 4) (hn : o.noted = true) (v : State) :
    acquireEffect o v = v.acquire o.g := by
  simp [acquireEffect, ho, hs, hn]

theorem onHost_of_pieces (h : ∀ p ∈ o.pieces, ∀ a, p.place ≠ .host a) : onHost o = false := by
  rw [onHost, List.any_eq_false]
  intro p hp
  split
  · next a ha => exact absurd ha (h p hp a)
  · simp

end Order

section Performed

variable {s u : State} {o : MOp} (hu : s.performAll s.sel.a = u) (ho : u.op? s.sel.a = some o) (hd : u.opDone s.sel.a = true)

include ho in
/-- An operation is found by its number. -/
theorem id_of_op? : o.id = s.sel.a := by
  have := List.find?_some ho
  simpa using this

include hu ho hd in
/-- A load that is performed returns, once no record of its acquire has to wait. -/
theorem exec_loadReturn_done (hk : o.kind ∈ [OpKind.load, .atomic, .cas]) (hh : (o.sysAcq && !o.noted && u.acquireHeld o.g) = false) :
    let v := (u.dropOp o.id).modGroup o.g (fun g => if o.kind.stores && onHost o then (g.fillRegs o).passGwct u.now else g.fillRegs o)
    exec .loadReturn s = .next ((acquireEffect o v).settleClauses o.g) := by
  have hkind : (o.kind == .load || o.kind == .atomic || o.kind == .cas) = true := by
    simpa [or_assoc] using hk
  have hgo : ¬ (!(o.kind == .load || o.kind == .atomic || o.kind == .cas) || !u.opDone s.sel.a ||
      (o.sysAcq && !o.noted && u.acquireHeld o.g)) = true := by
    simp [hkind, hd, hh]
  intro v
  change Host.Outcome.next (s.loadReturn s.sel.a) = _
  simp only [State.loadReturn, hu, ho]
  rw [if_neg hgo, ← id_of_op? ho]
  rfl

include hu ho hd in
/-- A store that is performed is acknowledged, once no record of its acquire has to wait. -/
theorem exec_storeAck_done (hk : o.kind ∈ [OpKind.store, .atomicN, .scalarStore, .bput]) (hh : (o.sysAcq && !o.noted && u.acquireHeld o.g) = false) :
    let v := (u.dropOp o.id).modGroup o.g (fun g => if onHost o then g.passGwct u.now else g)
    exec .storeAck s = .next ((acquireEffect o v).settleClauses o.g) := by
  have hkind : (o.kind == .store || o.kind == .atomicN || o.kind == .scalarStore || o.kind == .bput) = true := by
    simpa [or_assoc] using hk
  have hgo : ¬ (!(o.kind == .store || o.kind == .atomicN || o.kind == .scalarStore || o.kind == .bput) || !u.opDone s.sel.a ||
      (o.sysAcq && !o.noted && u.acquireHeld o.g)) = true := by
    simp [hkind, hd, hh]
  intro v
  change Host.Outcome.next (s.storeAck s.sel.a) = _
  simp only [State.storeAck, hu, ho]
  rw [if_neg hgo, ← id_of_op? ho]
  rfl

end Performed

/-! ### A release that waits for device time (R220, R231) -/

theorem getElem?_withIndex {α : Type} {l : List α} {n : Nat} {x : α} (h : l[n]? = some x) : (withIndex l)[n]? = some (n, x) := by
  have hn : n < l.length := (List.getElem?_eq_some_iff.mp h).1
  rw [withIndex, List.getElem?_zip_eq_some]
  exact ⟨List.getElem?_range hn, h⟩

/-- After a fence that is passed the split issues still. -/
theorem issues_fencePassed {s : State} {r : SplitRef} {g : Group} {sp : Split} (h : Issues s r g sp) (hit : BitVec 12 → Bool) :
    ∃ g' sp', Issues (s.fencePassed r hit) r g' sp' := by
  have hgroup : ∃ g', (s.fencePassed r hit).exec.groups[r.g]? = some g' ∧ ∃ sp', g'.splits[r.sp]? = some sp' := by
    refine ⟨_, (getElem?_modAt ..).trans ((if_pos rfl).trans (congrArg _ h.group)), ?_⟩
    simp only [List.getElem?_map, getElem?_withIndex h.split, Option.map_some]
    exact ⟨_, rfl⟩
  obtain ⟨g', hg, sp', hsp⟩ := hgroup
  exact ⟨g', sp', h.cur, hg, hsp⟩

/-- A FENCE.REL at sys scope whose release holds goes on, with the fence passed. -/
theorem execFenceRel_system {s : State} {r : SplitRef} {g : Group} {sp : Split} (h : Runs s r g sp []) (hi : g.earlierIssued r.sp = true)
    (ha : s.acquiring r.g r.sp = false) (hr : s.released r.g 4 = true) (hp : g.rfault.pend = false) :
    ∃ g' sp', Issues ((s.performedAtGrp r.g).fencePassed r (fun _ => true)) r g' sp' ∧
      execFenceRel 4 s = .next (moved ((s.performedAtGrp r.g).fencePassed r (fun _ => true)) r g' sp' (sp'.pc + 4)) := by
  have hperf : Issues (s.performedAtGrp r.g) r g sp := ⟨h.cur, h.group, h.split⟩
  obtain ⟨g', sp', hpass⟩ := issues_fencePassed hperf (fun _ => true)
  refine ⟨g', sp', hpass, ?_⟩
  change fenceRun s 4 true false false = _
  have hsp : g'.split r.sp = sp' := getD_of_getElem? hpass.split
  rw [fenceRun, scalarRun_of_runs h]
  refine Eq.trans ?_ (congrArg Host.Outcome.next (finish0_eq 4 sp' hpass))
  simp [hi, ha, hr, hp, State.group?, hpass.group, hsp]

theorem ctxOf?_of_inGrid {s : State} {n : Nat} {g : Group} {tm : Team} {cn : Nat} {c : Ctx} (hg : s.exec.groups[n]? = some g)
    (h : InGrid s g tm cn c) : s.ctxOf? n = some (cn, c) := by
  simp [State.ctxOf?, State.group?, State.team?, State.ctx?, hg, h.team, h.of, h.ctx]

/-- GWCT_PASSED at a FENCE.REL executes it. -/
theorem exec_gwctPassed_fenceRel {s : State} {g : Group} {tm : Team} {cn : Nat} {c : Ctx} {sp : Split} {b : List Byte} {x : BitVec 3}
    (hg : s.exec.groups[s.sel.a]? = some g) (hs : g.splits[s.sel.b]? = some sp) (hin : InGrid s g tm cn c) (ht : g.gwct < s.now)
    (hr : s.scalarReady ⟨s.sel.a, s.sel.b⟩ = true) (hst : sp.status = .ready) (hb : s.peek4 c sp.pc = some b)
    (hx : instrOf (wordOf 32 b) 0 = .fenceRel x) : exec .gwctPassed s = execFenceRel x { s with cur := some ⟨s.sel.a, s.sel.b⟩ } := by
  have hsp : g.split s.sel.b = sp := getD_of_getElem? hs
  change execGwctPassed s = _
  simp only [execGwctPassed, State.group?, hg, ctxOf?_of_inGrid hg hin, hsp, hb, Option.map_some, hx]
  exact if_pos ⟨ht, hr, hst⟩

/-! ### The obligation -/

/-- Settles O48: a clause for each request, answer and progress, each by what its meaning answers. -/
theorem peerRequestsAndProgress : Obligations.PeerRequestsAndProgress := by
  intro s
  refine ⟨fun w x => ⟨rfl, rfl, exec_recallLine w x s⟩,
    fun w line h hh hw hl ha hr => ⟨exec_recallAck_only hh hw hl ha hr, fun ht hd => exec_recallTimeout_only hh hw hl ha hr ht hd⟩,
    fun r => ⟨fun t x h => ?_, fun t h => ?_, fun t p h => ?_, fun e he hs => ?_⟩,
    fun r q hq hs => ⟨fun hg => ?_, fun hg => ?_⟩,
    fun q hq ht => exec_remoteTimeout_due hq ht, fun i hi ht => exec_inboundPageTimeout_due hi ht,
    fun off a hi => ⟨exec_hostWindowAccess_outside hi, fun ha hok hb hm hw => ⟨fun ho => ?_, fun n hn ho => ?_, fun d u hd ho hl hf hu => ?_,
      fun op d u hd ho hbad hf hu => ?_⟩⟩,
    fun u o hu ho hd => ⟨fun hk h1 h3 => ?_, fun hk hord hsc => ?_, fun hk hord hsc => ⟨fun hn hh => ?_, fun hn => ?_⟩,
      fun hk h1 h3 hp => ?_⟩,
    fun h hh hr => exec_notimeAck_due hh hr, ?_⟩
  · rw [exec_remoteRequest, execRemoteRequest, h]
  · rw [exec_remoteRequest, execRemoteRequest, h]
  · rw [exec_remoteRequest, execRemoteRequest, h]
    exact ⟨_, rfl, rfl, rfl, rfl⟩
  · rw [exec_remoteRequest, execRemoteRequest, serve_of_preparing he hs]
  · rw [exec_remoteResponse_own hq hs, if_neg (not_not.mpr hg)]
  · rw [exec_remoteResponse_own hq hs, if_pos hg]
  · rw [exec_hostWindowAccess_inside hi ha hok hb hm hw, windowDo_owned ho]
    rfl
  · subst hn
    rw [exec_hostWindowAccess_inside hi ha hok hb hm hw, windowDo_read ho]
    rfl
  · subst hd
    rw [exec_hostWindowAccess_inside hi ha hok hb hm hw, windowDo_write ho hl hf hu]
    rfl
  · subst hd
    rw [exec_hostWindowAccess_inside hi ha hok hb hm hw, windowDo_atomic ho hbad hf hu]
    rfl
  · rw [exec_loadReturn_done hu ho hd hk (by simp [sysAcq_of_plain h1 h3]), acquireEffect_of_plain h1 h3]
    rfl
  · rw [exec_loadReturn_done hu ho hd hk (by simp [sysAcq_of_device hsc]), acquireEffect_of_device hord hsc]
    rfl
  · rw [exec_loadReturn_done hu ho hd hk (by simp [hh]), acquireEffect_of_system hord hsc hn]
    rfl
  · rw [exec_loadReturn_done hu ho hd hk (by simp [hn]), acquireEffect_of_noted hord hsc hn]
    rfl
  · rw [exec_storeAck_done hu ho hd hk (by simp [sysAcq_of_plain h1 h3]), acquireEffect_of_plain h1 h3, onHost_of_pieces hp]
    rfl
  · intro g tm cn c sp b r u hrun hin hi ha hr hp ht hsr hst hb hx
    obtain ⟨g', sp', hpass, hexec⟩ := execFenceRel_system hrun hi ha hr hp
    exact ⟨g', sp', hpass.group, hpass.split, (exec_gwctPassed_fenceRel (s := s) hrun.group hrun.split hin ht hsr hst hb hx).trans hexec⟩

end Sys2Proof.Proofs

/-!
PROOF. What a batch and a chunk leave behind (R162, R234, R243, R265, R410, R419, R424, R430, R431): the queue of a group's batches and its
flags, the commit of the oldest batch, a chunk of a copy, and a peer's refusal of a copy's request; and the obligation assembled from that.
-/

namespace Sys2Proof.Proofs

open Sys2Proof.Machine Sys2Proof.Safety Sys2Proof.Laws

/-! ### A flag at its producer's completion (R162) -/

theorem getLsbD_flagBit {n : Nat} (hn : n < 12) : (BitVec.ofNat 12 (2 ^ n)).getLsbD n = true := by
  rw [BitVec.getLsbD_ofNat, Nat.testBit_two_pow_self, decide_eq_true hn]; rfl

theorem flags_setFlag_same (g : Group) {n : Nat} (hn : n < 12) : (g.setFlag n).flags.getLsbD n = true := by
  rw [Group.setFlag, BitVec.getLsbD_or, getLsbD_flagBit hn, Bool.or_true]

theorem pend_setFlag_same (g : Group) {n : Nat} (hn : n < 12) : (g.setFlag n).pend.getLsbD n = false := by
  rw [Group.setFlag, BitVec.getLsbD_and, BitVec.getLsbD_not, getLsbD_flagBit hn, Bool.not_true, Bool.and_false, Bool.and_false]

/-! ### The queue of batches (R424) -/

/-- Nothing commits by itself while no empty batch is at the head. -/
theorem commitEmpty_of_head {s : State} {g : Nat} {gr : Group} (hg : s.exec.groups[g]? = some gr)
    (hq : gr.batches = [] ∨ ∃ q l, gr.batches = q :: l ∧ q.isEmpty = false) : s.commitEmpty g = s.modGroup g (fun _ => gr) := by
  have hnone : gr.batches.takeWhile Batch.isEmpty = [] ∧ gr.batches.dropWhile Batch.isEmpty = gr.batches := by
    rcases hq with h | ⟨q, l, h, he⟩
    · simp [h]
    · simp [h, he]
  simp only [State.commitEmpty, modGroup_eq _ hg, hnone.1, hnone.2, List.foldl_nil]

/-- A group with a split goes on. -/
theorem settleGroup_of_present {s : State} {g : Nat} {gr : Group} (hg : s.exec.groups[g]? = some gr)
    (hp : ∃ sp ∈ gr.splits, sp.status.present = true) : s.settleGroup g = s := by
  obtain ⟨sp, hm, hs⟩ := hp
  have hall : gr.splits.all (fun sp => !sp.status.present) = false := List.all_eq_false.mpr ⟨sp, hm, by simp [hs]⟩
  simp only [State.settleGroup, State.group?, hg, hall, Bool.and_false, Bool.false_and, Bool.false_eq_true, if_false]

/-! ### Commit (R265, R410, R419) -/

/-- What a group is after a batch whose matrix unit made m: the ACC contents, the exceptions, one batch less and the batch's flag. -/
def committedGroup (gr : Group) (m : MatRun) (b : Batch) (rest : List Batch) : Group :=
  let gr := { gr with acc := m.acc, batches := rest, fxf := gr.fxf ||| m.fl, poison := gr.poison || m.dead }
  match b.flag with
  | some f => gr.setFlag f
  | none => gr

section Committed

variable (gr : Group) (m : MatRun) (b : Batch) (rest : List Batch)

@[simp] theorem acc_committedGroup : (committedGroup gr m b rest).acc = m.acc := by unfold committedGroup; split <;> rfl
@[simp] theorem batches_committedGroup : (committedGroup gr m b rest).batches = rest := by unfold committedGroup; split <;> rfl
@[simp] theorem fxf_committedGroup : (committedGroup gr m b rest).fxf = gr.fxf ||| m.fl := by unfold committedGroup; split <;> rfl
@[simp] theorem vregs_committedGroup : (committedGroup gr m b rest).vregs = gr.vregs := by unfold committedGroup; split <;> rfl
@[simp] theorem sregs_committedGroup : (committedGroup gr m b rest).sregs = gr.sregs := by unfold committedGroup; split <;> rfl
@[simp] theorem splits_committedGroup : (committedGroup gr m b rest).splits = gr.splits := by unfold committedGroup; split <;> rfl

theorem flag_committedGroup {n : Nat} (hf : b.flag = some n) (hn : n < 12) :
    (committedGroup gr m b rest).flags.getLsbD n = true ∧ (committedGroup gr m b rest).pend.getLsbD n = false := by
  simp only [committedGroup, hf]
  exact ⟨flags_setFlag_same _ hn, pend_setFlag_same _ hn⟩

end Committed

section Batch

variable {s : State} {g : Nat} {gr : Group} {tm : Team} {cn : Nat} {c : Ctx} {b : Batch} {rest : List Batch}
variable (hg : s.exec.groups[g]? = some gr) (hin : InGrid s gr tm cn c) (hb : gr.batches = b :: rest) (hc : b.closed = true)
  (hl : gr.live = true)
include hg hin hb hc hl

/-- A residue failure that the retry repeats. -/
theorem exec_batchCommit_residue (hr : s.rasOff 4 = false) :
    exec (.batchCommit g false false) s = .next ((s.countError 4 false (some tm.die)).matPoison g gr tm b 0) := by
  change execBatchCommit g false false s = _
  simp only [execBatchCommit, State.group?, hg, ctxOf?_of_inGrid hg hin, hb, State.team?, hin.team, hc, hl, hr, Bool.and_self, Bool.not_true,
    Bool.or_self, Bool.not_false, Bool.false_eq_true, if_false, if_true]

/-- Poison that the batch reads. -/
theorem exec_batchCommit_spoiled {k : Nat} (hk : s.firstSpoiled g gr [] 0 b.code = some k) :
    exec (.batchCommit g true true) s = .next (s.matPoison g gr tm b k) := by
  change execBatchCommit g true true s = _
  simp only [execBatchCommit, State.group?, hg, ctxOf?_of_inGrid hg hin, hb, State.team?, hin.team, hc, hl, hk, Bool.and_self, Bool.not_true,
    Bool.true_or, Bool.false_eq_true, if_false]

/-- A batch that reads no poison and writes no tile commits whole. -/
theorem exec_batchCommit_clean {m : MatRun} (hk : s.firstSpoiled g gr [] 0 b.code = none)
    (hm : b.code.foldl (matStep { g := gr, tm, lr := c.lr }) { acc := gr.acc, fl := 0, writes := [], dead := false } = m)
    (hw : m.writes = []) (hq : rest = [] ∨ ∃ q l, rest = q :: l ∧ q.isEmpty = false)
    (hp : ∃ sp ∈ gr.splits, sp.status.present = true) :
    ∃ t, exec (.batchCommit g true true) s = .next t ∧ t.exec.groups[g]? = some (committedGroup gr m b rest) := by
  let u : State := ({ s with store := s.store.clearAccs g b.code } : State).modGroup g (fun gr => committedGroup gr m b rest)
  have hu : u.exec.groups[g]? = some (committedGroup gr m b rest) := by
    rw [group_modGroup, if_pos rfl]
    exact congrArg _ hg
  have he : exec (.batchCommit g true true) s = .next ((u.commitEmpty g).settleGroup g) := by
    change execBatchCommit g true true s = _
    simp only [execBatchCommit, State.group?, hg, ctxOf?_of_inGrid hg hin, hb, State.team?, hin.team, hc, hl, hk, hm, hw, Bool.and_self,
      Bool.not_true, Bool.true_or, Bool.false_eq_true, if_false, if_true, List.any_nil, List.foldl_nil]
    rfl
  have hkept : (u.commitEmpty g).exec.groups[g]? = some (committedGroup gr m b rest) := by
    rw [commitEmpty_of_head hu (by simpa using hq), group_modGroup, if_pos rfl, hu]
    rfl
  exact ⟨_, he, by rw [settleGroup_of_present hkept (by simpa using hp)]; exact hkept⟩

end Batch

/-! ### A chunk (R234, R430) -/

section Chunk

variable {s : State} {id k : Nat} {x : Copy}

/-- A chunk that is still to land, of a copy that is not held and writes no other team's tile, is prepared or lands. -/
theorem exec_chunkLand_free (hx : s.copy? id = some x) (ha : x.awaits k = true) (hh : s.copyHeld x = false) (hd : x.dir ≠ .t2t)
    (step : ChunkStep) :
    exec (.chunkLand id k step) s = match step with
      | .ask => .next (s.askChunk x k)
      | .land => .next (((s.moveChunk x k).retryInbound (fun i => i.page == 0)).sigsRetry.putsRetry) := by
  change execChunkLand id k step s = _
  simp only [execChunkLand, hx, ha, hh, Bool.not_true, Bool.or_self, Bool.false_eq_true, if_false]
  split
  · next ht _ => exact absurd ht hd
  · rfl

end Chunk

/-! ### A refusal of a copy's request (R431) -/

/-- A fault stops the copy with COPY_FAULT's reason 6, at an address of its plan, and with the fault as what it names. -/
theorem copyRsp_fault {s : State} {q : Request} {x : Copy} (hx : s.copy? q.op = some x) (reason : Byte) :
    ∃ va, s.copyRsp q (.fault reason) = s.copyFault x 6 va reason.toNat := by
  simp only [State.copyRsp, hx]
  exact ⟨_, rfl⟩

/-- A request of a copy that is answered leaves the outstanding ones, and the answer reaches its copy. -/
theorem answerReq_of_copy (s : State) {q : Request} (hc : q.copy = true) (x : RspResult) :
    s.answerReq q x = ({ s with ops := { s.ops with reqs := s.ops.reqs.filter (fun p => p.id != q.id) } } : State).copyRsp q x := by
  simp only [State.answerReq, hc, if_true]

/-! ### The obligation -/

/-- Settles O51: the oldest batch is refused, stopped by poison, or commits whole; a chunk that is free to move does so; and a peer's refusal
stops its copy. -/
theorem batchesCommitAndChunksLand : Obligations.BatchesCommitAndChunksLand := by
  intro s
  refine ⟨fun g gr tm cn c b rest hg hin hb hc hl => ⟨exec_batchCommit_residue hg hin hb hc hl,
      fun k hk => exec_batchCommit_spoiled hg hin hb hc hl hk, fun hk => ?_⟩,
    fun id k x hx ha hh hd => ⟨exec_chunkLand_free hx ha hh hd .ask, exec_chunkLand_free hx ha hh hd .land⟩,
    fun r q x reason hq hs hc hg hx hr => ?_⟩
  · intro e m hw hrest hp
    obtain ⟨t, ht, hgt⟩ := exec_batchCommit_clean hg hin hb hc hl hk rfl hw hrest hp
    exact ⟨t, _, ht, hgt, acc_committedGroup .., batches_committedGroup .., fxf_committedGroup .., vregs_committedGroup .., sregs_committedGroup ..,
      fun n hf hn => flag_committedGroup _ _ _ _ hf hn⟩
  · rw [exec_remoteResponse_own hq hs, if_neg (not_not.mpr hg), hr, answerReq_of_copy s hc]
    obtain ⟨va, hva⟩ := copyRsp_fault (s := { s with ops := { s.ops with reqs := s.ops.reqs.filter (fun p => p.id != q.id) } }) hx reason
    exact ⟨_, va, congrArg _ hva, rfl, rfl⟩

end Sys2Proof.Proofs

/-!
PROOF. DRAY (R425, R426, R429): the registers it names, what it waits for, and what its issue answers once none of that holds it.
-/

namespace Sys2Proof.Proofs

open Sys2Proof.Machine Sys2Proof.Safety Sys2Proof.Laws

/-- The registers that a DRAY names: SA, and the coordinates of a copy between a tile and memory or else SB. -/
def drayNames (dir : CopyDir) (a b : SReg) : List SReg :=
  a :: (match dir with
    | .m2t | .t2m => ((List.range 5).filter (fun i => b.toNat + i < 64)).map (fun i => BitVec.ofNat 6 (b.toNat + i))
    | _ => [b])

/-- Whether a DRAY waits: for its flag, for the tile that it writes, for a place among the copies of its core, or for its budgets. -/
def drayHeld (s : State) (e : AccEnv) (g : Group) (w : DrayWord) (locked : Bool) : Bool :=
  (w.fv && g.pend.getLsbD w.flag.toNat) || locked || decide (64 ≤ s.coreCopies e.core) || s.etimeFull e.ctx.pent (some e.cn) ||
    s.hbmFull e.ctx.pent (some e.cn)

/-- What every DRAY waits for, whatever it writes. -/
def drayBusy (s : State) (e : AccEnv) (g : Group) (w : DrayWord) : Bool :=
  (w.fv && g.pend.getLsbD w.flag.toNat) || decide (64 ≤ s.coreCopies e.core) || s.etimeFull e.ctx.pent (some e.cn) ||
    s.hbmFull e.ctx.pent (some e.cn)

theorem drayHeld_eq (s : State) (e : AccEnv) (g : Group) (w : DrayWord) (l : Bool) : drayHeld s e g w l = (drayBusy s e g w || l) := by
  simp only [drayHeld, drayBusy, Bool.or_assoc, Bool.or_comm l]

/-- Whether the tile that a T2T writes is an operand of the matrix unit. -/
def t2tLocked (s : State) (e : AccEnv) (sa : W64) : Bool :=
  match s.t2tTeam e.tm sa with
  | some t => s.tileLocked t (t2tTile sa)
  | none => false

/-- Whether the tile that a DRAY writes is an operand of the matrix unit. -/
def drayLocked (s : State) (e : AccEnv) (g : Group) (sa : W64) (tile : BitVec 6) : CopyDir → Bool
  | .m2t => s.tileLocked g.team tile.toNat
  | .t2t => t2tLocked s e sa
  | _ => false

/-- A DRAY with its record, or without one where it cannot be read; or what its record meets. -/
def drayWithRecord (s : State) (r : SplitRef) (g : Group) (sp : Split) (e : AccEnv) (q : DrayAsk) (b : SReg) : State :=
  match (if q.sa.toNat % 128 = 0 then s.readRec e sp.fails q.sa 128 else .bad 7) with
  | .ok u raw used => (u.useLines used).drayStart r g sp e q b (some raw)
  | .poison => s.scalarTrap r sp 13 0 q.sa 0x24
  | .bad _ => s.drayStart r g sp e q b none
  | .wait u => u
  | .absent p => s.deschedule e [p] false 1
  | .follow p => s.awaitFollow e [p] true
  | .lost d => s.endLost e.cn d

/-- A DRAY of the direction dir issues, in a launch that is not dual-run and whose rope has not been switched away. -/
structure DrayIssues (s : State) (r : SplitRef) (g : Group) (sp : Split) (dir : CopyDir) (a b : SReg) (e : AccEnv) : Prop where
  runs : Runs s r g sp (drayNames dir a b)
  env : s.accEnv r.g r.sp = some e
  single : e.ctx.lr.dual = false
  here : e.switched = false

section Dray

variable {s : State} {r : SplitRef} {g : Group} {sp : Split} {dir : CopyDir} {a b : SReg} {e : AccEnv}

/-- What a DRAY answers, in the order of its checks. -/
theorem drayRun_eq (h : DrayIssues s r g sp dir a b e) (tile : BitVec 6) (w : DrayWord) :
    let q : DrayAsk := { dir, tile := tile.toNat, sa := g.sreg a, w }
    drayRun s dir a b tile w = .next (
      if dir = .red ∧ e.ctx.lr.rope = false then s.illegal r sp 0x24
      else if drayHeld s e g w (drayLocked s e g (g.sreg a) tile dir) = true then s
      else if dir ≠ .red ∧ s.entrySpoiled g.team 0 tile.toNat = true then s.scalarTrap r sp 13 0 0 0x24
      else if dir ≠ .red ∧ s.tile? g.team tile.toNat = none then s.scalarTrap r sp 5 5 0 0x24
      else if dir = .t2t then s.drayStart r g sp e q b none
      else drayWithRecord s r g sp e q b) := by
  cases dir
  all_goals
    refine (scalarRun_of_runs h.runs _).trans (congrArg Host.Outcome.next ?_)
    simp only [h.env, h.single, h.here, drayLocked, t2tLocked, drayHeld, drayWithRecord, Bool.or_false, Bool.and_false, Bool.false_and]
    simp <;> rfl

section

variable (h : DrayIssues s r g sp dir a b e) (tile : BitVec 6) (w : DrayWord)
include h

theorem drayRun_of_held (hr : dir = .red → e.ctx.lr.rope = true)
    (hb : drayBusy s e g w = true ∨ drayLocked s e g (g.sreg a) tile dir = true) : drayRun s dir a b tile w = .next s := by
  have hheld : drayHeld s e g w (drayLocked s e g (g.sreg a) tile dir) = true := (drayHeld_eq ..).trans (Bool.or_eq_true_iff.mpr hb)
  rw [drayRun_eq h, if_neg (fun hx => by simp [hr hx.1] at hx), if_pos hheld]

/-- Nothing holds the DRAY. -/
theorem drayRun_of_free (hr : dir = .red → e.ctx.lr.rope = true) (hb : drayBusy s e g w = false)
    (hl : drayLocked s e g (g.sreg a) tile dir = false) :
    let q : DrayAsk := { dir, tile := tile.toNat, sa := g.sreg a, w }
    drayRun s dir a b tile w = .next (
      if dir ≠ .red ∧ s.entrySpoiled g.team 0 tile.toNat = true then s.scalarTrap r sp 13 0 0 0x24
      else if dir ≠ .red ∧ s.tile? g.team tile.toNat = none then s.scalarTrap r sp 5 5 0 0x24
      else if dir = .t2t then s.drayStart r g sp e q b none
      else drayWithRecord s r g sp e q b) := by
  have hheld : drayHeld s e g w (drayLocked s e g (g.sreg a) tile dir) = false := by rw [drayHeld_eq, hb, hl, Bool.or_false]
  intro q
  rw [drayRun_eq h, if_neg (fun hx => by simp [hr hx.1] at hx), if_neg (by simp [hheld])]

end

/-- A tile whose entry is poisoned (R266). -/
theorem drayRun_of_spoilt (h : DrayIssues s r g sp dir a b e) (tile : BitVec 6) (w : DrayWord) (hdir : dir ≠ .red)
    (hb : drayBusy s e g w = false) (hl : drayLocked s e g (g.sreg a) tile dir = false)
    (hs : s.entrySpoiled g.team 0 tile.toNat = true) : drayRun s dir a b tile w = .next (s.scalarTrap r sp 13 0 0 0x24) := by
  rw [drayRun_of_free h tile w (fun hx => absurd hx hdir) hb hl, if_pos ⟨hdir, hs⟩]

/-- A tile that does not exist. -/
theorem drayRun_of_no_tile (h : DrayIssues s r g sp dir a b e) (tile : BitVec 6) (w : DrayWord) (hdir : dir ≠ .red)
    (hb : drayBusy s e g w = false) (hl : drayLocked s e g (g.sreg a) tile dir = false)
    (hs : s.entrySpoiled g.team 0 tile.toNat = false) (ht : s.tile? g.team tile.toNat = none) :
    drayRun s dir a b tile w = .next (s.scalarTrap r sp 5 5 0 0x24) := by
  rw [drayRun_of_free h tile w (fun hx => absurd hx hdir) hb hl, if_neg (by simp [hs]), if_pos ⟨hdir, ht⟩]

/-- The record of an aligned address that is read whole starts the copy (R426). -/
theorem drayWithRecord_of_read {q : DrayAsk} {u : State} {raw : List Byte} {used : List (BitVec 7 × Nat)} (ha : q.sa.toNat % 128 = 0)
    (hrec : s.readRec e sp.fails q.sa 128 = .ok u raw used) :
    drayWithRecord s r g sp e q b = (u.useLines used).drayStart r g sp e q b (some raw) := by
  simp only [drayWithRecord, if_pos ha, hrec]

/-- A DRAY with a layout record. -/
theorem drayRun_of_record (h : DrayIssues s r g sp dir a b e) (tile : BitVec 6) (w : DrayWord) (hdir : dir ≠ .t2t)
    (hr : dir = .red → e.ctx.lr.rope = true) (hb : drayBusy s e g w = false) (hl : drayLocked s e g (g.sreg a) tile dir = false)
    (ht : dir ≠ .red → s.entrySpoiled g.team 0 tile.toNat = false ∧ s.tile? g.team tile.toNat ≠ none) {u : State} {raw : List Byte}
    {used : List (BitVec 7 × Nat)} (ha : (g.sreg a).toNat % 128 = 0) (hrec : s.readRec e sp.fails (g.sreg a) 128 = .ok u raw used) :
    drayRun s dir a b tile w =
      .next ((u.useLines used).drayStart r g sp e { dir, tile := tile.toNat, sa := g.sreg a, w } b (some raw)) := by
  rw [drayRun_of_free h tile w hr hb hl, if_neg (fun hx => by simp [(ht hx.1).1] at hx), if_neg (fun hx => (ht hx.1).2 hx.2), if_neg hdir,
    drayWithRecord_of_read (q := { dir, tile := tile.toNat, sa := g.sreg a, w }) ha hrec]

/-- T2T reads no record. -/
theorem drayRun_t2t (h : DrayIssues s r g sp .t2t a b e) (tile : BitVec 6) (w : DrayWord) (hb : drayBusy s e g w = false)
    (hl : t2tLocked s e (g.sreg a) = false) (hs : s.entrySpoiled g.team 0 tile.toNat = false) (ht : s.tile? g.team tile.toNat ≠ none) :
    drayRun s .t2t a b tile w = .next (s.drayStart r g sp e { dir := .t2t, tile := tile.toNat, sa := g.sreg a, w } b none) := by
  rw [drayRun_of_free h tile w nofun hb hl, if_neg (by simp [hs]), if_neg (fun hx => ht hx.2), if_pos rfl]

/-- RED outside a rope launch is illegal. -/
theorem drayRun_red_outside_rope (h : DrayIssues s r g sp .red a b e) (tile : BitVec 6) (w : DrayWord) (hr : e.ctx.lr.rope = false) :
    drayRun s .red a b tile w = .next (s.illegal r sp 0x24) := by
  rw [drayRun_eq h, if_pos ⟨rfl, hr⟩]

end Dray

/-- Settles O33: each DRAY is `drayRun` of its direction, and each clause is one of its cases. -/
theorem drayStartsItsCopy : Obligations.DrayStartsItsCopy := by
  intro s r g sp a b tile w e he hdual hsw
  have issues {dir : CopyDir} {b : SReg} (hr : Runs s r g sp (drayNames dir a b)) : DrayIssues s r g sp dir a b e := ⟨hr, he, hdual, hsw⟩
  refine ⟨fun hb => ⟨fun hr => ?_, fun hr => ?_, fun hr hrope => ?_⟩, fun hr hl => ?_, fun hr hl => ?_, fun hb hs => ⟨fun hr hl => ?_, fun hr hl => ?_⟩,
    fun hb hs ht => ⟨fun hr hl => ?_, fun hr hl => ?_⟩,
    fun hb hs => ⟨fun u raw used ha hrec => ⟨fun hr ht => ⟨fun hl => ?_, ?_⟩, fun hr hrope => ?_⟩, fun hr ht hl => ?_⟩, fun hr hrope => ?_⟩
  · exact ⟨drayRun_of_held (dir := .m2t) (issues hr) tile w nofun (.inl hb),
      drayRun_of_held (dir := .t2m) (issues hr) tile w nofun (.inl hb)⟩
  · exact drayRun_of_held (dir := .t2t) (issues hr) tile w nofun (.inl hb)
  · exact drayRun_of_held (dir := .red) (issues hr) 0 w (fun _ => hrope) (.inl hb)
  · exact drayRun_of_held (dir := .m2t) (issues hr) tile w nofun (.inr hl)
  · exact drayRun_of_held (dir := .t2t) (issues hr) tile w nofun (.inr hl)
  · exact ⟨drayRun_of_spoilt (dir := .m2t) (issues hr) tile w (by decide) hb hl hs,
      drayRun_of_spoilt (dir := .t2m) (issues hr) tile w (by decide) hb rfl hs⟩
  · exact drayRun_of_spoilt (dir := .t2t) (issues hr) tile w (by decide) hb hl hs
  · exact ⟨drayRun_of_no_tile (dir := .m2t) (issues hr) tile w (by decide) hb hl hs ht,
      drayRun_of_no_tile (dir := .t2m) (issues hr) tile w (by decide) hb rfl hs ht⟩
  · exact drayRun_of_no_tile (dir := .t2t) (issues hr) tile w (by decide) hb hl hs ht
  · exact drayRun_of_record (dir := .m2t) (issues hr) tile w (by decide) nofun hb hl (fun _ => ⟨hs, ht⟩) ha hrec
  · exact drayRun_of_record (dir := .t2m) (issues hr) tile w (by decide) nofun hb rfl (fun _ => ⟨hs, ht⟩) ha hrec
  · exact drayRun_of_record (dir := .red) (issues hr) 0 w (by decide) (fun _ => hrope) hb rfl (fun hx => absurd rfl hx) ha hrec
  · exact drayRun_t2t (issues hr) tile w hb hl hs ht
  · exact drayRun_red_outside_rope (issues hr) 0 w hrope

end Sys2Proof.Proofs

/-!
PROOF. The writes that drive a queue and the fetch of a packet (R53, R54, R57 to R60, R70, R71, R90, R468).
-/

namespace Sys2Proof.Proofs

open Sys2Proof.Machine Sys2Proof.Safety Sys2Proof.Laws

section Writes

variable {s : State} {k : Queue} {q : Nat}

/-- Two changes of a queue that agree on what it is are one. -/
theorem modQueue_congr {f f' : Queue → Queue} (hk : s.host.queues[q]? = some k) (h : f k = f' k) : s.modQueue q f = s.modQueue q f' := by
  simp only [State.modQueue, modAt_eq_set _ hk, h]

theorem queues_modQueue_self (hk : s.host.queues[q]? = some k) (f : Queue → Queue) : (s.modQueue q f).host.queues[q]? = some (f k) := by
  rw [queue_modQueue, if_pos rfl, hk]
  rfl

theorem queue_of_getElem? (hk : s.host.queues[q]? = some k) : s.queue q = k := getD_of_getElem? hk

/-! ### Binding and the doorbell -/

theorem exec_queueBind_unanswered (q : Byte) (bind : W32) (ha : s.answers 0 = false) :
    exec (.queueBind q bind) s = .next (s.emit .unsupported) := by
  change execQueueBind q bind s = _
  simp [execQueueBind, ha]

theorem exec_queueBind_none (q : Byte) (bind : W32) (ha : s.answers 0 = true) (hf : (bind.truncate 16 : W16) = 0xFFFF) :
    exec (.queueBind q bind) s = .next (s.modQueue q.toNat (fun k => { k with func := 0xFFFF, pent := bind.extractLsb' 16 8 })) := by
  change execQueueBind q bind s = _
  simp only [execQueueBind, ha, hf, Bool.not_true, Bool.false_eq_true, if_false, if_true]

/-- A binding to a function and an entry that may have one more queue takes effect (R58). -/
theorem exec_queueBind_of_room {q : Byte} {bind : W32} (hk : s.host.queues[q.toNat]? = some k) (ha : s.answers 0 = true)
    (hfn : (bind.truncate 16 : W16).toNat < 64) (he : (bind.extractLsb' 16 8 : Byte).toNat < 40)
    (hroom : (bind.truncate 16 : W16).toNat ≠ 0 →
      ((List.range 256).filter (fun i => i != q.toNat)).countP (fun i => (s.queue i).func == (bind.truncate 16 : W16)) < 16)
    (hpart : ((List.range 256).filter (fun i => i != q.toNat)).countP
      (fun i => (s.queue i).func != 0xFFFF && (s.queue i).pent == (bind.extractLsb' 16 8 : Byte)) <
        (s.partEnt (bind.extractLsb' 16 8 : Byte).toNat).queues.toNat) :
    ∃ t k', exec (.queueBind q bind) s = .next t ∧ t.host.queues[q.toNat]? = some k' ∧ k'.func = bind.truncate 16 ∧
      k'.pent = bind.extractLsb' 16 8 := by
  have hne : (bind.truncate 16 : W16) ≠ 0xFFFF := fun h => absurd hfn (by rw [h]; decide)
  change ∃ t k', execQueueBind q bind s = _ ∧ _
  rw [execQueueBind]
  simp only [ha, Bool.not_true, Bool.false_eq_true, if_false, if_neg hne]
  rw [if_neg]
  · exact ⟨_, _, rfl, queues_modQueue_self hk _, rfl, rfl⟩
  · simp only [Bool.or_eq_true, decide_eq_true_eq]
    rintro (h | h | ⟨hn, h⟩ | h)
    · exact absurd hfn (Nat.not_lt.mpr h)
    · exact absurd he (Nat.not_lt.mpr h)
    · exact absurd (hroom hn) (Nat.not_lt.mpr h)
    · exact absurd hpart (Nat.not_lt.mpr h)

/-- A doorbell of a function that answers is acted on, or waits behind the accesses of PF0's window (R230). -/
theorem exec_doorbell (q : Byte) (wr : W32) (s : State) : exec (.doorbell q wr) s =
    .next (if s.answers (s.fnOfQueue q.toNat) then s.ringFrom (s.fnOfQueue q.toNat) q wr else s.emit .unsupported) := rfl

theorem ringFrom_of_windowFree {fn : Nat} (q : Byte) (wr : W32) (h : fn ≠ 0 ∨ s.host.window = []) : s.ringFrom fn q wr = s.ring q wr := by
  rw [State.ringFrom, if_neg (by rintro ⟨h0, hw⟩; exact h.elim (· h0) hw)]

theorem ringFrom_of_windowBusy (q : Byte) (wr : W32) (h : s.host.window ≠ []) :
    s.ringFrom 0 q wr = { s with host := { s.host with window := s.host.window ++ [.doorbell q wr] } } := by
  rw [State.ringFrom, if_pos ⟨rfl, h⟩]

/-- R60: only a queue that is enabled, and holds more packets than its ring, has overrun. -/
theorem overrun_of_disabled (h : (s.queue q).enable = false) : s.overrun q = s := by
  simp [State.overrun, h]

theorem overrun_of_held_le (h : (s.queue q).held ≤ 2 ^ (s.queue q).size.toNat) : s.overrun q = s := by
  rw [State.overrun, if_neg]
  simp only [Bool.and_eq_true, decide_eq_true_eq]
  exact fun hx => absurd h (Nat.not_le.mpr hx.2.2.2)

/-- WRIDX of a queue that is not enabled moves, and nothing else happens. -/
theorem ring_of_disabled {q : Byte} (wr : W32) (hk : s.host.queues[q.toNat]? = some k) (h : k.enable = false) :
    s.ring q wr = s.modQueue q.toNat (fun k => { k with wridx := wr, fetchOk := true }) :=
  overrun_of_disabled ((congrArg Queue.enable (queue_of_getElem? (queues_modQueue_self hk _))).trans h)

/-! ### ENABLE and PAUSE -/

theorem queuePage_unanswered (f : Queue → Queue) (ha : s.answers (s.fnOfQueue q) = false) : s.queuePage q f = s.emit .unsupported := by
  simp [State.queuePage, ha]

theorem queuePage_answered (f : Queue → Queue) (ha : s.answers (s.fnOfQueue q) = true) : s.queuePage q f = s.modQueue q f := by
  simp [State.queuePage, ha]

theorem exec_queueSwitches_unanswered (ha : s.answers (s.fnOfQueue s.sel.a) = false) :
    ∀ i ∈ [Instr.queueEnable, .queueDisable, .queuePause, .queueUnpause], exec i s = .next (s.emit .unsupported) := by
  intro i hi
  simp only [List.mem_cons, List.not_mem_nil, or_false] at hi
  rcases hi with rfl | rfl | rfl | rfl <;> exact congrArg Host.Outcome.next (queuePage_unanswered _ ha)

theorem rest_enable (k : Queue) : k.rest.enable = k.enable := by
  unfold Queue.rest
  split <;> rfl

section

variable (hk : s.host.queues[s.sel.a]? = some k) (ha : s.answers (s.fnOfQueue s.sel.a) = true)
include hk ha

/-- ENABLE from 0 to 1 starts a DISABLED queue of a legal size (R59, R71). -/
theorem exec_queueEnable_starts (he : k.enable = false) (hs : k.state = 0) (hp : k.pause = false) (hb : k.barrier = none)
    (hlo : 6 ≤ k.size.toNat) (hhi : k.size.toNat ≤ 16) : exec .queueEnable s = .next (s.modQueue s.sel.a (fun k => { k with
      enable := true, errIdx := 0, errCode := 0, fetchOk := true, overEnd := none, first := k.rdidx, mark := none, state := 1, back := 1 })) := by
  refine congrArg Host.Outcome.next ((queuePage_answered _ ha).trans (modQueue_congr hk ?_))
  simp [he, hs, hp, hb, hlo, hhi]

theorem exec_queueDisable_clears (h : k.state ≠ 5) :
    ∃ t k', exec .queueDisable s = .next t ∧ t.host.queues[s.sel.a]? = some k' ∧ k'.enable = false := by
  refine ⟨_, _, congrArg Host.Outcome.next (queuePage_answered _ ha), queues_modQueue_self hk _, ?_⟩
  rw [if_neg h, rest_enable]

theorem exec_queuePause_holds (h : k.state = 1) :
    exec .queuePause s = .next (s.modQueue s.sel.a (fun k => { k with pause := true, back := 1, state := 4 })) := by
  refine congrArg Host.Outcome.next ((queuePage_answered _ ha).trans (modQueue_congr hk ?_))
  simp [h]

theorem exec_queueUnpause_returns (h : k.state = 4) :
    exec .queueUnpause s = .next (s.modQueue s.sel.a (fun k => { k with pause := false, state := k.back })) := by
  refine congrArg Host.Outcome.next ((queuePage_answered _ ha).trans (modQueue_congr hk ?_))
  simp [h]

end

/-! ### RING_FETCH -/

/-- A queue that may fetch its next packet: enabled, with room, a packet, and an active entry (R60, R468). -/
structure Fetches (s : State) (k : Queue) : Prop where
  enabled : k.enable = true
  runs : k.state = 1 ∨ k.state = 3
  room : k.cur = none
  fetchOk : k.fetchOk = true
  packet : k.rdidx ≠ k.wridx
  active : (s.partEnt k.pent.toNat).state = 1
  held : k.held ≤ 2 ^ k.size.toNat

theorem Fetches.goes (h : Fetches s k) : (k.enable && (k.state == 1 || k.state == 3) && k.cur.isNone && k.fetchOk && k.rdidx != k.wridx &&
    (s.partEnt k.pent.toNat).state == 1) = true := by
  simp [h.enabled, h.runs, h.room, h.fetchOk, h.packet, h.active]

/-- The VA of the packet at RDIDX. -/
def packetVa (k : Queue) : W64 := k.base + 64 * BitVec.ofNat 64 (k.rdidx.toNat % 2 ^ k.size.toNat)

section

variable (hk : s.host.queues[s.sel.a]? = some k) (h : Fetches s k)
include hk h

/-- A packet that is read is taken. -/
theorem exec_ringFetch_takes {b : List Byte} (hr : s.cpRead State.askLine k.pent.toNat s.sel.a k.rdidx 2 (packetVa k) 64 = .ok b) :
    exec .ringFetch s = .next (s.dropFetched.fetchedPacket s.sel.a b) := by
  have hq := queue_of_getElem? hk
  change execRingFetch s = _
  rw [packetVa] at hr
  simp only [execRingFetch, overrun_of_held_le (hq ▸ h.held), hq, h.goes, Bool.not_true, Bool.false_eq_true, if_false, hr]

/-- A read that fails is QUEUE_FAULT, and nothing is fetched until the doorbell rings again. -/
theorem exec_ringFetch_fails {reason : Nat} (hr : s.cpRead State.askLine k.pent.toNat s.sel.a k.rdidx 2 (packetVa k) 64 = .fail reason) :
    exec .ringFetch s = .next ((s.queueError s.sel.a 0 k.rdidx 9 0 0).modQueue s.sel.a (fun k => { k with fetchOk := false })) := by
  have hq := queue_of_getElem? hk
  change execRingFetch s = _
  rw [packetVa] at hr
  simp only [execRingFetch, overrun_of_held_le (hq ▸ h.held), hq, h.goes, Bool.not_true, Bool.false_eq_true, if_false, hr]

end

end Writes

/-! ### The obligation -/

/-- Settles O41: a clause for each write of a queue's registers and for the fetch, each by what its meaning answers. -/
theorem queueRegisterEvents : Obligations.QueueRegisterEvents := by
  intro s k
  refine ⟨fun q bind ha => exec_queueBind_unanswered q bind ha,
    fun q bind hk ha => ⟨exec_queueBind_none q bind ha, fun hfn he hroom hpart => exec_queueBind_of_room hk ha hfn he hroom hpart⟩,
    fun q wr hk => ⟨fun ha => ?_, fun ha hw => ⟨?_, ring_of_disabled wr hk⟩, fun ha hfn hw => ?_⟩, exec_queueSwitches_unanswered,
    fun hk ha => ⟨exec_queueEnable_starts hk ha, exec_queueDisable_clears hk ha, exec_queuePause_holds hk ha, exec_queueUnpause_returns hk ha,
      fun he hs hc hf hp hact hheld => ⟨fun b hr => exec_ringFetch_takes hk ⟨he, hs, hc, hf, hp, hact, hheld⟩ hr,
        fun reason hr => exec_ringFetch_fails hk ⟨he, hs, hc, hf, hp, hact, hheld⟩ hr⟩⟩⟩
  · rw [exec_doorbell, if_neg (by simp [ha])]
  · rw [exec_doorbell, if_pos ha, ringFrom_of_windowFree q wr hw]
  · rw [exec_doorbell, if_pos ha, hfn, ringFrom_of_windowBusy q wr hw]

end Sys2Proof.Proofs

/-!
PROOF. Dispatch (R61 to R69, R91, R93, R109, R254, R468): what each type of packet becomes, and what completes it.
-/

namespace Sys2Proof.Proofs

open Sys2Proof.Machine Sys2Proof.Safety Sys2Proof.Laws

section Packets

variable {s : State} {idx : W32} {b : List Byte}

/-! ### LAUNCH -/

section Launch

variable (hd : s.toDispatch s.sel.a 1 false = some (idx, b))
include hd

theorem exec_launch_misaligned (ha : (pktVa b 8).toNat % 64 ≠ 0) :
    exec .launch s = .next (s.refuseLaunch s.sel.a idx (pktTag b) [] 2 0) := by
  change execLaunch s = _
  simp only [execLaunch, hd, if_pos ha]

/-- A record that cannot be read is refused with FORMAT (R93). -/
theorem exec_launch_unread (ha : (pktVa b 8).toNat % 64 = 0) {reason : Nat}
    (hr : s.cpRead State.askLine (s.queue s.sel.a).pent.toNat s.sel.a idx 3 (pktVa b 8) 256 = .fail reason) :
    exec .launch s = .next (s.dropFetched.refuseLaunch s.sel.a idx (pktTag b) [] 1 0) := by
  change execLaunch s = _
  simp only [execLaunch, hd, if_neg (not_not.mpr ha), hr]

section

variable (ha : (pktVa b 8).toNat % 64 = 0) {raw : List Byte}
  (hr : s.cpRead State.askLine (s.queue s.sel.a).pent.toNat s.sel.a idx 3 (pktVa b 8) 256 = .ok raw)
include ha hr

theorem exec_launch_refused {u : State} {reason : Nat} {arg : Byte} (hc : s.checkRecord s.sel.a idx raw false = .refused u reason arg) :
    exec .launch s = .next (u.refuseLaunch s.sel.a idx (pktTag b) raw reason arg) := by
  change execLaunch s = _
  simp only [execLaunch, hd, if_neg (not_not.mpr ha), hr, hc]

variable {u : State} {l : LaunchRec} {stage : List StagePage} {save : List Nat}
  (hc : s.checkRecord s.sel.a idx raw false = .ok u l stage save)
include hc

/-- A launch whose record has to wait in the journal has no effect (R279). -/
theorem exec_launch_held (hj : s.jrnlHeld (s.queue s.sel.a).pent.toNat l.jrnl = true) : exec .launch s = .next s := by
  have hargs : s.launchArgs s.sel.a idx l = .wait s := by simp only [State.launchArgs, hj, if_true]
  change execLaunch s = _
  simp only [execLaunch, hd, if_neg (not_not.mpr ha), hr, hc, hargs]

theorem exec_launch_dispatched {args : List Byte} (hargs : s.launchArgs s.sel.a idx l = .ok args) : ∃ v cn,
    v = ((u.dispatched s.sel.a { kind := .launch, idx, tag := pktTag b, sig := l.csig } (pktBarrier b)).addCtx
      { newCtx s.sel.a idx (pktTag b) (s.queue s.sel.a).pent.toNat l raw with stage, save }) ∧
    cn = v.2 ∧ exec .launch s = .next (v.1.startJournal cn b raw args none) := by
  refine ⟨_, _, rfl, rfl, ?_⟩
  change execLaunch s = _
  simp only [execLaunch, hd, if_neg (not_not.mpr ha), hr, hc, hargs]

end

end Launch

/-! ### A LAUNCH of an image -/

section Image

variable (hd : s.toDispatch s.sel.a 1 true = some (idx, b))
include hd

theorem exec_launchImage_unread {r : Nat} (hr : s.readImage (s.queue s.sel.a).pent.toNat s.sel.a idx (pktVa b 8) = .fail r) :
    exec .launchImage s = .next (s.dropFetched.refuse s.sel.a idx (pktTag b) 0 2 13 0) := by
  change execLaunchImage s = _
  simp only [execLaunchImage, hd, hr]

theorem exec_launchImage_dispatched {i pl args : List Byte}
    (hr : s.readImage (s.queue s.sel.a).pent.toNat s.sel.a idx (pktVa b 8) = .ok (i, pl))
    (hc : s.dropFetched.checkImage (s.queue s.sel.a).pent.toNat i pl false = none) (hn : fieldAt i 0x24 4 ≠ fieldAt i 0x20 4)
    (hargs : s.launchArgs s.sel.a idx (imgLaunch i) = .ok args) :
    exec .launchImage s = .next ((s.dropFetched.dispatched s.sel.a
      { kind := .launch, idx, tag := pktTag b, sig := pktVa i (fieldAt i 0x28 8 + 0x70) } (pktBarrier b)).addImage s.sel.a idx (pktTag b) i pl b
        args true).1 := by
  change execLaunchImage s = _
  simp only [execLaunchImage, hd, hr, hc, if_neg hn, hargs]

end Image

/-! ### COPY and its completion -/

section Copy

variable (hd : s.toDispatch s.sel.a 2 false = some (idx, b))
include hd

theorem exec_copy_invalid (hbad : fieldAt b 0x18 8 = 0 ∨ 2 ^ 40 < fieldAt b 0x18 8 ∨ (fieldAt b 0x28 1 ≠ 2 ∧ fieldAt b 0x28 1 ≠ 3) ∨
    s.sigOk s.sel.a (pktSig b) = false) : exec .copy s = .next (s.invalidPacket s.sel.a idx b) := by
  change execCopy s = _
  simp only [execCopy, hd, if_pos hbad]

/-- A COPY of a legal length and class becomes a copy (R63, R234). -/
theorem exec_copy_starts (hpos : 0 < fieldAt b 0x18 8) (hmax : fieldAt b 0x18 8 ≤ 2 ^ 40) (hcls : fieldAt b 0x28 1 = 2 ∨ fieldAt b 0x28 1 = 3)
    (hsig : s.sigOk s.sel.a (pktSig b) = true) (hhbm : s.hbmFull (s.queue s.sel.a).pent.toNat none = false)
    (het : s.etimeFull (s.queue s.sel.a).pent.toNat none = false) :
    ∃ t c, exec .copy s = .next t ∧ t.ops.copies = s.ops.copies ++ [c] ∧ c.dir = .mem ∧ c.src = pktVa b 8 ∧ c.dest = pktVa b 0x10 ∧
      c.len = fieldAt b 0x18 8 ∧ c.cls = fieldAt b 0x28 1 ∧ c.pent = (s.queue s.sel.a).pent.toNat ∧ c.queue = s.sel.a ∧ c.idx = idx := by
  have hgood : ¬ (fieldAt b 0x18 8 = 0 ∨ 2 ^ 40 < fieldAt b 0x18 8 ∨ (fieldAt b 0x28 1 ≠ 2 ∧ fieldAt b 0x28 1 ≠ 3) ∨
      s.sigOk s.sel.a (pktSig b) = false) := by
    rintro (h | h | h | h)
    · omega
    · omega
    · omega
    · simp [hsig] at h
  change ∃ t c, execCopy s = _ ∧ _
  simp only [execCopy, hd, if_neg hgood, hhbm, het, Bool.or_self, Bool.false_eq_true, if_false]
  exact ⟨_, _, rfl, rfl, rfl, rfl, rfl, rfl, rfl, rfl, rfl, rfl⟩

end Copy

/-- A copy all of whose chunks have landed, with nothing on its way and no release to wait for, completes (R64). -/
theorem exec_copyComplete_done {c : Copy} (hc : s.copy? s.sel.a = some c) (hdir : c.dir = .mem) (hfly : s.copyFlying c.id none = false)
    (hheld : s.caches.held.any (fun h => h.id == c.id && h.rsp.result == .nack) = false) (hl : s.leasing = false) (hall : c.allLanded = true)
    (hf : c.fault = none) (hp : c.poison = none) {w : Work}
    (hw : (s.queue c.queue).work.find? (fun w => w.idx == c.idx && w.kind == .copy) = some w) :
    exec .copyComplete s = .next ((s.dropCopy c.id).signalEnd c.queue c.idx w.tag w.sig .decrement) := by
  change execCopyComplete s = _
  simp [execCopyComplete, hc, hdir, hfly, hheld, hl, hall, hf, hp, hw]

/-! ### WAIT -/

theorem exec_wait_evaluated (hd : s.toDispatch s.sel.a 3 false = some (idx, b))
    (hsig : [pktVa b 8, pktVa b 0x10, pktVa b 0x18].all (s.sigOk s.sel.a) = true) :
    let w : WaitRec := { idx, tag := pktTag b, sigs := [pktVa b 8, pktVa b 0x10, pktVa b 0x18],
                         deadline := if fieldAt b 0x20 4 = 0 then none else some (s.now + 1000 * fieldAt b 0x20 4) }
    exec .wait s = .next ((s.modQueue s.sel.a (fun k => { k.setEff 2 with cur := none, wait := some w })).waitEval s.sel.a w) := by
  change execWait s = _
  simp only [execWait, hd, hsig, Bool.not_true, Bool.false_eq_true, if_false]

theorem exec_waitPoll_of_wait {w : WaitRec} (hw : (s.queue s.sel.a).wait = some w) : exec .waitPoll s = .next (s.waitEval s.sel.a w) := by
  change execWaitPoll s = _
  simp only [execWaitPoll, hw]

theorem exec_waitTimeout_due {w : WaitRec} {d : Nat} (hw : (s.queue s.sel.a).wait = some w) (hd : w.deadline = some d) (ht : d ≤ s.now) :
    exec .waitTimeout s = .next (s.waitEval s.sel.a w) := by
  change execWaitTimeout s = _
  simp only [execWaitTimeout, hw, hd, if_pos ht]

/-! ### SIGNAL -/

section Signal

variable (hd : s.toDispatch s.sel.a 4 false = some (idx, b))
include hd

theorem exec_signal_invalid (hbad : 1 < fieldAt b 0x18 1 ∨ pktVa b 8 = 0 ∨ s.sigOk s.sel.a (pktVa b 8) = false) :
    exec .signal s = .next (s.invalidPacket s.sel.a idx b) := by
  change execSignal s = _
  simp only [execSignal, hd, if_pos hbad]

theorem exec_signal_acts (hop : fieldAt b 0x18 1 ≤ 1) (hva : pktVa b 8 ≠ 0) (hsig : s.sigOk s.sel.a (pktVa b 8) = true) :
    exec .signal s = .next ((s.dispatched s.sel.a { kind := .signal, idx, tag := pktTag b, sig := pktVa b 8 } (pktBarrier b)).signalEnd s.sel.a
      idx (pktTag b) (pktVa b 8) (if fieldAt b 0x18 1 = 0 then .add (pktVa b 0x10) else .set (pktVa b 0x10))) := by
  have hgood : ¬ (1 < fieldAt b 0x18 1 ∨ pktVa b 8 = 0 ∨ s.sigOk s.sel.a (pktVa b 8) = false) := by
    rintro (h | h | h)
    · omega
    · exact hva h
    · simp [hsig] at h
  change execSignal s = _
  simp only [execSignal, hd, if_neg hgood]

end Signal

/-! ### ROPE -/

section Rope

variable (hd : s.toDispatch s.sel.a 5 false = some (idx, b))
include hd

theorem exec_rope_invalid (hsig : s.sigOk s.sel.a (pktVa b 0x10) = false) : exec .rope s = .next (s.invalidPacket s.sel.a idx b) := by
  change execRope s = _
  simp only [execRope, hd, if_pos hsig]

variable (hsig : s.sigOk s.sel.a (pktVa b 0x10) = true)
include hsig

/-- A record that cannot be read is refused with ROPEREC (R109). -/
theorem exec_rope_unread {reason : Nat} (hr : s.cpRead State.askLine (s.queue s.sel.a).pent.toNat s.sel.a idx 2 (pktVa b 8) 64 = .fail reason) :
    exec .rope s = .next (s.dropFetched.refuse s.sel.a idx (pktTag b) (pktVa b 0x10) 2 12 0) := by
  change execRope s = _
  simp only [execRope, hd, hsig, Bool.true_eq_false, if_false, hr]

section

variable {x : List Byte} (hr : s.cpRead State.askLine (s.queue s.sel.a).pent.toNat s.sel.a idx 2 (pktVa b 8) 64 = .ok x)
  (hlo : 1 ≤ fieldAt x 4 1) (hhi : fieldAt x 4 1 ≤ 128)
include hr hlo hhi

/-- So is one whose RANKMAP cannot be read. -/
theorem exec_rope_mapUnread {reason : Nat}
    (hm : s.cpRead State.askLine (s.queue s.sel.a).pent.toNat s.sel.a idx 3 (pktVa x 8) (fieldAt x 4 1) = .fail reason) :
    exec .rope s = .next (s.dropFetched.refuse s.sel.a idx (pktTag b) (pktVa b 0x10) 2 12 0) := by
  have hcount : ¬ (fieldAt x 4 1 < 1 ∨ 128 < fieldAt x 4 1) := by omega
  change execRope s = _
  simp only [execRope, hd, hsig, Bool.true_eq_false, if_false, hr, if_neg hcount, hm]

/-- All that the action needs is read: ARM goes to the other members, and the preparation begins (R108, R109). -/
theorem exec_rope_prepares {map : List Byte} {u : State} {prep : RopePrep} {img : List Byte}
    (hm : s.cpRead State.askLine (s.queue s.sel.a).pent.toNat s.sel.a idx 3 (pktVa x 8) (fieldAt x 4 1) = .ok map)
    (hbad : s.ropeBad x map none = false) (hread : s.ropeRead s.sel.a idx x = .ok (u, prep, img)) (hbad' : u.ropeBad x map (some img) = false) :
    let rank := (indexOf? map (fun m => m == u.dropFetched.selfSlot.zeroExtend 8)).getD 0
    let a := { ropeActOf x map rank with
      queue := s.sel.a, idx, tag := pktTag b, sig := pktVa b 0x10, pent := (s.queue s.sel.a).pent.toNat }
    exec .rope s = .next (((u.dropFetched.dispatched s.sel.a { kind := .rope, idx, tag := pktTag b, sig := pktVa b 0x10 }
      (pktBarrier b)).sendArms a).ropePrepare a b prep) := by
  have hcount : ¬ (fieldAt x 4 1 < 1 ∨ 128 < fieldAt x 4 1) := by omega
  change execRope s = _
  simp only [execRope, hd, hsig, Bool.true_eq_false, Bool.false_eq_true, if_false, hr, if_neg hcount, hm, hbad, hread, hbad']

end

end Rope

/-! ### STAGE -/

/-- LIFE of a STAGE packet, 0 for the longest. -/
def stageLife (b : List Byte) : Nat := if fieldAt b 0x2C 4 = 0 then 1000000 else fieldAt b 0x2C 4

/-- A STAGE packet whose descriptor has been read in u is dispatched there: its berth is minted, or it waits for a slot. -/
def stageStarts (q : Nat) (idx : W32) (b : List Byte) (u : State) (got : List Byte) (bad : Nat) : State :=
  let w : StageWait := { idx, tag := pktTag b, pkt := b, got, bad, until_ := u.now + 1000 * stageLife b }
  let v := u.dispatched q { kind := .stage, idx, tag := pktTag b, sig := pktSig b } (pktBarrier b)
  (v.stageMint q w).getD (v.modQueue q (fun k => { k with stages := k.stages ++ [w] }))

/-- The minted state, or else the one in which the packet waits. -/
theorem mintOrWait_eq (o : Option State) (u : State) : (match o with | some v => v | none => u) = o.getD u := by
  cases o <;> rfl

theorem stage_legal {q : Nat} (hlife : fieldAt b 0x2C 4 ≤ 1000000) (hsig : s.sigOk q (pktSig b) = true) :
    ¬ (1000000 < fieldAt b 0x2C 4 ∨ s.sigOk q (pktSig b) = false) := by
  simp [Nat.not_lt.mpr hlife, hsig]

section Stage

variable (hd : s.toDispatch s.sel.a 6 false = some (idx, b))
include hd

theorem exec_stagePacket_invalid (hbad : 1000000 < fieldAt b 0x2C 4 ∨ s.sigOk s.sel.a (pktSig b) = false) :
    exec .stagePacket s = .next (s.invalidPacket s.sel.a idx b) := by
  change execStagePacket s = _
  simp only [execStagePacket, hd, if_pos hbad]

section

variable (hlife : fieldAt b 0x2C 4 ≤ 1000000) (hsig : s.sigOk s.sel.a (pktSig b) = true)
include hlife hsig

theorem exec_stagePacket_misaligned (ha : (pktVa b 0x10).toNat % 64 ≠ 0) :
    exec .stagePacket s = .next (stageStarts s.sel.a idx b s [] 7) := by
  change execStagePacket s = _
  simp only [execStagePacket, hd, if_neg (stage_legal hlife hsig), if_pos ha]
  exact congrArg Host.Outcome.next (mintOrWait_eq ..)

variable (ha : (pktVa b 0x10).toNat % 64 = 0)
include ha

theorem exec_stagePacket_read {got : List Byte}
    (hr : s.cpRead State.askLine (s.queue s.sel.a).pent.toNat s.sel.a idx 2 (pktVa b 0x10) 64 = .ok got) :
    exec .stagePacket s = .next (stageStarts s.sel.a idx b s.dropFetched got 0) := by
  change execStagePacket s = _
  simp only [execStagePacket, hd, if_neg (stage_legal hlife hsig), if_neg (not_not.mpr ha), hr]
  exact congrArg Host.Outcome.next (mintOrWait_eq ..)

theorem exec_stagePacket_unread {reason : Nat}
    (hr : s.cpRead State.askLine (s.queue s.sel.a).pent.toNat s.sel.a idx 2 (pktVa b 0x10) 64 = .fail reason) :
    exec .stagePacket s = .next (stageStarts s.sel.a idx b s [] reason) := by
  change execStagePacket s = _
  simp only [execStagePacket, hd, if_neg (stage_legal hlife hsig), if_neg (not_not.mpr ha), hr]
  exact congrArg Host.Outcome.next (mintOrWait_eq ..)

end

end Stage

/-- A slot that is free when a STAGE packet is tried again takes its berth (R63). -/
theorem exec_cpBerthRetry_mints {w : StageWait} (hw : (s.queue s.sel.a).stages.find? (fun w => w.idx.toNat == s.sel.b) = some w)
    (ht : s.now < w.until_) {u : State} (hu : s.stageMint s.sel.a w = some u) :
    exec .cpBerthRetry s = .next (u.modQueue s.sel.a (fun k => { k with stages := k.stages.filter (fun x => x.idx != w.idx) })) := by
  change execCpBerthRetry s = _
  simp only [execCpBerthRetry, hw, if_neg (Nat.not_le.mpr ht), hu]

/-! ### MARK -/

section Mark

variable (hd : s.toDispatch s.sel.a 7 false = some (idx, b))
include hd

theorem exec_mark_misaligned (ha : (pktVa b 8).toNat % 16 ≠ 0) : exec .mark s = .next (s.invalidPacket s.sel.a idx b) := by
  change execMark s = _
  simp only [execMark, hd]
  rw [if_pos (.inl ha)]

/-- MARK at an aligned VA that may be written waits until the work of its queue is done, and then writes its record (R61). -/
theorem exec_mark_of_translated (ha : (pktVa b 8).toNat % 16 = 0)
    (hprot : ∀ n, s.translate none (s.queue s.sel.a).pent.toNat none (pktVa b 8) .atomic ≠ .prot n)
    (hpois : s.translate none (s.queue s.sel.a).pent.toNat none (pktVa b 8) .atomic ≠ .poison) :
    exec .mark s = .next (
      if (s.queue s.sel.a).work ≠ [] then s
      else (s.dispatched s.sel.a { kind := .mark, idx, tag := pktTag b, sig := 0 } true).put
        { queue := s.sel.a, idx, tag := pktTag b, pent := (s.queue s.sel.a).pent.toNat, va := pktVa b 8,
          data := bytesOf 8 (pktVa b 0x10).toNat ++ bytesOf 8 idx.toNat, kind := .mark, req := none }) := by
  change execMark s = _
  simp only [execMark, hd, ha]
  cases ht : s.translate none (s.queue s.sel.a).pent.toNat none (pktVa b 8) .atomic with
  | prot n => exact absurd ht (hprot n)
  | poison => exact absurd ht hpois
  | _ =>
    rw [if_neg (by simp)]
    exact (apply_ite Host.Outcome.next ..).symm

end Mark

end Packets

/-! ### The obligation -/

/-- Settles O42: a clause for each type of packet, each by what its dispatch or its completion answers. -/
theorem packetsAreDispatched : Obligations.PacketsAreDispatched := by
  intro s idx b
  refine ⟨fun hd => ⟨exec_launch_misaligned hd, fun ha reason hr => exec_launch_unread hd ha hr,
      fun ha raw hr => ⟨fun u reason arg hc => exec_launch_refused hd ha hr hc, fun u l stage save hc hj => exec_launch_held hd ha hr hc hj,
        fun u l stage save args hc hargs => exec_launch_dispatched hd ha hr hc hargs⟩⟩,
    fun hd r hr => exec_launchImage_unread hd hr,
    fun hd i pl hr hc hn args hargs => exec_launchImage_dispatched hd hr hc hn hargs,
    fun hd => ⟨exec_copy_invalid hd, exec_copy_starts hd⟩,
    fun hd hsig => exec_wait_evaluated hd hsig,
    fun w hw => ⟨exec_waitPoll_of_wait hw, fun d hd ht => exec_waitTimeout_due hw hd ht⟩,
    fun hd => ⟨exec_signal_invalid hd, exec_signal_acts hd⟩,
    fun hd => ⟨exec_rope_invalid hd, fun reason hsig hr => exec_rope_unread hd hsig hr,
      fun x reason hsig hr hm hlo hhi => exec_rope_mapUnread hd hsig hr hlo hhi hm,
      fun hsig x map u prep img rank hr hlo hhi hm hbad hread hbad' hrank => ?_⟩,
    fun hd hbad => exec_stagePacket_invalid hd hbad,
    fun hd hlife hsig => ⟨exec_stagePacket_misaligned hd hlife hsig, fun got ha hr => exec_stagePacket_read hd hlife hsig ha hr,
      fun reason ha hr => exec_stagePacket_unread hd hlife hsig ha hr⟩,
    fun hd ha => exec_mark_misaligned hd ha,
    fun hd ha hprot hpois => ⟨fun hw => ?_, fun hw => ?_⟩,
    fun c hc hdir hfly hheld hl hall hf hp w hw => exec_copyComplete_done hc hdir hfly hheld hl hall hf hp hw,
    fun w hw ht u hu => exec_cpBerthRetry_mints hw ht hu⟩
  · subst hrank
    exact exec_rope_prepares hd hsig hr hlo hhi hm hbad hread hbad'
  · rw [exec_mark_of_translated hd ha hprot hpois, if_pos hw]
  · rw [exec_mark_of_translated hd ha hprot hpois, if_neg (not_not.mpr hw)]

end Sys2Proof.Proofs

/-!
PROOF. The reset ladder (R82 to R90): requests on a function's reset control page, and the rungs that they start, end and escalate.
-/

namespace Sys2Proof.Proofs

open Sys2Proof.Machine Sys2Proof.Safety Sys2Proof.Laws

section Pages

variable {s : State} {n : Nat} {p : Fn}

theorem fn_of_getElem? (hp : s.host.fns[n]? = some p) : s.fn n = p := getD_of_getElem? hp

/-- Two changes of a function that agree on what it is are one. -/
theorem modFn_congr {f f' : Fn → Fn} (hp : s.host.fns[n]? = some p) (h : f p = f' p) : s.modFn n f = s.modFn n f' := by
  simp only [State.modFn, modAt_eq_set _ hp, h]

theorem modPage_congr {f f' : ResetPage → ResetPage} (hp : s.host.fns[n]? = some p) (h : f p.rpage = f' p.rpage) :
    s.modPage n f = s.modPage n f' :=
  modFn_congr hp (by rw [h])

theorem fns_modPage_self (hp : s.host.fns[n]? = some p) (f : ResetPage → ResetPage) :
    (s.modPage n f).host.fns[n]? = some { p with rpage := f p.rpage } := by
  rw [State.modPage, fn_modFn, if_pos rfl, hp]
  rfl

theorem page_modPage_self (hp : s.host.fns[n]? = some p) (f : ResetPage → ResetPage) : (s.modPage n f).page n = f p.rpage :=
  congrArg Fn.rpage (fn_of_getElem? (fns_modPage_self hp f))

/-- A page that a change leaves as it is. -/
theorem modPage_of_fixed {f : ResetPage → ResetPage} (hp : s.host.fns[n]? = some p) (h : f p.rpage = p.rpage) : s.modPage n f = s := by
  have hset : modAt s.host.fns n (fun x => { x with rpage := f x.rpage }) = s.host.fns := by
    obtain ⟨hlt, hget⟩ := List.getElem?_eq_some_iff.mp hp
    rw [modAt_eq_set _ hp, h, ← hget]
    exact List.set_getElem_self hlt
  simp only [State.modPage, State.modFn, hset]

/-! ### Requests (R85) -/

/-- The page with the registers of a request. -/
def askedPage (s : State) (n : Nat) (r : ResetReq) : State :=
  s.modPage n (fun p => { p with queue := r.queue, pent := r.pent, index := r.index })

/-- A request while another is in progress is answered with RSTAT 5 and changes nothing else. -/
theorem askReset_in_progress (rung : Nat) (r : ResetReq) (flr teardown : Bool) (hp : s.host.fns[n]? = some p)
    (hgo : p.rpage.rctl.getLsbD 0 = true) : s.askReset n rung r flr teardown = s.modPage n (fun p => { p with rstat := 5 }) := by
  have hkept : s.modPage n (fun p => if p.rctl.getLsbD 0 then p else { p with queue := r.queue, pent := r.pent, index := r.index }) = s :=
    modPage_of_fixed hp (if_pos hgo)
  have hpage : (s.page n).rctl.getLsbD 0 = true := by rwa [State.page, fn_of_getElem? hp]
  simp only [State.askReset, hkept, hpage, if_true]

section

variable {rung : Nat} {r : ResetReq} (hp : s.host.fns[n]? = some p) (hgo : p.rpage.rctl.getLsbD 0 = false)
include hp hgo

theorem modPage_asked :
    s.modPage n (fun p => if p.rctl.getLsbD 0 then p else { p with queue := r.queue, pent := r.pent, index := r.index }) = askedPage s n r :=
  modPage_congr hp (if_neg (Bool.eq_false_iff.mp hgo))

theorem rctl_askedPage : ((askedPage s n r).page n).rctl.getLsbD 0 = false := by
  rw [askedPage, page_modPage_self hp]
  exact hgo

/-- A request that fails R85's checks leaves their code in RSTAT, and starts no rung. -/
theorem askReset_refused {code : Nat}
    (hc : (askedPage s n r).resetCheck n rung { r with rsv := r.rsv || p.rpage.rsv != 0 } = some code) : s.askReset n rung r false false =
      (askedPage s n r).modPage n (fun p => { p with rctl := rctlOf rung r &&& 0x30E, rstat := BitVec.ofNat 8 code }) := by
  have hrsv : ((askedPage s n r).page n).rsv = p.rpage.rsv := by rw [askedPage, page_modPage_self hp]
  simp only [State.askReset, modPage_asked hp hgo, rctl_askedPage hp hgo, Bool.false_eq_true, if_false, hrsv, hc]

/-- One that passes them starts its rung, with RSTAT 1. -/
theorem askReset_accepted (hc : (askedPage s n r).resetCheck n rung { r with rsv := r.rsv || p.rpage.rsv != 0 } = none) :
    ∃ (u : State) (x : Rung) (p' : Fn), s.askReset n rung r false false = u.startRung n x ∧ x.rung = rung ∧ x.pent = r.pent ∧
      x.index = r.index ∧ x.replay = r.replay ∧ x.allctx = r.allctx ∧ x.start = s.now ∧ u.host.fns[n]? = some p' ∧ p'.rpage.rstat = 1 ∧
      p'.rpage.rctl = rctlOf rung r ∧ u.exec = s.exec := by
  have hrsv : ((askedPage s n r).page n).rsv = p.rpage.rsv := by rw [askedPage, page_modPage_self hp]
  simp only [State.askReset, modPage_asked hp hgo, rctl_askedPage hp hgo, Bool.false_eq_true, if_false, hrsv, hc]
  exact ⟨_, _, _, rfl, rfl, rfl, rfl, rfl, rfl, rfl, fns_modPage_self (fns_modPage_self hp _) _, rfl, rfl, rfl⟩

end

/-- The requests of a function that a page of a rung takes, each with its rung. -/
def rungRequests (fn : BitVec 6) (r : ResetReq) : List (Nat × Instr) :=
  [(1, .resetQueue fn r), (2, .resetContext fn r), (3, .resetEngine fn r), (4, .resetPartition fn r), (5, .resetDevice fn r)]

/-- Each of them asks its function's page for its rung. -/
theorem exec_rungRequest {fn : BitVec 6} {r : ResetReq} {k : Nat} {i : Instr} (h : (k, i) ∈ rungRequests fn r) (s : State) :
    exec i s = .next (s.pageReset fn k r) := by
  simp only [rungRequests, List.mem_cons, Prod.mk.injEq, List.not_mem_nil, or_false] at h
  rcases h with ⟨rfl, rfl⟩ | ⟨rfl, rfl⟩ | ⟨rfl, rfl⟩ | ⟨rfl, rfl⟩ | ⟨rfl, rfl⟩ <;> rfl

theorem pageReset_unanswered {fn : BitVec 6} (k : Nat) (r : ResetReq) (ha : s.answers fn.toNat = false) :
    s.pageReset fn k r = s.emit .unsupported := by
  simp [State.pageReset, ha]

theorem pageReset_answered {fn : BitVec 6} (k : Nat) (r : ResetReq) (ha : s.answers fn.toNat = true) :
    s.pageReset fn k r = s.askReset fn.toNat k r false false := by
  simp [State.pageReset, ha]

end Pages

section Rungs

variable {s : State} {x : Rung} (hx : (s.page s.sel.a).active = some x)

/-! ### The end of a rung, and the next one (R83) -/

section

include hx

theorem exec_resetComplete_done {u : State} (hd : s.drainAll x = (u, true)) (hr : u.rungDone x = true) (ht : x.teardown = false) :
    exec .resetComplete s = .next ((u.endRung x).pageDone s.sel.a x) := by
  change execResetComplete s = _
  simp only [execResetComplete, hx, hd, hr, ht, Bool.not_true, Bool.or_self, Bool.false_eq_true, if_false]

/-- After the device rung the dies lose their power. -/
theorem exec_rungEscalation_device (hh : x.held = false) (ht : x.start + rungLimit x.rung ≤ s.now) (h5 : x.rung = 5) :
    ∃ t, exec .rungEscalation s = .next t ∧ t.power.on = false := by
  have hdue : ¬ (x.held = true ∨ s.now < x.start + rungLimit x.rung) := by simp [hh, ht]
  change ∃ t, execRungEscalation s = _ ∧ _
  simp only [execRungEscalation, hx, if_neg hdue, if_pos h5]
  exact ⟨_, rfl, rfl⟩

theorem exec_rungEscalation_next (hh : x.held = false) (ht : x.start + rungLimit x.rung ≤ s.now) (h5 : x.rung < 5) :
    ∃ y, exec .rungEscalation s = .next (s.startRung s.sel.a y) ∧ y.rung = x.rung + 1 ∧ y.start = s.now := by
  have hdue : ¬ (x.held = true ∨ s.now < x.start + rungLimit x.rung) := by simp [hh, ht]
  change ∃ y, execRungEscalation s = _ ∧ _
  simp only [execRungEscalation, hx, if_neg hdue, if_neg (Nat.ne_of_lt h5)]
  exact ⟨_, rfl, rfl, rfl⟩

/-- A held partition rung starts once its peers have answered (R50). -/
theorem exec_partitionRungHold_starts (hh : x.held = true) (hw : s.rungWaits x.pent.toNat = false) :
    exec .partitionRungHold s = .next ((s.modPage s.sel.a (fun p =>
      if p.rctl.toNat / 2 % 8 = 4 then { p with acceptT := BitVec.ofNat 64 s.now } else p)).startRung s.sel.a x) := by
  change execPartitionRungHold s = _
  simp only [execPartitionRungHold, hx, hh, hw, and_self, if_true]

end

/-! ### FLR and teardown (R84, R89) -/

theorem exec_functionLevelReset_pf0 (h : s.sel.a = 0) : exec .functionLevelReset s = .next (s.askReset 0 5 (partReq 0) true false) := by
  change execFunctionLevelReset s = _
  simp only [execFunctionLevelReset, h, if_true]

theorem exec_functionLevelReset_vf {e : Nat} (hpos : 0 < s.sel.a) (hlt : s.sel.a < 64) (he : s.entryOf s.sel.a = some e) :
    exec .functionLevelReset s = .next (s.askReset s.sel.a 4 (partReq e) true false) := by
  change execFunctionLevelReset s = _
  simp only [execFunctionLevelReset, if_neg (Nat.ne_of_gt hpos), if_neg (Nat.not_le.mpr hlt), he]

/-- The one function that goes when NumVFs falls by one. -/
theorem filter_gone_one {k : Nat} (h : k + 1 < 64) : (List.range 64).filter (fun f => decide (k < f ∧ f ≤ k + 1)) = [k + 1] := by
  have heq : (fun f => decide (k < f ∧ f ≤ k + 1)) = (· == k + 1) := by
    funext f
    rw [Bool.eq_iff_iff, decide_eq_true_eq, beq_iff_eq]
    omega
  rw [heq, List.filter_beq, List.count_eq_one_of_mem List.nodup_range (List.mem_range.mpr h)]
  rfl

/-- A function that is gone, and to which no entry is bound, is unbound with its queues (R89). -/
theorem exec_vfTeardown_one (hn : s.host.numVfs = s.sel.a + 1) (hlt : s.sel.a + 1 < 64) (he : s.entryOf (s.sel.a + 1) = none) :
    exec .vfTeardown s = .next (({ s with host := { s.host with numVfs := s.sel.a } } : State).unbindFn (s.sel.a + 1)) := by
  have he' : ({ s with host := { s.host with numVfs := s.sel.a } } : State).entryOf (s.sel.a + 1) = none := he
  change execVfTeardown s = _
  simp only [execVfTeardown, hn, filter_gone_one hlt, if_neg (Nat.not_succ_le_self _), List.foldl_cons, List.foldl_nil, he']

end Rungs

/-! ### The obligation -/

/-- Settles O44: a clause for each request and each event of the ladder, each by what its meaning answers. -/
theorem resetRequestsAndRungs : Obligations.ResetRequestsAndRungs := by
  intro s fn r
  refine ⟨fun k i hi ha => ?_, fun k i p hi ha hp => ⟨fun hgo => ?_, fun hgo => ⟨fun code hc => ?_, fun hc => ?_⟩⟩,
    fun x hx => ⟨fun u hd hr ht => exec_resetComplete_done hx hd hr ht,
      fun hh ht => ⟨exec_rungEscalation_device hx hh ht, exec_rungEscalation_next hx hh ht⟩, exec_partitionRungHold_starts hx⟩,
    exec_functionLevelReset_pf0, fun e hpos hlt he => exec_functionLevelReset_vf hpos hlt he, fun k hk hlt h64 hn he => ?_⟩
  · rw [exec_rungRequest hi, pageReset_unanswered k r ha]
  · rw [exec_rungRequest hi, pageReset_answered k r ha, askReset_in_progress k r false false hp hgo]
  · rw [exec_rungRequest hi, pageReset_answered k r ha, askReset_refused hp hgo hc]
    rfl
  · rw [exec_rungRequest hi, pageReset_answered k r ha]
    obtain ⟨u, x, p', hu, hx⟩ := askReset_accepted hp hgo hc
    exact ⟨u, x, p', congrArg Host.Outcome.next hu, hx⟩
  · subst hk
    exact exec_vfTeardown_one hn (hn ▸ h64) he

end Sys2Proof.Proofs

/-!
PROOF. Serialisation, following pages, snapshots and registrations (R120 to R125, R134, R138, R141, R145 to R148).
-/

namespace Sys2Proof.Proofs

open Sys2Proof.Machine Sys2Proof.Safety Sys2Proof.Laws

/-! ### SERIALISE (R121) -/

section Serialise

/-- The state in which a function's context control page has taken CTL. -/
def serAsked (s : State) (fn : BitVec 6) (ctl : W32) : State := s.modFn fn.toNat (fun x => { x with ser := { x.ser with ctl := ctl &&& 3 } })

variable {s : State} {fn : BitVec 6} {ctl : W32} {f : Fn} (hf : s.host.fns[fn.toNat]? = some f) (hctl : ctl.getLsbD 0 = true)
include hf hctl

/-- One in progress is answered with RESULT 4. -/
theorem exec_serialise_in_progress (hgo : f.ser.ctl.getLsbD 0 = true) :
    exec (.serialise fn ctl) s = .next (s.modFn fn.toNat (fun x => { x with ser := { x.ser with result := 4 } })) := by
  change execSerialise fn ctl s = _
  simp only [execSerialise, fn_of_getElem? hf, hctl, hgo, Bool.not_true, Bool.false_eq_true, if_false, if_true]

variable (hgo : f.ser.ctl.getLsbD 0 = false)
include hgo

/-- A name that no context has is answered with RESULT 1. -/
theorem exec_serialise_unknown (hn : (serAsked s fn ctl).ctxNamed fn.toNat f.ser.queue f.ser.index = none) :
    ∃ c, exec (.serialise fn ctl) s = .next ((serAsked s fn ctl).serAnswer fn.toNat c 1) := by
  rw [serAsked] at hn
  change ∃ c, execSerialise fn ctl s = _
  simp only [execSerialise, fn_of_getElem? hf, hctl, hgo, Bool.not_true, Bool.false_eq_true, if_false, hn]
  exact ⟨_, rfl⟩

section

variable {cn : Nat} {c : Ctx} (hn : (serAsked s fn ctl).ctxNamed fn.toNat f.ser.queue f.ser.index = some (cn, c))
include hn

theorem exec_serialise_twice (hs : c.ser ≠ none) :
    exec (.serialise fn ctl) s = .next ((serAsked s fn ctl).serAnswer fn.toNat c 4) := by
  rw [serAsked] at hn
  change execSerialise fn ctl s = _
  simp only [execSerialise, fn_of_getElem? hf, hctl, hgo, Bool.not_true, Bool.false_eq_true, if_false, hn, Option.isSome_iff_ne_none.mpr hs,
    if_true]
  rfl

/-- A serialisation starts, with a drain of DRAIN µs (R122). -/
theorem exec_serialise_starts (hs : c.ser = none) : ∃ z, exec (.serialise fn ctl) s = .next ((serAsked s fn ctl).startSerial cn z) ∧
    z.asker = some fn.toNat ∧ z.keep = ctl.getLsbD 1 ∧ z.start = s.now ∧
    z.drainTo = s.now + 1000 * (if f.ser.drain = 0 then 20 else min 1000 f.ser.drain.toNat) := by
  rw [serAsked] at hn
  change ∃ z, execSerialise fn ctl s = _ ∧ _
  simp only [execSerialise, fn_of_getElem? hf, hctl, hgo, Bool.not_true, Bool.false_eq_true, if_false, hn, hs, Option.isSome_none]
  exact ⟨_, rfl, rfl, rfl, rfl, rfl⟩

end

end Serialise

/-! ### The drain and the seal (R122) -/

section Seal

variable {s : State} {c : Ctx} {z : Serial} (hc : s.exec.ctxs[s.sel.a]? = some c) (hz : c.ser = some z)
include hc hz

theorem exec_copyDrainExpiry_due (ht : z.drainTo ≤ s.now) : ∃ t c', exec .copyDrainExpiry s = .next t ∧
    t.exec.ctxs[s.sel.a]? = some c' ∧ c'.ser = some { z with drained := true } := by
  refine ⟨_, _, rfl, (ctx_modCtx ..).trans ((if_pos rfl).trans (congrArg _ hc)), ?_⟩
  simp only [hz, Option.map_some, if_pos ht]

variable (hcan : s.canSeal s.sel.a c z = true)
include hcan

/-- A seal that meets poison ends the context (R266). -/
theorem exec_serialiseSeal_spoiled {g : Nat} (hg : s.spoiledGroup (s.groupsOf s.sel.a) = some g) :
    exec .serialiseSeal s = .next (s.endSpoiled g) := by
  have hctx : s.ctx? s.sel.a = some c := hc
  change execSerialiseSeal s = _
  simp only [execSerialiseSeal, hctx, hz, hcan, Bool.true_eq_false, if_false, hg]

variable (hg : s.spoiledGroup (s.groupsOf s.sel.a) = none) (hsnap : z.snap = none) (hrope : z.rope = false) {va : W64} {size : Option Nat}
  (harea : s.imageArea s.sel.a z = some (va, size)) (hphase : z.phase = 0)
include hg hsnap hrope harea hphase

/-- An area that is not aligned, or too small, is answered with RESULT 2. -/
theorem exec_serialiseSeal_small
    (hbad : va.toNat % 65536 ≠ 0 ∨ ∃ n, size = some n ∧ n < (s.imageOf s.sel.a c false true).bytes.length) :
    exec .serialiseSeal s = .next (s.abandonSerial s.sel.a c z 2) := by
  have hctx : s.ctx? s.sel.a = some c := hc
  change execSerialiseSeal s = _
  simp only [execSerialiseSeal, hctx, hz, hcan, Bool.true_eq_false, Bool.false_eq_true, Bool.false_and, if_false, if_true, hg, hsnap, hrope,
    harea, hphase]
  rw [if_pos]
  rcases hbad with h | ⟨n, rfl, h⟩
  · exact .inl h
  · exact .inr (decide_eq_true h)

/-- A good area takes the image as the budget admits, and then its header. -/
theorem exec_serialiseSeal_writes (halign : va.toNat % 65536 = 0)
    (hroom : ∀ n, size = some n → (s.imageOf s.sel.a c false true).bytes.length ≤ n) {v : State} {all : Bool}
    (hw : s.work 4 (s.imageOf s.sel.a c false true).bytes.length = (v, all)) :
    let img := s.imageOf s.sel.a c false true
    exec .serialiseSeal s = .next (if all then ((v.modCtx s.sel.a (fun c => { c with ser := some { z with phase := 1, hdr := img.header } })).put
      { queue := c.queue, idx := c.index, tag := c.tag, pent := c.pent, va := va + 256, data := img.body, kind := .image s.sel.a,
        req := none }).sealOn s.sel.a va img.slots 3 else v) := by
  have hctx : s.ctx? s.sel.a = some c := hc
  intro img
  change execSerialiseSeal s = _
  simp only [execSerialiseSeal, hctx, hz, hcan, Bool.true_eq_false, Bool.false_eq_true, Bool.false_and, if_false, if_true, hg, hsnap, hrope,
    harea, hphase, hw]
  rw [if_neg]
  · cases all <;> rfl
  · rintro (h | h)
    · exact h halign
    · cases size with
      | none => cases h
      | some n => exact absurd (hroom n rfl) (Nat.not_le.mpr (of_decide_eq_true h))

end Seal

/-! ### Snapshots (R147, R148) -/

theorem exec_snapshotDrained_sealed {s : State} (he : s.sel.a < 40) (hs : (s.snap s.sel.a).status = 1) (hl : s.snapLive s.sel.a = []) :
    exec .snapshotDrained s = .next (s.snapDrain s.sel.a) := by
  change execSnapshotDrained s = _
  simp [execSnapshotDrained, State.snapSealed, Nat.not_le.mpr he, hs, hl]

theorem exec_snapshotDrained_begins {s : State} (he : s.sel.a < 40) (hs : (s.snap s.sel.a).status = 2) (hf : (s.snap s.sel.a).failed = false)
    (hb : (s.snap s.sel.a).begun = false) : exec .snapshotDrained s = .next (s.snapImages s.sel.a) := by
  change execSnapshotDrained s = _
  simp [execSnapshotDrained, Nat.not_le.mpr he, hs, hf, hb]

/-! ### Following pages (R141) -/

section Following

variable {s : State} {f : FollowPage}

theorem exec_followingPull_asks {v : State} {all : Bool}
    (hf : leastBy (fun (f : FollowPage) => f.va.toNat) (s.store.follow.filter (fun f => f.pent == s.sel.a && f.state == 0)) = some f)
    (hw : s.work 0 65536 = (v, all)) : exec .followingPull s = .next (if all then v.startFollow s.sel.a f.va else v) := by
  change execFollowingPull s = _
  simp only [execFollowingPull, hf, hw]

variable {e : Nat} {va : W64} (hf : s.store.follow.find? (fun f => f.pent == e && f.va == va && f.state == 1) = some f)
include hf

theorem exec_followingFetch_failed (reason : Byte) : exec (.followingFetch e va (.failed reason)) s = .next (s.followFail f reason) := by
  change execFollowingFetch e va (.failed reason) s = _
  simp only [execFollowingFetch, hf]

/-- A page whose bytes are there becomes resident in a free frame of its tier. -/
theorem exec_followingFetch_page {bytes : List (Nat × Byte)} {d : List Byte} {fr : Nat} {w : W64} {lv : Nat} {entry : Nat} (ht : f.tier = 0)
    (hd : s.originBytes f bytes = .ok d) (hfr : s.freeFrame 0 = some fr) (hw : s.walk e va.toNat = .leaf w lv entry) (hres : lfRes w = false) :
    ∃ u : State, exec (.followingFetch e va (.page bytes)) s = .next (((u.devWrite entry (bytesOf 8 (bareLeaf f.leaf ||| 0x8401 |||
        BitVec.ofNat 64 (65536 * fr)).toNat)).wakePage e va).settleFollow f.ctx) ∧ u.exec = s.exec ∧
      u.store.dram = ((s.store.takeFrame fr (lfKey f.leaf)).putBytes false (65536 * fr) d).dram := by
  have htier : (if f.tier = 1 ∧ Config.capSize s.part ≠ 0 then 1 else 0) = 0 := if_neg (by simp [ht])
  change ∃ u : State, execFollowingFetch e va (.page bytes) s = _ ∧ _
  simp only [execFollowingFetch, hf, hd, htier, hfr, hw, hres, Bool.false_eq_true, if_false, Nat.mul_zero, Nat.add_zero]
  exact ⟨_, rfl, rfl, rfl⟩

end Following

/-! ### FORWARDING_REGISTRATION (R138) -/

/-- Every berth of a slot is what a change makes of it. -/
theorem slots_modBerth_const {s : State} {bd slot : Nat} {b x : Berth} (hx : x ∈ (s.modBerth bd slot (fun _ => b)).berths.slots)
    (hbd : x.bd = bd) (hslot : x.slot = slot) : x = b := by
  obtain ⟨y, -, hy⟩ := List.mem_map.mp hx
  by_cases hat : y.bd = bd ∧ y.slot = slot
  · exact hy.symm.trans (if_pos hat)
  · rw [if_neg hat] at hy
    subst hy
    exact absurd ⟨hbd, hslot⟩ hat

theorem exec_forwardingRegistration_unresolved {s : State} {r : Registration} {b : Berth} (hb : s.named r.name = some b)
    (hs : b.state ≠ .resolved) : ∃ t, exec (.forwardingRegistration r) s = .next t ∧
      ∀ x ∈ t.berths.slots, x.bd = b.bd → x.slot = b.slot → x.loc = .forwarding r.slot := by
  change ∃ t, execForwardingRegistration r s = _ ∧ _
  simp only [execForwardingRegistration, hb, if_neg hs]
  refine ⟨_, rfl, fun x hx hbd hslot => ?_⟩
  rw [slots_modBerth_const hx hbd hslot]

/-! ### The obligation -/

/-- Settles O47: a clause for each request and each event, each by what its meaning answers. -/
theorem serialisationAndFollowingEvents : Obligations.SerialisationAndFollowingEvents := by
  intro s
  exact ⟨fun fn ctl f hf hctl => ⟨exec_serialise_in_progress hf hctl,
      fun hgo cn c hn => ⟨exec_serialise_twice hf hctl hgo hn, exec_serialise_starts hf hctl hgo hn⟩, exec_serialise_unknown hf hctl⟩,
    fun c z hc hz ht => exec_copyDrainExpiry_due hc hz ht,
    fun c z va size hc hz hcan hsnap hrope harea hphase => ⟨fun g => exec_serialiseSeal_spoiled hc hz hcan,
      fun hg => exec_serialiseSeal_small hc hz hcan hg hsnap hrope harea hphase,
      fun hg halign hroom v all => exec_serialiseSeal_writes hc hz hcan hg hsnap hrope harea hphase halign hroom⟩,
    exec_snapshotDrained_sealed, exec_snapshotDrained_begins,
    fun f v all hf hw => exec_followingPull_asks hf hw,
    fun e va f reason hf => exec_followingFetch_failed hf reason,
    fun e va f bytes d fr w lv entry hf ht hd hfr hw hres => exec_followingFetch_page hf ht hd hfr hw hres,
    fun r b hb hs => exec_forwardingRegistration_unresolved hb hs⟩

end Sys2Proof.Proofs

/-!
PROOF. Management (R72, R79, R262 to R276): the level of health, scrubbing, firmware, lost dies, command processors, attestation.
-/

namespace Sys2Proof.Proofs

open Sys2Proof.Machine Sys2Proof.Safety Sys2Proof.Laws

/-! ### The level (R271) -/

theorem nextRisk_rises {level below found : Nat} (h : level ≤ found) : (nextRisk level below found).1 = found := by
  rw [nextRisk, if_pos h]

/-- The reading of the sensors, with the level and its inputs, as the controller keeps it. -/
def riskRead (s : State) (m : Sensors) : State :=
  let r := nextRisk s.mgmt.risk s.mgmt.below ((s.sublevels m).foldl max 0)
  { s with mgmt := { s.mgmt with
    risk := r.1, below := r.2, sub := s.sublevels m, ran := some s.now, restart := none, sensors := some m } }

section Risk

variable {s : State} (m : Sensors) (hran : s.mgmt.ran = none) (hre : s.restarting = false)
include hran hre

theorem exec_riskCompute_level_kept (h : (nextRisk s.mgmt.risk s.mgmt.below ((s.sublevels m).foldl max 0)).1 = s.mgmt.risk) :
    exec (.riskCompute m) s = .next (riskRead s m) := by
  change execRiskCompute m s = _
  simp only [execRiskCompute, hran, hre, Bool.not_true, Bool.or_self, Bool.false_eq_true, if_false, if_pos h]
  rfl

/-- A change of the level is a health event, and snapshots take note of a rise (R146, R272). -/
theorem exec_riskCompute_level_changed (h : (nextRisk s.mgmt.risk s.mgmt.below ((s.sublevels m).foldl max 0)).1 ≠ s.mgmt.risk) :
    let sub := s.sublevels m
    let now := nextRisk s.mgmt.risk s.mgmt.below (sub.foldl max 0)
    exec (.riskCompute m) s = .next ((List.range 40).foldl (fun (v : State) e => v.riskRise s.mgmt.risk now.1 e)
      ((riskRead s m).event 0 5 0xFF 0 (bytesOf 8 s.now ++ [BitVec.ofNat 8 now.1, BitVec.ofNat 8 s.mgmt.risk,
        BitVec.ofNat 8 (maskOf ((withIndex sub).filter (fun p => p.2 == now.1) |>.map (·.1)))] ++ List.replicate 5 0 ++
        sub.map (BitVec.ofNat 8) ++ List.replicate 24 0))) := by
  intro sub now
  change execRiskCompute m s = _
  simp only [execRiskCompute, hran, hre, Bool.not_true, Bool.or_self, Bool.false_eq_true, if_false, if_neg h]
  rfl

end Risk

/-! ### SCRUB (R263, R264) -/

section Scrub

variable {s : State} {loc : PoisonLoc}

/-- The state in which a scrub of a place has been charged (R79). -/
def scrubbed (s : State) (loc : PoisonLoc) : State := s.chargeAct 2 (match loc with | .sector _ => 32 | _ => 0)

/-- A scrub that may go on looks at its place. -/
theorem exec_scrub_of_held (hh : s.holds loc = true) (hu : s.mayUnit 2 = true) (hr : s.rasOff (poisonClass loc) = false) (found : ScrubFinding) :
    exec (.scrub loc found) s = .next (match found with
      | .clean => scrubbed s loc
      | .corrected => (scrubbed s loc).countError (poisonClass loc) true ((scrubbed s loc).dieOf loc) (s.inMsc loc)
      | .uncorrectable => if poisonClass loc = 2 then (scrubbed s loc).poison loc
        else ((scrubbed s loc).poison loc).countError (poisonClass loc) false ((scrubbed s loc).dieOf loc) (s.inMsc loc)) := by
  change execScrub loc found s = _
  simp only [execScrub, hh, hu, hr, Bool.not_true, Bool.or_self, Bool.false_eq_true, if_false]
  cases found <;> rfl

end Scrub

/-! ### Firmware (R273, R274) -/

/-- An update that does not verify, or is too old, is only logged. -/
theorem exec_firmwareUpdate_refused {s : State} {u : FwUpdate}
    (h : u.sigOk = false ∨ u.secVer < (s.mgmt.fw.getD (fwIndex u.comp) Firmware.reset).minVer) :
    ∃ t, exec (.firmwareUpdate u) s = .next t ∧ t.mgmt.fw = s.mgmt.fw := by
  have hbad : (!u.sigOk || decide (u.secVer < (s.mgmt.fw.getD (fwIndex u.comp) Firmware.reset).minVer)) = true := by
    rwa [Bool.or_eq_true, Bool.not_eq_true', decide_eq_true_eq]
  change ∃ t, execFirmwareUpdate u s = _ ∧ _
  simp only [execFirmwareUpdate, hbad, if_true]
  exact ⟨_, rfl, rfl⟩

/-- The bank that is not active takes an update, and the component is staged. -/
def fwTaken (f : Firmware) (u : FwUpdate) : Firmware :=
  if f.active then { f with vers := (u.secVer, f.vers.2), digs := (u.digest, f.digs.2), staged := true }
  else { f with vers := (f.vers.1, u.secVer), digs := (f.digs.1, u.digest), staged := true }

theorem exec_firmwareUpdate_taken {s : State} {u : FwUpdate} {f : Firmware} (hf : s.mgmt.fw[fwIndex u.comp]? = some f) (hs : u.sigOk = true)
    (hv : f.minVer ≤ u.secVer) : ∃ t, exec (.firmwareUpdate u) s = .next t ∧ t.mgmt.fw[fwIndex u.comp]? = some (fwTaken f u) := by
  have hd : s.mgmt.fw.getD (fwIndex u.comp) Firmware.reset = f := getD_of_getElem? hf
  have hgood : (!u.sigOk || decide (u.secVer < f.minVer)) = false := by simp [hs, hv]
  change ∃ t, execFirmwareUpdate u s = _ ∧ _
  simp only [execFirmwareUpdate, hd, hgood, Bool.false_eq_true, if_false]
  exact ⟨_, rfl, (getElem?_modAt ..).trans ((if_pos rfl).trans (congrArg _ hf))⟩

section Taken

variable {f : Firmware} (u : FwUpdate)

theorem active_taken : (fwTaken f u).active = f.active := by
  unfold fwTaken
  split <;> rfl

theorem staged_taken : (fwTaken f u).staged = true := by
  unfold fwTaken
  split <;> rfl

end Taken

/-- The activation of a component changes the controller alone. -/
theorem activate_rest (s : State) (bad i : Nat) : ∃ m, s.activate bad i = { s with mgmt := m } := by
  unfold State.activate
  dsimp only
  split
  · exact ⟨s.mgmt, rfl⟩
  · exact ⟨_, rfl⟩

/-- A restart of the controller leaves the dies, memory and the contexts alone. -/
theorem exec_controllerRestart_frame (s : State) : ∃ t, exec .controllerRestart s = .next t ∧ t.exec = s.exec ∧ t.store = s.store ∧
    t.power = s.power ∧ t.host = s.host ∧ (s.sel.a ≠ 1 → t.mgmt.restart = some s.now) ∧ (s.sel.a = 1 → t.mgmt.restart = none) := by
  change ∃ t, execControllerRestart s = _ ∧ _
  rw [execControllerRestart]
  split
  · next h => exact ⟨_, rfl, rfl, rfl, rfl, rfl, fun hn => absurd h hn, fun _ => rfl⟩
  · next h =>
    obtain ⟨m, hm⟩ := activate_rest s s.sel.c 0
    simp only [hm]
    exact ⟨_, rfl, rfl, rfl, rfl, rfl, fun _ => rfl, fun h1 => absurd h1 h⟩

/-! ### Lost dies and command processors (R264, R267, R268) -/

/-- Without contexts no context answers a description. -/
theorem ctxIs_of_no_ctx {s : State} {p : Ctx → Bool} (h : s.exec.ctxs = []) : s.ctxIs p = [] := by
  rw [State.ctxIs, h]
  rfl

/-- The state in which the loss of a compute die is marked and logged. -/
def dieMarked (s : State) (b : Nat) : State :=
  ({ s with lost := s.lost ||| BitVec.ofNat 12 (2 ^ b), sites := modAt s.sites b (fun _ => 0) } : State).log logDieLost (BitVec.ofNat 64 b)

/-- A compute die that is lost is marked so, and its sites leave the device. -/
theorem loseDie_of_no_ctx {s : State} {b : Nat} (hb : b < Config.computeDies s.part) (h8 : b < 8) (hl : s.lost.getLsbD b = false)
    (hc : s.exec.ctxs = []) : (s.loseDie b).lost = s.lost ||| BitVec.ofNat 12 (2 ^ b) ∧
      (s.loseDie b).sites = modAt s.sites b (fun _ => 0) ∧ (s.loseDie b).exec = s.exec ∧ (s.loseDie b).store = s.store := by
  have hhere : s.dieHere b = true := by simp [State.dieHere, h8, hb, hl]
  have hnone : (dieMarked s b).ctxIs (fun c => c.touched.getLsbD b) = [] := ctxIs_of_no_ctx hc
  have hlose : s.loseDie b = dieMarked s b := by
    simp only [State.loseDie, hhere, Bool.not_true, Bool.false_eq_true, if_false, if_pos h8]
    exact congrArg (List.foldl (fun (t : State) cn => t.endLostDie cn b) (dieMarked s b)) hnone
  rw [hlose]
  exact ⟨rfl, rfl, rfl, rfl⟩

/-- A die that missed three heartbeats is lost. -/
theorem exec_dieLost_heartbeats {s : State} (hr : s.sel.b = 0) (hn : 3 ≤ s.sel.c) : exec .dieLost s = .next (s.loseDie s.sel.a) := by
  change execDieLost s = _
  simp only [execDieLost, hr, if_pos hn]

/-- Two answers of a pair that differ reset the queues that it serves. -/
theorem exec_cpMismatch_one {s : State} {q : Nat} (hd : s.sel.a < Config.baseDies s.part) (hr : s.rasOff 6 = false) (hb : s.sel.b ≠ 1)
    (hc : s.exec.ctxs = [])
    (hq : (List.range 256).filter (fun q => (s.queue q).func != 0xFFFF && s.cpDie q == s.sel.a && !s.inRung q) = [q]) :
    exec .cpMismatch s = .next (((s.countError 6 false (some (8 + s.sel.a))).stopQueue q false).recoverQueue q) := by
  have hgo : ¬ (Config.baseDies s.part ≤ s.sel.a ∨ s.rasOff 6 = true) := by simp [Nat.not_le.mpr hd, hr]
  change execCpMismatch s = _
  simp only [execCpMismatch, if_neg hgo, if_neg hb, hq, ctxIs_of_no_ctx hc, List.foldl_cons, List.foldl_nil]

/-! ### SPDM and PLDM (R269, R275, R276) -/

/-- An answer with a signature, which is a value of its own. -/
def signed (s : State) (l : List W64) : State := ({ s with fresh := s.fresh + 1 } : State).emit (.spdm (l ++ [Config.signature s.fresh l]))

theorem exec_getMeasurement_count (s : State) : exec (.spdmRequest (.getMeasurement 0)) s = .next (signed s [8]) := rfl

theorem exec_getMeasurement_block {n : Nat} (s : State) (hlo : 1 ≤ n) (hhi : n ≤ 8) :
    exec (.spdmRequest (.getMeasurement n)) s = .next (signed s [Config.measure n (s.block n)]) := by
  change execSpdmRequest (.getMeasurement n) s = _
  simp only [execSpdmRequest, if_neg (Nat.ne_of_gt hlo), if_neg (show n ≠ 255 by omega), if_pos hhi]
  rfl

/-- A key exchange with a slot that the device has opens a session. -/
theorem exec_keyExchange_opens {slot : Nat} (s : State) (h : slot ≤ 1) :
    ∃ t, exec (.spdmRequest (.keyExchange slot)) s = .next t ∧ t.mgmt.spdm.any (·.1 == s.sel.b) = true := by
  change ∃ t, execSpdmRequest (.keyExchange slot) s = _ ∧ _
  simp only [execSpdmRequest, if_neg (Nat.not_lt.mpr h)]
  exact ⟨_, rfl, by simp [State.emit]⟩

theorem exec_raiseMinVersion_refused {s : State} {comp : FwComponent} {v : Nat}
    (h : v < (s.mgmt.fw.getD (fwIndex comp) Firmware.reset).minVer) :
    exec (.pldmRequest (.raiseMinVersion comp v)) s = .next (s.emit (.pldm 0xFFFFFFFFFFFFFFFF)) := by
  change execPldmRequest (.raiseMinVersion comp v) s = _
  simp only [execPldmRequest, if_pos h]

/-! ### The obligation -/

/-- Settles O52: a clause for each event of management, each by what its meaning answers. -/
theorem managementEvents : Obligations.ManagementEvents := by
  intro s
  refine ⟨fun m hran hre => ⟨nextRisk_rises, exec_riskCompute_level_kept m hran hre, exec_riskCompute_level_changed m hran hre⟩,
    fun loc hh hu hr => ⟨exec_scrub_of_held hh hu hr .clean, exec_scrub_of_held hh hu hr .corrected, fun hp => ?_, fun hp => ?_⟩,
    fun u => ⟨exec_firmwareUpdate_refused, fun hs hv hk => ?_⟩, exec_controllerRestart_frame s,
    fun hb h8 hl hc hr hn => ⟨_, exec_dieLost_heartbeats hr hn, loseDie_of_no_ctx hb h8 hl hc⟩,
    fun q hd hr hb hc hq => exec_cpMismatch_one hd hr hb hc hq,
    ⟨exec_getMeasurement_count s, fun n hlo hhi => exec_getMeasurement_block s hlo hhi, fun slot h => exec_keyExchange_opens s h⟩,
    fun v => ⟨_, rfl, rfl⟩, fun comp v h => exec_raiseMinVersion_refused h⟩
  · exact (exec_scrub_of_held hh hu hr .uncorrectable).trans (congrArg Host.Outcome.next (if_neg hp))
  · exact (exec_scrub_of_held hh hu hr .uncorrectable).trans (congrArg Host.Outcome.next (if_pos hp))
  · have hf := List.getElem?_eq_getElem hk
    have hd := getD_of_getElem? (d := Firmware.reset) hf
    rw [hd] at hv ⊢
    obtain ⟨t, ht, hfw⟩ := exec_firmwareUpdate_taken hf hs hv
    refine ⟨t, _, ht, hfw, active_taken u, staged_taken u, fun ha => ?_, fun ha => ?_⟩
    · simp [fwTaken, ha]
    · simp [fwTaken, ha]

end Sys2Proof.Proofs

/-!
PROOF. Placement, clauses, watchdogs and the ends of contexts (R92, R97 to R109, R114, R115, R138, R159, R175, R177, R260, R327, R443,
R459, R460).
-/

namespace Sys2Proof.Proofs

open Sys2Proof.Machine Sys2Proof.Safety Sys2Proof.Laws

/-! ### Placement (R101, R115) -/

/-- A fold of changes that keep a value of the state keeps it. -/
theorem foldl_keeps {α β : Type} (v : State → β) {f : State → α → State} (hf : ∀ s a, v (f s a) = v s) (l : List α) (s : State) :
    v (l.foldl f s) = v s := by
  induction l generalizing s with
  | nil => rfl
  | cons a l ih => exact (ih (f s a)).trans (hf s a)

@[simp] theorem settleHalts_sel (s : State) : s.settleHalts.sel = s.sel := by
  refine foldl_keeps State.sel (fun s p => ?_) _ s
  split <;> rfl

/-- A placement that reuses nothing that is still to be saved is made. -/
theorem placing_of_saved {u t : State} {place : State → Option State} (hp : place u = some t) (hs : u.unsaved t = false) :
    u.placing place = t := by
  simp only [State.placing, hp, hs, Bool.false_eq_true, if_false]

section Resident

variable {s t : State} {cn : Nat} {c : Ctx} (hw : s.settleHalts.firstWaiter s.sel.a = some (cn, c)) (hs : s.settleHalts.unsaved t = false)
include hw hs

theorem exec_teamResident_image {b pl : List Byte} (hl : c.load = some (b, pl)) (ht : s.settleHalts.plantImage cn b pl = some t) :
    exec .teamResident s = .next t := by
  change execTeamResident s = _
  simp only [execTeamResident, settleHalts_sel, hw, hl]
  exact congrArg Host.Outcome.next (placing_of_saved (by simp only [ht, Option.orElse_some]) hs)

/-- A team of the context is halted, and goes on before new ones (log entry 58). -/
theorem exec_teamResident_halted {k : Nat} {rest : List Nat} (hl : c.load = none) (hser : c.ser = none)
    (hy : s.settleHalts.yielding s.sel.a c = false) (hh : s.settleHalts.haltedOf cn = k :: rest) (ht : s.settleHalts.resumeTeam k = some t) :
    exec .teamResident s = .next t := by
  change execTeamResident s = _
  simp only [execTeamResident, settleHalts_sel, hw, hl]
  rw [if_pos ⟨by simp [hh], hy⟩]
  refine congrArg Host.Outcome.next (placing_of_saved ?_ hs)
  simp only [hser, settleHalts_sel, hy, hh, Option.isSome_none, Bool.or_self, Bool.false_eq_true, if_false, List.head?_cons, Option.bind_some, ht]

/-- The next team of a launch becomes resident, of a CORES one every one that is left. -/
theorem exec_teamResident_new {inst : Nat} (hl : c.load = none)
    (hh : s.settleHalts.haltedOf cn = [] ∨ s.settleHalts.yielding s.sel.a c = true) (hi : c.nextInst = some inst)
    (ht : (if c.lr.cores then s.settleHalts.placeAll cn (gridSize c.lr + 1) else s.settleHalts.placeNext cn inst) = some t) :
    exec .teamResident s = .next t := by
  have hnew : ¬ (s.settleHalts.haltedOf cn ≠ [] ∧ s.settleHalts.yielding s.sel.a c = false) := by
    rintro ⟨hne, hy⟩
    rcases hh with hh | hh
    · exact hne hh
    · simp [hy] at hh
  change execTeamResident s = _
  simp only [execTeamResident, settleHalts_sel, hw, hl, if_neg hnew, hi]
  exact congrArg Host.Outcome.next (placing_of_saved ht hs)

end Resident

/-! ### Slices (R114) -/

/-- A slice that is over and that nobody else wants starts again. -/
theorem exec_sliceExpiry_again {s : State} {c : Ctx} {x : Nat × Nat × Nat} (hc : s.exec.ctxs[s.sel.a]? = some c) (hx : c.slices = [x])
    (hdie : x.1 = s.sel.b) (hsite : x.2.1 = s.sel.c) (hser : c.ser = none) (hrun : c.state = .running)
    (ht : x.2.2 + 1000 * (s.partEnt c.pent).slice.toNat ≤ s.now) (hw : s.wanting s.sel.a c x.1 x.2.1 = []) :
    ∃ t c', exec .sliceExpiry s = .next t ∧ t.exec.ctxs[s.sel.a]? = some c' ∧ c'.slices = [(s.sel.b, s.sel.c, s.now)] := by
  have hctx : s.ctx? s.sel.a = some c := hc
  have hfind : c.slices.find? (fun y => y.1 == s.sel.b && y.2.1 == s.sel.c) = some x := by simp [hx, hdie, hsite]
  have hdue : ¬ (c.ser.isSome = true ∨ c.state ≠ .running ∨ s.now < x.2.2 + 1000 * (s.partEnt c.pent).slice.toNat) := by
    simp [hser, hrun, ht]
  change ∃ t c', execSliceExpiry s = _ ∧ _
  simp only [execSliceExpiry, hctx, hfind, if_neg hdue, if_neg (not_not.mpr hw)]
  refine ⟨_, _, rfl, (ctx_modCtx ..).trans ((if_pos rfl).trans (congrArg _ hc)), ?_⟩
  simp [hx, hdie, hsite]

/-! ### The memory-issue window (R105) -/

/-- The window that follows one of w, with the misses and the hits of an interval and n groups resident. -/
def nextWindow (misses hits n w : Nat) : Nat :=
  min (max (if misses < 8 * hits then w - 1 else if 32 * hits < misses then w + 1 else w) (min 2 n)) n

section Window

variable {s : State} (die : BitVec 3) (site : BitVec 5) (p : BitVec 2) {n : Nat}

theorem exec_memoryIssueWindow_miscounted (h : n ≠ s.missesOf die.toNat site.toNat p.toNat) : exec (.memoryIssueWindow die site p n) s = .next s := by
  change execMemoryIssueWindow die site p n s = _
  simp only [execMemoryIssueWindow, if_pos h]

theorem exec_memoryIssueWindow_counted (h : n = s.missesOf die.toNat site.toNat p.toNat) : ∃ t, exec (.memoryIssueWindow die site p n) s = .next t ∧
    t.window die.toNat site.toNat p.toNat = nextWindow n ((s.residents die.toNat site.toNat p.toNat).map (·.2.hits)).sum
      (s.residents die.toNat site.toNat p.toNat).length (s.window die.toNat site.toNat p.toNat) := by
  change ∃ t, execMemoryIssueWindow die site p n s = _ ∧ _
  simp only [execMemoryIssueWindow, if_neg (not_not.mpr h)]
  refine ⟨_, rfl, ?_⟩
  simp [State.window, nextWindow]

end Window

/-! ### Clauses and sleepers (R159, R327, R443) -/

section Issue

variable {s : State} {g : Group} {sp : Split} (hg : s.exec.groups[s.sel.a]? = some g) (hsp : g.splits[s.sel.b]? = some sp)
include hg hsp

theorem exec_clauseStart_tries {a : AccEnv} {e : RunEntry} {rest : List RunEntry} (ha : s.accEnv s.sel.a s.sel.b = some a)
    (hq : sp.runq = e :: rest) (hm : s.mayIssue s.sel.a = true) (hc : sp.clause = none) (hh : sp.handler = none) (hstop : g.stop = none)
    (hp : sp.waitPg = []) : exec .clauseStart s = .next (s.tryClause ⟨s.sel.a, s.sel.b⟩ g sp a e) := by
  have hs : g.split s.sel.b = sp := getD_of_getElem? hsp
  change execClauseStart s = _
  simp [execClauseStart, State.group?, hg, ha, hs, hq, hm, hc, hh, hstop, hp]

/-- A sleeper whose time has come goes on after its SLEEPT. -/
theorem exec_sleepWake_due (hst : sp.status = .sleep) (ht : sp.wval.toNat ≤ s.now) (hm : s.mayIssue s.sel.a = true) (hstop : g.stop = none) :
    exec .sleepWake s = .next (setGroup s s.sel.a { g with
      splits := g.splits.set s.sel.b { goesOn sp (sp.pc + 4) with age := s.now } }) := by
  have hs : g.split s.sel.b = sp := getD_of_getElem? hsp
  have hlt : s.sel.b < g.splits.length := (List.getElem?_eq_some_iff.mp hsp).1
  change execSleepWake s = _
  simp only [execSleepWake, State.group?, hg, hs]
  rw [if_pos ⟨hst, ht, hm, hstop⟩, State.putSplit, modGroup_eq _ hg, settle_of_reaches (k := s.sel.b) s.now (List.getElem?_set_self hlt) rfl]
  rfl

end Issue

/-! ### What a signal leaves alone -/

section SignalFrame

variable {s t : State}

/-- What is recorded does not move the place of an event. -/
theorem sel_of_recorded (h : Recorded s t) : t.sel = s.sel := (congrArg State.sel h :)

theorem recorded_allocLine (s : State) (line bd pent : Nat) (ctx : Option Nat) (stream : Bool) :
    Recorded s (s.allocLine line bd pent ctx stream) := by
  unfold State.allocLine
  split
  · rfl
  · extract_lets ways set
    split
    · rfl
    · split
      · rfl
      · unfold State.dropMscLine
        split <;> rfl

/-- A write to local memory changes memory and the MSC alone. -/
theorem recorded_memWrite (s : State) (pent : Nat) (ctx : Option Nat) (ca : Nat) (stream : Bool) (pa : Nat) (data : List Byte) :
    Recorded s (s.memWrite pent ctx ca stream pa data) := by
  have hput (t : State) (m : Store) : Recorded t { t with store := m } := rfl
  unfold State.memWrite
  extract_lets c u
  have hu : Recorded s u := by
    unfold u
    split
    · exact recorded_allocLine ..
    · exact .refl s
  exact hu.trans (hput u _)

theorem sel_sendPageReq (s : State) (p : PageReq) : (s.sendPageReq p).1.sel = s.sel := by
  unfold State.sendPageReq
  extract_lets x bits u ctl v
  have hu : u.sel = s.sel := sel_of_recorded (recorded_devDo s _ _)
  split
  · split <;> exact hu
  · rfl

/-- A page request was sent, and what it gave says which are outstanding. -/
def withReqs (r : State × PageReq) (reqs : State × PageReq → List PageReq) : State := { r.1 with memctl := { r.1.memctl with reqs := reqs r } }

theorem sel_withReqs (r : State × PageReq) (reqs : State × PageReq → List PageReq) : (withReqs r reqs).sel = r.1.sel := rfl

/-- A page request changes nothing, or one is sent: a new one, or the outstanding one with what is now asked. -/
theorem pageRequest_cases (s : State) (pent : Nat) (page : W64) (write expl : Bool) (queue : W16) (index : W32) :
    s.pageRequest pent page write expl queue index = s ∨
      ∃ p reqs, s.pageRequest pent page write expl queue index = withReqs (s.sendPageReq p) reqs := by
  unfold State.pageRequest
  split
  case h_1 => exact .inr ⟨{ pent, page, write, expl, sent := none, queue, index }, fun r => r.1.memctl.reqs ++ [r.2], rfl⟩
  case h_2 o _ =>
    by_cases hn : ({ o with write := o.write || write, expl := o.expl || expl } : PageReq) = o
    · exact .inl (if_pos hn)
    · exact .inr ⟨{ o with write := o.write || write, expl := o.expl || expl },
        fun r => r.1.memctl.reqs.map (fun x => if x.pent == pent && x.page == page then r.2 else x), if_neg hn⟩

theorem sel_pageRequest (s : State) (pent : Nat) (page : W64) (write expl : Bool) (queue : W16) (index : W32) :
    (s.pageRequest pent page write expl queue index).sel = s.sel := by
  obtain h | ⟨p, reqs, h⟩ := pageRequest_cases s pent page write expl queue index
  · rw [h]
  · rw [h, sel_withReqs]
    exact sel_sendPageReq s p

/-- An access of the command processor that waits has asked for a page at most. -/
theorem sel_cpPlace_wait {pent q : Nat} {idx : W32} {va : W64} {k : Acc} (h : s.cpPlace pent q idx va k = .wait t) : t.sel = s.sel := by
  unfold State.cpPlace at h
  split at h
  case h_6 =>
    obtain rfl := CpRes.wait.inj h
    exact sel_pageRequest ..
  case h_7 =>
    obtain rfl := CpRes.wait.inj h
    rfl
  all_goals cases h

theorem sel_sigEnd (s : State) (u : SigUpd) : (s.sigEnd u).sel = s.sel := by
  unfold State.sigEnd
  split <;> rfl

theorem sel_sigFailed (s : State) (u : SigUpd) : (s.sigFailed u).sel = s.sel :=
  (sel_sigEnd _ u).trans (sel_of_recorded (recorded_event ..))

/-- A signal that is updated in this device's memory. -/
theorem sel_sigUpdate_mem {at_ pent n : Nat} {va : W64} {ca : Nat} {data : List Byte} {pa pa' : Nat} (h : s.forStore pa = some (t, pa')) :
    (((t.markWrite pent va).memWrite pent none ca (ca == 1) at_ data).noteWrite pa n).sel = s.sel :=
  sel_of_recorded ((((recorded_forStore h).trans (recorded_markWrite ..)).trans (recorded_memWrite ..)).trans (recorded_noteWrite ..))

theorem sel_sigUpdate (s : State) (u : SigUpd) : (s.sigUpdate u).sel = s.sel := by
  unfold State.sigUpdate
  extract_lets keep
  have hkeep (t : State) : (keep t).sel = t.sel := rfl
  split
  · exact sel_sigEnd ..
  · split
    case h_1 => exact sel_sigFailed ..
    case h_2 hwait => exact (hkeep _).trans (sel_cpPlace_wait hwait)
    case h_3 pa hplace =>
      extract_lets old
      split
      · exact sel_sigFailed ..
      · split
        · exact hkeep s
        · split
          · exact sel_sigEnd ..
          · split
            · exact hkeep s
            · next hstore => exact (sel_sigEnd ..).trans (sel_sigUpdate_mem hstore)
    case h_4 a hplace =>
      split
      · exact sel_sigFailed ..
      · split
        · exact sel_sigEnd ..
        · exact (sel_sigEnd ..).trans (sel_of_recorded (recorded_markWrite s u.pent u.va))
    case h_5 => exact hkeep s
    all_goals exact sel_sigFailed ..

theorem sel_signalEnd (s : State) (q : Nat) (idx tag : W32) (va : W64) (act : SigAct) : (s.signalEnd q idx tag va act).sel = s.sel :=
  sel_sigUpdate ..

theorem sel_faultEvent (s : State) (c : Ctx) (f : FaultRec) : (s.faultEvent c f).sel = s.sel := sel_of_recorded (recorded_event ..)

end SignalFrame

/-! ### The barrier watchdog (R459, R460) -/

/-- A watchdog that ran for more than BTIMEOUT ends the context with BARRIER_TIMEOUT, and names the lowest split that waits. -/
theorem exec_barrierTimeout_due {s : State} {c : Ctx} {tm : Team} {b : Barrier} {g : Group} {i : Nat} {sp : Split}
    (hteam : s.exec.teams[s.sel.a]? = some tm) (hc : s.exec.ctxs[tm.ctx]? = some c) (hn : s.sel.b < 16) (hb : tm.bars[s.sel.b]? = some b)
    (ht : 1000 * c.lr.btimeout < b.dog) (hf : s.firstBlocked tm.groups (·.waitsAt s.sel.b) = some (g, i, sp)) :
    ∃ f, exec .barrierTimeout s = .next (s.endCtx tm.ctx f) ∧ f.code = 1 ∧ f.cause = 11 ∧ f.trapPc = sp.pc ∧
      f.split = BitVec.ofNat 8 i ∧ f.group = BitVec.ofNat 8 g.index ∧ f.trapAddr = BitVec.ofNat 64 b.barr ∧ f.aux = BitVec.ofNat 64 b.bquota := by
  have hne : (s.sel.b == 16) = false := beq_false_of_ne (Nat.ne_of_lt hn)
  have hbar : tm.bars.getD s.sel.b Barrier.zero = b := getD_of_getElem? hb
  change ∃ f, Host.Outcome.next (s.barrierTimeout s.sel.a s.sel.b) = _ ∧ _
  simp only [State.barrierTimeout, State.team?, State.ctx?, hteam, hc, hne, Bool.false_eq_true, if_false, hbar, if_neg (Nat.not_le.mpr ht), hf]
  exact ⟨_, rfl, rfl, rfl, rfl, rfl, rfl, rfl, rfl⟩

/-! ### The ends of contexts and grids (R177, R260) -/

section Ends

variable {s : State} {c : Ctx} (hc : s.exec.ctxs[s.sel.a]? = some c)
include hc

theorem exec_contextEnd_fault {f : FaultRec} (hm : s.ops.mops = []) (hst : c.state = .ending) (ho : s.outstanding s.sel.a = false)
    (hf : c.fault = some f) (h8 : f.code ≠ 8) : exec .contextEnd s =
      .next ((((s.signalEnd c.queue c.index c.tag c.lr.csig (.error f.code)).faultEvent c f).endSerial c false).dropCtx s.sel.a) := by
  have hctx : s.ctx? s.sel.a = some c := hc
  change execContextEnd s = _
  simp only [execContextEnd, hctx, hm, List.filter_nil, List.foldl_nil]
  rw [if_neg (by simp [hst, ho])]
  simp only [hf, Option.getD_some, if_neg h8, sel_faultEvent, sel_signalEnd]

theorem exec_gridComplete_done (hd : s.gridDone s.sel.a c = true) (hdual : c.lr.dual = false) : exec .gridComplete s =
    .next (((s.signalEnd c.queue c.index c.tag c.lr.csig .decrement).endSerial c true).dropCtx s.sel.a) := by
  have hctx : s.ctx? s.sel.a = some c := hc
  change execGridComplete s = _
  simp [execGridComplete, State.gridEnd, hctx, hd, hdual]

end Ends

/-! ### STAGING (R97, R98) -/

section Staging

variable {s : State} {cn : Nat} {c : Ctx} {va : W64} {p : StagePage} (hc : s.exec.ctxs[cn]? = some c)
  (hp : c.stage.find? (fun p => p.va == va) = some p)
include hc hp

theorem exec_staging_unmapped (hw : s.walk c.pent va.toNat = .bad ∨ s.walk c.pent va.toNat = .poison) :
    exec (.staging cn va) s = .next (s.stagedPage cn va) := by
  have hctx : s.ctx? cn = some c := hc
  change execStaging cn va s = _
  rcases hw with hw | hw <;> simp only [execStaging, hctx, hp, hw]

variable {w : W64} {level entry : Nat} (hw : s.walk c.pent va.toNat = .leaf w level entry)
include hw

/-- A page that need not move, or cannot, is done. -/
theorem exec_staging_settled (h : lfRes w = false ∨ 2 ≤ lfTier w ∨ lfTier w = p.tier ∨ leafValid s.part w level = false) :
    exec (.staging cn va) s = .next (s.stagedPage cn va) := by
  have hctx : s.ctx? cn = some c := hc
  have hset : (!lfRes w || decide (2 ≤ lfTier w) || lfTier w == p.tier || leafValid s.part w level == false) = true := by
    simpa [or_assoc] using h
  change execStaging cn va s = _
  simp only [execStaging, hctx, hp, hw, hset, if_true]

/-- A page that is to move goes to its tier as the budget admits, and without room there, or where the copy fails, counts in STAGESHORT. -/
theorem exec_staging_moves (hres : lfRes w = true) (htier : lfTier w < 2) (hne : lfTier w ≠ p.tier) (hv : leafValid s.part w level = true)
    (hu : s.mayUnit 0 = true) (hbusy : s.rangeBusy (lfFrame w) (65536 * (2 ^ offBits level / 65536)) = false) :
    let k := 2 ^ offBits level / 65536
    (∀ f v all, s.stagingFails c.pent w k = false → s.freeRun p.tier k k [] = some f → s.work 0 (65536 * k) = (v, all) →
      exec (.staging cn va) s = .next (if all then (v.moveLeaf c.pent va w entry k f p.tier).stagedPage cn va else v)) ∧
    (s.stagingFails c.pent w k = true ∨ s.freeRun p.tier k k [] = none → exec (.staging cn va) s =
      .next ((s.stagedPage cn va).modXlat c.pent (fun t => { t with stageshort := t.stageshort + 1 }))) := by
  have hctx : s.ctx? cn = some c := hc
  have hgo : (!lfRes w || decide (2 ≤ lfTier w) || lfTier w == p.tier || leafValid s.part w level == false) = false := by
    simp [hres, htier, hne, hv]
  intro k
  change (∀ f v all, _ → _ → _ → execStaging cn va s = _) ∧ (_ → execStaging cn va s = _)
  simp only [execStaging, hctx, hp, hw, hgo, hu, hbusy, Bool.not_true, Bool.or_self, Bool.false_eq_true, if_false]
  refine ⟨fun f v all hf hr hwork => ?_, fun h => ?_⟩
  · simp only [k] at hf hr hwork
    simp only [hf, hr, hwork, Bool.false_eq_true, if_false, k]
  · have hnone : (if s.stagingFails c.pent w k = true then none else s.freeRun p.tier k k []) = none := by
      rcases h with h | h <;> simp [h]
    simp only [k] at hnone
    simp only [hnone]

end Staging

/-! ### The obligation -/

/-- Settles O43: a clause for each event, each by what its meaning answers. -/
theorem placementClausesAndEnds : Obligations.PlacementClausesAndEnds := by
  intro s c
  refine ⟨fun cn hw => ⟨fun inst t hl hh hi => ⟨fun hcores ht hs => ?_, fun hcores ht hs => ?_⟩,
      fun b pl t hl ht hs => exec_teamResident_image hw hs hl ht,
      fun k rest t hl hser hy hh ht hs => exec_teamResident_halted hw hs hl hser hy hh ht⟩,
    fun x hc hx hdie hsite hser hrun ht hw => exec_sliceExpiry_again hc hx hdie hsite hser hrun ht hw,
    fun die site p n => ⟨exec_memoryIssueWindow_miscounted die site p, fun hn => ?_⟩,
    fun g sp a e rest hg hsp ha hq hm hcl hh hstop hp => exec_clauseStart_tries hg hsp ha hq hm hcl hh hstop hp,
    fun g sp hg hsp hst ht hm hstop => exec_sleepWake_due hg hsp hst ht hm hstop,
    fun tm b g i sp hteam hc hn hb ht hf => exec_barrierTimeout_due hteam hc hn hb ht hf,
    fun f hc hm hst ho hf h8 => exec_contextEnd_fault hc hm hst ho hf h8,
    fun hc hd hdual => exec_gridComplete_done hc hd hdual,
    fun cn va p hc hp => ⟨exec_staging_unmapped hc hp, fun w level entry hw => ⟨exec_staging_settled hc hp hw,
      fun hres htier hne hv hu hbusy => exec_staging_moves hc hp hw hres htier hne hv hu hbusy⟩⟩⟩
  · exact exec_teamResident_new hw hs hl hh hi ((if_neg (Bool.eq_false_iff.mp hcores)).trans ht)
  · exact exec_teamResident_new hw hs hl hh hi ((if_pos hcores).trans ht)
  · obtain ⟨t, ht, hwin⟩ := exec_memoryIssueWindow_counted die site p hn
    refine ⟨t, ht, fun hlo hhi h2 hw => ?_, fun hhi hlo hw h1 => ?_, fun hlo h3 hw => ?_⟩
    · rw [hwin, nextWindow, if_neg (Nat.not_lt.mpr hlo), if_neg (Nat.not_lt.mpr hhi)]
      omega
    · rw [hwin, nextWindow, if_neg (Nat.not_lt.mpr hlo), if_pos hhi]
      omega
    · rw [hwin, nextWindow, if_pos hlo]
      omega

end Sys2Proof.Proofs

/-!
PROOF. Traps that end a context (R106, R173, R174, R177, R178): what `endCtx` leaves of a context that runs, in which cases `takeTrap` is
`endCtx`, and the fault record that it is given.
-/

namespace Sys2Proof.Proofs

open Sys2Proof.Machine Sys2Proof.Safety Sys2Proof.Laws

/-- R177: a context that runs and that ends with a fault record is ending, and keeps that record. -/
theorem ctx_endCtx_of_running {s : State} {cn : Nat} {c : Ctx} (f : FaultRec) (hc : s.exec.ctxs[cn]? = some c) (hr : c.state = .running) :
    ∃ c', (s.endCtx cn f).exec.ctxs[cn]? = some c' ∧ c'.state = .ending ∧ c'.fault = some f := by
  have hctx : s.ctx? cn = some c := hc
  have hstop : (s.stopCtx cn).exec.ctxs[cn]? = some { c with cores := c.cores ++ s.coresIn cn } := by
    change (modAt s.exec.ctxs cn _)[cn]? = _
    rw [getElem?_modAt, if_pos rfl, hc, Option.map_some]
  have hend : s.endCtx cn f = (s.stopCtx cn).modCtx cn (fun x => { x with state := .ending, fault := some f }) := by
    simp only [State.endCtx, hctx, hr]
  refine ⟨{ c with cores := c.cores ++ s.coresIn cn, state := .ending, fault := some f }, ?_, rfl, rfl⟩
  rw [hend, ctx_modCtx, if_pos rfl, hstop, Option.map_some]

/-- R171, R244: what AUX holds of a trap: RFAULT as SMR reads it for REMOTE_FAULT, else zero. -/
def trapAux (g : Group) (t : Trap) : W64 := if t.code = 10 then g.rfault.word else 0

/-- R174: the record of a trap t that a split takes which runs its handler: the first cause stands in the trap registers. -/
def secondRecord (t : Trap) (g : Group) (r : SplitRef) (sp : Split) (tm : Team) : FaultRec :=
  { t.record g r tm (trapAux g t) 0 with
    cause := sp.cause, trapPc := sp.tpc, trapAddr := sp.taddr, trapInfo := sp.tinfo, aux := t.cause.zeroExtend 64
    hfl := (t.record g r tm (trapAux g t) 0).hfl ||| 3 }

/-- R178: in the first instance HFL holds nothing but the bits that it is given. -/
theorem record_hfl_of_inst_zero {tm : Team} (h : tm.inst = 0) (t : Trap) (g : Group) (r : SplitRef) (aux : W64) :
    (t.record g r tm aux 0).hfl = 0 := by
  simp [Trap.record, h]

theorem fatalCause_iff (code : Nat) : fatalCause code = true ↔ code ∈ [11, 12, 13] := by
  simp [fatalCause, or_assoc]

section TakeTrap

variable {s : State} {r : SplitRef} {g : Group} {sp : Split} {tm : Team} {cn : Nat} {c : Ctx} (t : Trap)
variable (hi : Issues s r g sp) (hg : InGrid s g tm cn c)
include hi hg

/-- R173: outside a handler, a trap that no handler may take ends the context with its record. -/
theorem takeTrap_eq_endCtx_of_no_handler (hh : sp.handler = none) (hend : c.lr.thoff = 0 ∨ c.lr.dual = true ∨ t.code ∈ [11, 12, 13]) :
    s.takeTrap r t = s.endCtx cn (t.record g r tm (trapAux g t) 0) := by
  obtain ⟨hteam, hctx, hof⟩ := hg
  have hsp : g.split r.sp = sp := getD_of_getElem? hi.split
  have hfatal : (fatalCause t.code || c.lr.thoff == 0 || c.lr.dual) = true := by
    rcases hend with h | h | h
    · simp [h]
    · simp [h]
    · simp [(fatalCause_iff t.code).mpr h]
  simp only [State.takeTrap, State.group?, hi.group, State.team?, hteam, State.ctx?, hof, hctx, hsp, hh, Option.isSome_none, Bool.false_eq_true,
    if_false, if_pos hfatal, trapAux]

/-- R174: a trap of a split that runs its handler ends the context with both causes. -/
theorem takeTrap_eq_endCtx_of_handler (hh : sp.handler.isSome = true) : s.takeTrap r t = s.endCtx cn (secondRecord t g r sp tm) := by
  obtain ⟨hteam, hctx, hof⟩ := hg
  have hsp : g.split r.sp = sp := getD_of_getElem? hi.split
  simp only [State.takeTrap, State.group?, hi.group, State.team?, hteam, State.ctx?, hof, hctx, hsp, if_pos hh, secondRecord, trapAux]

end TakeTrap

/-- Settles O20: either trap is `endCtx` with the record of its case, and the context runs. -/
theorem trapWithoutHandlerEndsTheContext : Obligations.TrapWithoutHandlerEndsTheContext := by
  intro s r g sp tm cn c t hi hg hr hinst
  have hhfl := record_hfl_of_inst_zero hinst t g r (trapAux g t)
  refine ⟨fun hh hend => ?_, fun hh => ?_⟩
  · rw [takeTrap_eq_endCtx_of_no_handler t hi hg hh hend]
    obtain ⟨c', hc', hst, hf⟩ := ctx_endCtx_of_running (t.record g r tm (trapAux g t) 0) hg.ctx hr
    exact ⟨c', _, hc', hst, hf, rfl, rfl, rfl, rfl, rfl, hhfl, rfl, rfl, rfl⟩
  · rw [takeTrap_eq_endCtx_of_handler t hi hg hh]
    obtain ⟨c', hc', hst, hf⟩ := ctx_endCtx_of_running (secondRecord t g r sp tm) hg.ctx hr
    exact ⟨c', _, hc', hst, hf, rfl, rfl, rfl, rfl, rfl, rfl, congrArg (· ||| 3) hhfl⟩

end Sys2Proof.Proofs

/-!
PROOF. The step (R103, R104, R266, R310 to R315): the head of the agenda makes an instruction run in a state, or leaves a state; what the
two fetches of a scalar instruction, the next lane instruction of a clause and an event make of it.
-/

namespace Sys2Proof.Proofs

open Sys2Proof.Machine Sys2Proof.Safety Sys2Proof.Laws

/-- The state in which the head of the agenda occurs. -/
def atHead (s : State) (rest : List Occurrence) : State := { s with out := [], agenda := rest }

/-- The step of s is instruction i run in v for the occurrence o, and the account of the step. -/
def StepRuns (s : State) (o : Occurrence) (v : State) (i : Instr) : Prop :=
  (∀ x, exec i v = .next x → step s = .next ((v.closeStep x o.isLane).tidy)) ∧ (∀ f, exec i v = .fault f → step s = .fault f)

section Head

variable {s v : State} {o : Occurrence} {rest : List Occurrence} (hs : s.agenda = o :: rest)
include hs

theorem step_eq_occur : step s = occur (atHead s rest) o := by
  simp only [step, hs]
  rfl

/-- What the head of the agenda makes run is what the step runs. -/
theorem stepRuns_of_due {i : Instr} (hd : (atHead s rest).due o = .run v i) : StepRuns s o v i := by
  have hstep : step s = closed v o.isLane (exec i v) := by
    simp only [step_eq_occur hs, occur, hd]
  exact ⟨fun x hx => by rw [hstep, hx, closed], fun f hf => by rw [hstep, hf, closed]⟩

/-- Where it makes nothing run, the step leaves the state that it answers. -/
theorem step_of_due_idle (hd : (atHead s rest).due o = .idle v) : step s = .next v.tidy := by
  simp only [step_eq_occur hs, occur, hd]

end Head

/-! ### Scalar instructions -/

section Word

variable {w w1 : W32} {i : Instr} (hd : decode w w1 = .ok i) (v : State) (r : SplitRef) {g : Group} (sp : Split) (a : AccEnv)
include hd

/-- The instruction that two words decode to runs for its split, unless it reads a poisoned scalar register. -/
theorem dueWord_of_clean (hp : g.readsPoison i = false) :
    v.dueWord r g sp a w w1 = .run { v.touchCore a with cur := some r } i := by
  simp only [State.dueWord, instrOf, hd, hp, Bool.false_eq_true, if_false]

/-- R266: with a poisoned scalar register among what it reads it takes DATA_POISON. -/
theorem dueWord_of_poison (hp : g.readsPoison i = true) :
    v.dueWord r g sp a w w1 = .idle ((v.touchCore a).scalarTrap r sp 13 0 0 (sop w).toNat) := by
  simp only [State.dueWord, instrOf, hd, hp, if_true]

end Word

section Fetch

variable {t u : State} {r : SplitRef} {g : Group} {a : AccEnv} {b : List Byte} {used : List (BitVec 7 × Nat)}
variable (hg : t.exec.groups[r.g]? = some g) (ha : t.accEnv r.g r.sp = some a) (hw : (g.split r.sp).waitOp = none)
variable (hr : t.scalarReady r = true) (hl : t.lost.getLsbD a.core.1 = false) (hst : (g.split r.sp).status ≠ .waitf)
variable (hf : t.fetch4 a (g.split r.sp).pc = .ok u b used)
include hg ha hw hr hl hst hf

/-- R311: of one word, the instruction is what that word holds. -/
theorem due_scalar_of_one_word (h1 : isTwoWord (wordOf 32 b) = false) :
    t.due (.scalar r) = (u.useLines used).dueWord r g (g.split r.sp) a (wordOf 32 b) 0 := by
  simp only [State.due, State.dueScalar, State.group?, hg, ha, hw, Option.isSome_none, Bool.false_and, hr, Bool.not_true, hl,
    Bool.false_eq_true, if_false, if_neg hst, hf, h1]

/-- R310, R311: of two words, the instruction is what that word and the next hold. -/
theorem due_scalar_of_two_words {v : State} {c : List Byte} {more : List (BitVec 7 × Nat)} (h2 : isTwoWord (wordOf 32 b) = true)
    (hf' : u.fetch4 a ((g.split r.sp).pc + 4) = .ok v c more) :
    t.due (.scalar r) = (v.useLines (used ++ more)).dueWord r g (g.split r.sp) a (wordOf 32 b) (wordOf 32 c) := by
  simp only [State.due, State.dueScalar, State.group?, hg, ha, hw, Option.isSome_none, Bool.false_and, hr, Bool.not_true, hl,
    Bool.false_eq_true, if_false, if_neg hst, hf, h2, if_true, hf']

end Fetch

/-- A step whose head makes the instruction of two words due runs it, or takes DATA_POISON for it (R266). -/
theorem step_of_due_word {s v : State} {o : Occurrence} {rest : List Occurrence} {r : SplitRef} {g : Group} {a : AccEnv} {w w1 : W32}
    {i : Instr} (hs : s.agenda = o :: rest) (hd : decode w w1 = .ok i)
    (hdue : (atHead s rest).due o = v.dueWord r g (g.split r.sp) a w w1) :
    (g.readsPoison i = false → StepRuns s o { v.touchCore a with cur := some r } i) ∧
    (g.readsPoison i = true → step s = .next ((v.touchCore a).scalarTrap r (g.split r.sp) 13 0 0 (sop w).toNat).tidy) :=
  ⟨fun hp => stepRuns_of_due hs (hdue.trans (dueWord_of_clean hd v r _ a hp)),
    fun hp => step_of_due_idle hs (hdue.trans (dueWord_of_poison hd v r _ a hp))⟩

/-! ### Lane instructions and events -/

/-- A lane instruction that waits for nothing runs for its split. -/
theorem due_lane_of_next {t : State} {r : SplitRef} {a : AccEnv} {i : Instr} (hn : t.laneNext r = some i) (ha : t.accEnv r.g r.sp = some a)
    (hl : t.lost.getLsbD a.core.1 = false) (hw : t.laneWaits r i = false) :
    t.due (.lane r) = .run { t.touchCore a with cur := some r } i := by
  simp only [State.due, State.dueLane, hn, ha, hl, hw, Bool.false_eq_true, if_false]

/-- With power every event runs, for no split. -/
theorem due_event_of_power {t : State} (x : Sel) (i : Instr) (hp : t.power.on = true) :
    t.due (.event x i) = .run { t with sel := x, cur := none } i := by
  simp only [State.due, hp, Bool.true_or, if_true]

/-- Settles O53: each kind of occurrence by what it makes run. -/
theorem stepRunsTheDecodedInstruction : Obligations.StepRunsTheDecodedInstruction := by
  intro s o rest hs t runs spoilt
  refine ⟨?scalar, ?lane, ?event⟩
  case scalar =>
    rintro r g a u b used rfl hg ha hw hr hl hst hf
    refine ⟨fun i h1 hd => ?_, fun i v c more h2 hf' hd => ?_⟩
    · exact step_of_due_word hs hd (due_scalar_of_one_word (t := t) hg ha hw hr hl hst hf h1)
    · exact step_of_due_word hs hd (due_scalar_of_two_words (t := t) hg ha hw hr hl hst hf h2 hf')
  case lane =>
    rintro r a i rfl hn ha hl hw
    exact stepRuns_of_due hs (due_lane_of_next hn ha hl hw)
  case event =>
    rintro x i rfl hp
    exact stepRuns_of_due hs (due_event_of_power x i hp)

end Sys2Proof.Proofs

/-!
PROOF. TIME and PAGEREQ (R141, R197, R442, R444): the device time in a context without a journal, and a page request by the leaf that the
walk finds.
-/

namespace Sys2Proof.Proofs

open Sys2Proof.Machine Sys2Proof.Safety Sys2Proof.Laws

/-! ### TIME -/

/-- A context without a journal records no input (R278). -/
theorem record_of_no_journal {s : State} {cn : Nat} {c : Ctx} (hc : s.exec.ctxs[cn]? = some c) (hj : c.lr.jrnl = false) (kind : Nat)
    (w : JSite) (payload : List Byte) : s.record cn kind w payload = s := by
  simp [State.record, State.ctx?, hc, hj]

/-- Its records wait for no journal (R279). -/
theorem recordHeld_of_no_journal {s : State} {cn : Nat} {c : Ctx} (hc : s.exec.ctxs[cn]? = some c) (hj : c.lr.jrnl = false) :
    s.recordHeld cn = false := by
  simp [State.recordHeld, State.jrnlHeld, State.ctx?, hc, hj]

/-- It takes no input from a journal (R280). -/
theorem replays_of_no_journal {s : State} {cn : Nat} {c : Ctx} (hc : s.exec.ctxs[cn]? = some c) (hj : c.lr.jrnl = false) :
    s.replays cn = false := by
  simp [State.replays, State.ctx?, hc, hj]

theorem ofNat_now (s : State) : BitVec.ofNat 64 s.now = s.clock.dtime := by
  simp [State.now]

theorem exec_time_of_no_journal {s : State} {r : SplitRef} {g : Group} {sp : Split} {tm : Team} {cn : Nat} {c : Ctx} {d : SReg}
    (hr : Runs s r g sp [d]) (hg : InGrid s g tm cn c) (hj : c.lr.jrnl = false) :
    exec (.time d) s = .next (wrote s r g sp (sp.pc + 4) d s.clock.dtime) := by
  change execTime d s = _
  rw [execTime, scalarRun_of_runs hr]
  simp only [ctxOf?_of_inGrid hr.group hg, replays_of_no_journal hg.ctx hj, recordHeld_of_no_journal hg.ctx hj,
    record_of_no_journal hg.ctx hj, Bool.false_eq_true, if_false, finish_eq _ _ _ _ hr.toIssues, ofNat_now]

/-! ### What a page request leaves alone -/

section Issuing

variable {s t : State} {r : SplitRef} {g : Group} {sp : Split}

/-- A split that issues does so still after a device write, an event or a log entry. -/
theorem issues_of_recorded (h : Issues s r g sp) (ht : Recorded s t) : Issues t r g sp := by
  have hcur : t.cur = s.cur := (congrArg State.cur ht :)
  have hexec : t.exec = s.exec := (congrArg State.exec ht :)
  exact ⟨hcur.trans h.cur, hexec ▸ h.group, h.split⟩

theorem issues_sendPageReq (h : Issues s r g sp) (p : PageReq) : Issues (s.sendPageReq p).1 r g sp := by
  unfold State.sendPageReq
  extract_lets x bits u ctl v
  have hu : Issues u r g sp := issues_of_recorded h (recorded_devDo s _ _)
  split
  · split <;> exact ⟨hu.cur, hu.group, hu.split⟩
  · exact h

theorem issues_withReqs {q : State × PageReq} (h : Issues q.1 r g sp) (reqs : State × PageReq → List PageReq) :
    Issues (withReqs q reqs) r g sp :=
  ⟨h.cur, h.group, h.split⟩

theorem issues_pageRequest (h : Issues s r g sp) (pent : Nat) (page : W64) (write expl : Bool) (queue : W16) (index : W32) :
    Issues (s.pageRequest pent page write expl queue index) r g sp := by
  obtain hs | ⟨p, reqs, hs⟩ := pageRequest_cases s pent page write expl queue index
  · rwa [hs]
  · rw [hs]
    exact issues_withReqs (issues_sendPageReq h p) reqs

theorem issues_startFollow (h : Issues s r g sp) (pent : Nat) (page : W64) : Issues (s.startFollow pent page) r g sp :=
  ⟨h.cur, h.group, h.split⟩

/-- A split that blocks in PAGEREQ can still reach a JOIN, so that it alone changes. -/
theorem awaitPage_eq (h : Issues s r g sp) (a page : W64) :
    s.awaitPage r sp a page = became s r g { sp with status := .page, wbar := 4, wval := a, waitSc := [page] } :=
  putSplit_eq _ h rfl

end Issuing

/-! ### PAGEREQ -/

/-- R444: bits 63:56 of an address are nonzero from 2^56 on. -/
theorem topByte_ne_zero_iff (va : W64) : va.extractLsb' 56 8 ≠ (0 : Byte) ↔ 2 ^ 56 ≤ va.toNat := by
  have hva := va.isLt
  rw [ne_eq, ← BitVec.toNat_inj, BitVec.extractLsb'_toNat, Nat.shiftRight_eq_div_pow]
  change ¬(va.toNat / 2 ^ 56 % 2 ^ 8 = 0) ↔ 2 ^ 56 ≤ va.toNat
  omega

/-- R238: below 2^56, bit 55 says that an address lies in the rope window. -/
theorem getLsbD_55_iff {va : W64} (h : va.toNat < 2 ^ 56) : va.getLsbD 55 = true ↔ 2 ^ 55 ≤ va.toNat := by
  rw [BitVec.getLsbD, Nat.testBit_eq_decide_div_mod_eq, decide_eq_true_iff]
  omega

/-- What PAGEREQ of an address outside the rope window makes of a state, by what the walk finds. -/
def pagereqBy (s : State) (r : SplitRef) (sp : Split) (e : AccEnv) (va : W64) : Look → State
  | .fail => s.scalarTrap r sp 5 0 va 0
  | .poison => s.scalarTrap r sp 13 0 va 0
  | .hit _ => s.finish0 r sp 4
  | .absent w _ =>
    let page : W64 := va &&& ~~~(0xFFFF : W64)
    if 2 ≤ lfTier w then s.finish0 r sp 4
    else if s.following e.ctx.pent page then (s.startFollow e.ctx.pent page).awaitPage r sp va page
    else (s.pageRequest e.ctx.pent page false true (BitVec.ofNat 16 e.ctx.queue) e.ctx.index).awaitPage r sp va page

section Pagereq

variable {s : State} {r : SplitRef} {g : Group} {sp : Split} {x : SReg} {e : AccEnv}
variable (hr : Runs s r g sp [x]) (he : s.accEnv r.g r.sp = some e)
include hr he

/-- PAGEREQ by its address, in the order of its checks. -/
theorem exec_pagereq_eq :
    exec (.pagereq x) s = .next (
      if (g.sreg x).extractLsb' 56 8 ≠ (0 : Byte) then s.scalarTrap r sp 5 0 (g.sreg x) 0
      else if (g.sreg x).getLsbD 55 && e.ctx.lr.rope then s.finish0 r sp 4
      else pagereqBy s r sp e (g.sreg x) (s.look (some e.core) e.ctx.pent (g.sreg x).toNat false)) := by
  change execPagereq x s = _
  rw [execPagereq, scalarRun_of_runs hr]
  simp only [he]
  rfl

theorem exec_pagereq_above_bit_55 (hva : 2 ^ 56 ≤ (g.sreg x).toNat) :
    exec (.pagereq x) s = .next (s.scalarTrap r sp 5 0 (g.sreg x) 0) := by
  rw [exec_pagereq_eq hr he, if_pos ((topByte_ne_zero_iff _).mpr hva)]

theorem exec_pagereq_in_rope_window (hlo : 2 ^ 55 ≤ (g.sreg x).toNat) (hhi : (g.sreg x).toNat < 2 ^ 56) (hrope : e.ctx.lr.rope = true) :
    exec (.pagereq x) s = .next (moved s r g sp (sp.pc + 4)) := by
  have htop : ¬(g.sreg x).extractLsb' 56 8 ≠ (0 : Byte) := fun h => hhi.not_ge ((topByte_ne_zero_iff _).mp h)
  have hwin : ((g.sreg x).getLsbD 55 && e.ctx.lr.rope) = true := by simp [(getLsbD_55_iff hhi).mpr hlo, hrope]
  rw [exec_pagereq_eq hr he, if_neg htop, if_pos hwin, finish0_eq _ _ hr.toIssues]

/-- Below the rope window PAGEREQ acts by what the walk finds. -/
theorem exec_pagereq_of_look (hva : (g.sreg x).toNat < 2 ^ 55) {l : Look}
    (hl : s.look (some e.core) e.ctx.pent (g.sreg x).toNat false = l) :
    exec (.pagereq x) s = .next (pagereqBy s r sp e (g.sreg x) l) := by
  have hhi : (g.sreg x).toNat < 2 ^ 56 := hva.trans (by decide)
  have htop : ¬(g.sreg x).extractLsb' 56 8 ≠ (0 : Byte) := fun h => hhi.not_ge ((topByte_ne_zero_iff _).mp h)
  have hwin : ¬((g.sreg x).getLsbD 55 && e.ctx.lr.rope) = true := fun h =>
    hva.not_ge ((getLsbD_55_iff hhi).mp (Bool.and_eq_true_iff.mp h).1)
  rw [exec_pagereq_eq hr he, if_neg htop, if_neg hwin, hl]

end Pagereq

section NotResident

variable {s : State} {r : SplitRef} {g : Group} {sp : Split} (hi : Issues s r g sp) (e : AccEnv) (va : W64) {w : W64} (entry : Nat)
include hi

/-- A page of a peer or of the host goes on: nothing is requested. -/
theorem pagereqBy_of_far (ht : 2 ≤ lfTier w) : pagereqBy s r sp e va (.absent w entry) = moved s r g sp (sp.pc + 4) :=
  (if_pos ht).trans (finish0_eq _ _ hi)

/-- A page of this device that does not follow is requested, with EXPLICIT. -/
theorem pagereqBy_of_requested (ht : lfTier w < 2) (hf : s.following e.ctx.pent (va &&& ~~~(0xFFFF : W64)) = false) :
    pagereqBy s r sp e va (.absent w entry) =
      became (s.pageRequest e.ctx.pent (va &&& ~~~(0xFFFF : W64)) false true (BitVec.ofNat 16 e.ctx.queue) e.ctx.index) r g
        { sp with status := .page, wbar := 4, wval := va, waitSc := [va &&& ~~~(0xFFFF : W64)] } := by
  rw [← awaitPage_eq (issues_pageRequest hi ..)]
  exact (if_neg ht.not_ge).trans (if_neg (Bool.not_eq_true _ ▸ hf))

/-- The fetch of a following page starts. -/
theorem pagereqBy_of_following (ht : lfTier w < 2) (hf : s.following e.ctx.pent (va &&& ~~~(0xFFFF : W64)) = true) :
    pagereqBy s r sp e va (.absent w entry) =
      became (s.startFollow e.ctx.pent (va &&& ~~~(0xFFFF : W64))) r g
        { sp with status := .page, wbar := 4, wval := va, waitSc := [va &&& ~~~(0xFFFF : W64)] } := by
  rw [← awaitPage_eq (issues_startFollow hi ..)]
  exact (if_neg ht.not_ge).trans (if_pos hf)

end NotResident

/-- Settles O18: TIME without its journal, and PAGEREQ by its address and by what the walk finds. -/
theorem timeAndPagereq : Obligations.TimeAndPagereq := by
  intro s r g sp tm cn c hg
  refine ⟨fun d hr hj => exec_time_of_no_journal hr hg hj, fun x e hr he => ⟨fun hva => exec_pagereq_above_bit_55 hr he hva,
    fun hva => ⟨fun l hl => ?hit, fun hl => exec_pagereq_of_look hr he hva hl,
      fun w l hl => ⟨fun ht => ?far, fun ht hf => ?requested, fun ht hf => ?following⟩⟩,
    fun hlo hhi hrope => exec_pagereq_in_rope_window hr he hlo hhi hrope⟩⟩
  case hit => exact (exec_pagereq_of_look hr he hva hl).trans (congrArg Host.Outcome.next (finish0_eq _ _ hr.toIssues))
  all_goals refine (exec_pagereq_of_look hr he hva hl).trans (congrArg Host.Outcome.next ?_)
  case far => exact pagereqBy_of_far hr.toIssues e _ l ht
  case requested => exact pagereqBy_of_requested hr.toIssues e _ l ht hf
  case following => exact pagereqBy_of_following hr.toIssues e _ l ht hf

end Sys2Proof.Proofs

/-!
PROOF. Scalar instructions that wait for the clauses of their split (R161), and the traps of jumps, BRC, TRAP, BRK and undefined words
(R170, R311, R348, R446).
-/

namespace Sys2Proof.Proofs

open Sys2Proof.Machine Sys2Proof.Safety Sys2Proof.Laws

/-! ### The wait of R161 -/

/-- R161: a register among s32 to s47 that a clause of the split still writes is busy for every instruction that names it. -/
theorem regBusy_of_pending {s : State} {c : Ctx} {sp : Split} {rs : List SReg} {j : Instr} {k : SReg} (hk : k ∈ rs) (hlo : 32 ≤ k.toNat)
    (hhi : k.toNat ≤ 47) (hj : j ∈ s.pendingCode c sp) (hd : laneScalarDst j = some k.toNat) : s.regBusy c sp rs = true := by
  have hrange : rs.any (fun r => 32 ≤ r.toNat && r.toNat ≤ 47) = true := List.any_eq_true.mpr ⟨k, hk, by simp [hlo, hhi]⟩
  have hnamed : rs.any (fun r => r.toNat == k.toNat) = true := List.any_eq_true.mpr ⟨k, hk, beq_self_eq_true _⟩
  rw [State.regBusy, hrange, Bool.true_and, Bool.or_eq_true]
  exact .inr (List.any_eq_true.mpr ⟨j, hj, by simpa only [hd] using hnamed⟩)

/-- A scalar operation whose registers are busy has no effect. -/
theorem scalarOp_of_wait {s : State} {r : SplitRef} {g : Group} {sp : Split} {rs : List SReg} (n : W64) (d : SReg) (val : Group → W64)
    (hi : Issues s r g sp) (hw : s.scalarWait r sp rs = true) : scalarOp s rs n d val = .next s := by
  rw [scalarOp, withIssuer_of_issues hi, if_pos hw]

/-- Settles O4: such an instruction is `scalarOp`, and the register that it names is busy. -/
theorem scalarInstructionWaitsForItsClauses : Obligations.ScalarInstructionWaitsForItsClauses := by
  intro s r g sp tm cn c i j d k hi hg hd hk hlo hhi hj hdst
  obtain ⟨n, val, hexec⟩ := exec_eq_scalarOp_of_aluDst hd
  have hwait : s.scalarWait r sp (aluRegs i) = true := by
    rw [State.scalarWait, ctxOf?_of_inGrid hi.group hg]
    exact regBusy_of_pending hk hlo hhi hj hdst
  rw [hexec]
  exact scalarOp_of_wait n d val hi hwait

/-! ### Traps of the scalar stream -/

/-- An address is 4-byte aligned when its two low bits are zero. -/
theorem lowBits_eq_zero_iff (va : W64) : va.extractLsb' 0 2 = (0 : BitVec 2) ↔ va.toNat % 4 = 0 := by
  rw [← BitVec.toNat_inj, BitVec.extractLsb'_toNat]
  simp

/-- R311: a jump to an address that is not 4-byte aligned is MISALIGN at the jump. -/
theorem goToAligned_of_misaligned {pc : W64} (s : State) (r : SplitRef) (sp : Split) (h : pc.toNat % 4 ≠ 0) :
    s.goToAligned r sp pc = s.takeTrap r { code := 4, pc := sp.pc, spc := sp.pc } :=
  if_neg (mt (lowBits_eq_zero_iff pc).mp h)

/-- R310: COND 6 and 7 name no condition. -/
theorem condHolds_of_six_le {c : BitVec 3} (h : 6 ≤ c.toNat) (x y : W64) : condHolds c x y = none := by
  obtain h6 | h7 : c.toNat = 6 ∨ c.toNat = 7 := by omega
  · simp [condHolds, h6]
  · simp [condHolds, h7]

/-- R171, R315: the ILLEGAL_INSTR of an undefined word reports its SOP. -/
theorem illegal_sop (s : State) (r : SplitRef) (sp : Split) (w : W32) : s.illegal r sp (sop w).toNat =
    s.takeTrap r { code := 1, pc := sp.pc, info := (w.extractLsb' 26 6).zeroExtend 64, spc := sp.pc } := by
  rw [State.illegal, State.scalarTrap, BitVec.ofNat_toNat]
  rfl

/-- Settles O6: each trap by what the meaning of its instruction takes. -/
theorem jumpsTrapBrkAndIllegalTakeTraps : Obligations.JumpsTrapBrkAndIllegalTakeTraps := by
  refine ⟨fun s r g sp a h ha => ?jmpr, fun s r g sp h ha => ?ret, fun s r g sp a i w =>
    ⟨fun h => ?trap, fun h => ?brk, fun h => ?illegal, fun b c o hc h => ?brc⟩⟩
  case jmpr =>
    change execJmpr a s = _
    rw [execJmpr, scalarRun_of_runs h, goToAligned_of_misaligned s r sp ha]
  case ret =>
    change execRet s = _
    rw [execRet, lk, scalarRun_of_runs h, goToAligned_of_misaligned s r sp ha]
  case trap =>
    change execTrap a i s = _
    rw [execTrap, scalarRun_of_runs h]
  case brk =>
    change execBrk s = _
    rw [execBrk, scalarRun_of_runs h]
  case illegal =>
    change execIllegalInstr w s = _
    rw [execIllegalInstr, withIssuer_of_issues h, illegal_sop]
  case brc =>
    change execBrc a b c o s = _
    rw [execBrc, scalarRun_of_runs h, condHolds_of_six_le hc]
    rfl

end Sys2Proof.Proofs

/-!
PROOF. Entering a handler and returning from it (R171, R173, R448): the split that `takeTrap` leaves, and what `Split.rett` makes of the
TRAPPC of a scalar trap and of a lane trap.
-/

namespace Sys2Proof.Proofs

open Sys2Proof.Machine Sys2Proof.Safety Sys2Proof.Laws

/-- Putting a split that is ready releases no JOIN: it alone changes. -/
theorem putSplit_of_ready {s : State} {r : SplitRef} {g : Group} {sp q : Split} (h : Issues s r g sp) (hst : q.status = .ready) :
    s.putSplit r q = became s r g q :=
  putSplit_eq q h (by simp [Split.reaches, hst, Status.reaches])

/-! ### Entering the handler -/

/-- R173, R447: the split that enters its handler at an address with a trap. -/
def enteredSplit (sp : Split) (now : Nat) (pc : W64) (t : Trap) : Split :=
  { sp with
    status := .ready, pc, cause := t.cause, tpc := t.pc, taddr := t.addr, tinfo := t.info, tspc := t.spc, handler := some t.kind, age := now
    waitOp := none, hsync := if sp.arrived then some (if sp.status = .cbar then 16 else sp.wbar, sp.wpar) else none, arrived := false
    waitSc := [] }

/-- What a trap that enters its handler gives up changes operations and berths alone. -/
theorem abandonLoad_unwait_eq (s : State) (r : SplitRef) (sp : Split) :
    (s.unwait r).abandonLoad sp = { s with ops := ((s.unwait r).abandonLoad sp).ops, berths := (s.unwait r).berths } := by
  unfold State.abandonLoad
  split <;> rfl

section Handler

variable {s : State} {r : SplitRef} {g : Group} {sp : Split} {tm : Team} {cn : Nat} {c : Ctx} (t : Trap)
variable (hi : Issues s r g sp) (hg : InGrid s g tm cn c)
include hi hg

/-- R173: outside a handler, a trap that a handler may take, of a launch that names one, enters it. -/
theorem takeTrap_eq_entered (hh : sp.handler = none) (hcode : t.code ∉ [11, 12, 13]) (hoff : c.lr.thoff ≠ 0) (hdual : c.lr.dual = false) :
    s.takeTrap r t =
      became ((s.unwait r).abandonLoad sp) r g (enteredSplit sp s.now c.lr.handler t) := by
  have hsp : g.split r.sp = sp := getD_of_getElem? hi.split
  have hissue : Issues ((s.unwait r).abandonLoad sp) r g sp := by
    rw [abandonLoad_unwait_eq]
    exact ⟨hi.cur, hi.group, hi.split⟩
  have hfatal : (fatalCause t.code || c.lr.thoff == 0 || c.lr.dual) = false := by
    have hcause : fatalCause t.code = false := Bool.not_eq_true _ ▸ mt (fatalCause_iff t.code).mp hcode
    simpa [hcause, hdual] using hoff
  rw [← putSplit_eq (enteredSplit sp s.now c.lr.handler t) hissue rfl]
  simp only [State.takeTrap, State.group?, hi.group, State.team?, hg.team, State.ctx?, hg.of, hg.ctx, hsp, hh, Option.isSome_none,
    Bool.false_eq_true, if_false, hfatal, enteredSplit]

end Handler

/-- Settles O19: such a trap leaves the split in its handler, and abandons at most what it waited for. -/
theorem takingATrapEntersTheHandler : Obligations.TakingATrapEntersTheHandler := by
  intro s r g sp tm cn c t hi hg hh hcode hoff hdual
  have hcode' : t.code ∉ [11, 12, 13] := fun h => hcode (List.mem_cons_of_mem 7 h)
  refine ⟨_, enteredSplit sp s.now c.lr.handler t, takeTrap_eq_entered t hi hg hh hcode' hoff hdual, ?_⟩
  rw [abandonLoad_unwait_eq]
  exact ⟨rfl, rfl, rfl, rfl, rfl, rfl, rfl, rfl, rfl, rfl, rfl, rfl, rfl, rfl, rfl, rfl⟩

/-! ### The return -/

/-- R173, R447: the split that leaves its handler, before its place is set; a wait that the handler interrupted goes on. -/
def leftHandler (sp : Split) : Split :=
  { sp with
    handler := none, tspc := 0, status := .ready, hsync := none, arrived := sp.hsync.isSome
    wbar := (sp.hsync.map (·.1)).getD sp.wbar, wpar := (sp.hsync.map (·.2)).getD sp.wpar }

section Rett

variable {sp : Split}

theorem rett_of_no_handler (hh : sp.handler = none) : sp.rett = none := by
  simp only [Split.rett, hh]

theorem rett_of_scalar (hh : sp.handler = some .scalar) :
    sp.rett = if sp.tpc.toNat % 4 = 0 then some { leftHandler sp with pc := sp.tpc } else none := by
  simp only [Split.rett, hh, lowBits_eq_zero_iff, leftHandler]

/-- The instruction of a clause that an address within it names. -/
theorem clauseOffset {addr tpc : W64} {n : Nat} (h : tpc = addr + 12 * BitVec.ofNat 64 n) (hn : n < 40) : (tpc - addr).toNat = 12 * n := by
  subst h
  bv_omega

/-- R448: of a lane trap whose TRAPPC names an instruction of the clause, the clause resumes there. -/
theorem rett_of_lane {c : ClauseRun} {n : Nat} (hh : sp.handler = some .lane) (hc : sp.clause = some c)
    (hpc : sp.tpc = c.addr + 12 * BitVec.ofNat 64 n) (hlo : c.done + 1 ≤ n) (hhi : n ≤ c.code.length) (hn : n < 40) :
    sp.rett = some { leftHandler sp with pc := sp.tspc, clause := some { c with done := n - 1 } } := by
  have hend : n ≠ c.code.length + 1 := by omega
  have hin : n ≤ c.code.length + 1 := by omega
  simp [Split.rett, hh, hc, clauseOffset hpc hn, hlo, hend, hin, leftHandler]

end Rett

section ExecRett

variable {s : State} {r : SplitRef} {g : Group} {sp : Split} (h : Runs s r g sp [])
include h

/-- R448: RETT that R173 does not accept is illegal. -/
theorem exec_rett_of_refused (hre : sp.handler ≠ some .lane) (hn : sp.rett = none) :
    exec .rett s = .next (s.takeTrap r { code := 1, pc := sp.pc, spc := sp.pc }) := by
  change execRett s = _
  have hlane : (sp.handler == some .lane) = false := beq_eq_false_iff_ne.mpr hre
  rw [execRett, scalarRun_of_runs h, hn, hlane]
  rfl

/-- RETT without a clause in progress leaves the split that R173 gives. -/
theorem exec_rett_of_no_clause {q : Split} (hre : sp.handler ≠ some .lane) (hc : sp.clause = none) (hq : sp.rett = some q)
    (hst : q.status = .ready) : exec .rett s = .next (became s r g { q with age := s.now }) := by
  change execRett s = _
  have hlane : (sp.handler == some .lane) = false := beq_eq_false_iff_ne.mpr hre
  rw [execRett, scalarRun_of_runs h, hq, hlane]
  simp only [putSplit_of_ready (q := { q with age := s.now }) h.toIssues hst, hc, Bool.false_and, Bool.false_eq_true, if_false]

/-- RETT of a lane trap leaves it, and the flags of its clause are pending again. -/
theorem exec_rett_of_lane {q : Split} {c k : ClauseRun} (hh : sp.handler = some .lane) (hc : sp.clause = some c) (hq : sp.rett = some q)
    (hk : q.clause = some k) (hst : q.status = .ready) :
    exec .rett s = .next ((became s r g { q with age := s.now }).modGroup r.g (·.resumeFlags k)) := by
  change execRett s = _
  rw [execRett, scalarRun_of_runs h, hq]
  simp only [putSplit_of_ready (q := { q with age := s.now }) h.toIssues hst]
  simp [hc, hh, hk]

end ExecRett

/-- Settles O21: each return by what R173 makes of its TRAPPC. -/
theorem rettReturnsFromTheHandler : Obligations.RettReturnsFromTheHandler := by
  intro s r g sp h
  refine ⟨fun hh => ?outside, fun hh ha => ?misaligned, fun hh ha hc => ?scalar, fun c n hh hc hpc hlo hhi hn => ?lane⟩
  case outside => exact exec_rett_of_refused h (by simp [hh]) (rett_of_no_handler hh)
  case misaligned => exact exec_rett_of_refused h (by simp [hh]) ((rett_of_scalar hh).trans (if_neg ha))
  case scalar =>
    have hq := (rett_of_scalar hh).trans (if_pos ha)
    exact ⟨_, exec_rett_of_no_clause h (by simp [hh]) hc hq rfl, rfl, rfl, rfl, rfl, rfl, rfl⟩
  case lane => exact ⟨_, exec_rett_of_lane h hh hc (rett_of_lane hh hc hpc hlo hhi hn) rfl rfl, rfl, rfl, rfl, rfl⟩

end Sys2Proof.Proofs

/-!
PROOF. Divergence (R152 to R155, R350, R351): BSPL by the lanes that it takes, and JOIN and EXIT by the split's stack.
-/

namespace Sys2Proof.Proofs

open Sys2Proof.Machine Sys2Proof.Safety Sys2Proof.Laws

/-- A split that issues does so still, as F makes it, when the splits of its group are mapped by their numbers. -/
theorem issues_of_mapped {s t : State} {r : SplitRef} {g : Group} {sp : Split} (h : Issues s r g sp) {f : Group → Group}
    {F : Nat × Split → Split} (hcur : t.cur = s.cur) (hgroups : t.exec.groups = modAt s.exec.groups r.g f)
    (hf : (f g).splits = (withIndex g.splits).map F) : Issues t r (f g) (F (r.sp, sp)) where
  cur := hcur.trans h.cur
  group := by rw [hgroups, getElem?_modAt, if_pos rfl, h.group, Option.map_some]
  split := by rw [hf, List.getElem?_map, getElem?_withIndex h.split, Option.map_some]

/-- A split issues still when another split of its group is replaced. -/
theorem issues_setSplit {s : State} {r : SplitRef} {g : Group} {sp : Split} (h : Issues s r g sp) {n : Nat} (q : Split) (hn : n ≠ r.sp) :
    Issues (setGroup s r.g { g with splits := g.splits.set n q }) r { g with splits := g.splits.set n q } sp := by
  have hl : r.g < s.exec.groups.length := (List.getElem?_eq_some_iff.mp h.group).1
  exact ⟨h.cur, by simp [setGroup, hl], (List.getElem?_set_ne hn).trans h.split⟩

/-! ### BSPL -/

theorem maskReg_eq_of_published {g : Group} {m : BitVec 3} (hp : g.maskUnpub m.toNat = false) (m0 : W64) :
    g.maskReg m.toNat m0 = if m = 0 then m0 else g.masks.getD m.toNat 0 := by
  by_cases hm : m = 0
  · simp [Group.maskReg, hm]
  · have hm' : m.toNat ≠ 0 := fun h => hm (BitVec.eq_of_toNat_eq h)
    have hpub : (g.munpub.getD m.toNat none).isSome = false := by simpa [Group.maskUnpub, hm'] using hp
    rw [Group.maskReg, if_neg hm', hpub, if_neg hm]
    rfl

/-- R152: the split that BSPL forms, with the taken lanes at the target. -/
def formedSplit (s : State) (sp : Split) (target taken : W64) : Split :=
  { Split.absent with status := .ready, pc := target, mask := taken, age := s.now, fsc := sp.fsc }

/-- The entry that BSPL pushes for the lanes that it leaves. -/
def pushedEntry (sp : Split) (jn : W16) (rest : W64) : StackEntry := { join := sp.pc + wordOff jn, mask := rest, fall := sp.pc + 8 }

/-- A split issues a branch on a published mask that takes some of its lanes and leaves the rest. -/
structure Branches (s : State) (r : SplitRef) (g : Group) (sp : Split) (m : Nat) (inv : Bool) (taken rest : W64) : Prop
    extends Issues s r g sp where
  published : g.maskUnpub m = false
  takes : taken = sp.mask &&& (if inv then ~~~(g.maskReg m sp.mask) else g.maskReg m sp.mask)
  leaves : rest = sp.mask &&& ~~~taken

section Bspl

variable {s : State} {r : SplitRef} {g : Group} {sp : Split} {m : Nat} {inv : Bool} {taken rest : W64}
variable (h : Branches s r g sp m inv taken rest) (tgt jn : W16)
include h

theorem bspl_of_none_taken (h0 : taken = 0) : s.bspl r g sp m inv tgt jn = moved s r g sp (sp.pc + 8) := by
  simp only [State.bspl, h.published, Bool.false_eq_true, if_false, ← h.takes, if_pos h0, goTo_eq _ _ h.toIssues]

theorem bspl_of_all_taken (h0 : taken ≠ 0) (h1 : rest = 0) : s.bspl r g sp m inv tgt jn = moved s r g sp (sp.pc + wordOff tgt) := by
  simp only [State.bspl, h.published, Bool.false_eq_true, if_false, ← h.takes, ← h.leaves, if_neg h0, if_pos h1, goTo_eq _ _ h.toIssues]

/-- With an empty stack and a free number n, the taken lanes form split n. -/
theorem bspl_of_free {n : Nat} (h0 : taken ≠ 0) (h1 : rest ≠ 0) (hst : sp.stack = []) (hn : g.freeSplit = some n) (hne : n ≠ r.sp) :
    ∃ g' sp', (s.inherit r n).exec.groups[r.g]? = some g' ∧ g'.splits[r.sp]? = some sp' ∧
      s.bspl r g sp m inv tgt jn = setGroup (s.inherit r n) r.g { g' with
        splits := (g'.splits.set n (formedSplit s sp (sp.pc + wordOff tgt) taken)).set r.sp (goesOn { sp' with mask := rest } (sp.pc + 8)) } := by
  obtain ⟨g', sp', hi⟩ : ∃ g' sp', Issues (s.inherit r n) r g' sp' := ⟨_, _, issues_of_mapped h.toIssues rfl rfl rfl⟩
  refine ⟨g', sp', hi.group, hi.split, ?_⟩
  have hsp : g'.split r.sp = sp' := getD_of_getElem? hi.split
  have hformed := issues_setSplit hi (formedSplit s sp (sp.pc + wordOff tgt) taken) hne
  have hroom : sp.stack.length < 8 := by simp [hst]
  have hgo := goTo_eq (sp.pc + 8) { sp' with mask := rest } hformed
  rw [moved, setGroup_setGroup] at hgo
  rw [← hgo, ← modGroup_eq (fun g => { g with splits := g.splits.set n (formedSplit s sp (sp.pc + wordOff tgt) taken) }) hi.group]
  simp only [State.bspl, h.published, Bool.false_eq_true, if_false, ← h.takes, ← h.leaves, if_neg h0, if_neg h1, if_pos hroom, if_pos hst, hn,
    State.group?, hi.group, hsp, formedSplit]

/-- Else the split keeps the taken lanes, and the others wait on its stack. -/
theorem bspl_of_pushed (h0 : taken ≠ 0) (h1 : rest ≠ 0) (hlen : sp.stack.length < 8) (hno : sp.stack ≠ [] ∨ g.freeSplit = none) :
    s.bspl r g sp m inv tgt jn =
      moved s r g { sp with mask := taken, stack := pushedEntry sp jn rest :: sp.stack } (sp.pc + wordOff tgt) := by
  have hfree : (if sp.stack = [] then g.freeSplit else none) = none := by
    rcases hno with hs | hf
    · exact if_neg hs
    · rw [hf, ite_self]
  simp only [State.bspl, h.published, Bool.false_eq_true, if_false, ← h.takes, ← h.leaves, if_neg h0, if_neg h1, if_pos hlen, hfree,
    goTo_eq _ _ h.toIssues, pushedEntry]

theorem bspl_of_full (h0 : taken ≠ 0) (h1 : rest ≠ 0) (hlen : 8 ≤ sp.stack.length) :
    s.bspl r g sp m inv tgt jn = s.takeTrap r { code := 3, sub := 1, pc := sp.pc, info := 0x13, spc := sp.pc } := by
  simp only [State.bspl, h.published, Bool.false_eq_true, if_false, ← h.takes, ← h.leaves, if_neg h0, if_neg h1, if_neg hlen.not_gt]
  rfl

end Bspl

/-- Settles O7: BSPL by the lanes that it takes, the split's stack and the free split numbers. -/
theorem bsplSplitsOrPushes : Obligations.BsplSplitsOrPushes := by
  intro s r g sp m inv tgt jn h hbusy hp sel taken rest target i
  have hb : Branches s r g sp m.toNat inv taken rest := ⟨h.toIssues, hp, by rw [maskReg_eq_of_published hp], rfl⟩
  have hexec : exec i s = .next (s.bspl r g sp m.toNat inv tgt jn) := by
    change execBspl m inv tgt jn s = _
    rw [execBspl, scalarRun_of_runs h, hbusy]
    rfl
  rw [hexec]
  refine ⟨fun h0 => ?_, fun h0 h1 => ?_, fun h0 h1 hst n hn hne => ?_, fun h0 h1 hlen hno => ?_, fun h0 h1 hlen => ?_⟩
  · rw [bspl_of_none_taken hb tgt jn h0]
  · rw [bspl_of_all_taken hb tgt jn h0 h1]
    rfl
  · obtain ⟨g', sp', hg', hsp', heq⟩ := bspl_of_free hb tgt jn h0 h1 hst hn hne
    exact ⟨g', sp', hg', hsp', congrArg Host.Outcome.next heq⟩
  · rw [bspl_of_pushed hb tgt jn h0 h1 hlen hno]
    rfl
  · rw [bspl_of_full hb tgt jn h0 h1 hlen]

/-! ### What releases no JOIN (R154) -/

/-- R154: while another split of its group can still reach a JOIN, putting a split releases none: it alone changes. -/
theorem putSplit_of_other {s : State} {r : SplitRef} {g : Group} {sp p : Split} {k : Nat} (h : Issues s r g sp) (q : Split) (hk : k ≠ r.sp)
    (hp : g.splits[k]? = some p) (hreach : p.reaches = true) : s.putSplit r q = became s r g q := by
  have hsettle := settle_of_reaches (g := { g with splits := g.splits.set r.sp q }) s.now ((List.getElem?_set_ne hk.symm).trans hp) hreach
  rw [State.putSplit, modGroup_eq _ h.group, hsettle, became]

/-- A group none of whose splits waits at a JOIN releases none. -/
theorem settle_of_no_join {g : Group} (now : Nat) (h : ∀ q ∈ g.splits, q.status ≠ .join) : g.settle now = g := by
  have hnone : g.splits.filter (·.status == .join) = [] := List.filter_eq_nil_iff.mpr fun q hq => by simp [h q hq]
  rw [Group.settle, hnone]
  split <;> rfl

/-- No JOIN is released by a split that goes elsewhere, in a group that is steady without it. -/
theorem putSplit_of_steady {s : State} {r : SplitRef} {g : Group} {sp q : Split} (h : Issues s r g sp) (hs : Steady g r.sp)
    (hq : q.status ≠ .join) : s.putSplit r q = became s r g q := by
  obtain ⟨k, p, hk, hp, hreach⟩ | hnone := hs
  · exact putSplit_of_other h q hk hp hreach
  · have hsettle : Group.settle { g with splits := g.splits.set r.sp q } s.now = { g with splits := g.splits.set r.sp q } := by
      refine settle_of_no_join _ fun x hx => ?_
      obtain ⟨k, hk⟩ := List.mem_iff_getElem?.mp hx
      by_cases hkr : k = r.sp
      · have hxq : x = q := by simpa [hkr, issues_lt h] using hk.symm
        exact hxq ▸ hq
      · exact hnone k x hkr ((List.getElem?_set_ne (Ne.symm hkr)).symm.trans hk)
    rw [State.putSplit, modGroup_eq _ h.group, hsettle, became]

/-! ### JOIN and EXIT -/

/-- A split that can still reach a JOIN is present (R155). -/
theorem present_of_reaches {q : Split} (h : q.reaches = true) : q.status.present = true := by
  cases hst : q.status <;> simp_all [Split.reaches, Status.reaches, Status.present]

section Stack

variable {s : State} {r : SplitRef} {g : Group} {sp : Split} (h : Runs s r g sp []) (hc : sp.clausesIssued = true)
include h hc

/-- R153, R154: with an empty stack a split waits at JOIN while another split can still reach it. -/
theorem exec_join_of_empty {k : Nat} {q : Split} (hst : sp.stack = []) (hk : k ≠ r.sp) (hq : g.splits[k]? = some q)
    (hreach : q.reaches = true) : exec .join s = .next (became s r g { sp with status := .join, wval := sp.pc }) := by
  change execJoin s = _
  rw [← putSplit_of_other h.toIssues _ hk hq hreach]
  simp only [execJoin, scalarRun_of_runs h, hc, hst, Bool.not_true, Bool.false_eq_true, if_false, State.waitJoin]

section Top

variable {e : StackEntry} {rest : List StackEntry} (hst : sp.stack = e :: rest)
include hst

/-- R351: a JOIN that the top entry does not name is ILLEGAL_CONV, sub-code 2. -/
theorem exec_join_elsewhere (hj : e.join ≠ sp.pc) :
    exec .join s = .next (s.takeTrap r { code := 3, sub := 2, pc := sp.pc, spc := sp.pc }) := by
  change execJoin s = _
  simp only [execJoin, scalarRun_of_runs h, hc, hst, Bool.not_true, Bool.false_eq_true, if_false, if_pos hj]
  rfl

/-- The other side runs first. -/
theorem exec_join_first (hj : e.join = sp.pc) (hf : e.fall.getLsbD 0 = false) :
    exec .join s = .next (moved s r g { sp with mask := e.mask, stack := { e with mask := sp.mask, fall := e.fall ||| 1 } :: rest } e.fall) := by
  change execJoin s = _
  simp only [execJoin, scalarRun_of_runs h, hc, hst, Bool.not_true, Bool.false_eq_true, if_false, if_neg (not_not.mpr hj), hf, Bool.not_false,
    if_true, goTo_eq _ _ h.toIssues]

/-- When that side comes back, the entry is popped, with both masks. -/
theorem exec_join_back (hj : e.join = sp.pc) (hf : e.fall.getLsbD 0 = true) (hrest : rest ≠ []) :
    exec .join s = .next (moved s r g { sp with mask := sp.mask ||| e.mask, stack := rest } (sp.pc + 4)) := by
  change execJoin s = _
  simp only [execJoin, scalarRun_of_runs h, hc, hst, Bool.not_true, Bool.false_eq_true, if_false, if_neg (not_not.mpr hj), hf,
    if_neg hrest, goTo_eq _ _ h.toIssues]

/-- With the last entry popped, the split waits at the JOIN while another one can still reach it. -/
theorem exec_join_last {k : Nat} {q : Split} (hj : e.join = sp.pc) (hf : e.fall.getLsbD 0 = true) (hrest : rest = []) (hk : k ≠ r.sp)
    (hq : g.splits[k]? = some q) (hreach : q.reaches = true) :
    exec .join s = .next (became s r g { sp with mask := sp.mask ||| e.mask, stack := [], status := .join, wval := sp.pc }) := by
  change execJoin s = _
  subst hrest
  simp only [execJoin, scalarRun_of_runs h, hc, hst, Bool.not_true, Bool.false_eq_true, if_false, if_neg (not_not.mpr hj), hf, if_true,
    State.waitJoin, putSplit_of_other h.toIssues _ hk hq hreach]

/-- R351: EXIT gives up the lanes of the split, and runs the other side. -/
theorem exec_exit_first (hh : sp.handler = none) (hf : e.fall.getLsbD 0 = false) :
    exec .exit s = .next (moved s r g { sp with mask := e.mask, stack := { e with mask := 0, fall := e.fall ||| 1 } :: rest } e.fall) := by
  change execExit s = _
  simp only [execExit, scalarRun_of_runs h, hh, Option.isSome_none, hc, hst, Bool.not_true, Bool.false_eq_true, if_false, hf, Bool.not_false,
    if_true, goTo_eq _ _ h.toIssues]

/-- Of the second side it goes on at the join, with the lanes that wait there. -/
theorem exec_exit_second (hh : sp.handler = none) (hf : e.fall.getLsbD 0 = true) :
    exec .exit s = .next (moved s r g { sp with mask := e.mask, stack := rest } e.join) := by
  change execExit s = _
  simp only [execExit, scalarRun_of_runs h, hh, Option.isSome_none, hc, hst, Bool.not_true, Bool.false_eq_true, if_false, hf,
    goTo_eq _ _ h.toIssues]

end Top

/-- R155: EXIT with an empty stack, of a split that is not its group's last. -/
theorem exec_exit_of_empty {k : Nat} {q : Split} (hh : sp.handler = none) (hst : sp.stack = []) (hk : k ≠ r.sp) (hq : g.splits[k]? = some q)
    (hreach : q.reaches = true) : exec .exit s = .next (became s r g { sp with status := .exited, mask := 0 }) := by
  change execExit s = _
  have hlast : (withIndex g.splits).all (fun p => p.1 == r.sp || !p.2.status.present) = false :=
    List.all_eq_false.mpr ⟨(k, q), List.mem_of_getElem? (getElem?_withIndex hq), by simp [hk, present_of_reaches hreach]⟩
  simp only [execExit, scalarRun_of_runs h, hh, Option.isSome_none, hc, hst, Bool.not_true, Bool.false_eq_true, if_false, State.exitSplit, hlast,
    Bool.not_false, if_true, putSplit_of_other h.toIssues _ hk hq hreach]

end Stack

/-- Settles O8: JOIN and EXIT by the split's stack. -/
theorem joinAndExitFollowTheStack : Obligations.JoinAndExitFollowTheStack := by
  intro s r g sp h hc
  refine ⟨?empty, fun e rest hst => ⟨exec_join_elsewhere h hc hst, exec_join_first h hc hst, exec_join_back h hc hst, ?last,
    exec_exit_first h hc hst, exec_exit_second h hc hst⟩, ?exit⟩
  case empty =>
    rintro hst ⟨k, hk, q, hq, hreach⟩
    exact exec_join_of_empty h hc hst hk hq hreach
  case last =>
    rintro hj hf hrest ⟨k, hk, q, hq, hreach⟩
    exact exec_join_last h hc hst hj hf hrest hk hq hreach
  case exit =>
    rintro hh hst ⟨k, hk, q, hq, hreach⟩
    exact exec_exit_of_empty h hc hh hst hk hq hreach

end Sys2Proof.Proofs

/-!
PROOF. Clauses, flags, segments and time in the scalar stream (R158, R217, R235, R352, R353, R355, R443, R445): what WAITF tests and what its
completion leaves, and RUN, SEG, YIELD and SLEEPT.
-/

namespace Sys2Proof.Proofs

open Sys2Proof.Machine Sys2Proof.Safety Sys2Proof.Laws

/-! ### WAITF -/

/-- R353: whether the flags of a mask hold, all of them or any one. -/
def waitHolds (g : Group) (any : Bool) (m : BitVec 12) : Bool := m == 0 || (if any then g.flags &&& m != 0 else g.flags &&& m == m)

theorem waitHolds_of_set {g : Group} {any : Bool} {m : BitVec 12}
    (h : m = 0 ∨ (any = true ∧ g.flags &&& m ≠ 0) ∨ (any = false ∧ g.flags &&& m = m)) : waitHolds g any m = true := by
  obtain rfl | ⟨rfl, hne⟩ | ⟨rfl, heq⟩ := h
  · rfl
  · simpa [waitHolds] using .inr hne
  · simpa [waitHolds] using .inr heq

/-- A flag of the mask that is not set stands in the way of all of them. -/
theorem waitHolds_all_of_missing {g : Group} {m : BitVec 12} {k : Nat} (hm : m.getLsbD k = true) (hf : g.flags.getLsbD k = false) :
    waitHolds g false m = false := by
  have hzero : m ≠ 0 := by
    rintro rfl
    simp at hm
  have hall : g.flags &&& m ≠ m := by
    intro heq
    have hk := congrArg (·.getLsbD k) heq
    simp [hf, hm] at hk
  simpa [waitHolds, hall] using hzero

theorem waitHolds_any_of_none {g : Group} {m : BitVec 12} (hm : m ≠ 0) (hf : g.flags &&& m = 0) : waitHolds g true m = false := by
  simpa [waitHolds, hf] using hm

/-- R235: flags seen by a waiter are an acquire of its core when a copy to memory set one of them. -/
theorem observe_eq {s : State} {n : Nat} {g : Group} {tm : Team} (hg : s.exec.groups[n]? = some g) (ht : s.exec.teams[g.team]? = some tm)
    (seen : BitVec 12) : s.observe n seen = if g.mflags &&& seen = 0 then s else s.flushL1 tm.die tm.site := by
  simp only [State.observe, State.group?, hg, State.acquire, State.coreOf, State.team?, ht]

/-- A fence that is passed changes no status. -/
theorem issues_fencePassed_status {s : State} {r : SplitRef} {g : Group} {sp : Split} (h : Issues s r g sp) (hit : BitVec 12 → Bool) :
    ∃ g' sp', Issues (s.fencePassed r hit) r g' sp' ∧ sp'.status = sp.status :=
  ⟨_, _, issues_of_mapped h rfl rfl rfl, rfl⟩

/-- The state in which a WAITF that has seen these flags goes on (R164, R217, R235). -/
def waitPassed (s : State) (r : SplitRef) (g : Group) (tm : Team) (seen : BitVec 12) : State :=
  (setGroup (if g.mflags &&& seen = 0 then s else s.flushL1 tm.die tm.site) r.g (g.publish (seen.zeroExtend 16))).fencePassed r
    (fun sets => sets &&& seen != 0)

section Waitf

variable {s : State} {r : SplitRef} {g : Group} {sp : Split} {tm : Team} {cn : Nat} {c : Ctx}
variable (h : Runs s r g sp []) (hg : InGrid s g tm cn c) (any : Bool) (m : BitVec 12)
include h hg

/-- R353: WAITF waits while a clause ahead names one of its flags, or they do not hold. -/
theorem exec_waitf_waits (hs : Steady g r.sp) (hw : (s.flagAhead c sp m || !waitHolds g any m) = true) :
    exec (.waitf any m) s = .next (became s r g { sp with
      status := .waitf, wflags := (if any then 0x8000 else 0) ||| m.zeroExtend 16 }) := by
  change execWaitf any m s = _
  rw [execWaitf, scalarRun_of_runs h, ctxOf?_of_inGrid h.group hg, ← putSplit_of_steady h.toIssues hs (by simp)]
  exact congrArg Host.Outcome.next (if_pos hw)

/-- R353: else it goes on. -/
theorem exec_waitf_passes (hw : (s.flagAhead c sp m || !waitHolds g any m) = false) (hst : sp.status = .ready) :
    GoesOn s (.waitf any m) (waitPassed s r g tm (g.flags &&& m)) r := by
  have hseen : Issues (s.observe r.g (g.flags &&& m)) r g sp := by
    rw [observe_eq h.group hg.team]
    split <;> exact ⟨h.cur, h.group, h.split⟩
  have hpub := issues_modGroup hseen (fun g' => g'.publish ((g.flags &&& m).zeroExtend 16)) rfl
  obtain ⟨g', sp', hpass, hst'⟩ := issues_fencePassed_status hpub (fun sets => sets &&& (g.flags &&& m) != 0)
  have heq : ((s.observe r.g (g.flags &&& m)).modGroup r.g (fun g' => g'.publish ((g.flags &&& m).zeroExtend 16))).fencePassed r
      (fun sets => sets &&& (g.flags &&& m) != 0) = waitPassed s r g tm (g.flags &&& m) := by
    rw [modGroup_eq _ hseen.group, observe_eq h.group hg.team]
    rfl
  rw [heq] at hpass
  refine ⟨g', sp', hpass.group, hpass.split, ?_⟩
  have hsp : g'.split r.sp = sp' := getD_of_getElem? hpass.split
  have hready : ¬ sp'.status = .waitf := by simp [hst', hst]
  change execWaitf any m s = _
  rw [execWaitf, scalarRun_of_runs h, ctxOf?_of_inGrid h.group hg, ← finish0_eq 4 sp' hpass]
  refine congrArg Host.Outcome.next ((if_neg (Bool.not_eq_true _ ▸ hw)).trans ?_)
  simp only [heq, State.group?, hpass.group, hsp, if_neg hready]

end Waitf

/-! ### RUN, SEG, YIELD and SLEEPT -/

section Flow

variable {s : State} {r : SplitRef} {g : Group} {sp : Split} {tm : Team} {cn : Nat} {c : Ctx}

/-- R158, R352: RUN enqueues the clause, with the split's mask and the registers that it may read. -/
theorem exec_run_enqueues (h : Runs s r g sp []) (hg : InGrid s g tm cn c) (i : BitVec 26) (hh : sp.handler = none) (hroom : sp.queued < 4) :
    exec (.run i) s = .next (moved s r g { sp with runq := sp.runq ++
      [{ addr := c.lr.lbase + 4 * i.zeroExtend 64, mask := sp.mask, snap := g.sregs.take 32, since := s.ops.nextId }] } (sp.pc + 4)) := by
  change execRun i s = _
  simp only [execRun, scalarRun_of_runs h, hh, Option.isSome_none, Bool.false_eq_true, if_false, if_neg hroom.not_ge,
    ctxOf?_of_inGrid h.group hg, finish0_eq _ _ h.toIssues]

/-- R355: SEG sets the segment width of its group. -/
theorem exec_seg_sets (h : Runs s r g sp []) (hg : InGrid s g tm cn c) {w : BitVec 3} (hh : sp.handler = none) (h0 : w ≠ 0) (h7 : w ≠ 7)
    (hgw : 2 ^ w.toNat ≤ c.lr.gw) (hc : ∀ q ∈ g.splits, q.clausesIssued = true) :
    exec (.seg w) s = .next (setGroup s r.g { g with segw := 2 ^ w.toNat, splits := g.splits.set r.sp (goesOn sp (sp.pc + 4)) }) := by
  change execSeg w s = _
  have hlegal : ¬(sp.handler.isSome ∨ w = 0 ∨ w = 7 ∨ c.lr.gw < 2 ^ w.toNat) := by
    simp only [hh, Option.isSome_none, Bool.false_eq_true, h0, h7, hgw.not_gt, or_self, not_false_eq_true]
  have hidle : g.splits.any (fun t => !t.clausesIssued) = false := List.any_eq_false.mpr fun q hq => by simp [hc q hq]
  have hi := issues_modGroup h.toIssues (fun g => { g with segw := 2 ^ w.toNat }) rfl
  have hgo := finish0_eq 4 sp hi
  rw [moved, modGroup_eq _ h.group, setGroup_setGroup, ← modGroup_eq (fun g => { g with segw := 2 ^ w.toNat }) h.group] at hgo
  simp only [execSeg, scalarRun_of_runs h, ctxOf?_of_inGrid h.group hg, if_neg hlegal, hidle, Bool.false_eq_true, if_false, hgo]

/-- R445: YIELD goes on, as the youngest. -/
theorem exec_yield_goes (h : Runs s r g sp []) : exec .yield s = .next (moved s r g { sp with age := s.now } (sp.pc + 4)) := by
  change execYield s = _
  rw [execYield, scalarRun_of_runs h, finish0_eq _ _ h.toIssues]

/-- R443: SLEEPT of a time that has come goes on. -/
theorem exec_sleept_of_past {a : SReg} (h : Runs s r g sp [a]) (ht : (g.sreg a).toNat ≤ s.now) :
    exec (.sleept a) s = .next (moved s r g sp (sp.pc + 4)) := by
  change execSleept a s = _
  rw [execSleept, scalarRun_of_runs h, ← finish0_eq _ _ h.toIssues]
  exact congrArg Host.Outcome.next (if_pos ht)

/-- Of a time to come it sleeps. -/
theorem exec_sleept_of_future {a : SReg} (h : Runs s r g sp [a]) (ht : s.now < (g.sreg a).toNat) :
    exec (.sleept a) s = .next (became s r g { sp with status := .sleep, wval := g.sreg a }) := by
  change execSleept a s = _
  rw [execSleept, scalarRun_of_runs h, ← putSplit_eq { sp with status := .sleep, wval := g.sreg a } h.toIssues rfl]
  exact congrArg Host.Outcome.next (if_neg ht.not_ge)

end Flow

/-- Settles O9: each instruction by its own meaning; WAITF by whether its flags hold and no clause ahead names one. -/
theorem runWaitfSegYieldSleept : Obligations.RunWaitfSegYieldSleept := by
  intro s r g sp tm cn c hg
  refine ⟨fun i h hh hroom => exec_run_enqueues h hg i hh hroom, fun any m h hs hw => exec_waitf_waits h hg any m hs ?waits,
    fun any m h ha hst hw => ?passes, fun w h hh h0 h7 hgw hc => exec_seg_sets h hg hh h0 h7 hgw hc, exec_yield_goes,
    fun a h => ⟨exec_sleept_of_past h, exec_sleept_of_future h⟩⟩
  case waits =>
    obtain hw | ⟨rfl, hm, hf⟩ | ⟨rfl, k, -, hm, hf⟩ := hw
    · rw [hw, Bool.true_or]
    · rw [waitHolds_any_of_none hm hf, Bool.not_false, Bool.or_true]
    · rw [waitHolds_all_of_missing hm hf, Bool.not_false, Bool.or_true]
  case passes =>
    exact exec_waitf_passes h hg any m (by rw [ha, waitHolds_of_set hw]; rfl) hst

end Sys2Proof.Proofs

/-!
PROOF. Fences (R176, R217, R219, R220, R229, R360, R404): what keeps a FENCE waiting or makes it trap, and what its release part and its
acquire part leave.
-/

namespace Sys2Proof.Proofs

open Sys2Proof.Machine Sys2Proof.Safety Sys2Proof.Laws

/-- A split issues still, as F makes it, when it alone is changed. -/
theorem issues_of_modSplit {s t : State} {r : SplitRef} {g : Group} {sp : Split} (h : Issues s r g sp) {f : Group → Group} {F : Split → Split}
    (hcur : t.cur = s.cur) (hgroups : t.exec.groups = modAt s.exec.groups r.g f) (hf : (f g).splits = modAt g.splits r.sp F) :
    Issues t r (f g) (F sp) where
  cur := hcur.trans h.cur
  group := by rw [hgroups, getElem?_modAt, if_pos rfl, h.group, Option.map_some]
  split := by rw [hf, getElem?_modAt, if_pos rfl, h.split, Option.map_some]

/-! ### What a FENCE leaves -/

/-- R220: an acquire of a team's group at a scope of clu or wider leaves no line of its core in L1. -/
def acquiredAt (tm : Team) (n : Nat) (s : State) : State := if 2 ≤ n then s.flushL1 tm.die tm.site else s

/-- R229: an SC fence at sys scope is the split's last fence, at this device time. -/
def orderedAt (r : SplitRef) (n now : Nat) (s : State) : State :=
  if n = 4 then s.modGroup r.g (fun g => { g with splits := modAt g.splits r.sp (fun sp => { sp with fsc := now }) }) else s

/-- The state of a FENCE whose parts have had their effect, before it is passed. -/
def fenceState (s : State) (r : SplitRef) (n : Nat) (rel acq sc : Bool) : State :=
  let u := if rel || n == 0 then s.performedAtGrp r.g else s
  if acq then u.fenceAcquire r n sc else u

/-- The FENCE is passed, and the split goes on. -/
def fenceDone (s : State) (r : SplitRef) : State :=
  let u := s.fencePassed r (fun _ => true)
  match u.group? r.g with
  | none => u
  | some g => u.finish0 r (g.split r.sp) 4

theorem fenceDone_eq {s : State} {r : SplitRef} {g : Group} {sp : Split} (h : Issues s r g sp) :
    ∃ g' sp', Issues (s.fencePassed r (fun _ => true)) r g' sp' ∧
      fenceDone s r = moved (s.fencePassed r (fun _ => true)) r g' sp' (sp'.pc + 4) := by
  obtain ⟨g', sp', hpass⟩ := issues_fencePassed h (fun _ => true)
  have hsp : g'.split r.sp = sp' := getD_of_getElem? hpass.split
  refine ⟨g', sp', hpass, ?_⟩
  rw [← finish0_eq 4 sp' hpass]
  simp only [fenceDone, State.group?, hpass.group, hsp]

section Acquire

variable {s : State} {r : SplitRef} {g : Group} {sp : Split} {tm : Team} {cn : Nat} {c : Ctx}

theorem issues_acquiredAt (h : Issues s r g sp) (tm : Team) (n : Nat) : Issues (acquiredAt tm n s) r g sp := by
  unfold acquiredAt
  split
  · exact ⟨h.cur, h.group, h.split⟩
  · exact h

theorem issues_orderedAt (h : Issues s r g sp) (n now : Nat) : ∃ g' sp', Issues (orderedAt r n now s) r g' sp' := by
  unfold orderedAt
  split
  · exact ⟨_, _, issues_of_modSplit h rfl rfl rfl⟩
  · exact ⟨g, sp, h⟩

/-- R278: an acquire of a context without a journal leaves no record. -/
theorem sysAcquire_of_no_journal (hg : s.exec.groups[r.g]? = some g) (hin : InGrid s g tm cn c) (hj : c.lr.jrnl = false) (k : Nat) :
    s.sysAcquire r.g k = s := by
  simp only [State.sysAcquire, ctxOf?_of_inGrid hg hin, replays_of_no_journal hin.ctx hj, record_of_no_journal hin.ctx hj,
    Bool.false_eq_true, if_false]

/-- Nor does it wait for one (R279). -/
theorem acquireHeld_of_no_journal (hg : s.exec.groups[r.g]? = some g) (hin : InGrid s g tm cn c) (hj : c.lr.jrnl = false) :
    s.acquireHeld r.g = false := by
  simp only [State.acquireHeld, ctxOf?_of_inGrid hg hin, recordHeld_of_no_journal hin.ctx hj]

/-- What the acquire part of a FENCE leaves, where it makes no record. -/
theorem fenceAcquire_eq {n : Nat} (hg : s.exec.groups[r.g]? = some g) (hin : InGrid s g tm cn c) (hj : n = 4 → c.lr.jrnl = false) (sc : Bool) :
    s.fenceAcquire r n sc = if sc then orderedAt r n s.now (acquiredAt tm n s) else acquiredAt tm n s := by
  have hacq : (if 2 ≤ n then s.acquire r.g else s) = acquiredAt tm n s := by
    simp only [State.acquire, State.coreOf, State.group?, hg, State.team?, hin.team, acquiredAt]
  have hexec : (acquiredAt tm n s).exec = s.exec := by
    unfold acquiredAt
    split <;> rfl
  have hnow : (acquiredAt tm n s).now = s.now := by
    unfold acquiredAt
    split <;> rfl
  have hsys : (if n = 4 then (acquiredAt tm n s).sysAcquire r.g r.sp else acquiredAt tm n s) = acquiredAt tm n s := by
    split
    · next hn => exact sysAcquire_of_no_journal (hexec ▸ hg) ⟨hexec ▸ hin.team, hexec ▸ hin.ctx, hin.of⟩ (hj hn) r.sp
    · rfl
  simp only [State.fenceAcquire, hacq, hsys, hnow, orderedAt]
  cases sc <;> simp

end Acquire

/-! ### When it waits, traps or completes -/

/-- A split issues a FENCE of a scope of R360, its earlier clauses have issued, and no acquiring access is outstanding. -/
structure FenceAt (s : State) (r : SplitRef) (g : Group) (sp : Split) (x : BitVec 3) : Prop extends Runs s r g sp [] where
  scope  : x.toNat < 5
  issued : g.earlierIssued r.sp = true
  calm   : s.acquiring r.g r.sp = false

section Waits

variable {s : State} {r : SplitRef} {g : Group} {sp : Split} {x : BitVec 3} (rel acq sc : Bool)

theorem fenceRun_of_illegal (h : Runs s r g sp []) (hx : 5 ≤ x.toNat) :
    fenceRun s x rel acq sc = .next (s.takeTrap r { code := 1, pc := sp.pc, info := 0x1A, spc := sp.pc }) := by
  rw [fenceRun, scalarRun_of_runs h]
  exact congrArg Host.Outcome.next (if_pos hx)

theorem fenceRun_of_early (h : Runs s r g sp []) (hx : x.toNat < 5) (hw : g.earlierIssued r.sp = false ∨ s.acquiring r.g r.sp = true) :
    fenceRun s x rel acq sc = .next s := by
  have hearly : (!g.earlierIssued r.sp || s.acquiring r.g r.sp) = true := by
    rcases hw with hw | hw <;> simp [hw]
  rw [fenceRun, scalarRun_of_runs h]
  exact congrArg Host.Outcome.next ((if_neg hx.not_ge).trans (if_pos hearly))

variable (h : FenceAt s r g sp x)
include h

/-- What a FENCE does then: a release part waits (R220), a remote fault is raised (R176), an acquire part waits (R219, R279), and else it
completes. -/
theorem fenceRun_eq : fenceRun s x rel acq sc = .next (
    if (rel || x.toNat == 0) && !s.released r.g x.toNat then s
    else if x.toNat == 4 && g.rfault.pend then s.raiseRemote r sp.pc sp.pc false .scalar
    else if acq && !s.loadsFixed r.g r.sp then s
    else if acq && x.toNat == 4 && s.acquireHeld r.g then s
    else fenceDone (fenceState s r x.toNat rel acq sc) r) := by
  have hearly : (!g.earlierIssued r.sp || s.acquiring r.g r.sp) = false := by simp [h.issued, h.calm]
  rw [fenceRun, scalarRun_of_runs h.toRuns]
  simp only [if_neg h.scope.not_ge, hearly, Bool.false_eq_true, if_false]
  rfl

/-- A release part waits for its release condition. -/
theorem fenceRun_of_unreleased (hrel : (rel || x.toNat == 0) = true) (hr : s.released r.g x.toNat = false) :
    fenceRun s x rel acq sc = .next s := by
  rw [fenceRun_eq rel acq sc h, hrel, hr]
  rfl

/-- R176: at sys scope a pending remote fault is raised, once a release part is released. -/
theorem fenceRun_of_fault (hrel : rel = true → s.released r.g x.toNat = true) (hx : x.toNat = 4) (hp : g.rfault.pend = true) :
    fenceRun s x rel acq sc = .next (s.raiseRemote r sp.pc sp.pc false .scalar) := by
  have hheld : ((rel || x.toNat == 0) && !s.released r.g x.toNat) = false := by
    cases rel <;> simp_all
  rw [fenceRun_eq rel acq sc h, hheld, hx, hp]
  rfl

section Calm

variable (hrel : (rel || x.toNat == 0) = true → s.released r.g x.toNat = true) (hfault : x.toNat = 4 → g.rfault.pend = false)
include hrel hfault

/-- What is left of a FENCE that is released and that no remote fault meets: its acquire part. -/
theorem fenceRun_of_calm : fenceRun s x rel acq sc = .next (
    if acq && !s.loadsFixed r.g r.sp then s
    else if acq && x.toNat == 4 && s.acquireHeld r.g then s
    else fenceDone (fenceState s r x.toNat rel acq sc) r) := by
  have hheld : ((rel || x.toNat == 0) && !s.released r.g x.toNat) = false := by
    cases hr : (rel || x.toNat == 0)
    · rfl
    · rw [hrel hr]
      rfl
  have hraise : (x.toNat == 4 && g.rfault.pend) = false := by
    cases hx : (x.toNat == 4)
    · rfl
    · rw [hfault (beq_iff_eq.mp hx)]
      rfl
  rw [fenceRun_eq rel acq sc h, hheld, hraise]
  rfl

/-- An acquire part waits for the split's loads. -/
theorem fenceRun_of_unfixed (hl : s.loadsFixed r.g r.sp = false) : fenceRun s x rel true sc = .next s := by
  rw [fenceRun_of_calm rel true sc h hrel hfault, hl]
  rfl

/-- A FENCE without one completes. -/
theorem fenceRun_of_release : fenceRun s x rel false false = .next (fenceDone (fenceState s r x.toNat rel false false) r) := by
  rw [fenceRun_of_calm rel false false h hrel hfault]
  rfl

/-- With one it completes once the loads are fixed, where no record of the acquire is to be made. -/
theorem fenceRun_of_acquire (hl : s.loadsFixed r.g r.sp = true) (hj : x.toNat = 4 → s.acquireHeld r.g = false) :
    fenceRun s x rel true sc = .next (fenceDone (fenceState s r x.toNat rel true sc) r) := by
  have hheld : (true && x.toNat == 4 && s.acquireHeld r.g) = false := by
    cases hx : (x.toNat == 4)
    · rfl
    · rw [hj (beq_iff_eq.mp hx)]
      rfl
  rw [fenceRun_of_calm rel true sc h hrel hfault, hl, hheld]
  rfl

end Calm

end Waits

/-! ### The obligation -/

/-- The four fences are one operation, by their parts. -/
theorem exec_fence {i : Instr} {x : BitVec 3} (hi : i ∈ [Instr.fenceAcq x, .fenceRel x, .fenceAr x, .fenceSc x]) :
    ∃ rel acq sc, ∀ s, exec i s = fenceRun s x rel acq sc := by
  simp only [List.mem_cons, List.not_mem_nil, or_false] at hi
  obtain rfl | rfl | rfl | rfl := hi
  all_goals exact ⟨_, _, _, fun _ => rfl⟩

/-- A FENCE that completes goes on from the state that its parts leave. -/
theorem goesOn_of_fenceDone {s v : State} {i : Instr} {r : SplitRef} {g : Group} {sp : Split} (hi : Issues v r g sp)
    (h : exec i s = .next (fenceDone v r)) : GoesOn s i (v.fencePassed r (fun _ => true)) r := by
  obtain ⟨g', sp', hpass, hdone⟩ := fenceDone_eq hi
  exact ⟨g', sp', hpass.group, hpass.split, h.trans (congrArg Host.Outcome.next hdone)⟩

section Completes

variable {s : State} {r : SplitRef} {g : Group} {sp : Split} {tm : Team} {cn : Nat} {c : Ctx} {x : BitVec 3}

/-- R220: a FENCE.REL leaves the group's stores performed for its team. -/
theorem fenceRel_goesOn (h : FenceAt s r g sp x) (hfault : x.toNat = 4 → g.rfault.pend = false) (hr : s.released r.g x.toNat = true) :
    GoesOn s (.fenceRel x) ((s.performedAtGrp r.g).fencePassed r (fun _ => true)) r :=
  goesOn_of_fenceDone (v := s.performedAtGrp r.g) ⟨h.cur, h.group, h.split⟩ (fenceRun_of_release true h (fun _ => hr) hfault)

/-- What the parts of a FENCE with an acquire part leave: a release part comes first, and at SC the order of R229 last. -/
def acquireLeaves (s : State) (r : SplitRef) (tm : Team) (n : Nat) (rel sc : Bool) : State :=
  let v := acquiredAt tm n (if rel || n == 0 then s.performedAtGrp r.g else s)
  if sc then orderedAt r n s.now v else v

/-- An acquire wider than the group has no release part. -/
theorem acquireLeaves_of_no_release (s : State) (r : SplitRef) (tm : Team) {n : Nat} (hn : n ≠ 0) :
    acquireLeaves s r tm n false false = acquiredAt tm n s := by
  simp [acquireLeaves, hn]

/-- At grp scope it is a release, and leaves L1 as it is. -/
theorem acquireLeaves_at_grp (s : State) (r : SplitRef) (tm : Team) : acquireLeaves s r tm 0 false false = s.performedAtGrp r.g := rfl

theorem fenceState_of_acquire (hg : s.exec.groups[r.g]? = some g) (hin : InGrid s g tm cn c) {n : Nat} (hj : n = 4 → c.lr.jrnl = false)
    (rel sc : Bool) : fenceState s r n rel true sc = acquireLeaves s r tm n rel sc := by
  unfold fenceState acquireLeaves
  cases rel || n == 0
  · exact fenceAcquire_eq hg hin hj sc
  · exact fenceAcquire_eq (s := s.performedAtGrp r.g) hg ⟨hin.team, hin.ctx, hin.of⟩ hj sc

theorem issues_acquireLeaves (h : Issues s r g sp) (tm : Team) (n : Nat) (rel sc : Bool) :
    ∃ g' sp', Issues (acquireLeaves s r tm n rel sc) r g' sp' := by
  unfold acquireLeaves
  have hperf : Issues (if rel || n == 0 then s.performedAtGrp r.g else s) r g sp := by
    split <;> exact ⟨h.cur, h.group, h.split⟩
  have hacq := issues_acquiredAt hperf tm n
  cases sc
  · exact ⟨g, sp, hacq⟩
  · exact issues_orderedAt hacq n s.now

/-- R219, R220, R229: a FENCE with an acquire part leaves what its parts do. -/
theorem fence_goesOn_of_acquire (h : FenceAt s r g sp x) {i : Instr} {rel sc : Bool} (hi : exec i s = fenceRun s x rel true sc)
    (hin : InGrid s g tm cn c) (hfault : x.toNat = 4 → g.rfault.pend = false) (hrel : (rel || x.toNat == 0) = true → s.released r.g x.toNat = true)
    (hl : s.loadsFixed r.g r.sp = true) (hj : x.toNat = 4 → c.lr.jrnl = false) :
    GoesOn s i ((acquireLeaves s r tm x.toNat rel sc).fencePassed r (fun _ => true)) r := by
  obtain ⟨g', sp', hissue⟩ := issues_acquireLeaves h.toIssues tm x.toNat rel sc
  refine goesOn_of_fenceDone hissue ?_
  rw [hi, fenceRun_of_acquire rel sc h hrel hfault hl (fun hx => acquireHeld_of_no_journal h.group hin (hj hx)),
    fenceState_of_acquire h.group hin hj]

end Completes

/-- R176: what a pending remote fault makes of a FENCE at sys scope. -/
theorem raiseRemote_eq {s : State} {r : SplitRef} {g : Group} (hg : s.exec.groups[r.g]? = some g) (sp : Split) :
    s.raiseRemote r sp.pc sp.pc false .scalar =
      (s.takeTrap r { code := 10, imp := true, pc := sp.pc, addr := g.rfault.va, info := g.rfault.word, spc := sp.pc }).modGroup
        r.g (fun g => { g with rfault := RFault.zero }) := by
  simp only [State.raiseRemote, State.group?, hg]

/-- Settles O14: each FENCE by its parts, its scope and what they wait for. -/
theorem fencesWaitAndDiscardL1 : Obligations.FencesWaitAndDiscardL1 := by
  intro s r g sp tm cn c x h hin n fences u passed
  refine ⟨fun i hi hn => ?illegal, fun i hi hn hw => ?early, fun hn hissued hcalm => ?_⟩
  case illegal =>
    obtain ⟨rel, acq, sc, hexec⟩ := exec_fence hi
    exact (hexec s).trans (fenceRun_of_illegal rel acq sc h hn)
  case early =>
    obtain ⟨rel, acq, sc, hexec⟩ := exec_fence hi
    exact (hexec s).trans (fenceRun_of_early rel acq sc h hn hw)
  have hf : FenceAt s r g sp x := ⟨h, hn, hissued, hcalm⟩
  refine ⟨fun hr => ?unreleased, fun hx hp => ?fault, fun hfault => ⟨fun hr => fenceRel_goesOn hf hfault hr, fun hx hl => ?unfixed,
    fun hr hl => ?unfixedRel, fun hl hj => ⟨fun hx => ?acq, fun hr => ⟨fun hx => ?acqAtGrp, ?ar, ?sc⟩⟩⟩⟩
  case unreleased =>
    exact ⟨fenceRun_of_unreleased true false false hf rfl hr, fenceRun_of_unreleased true true false hf rfl hr,
      fenceRun_of_unreleased true true true hf rfl hr⟩
  case fault =>
    have hgone (rel acq sc : Bool) (hrel : rel = true → s.released r.g x.toNat = true) :=
      (fenceRun_of_fault rel acq sc hf hrel hx hp).trans (congrArg Host.Outcome.next (raiseRemote_eq h.group sp))
    refine ⟨hgone false true false (fun hrel => absurd hrel (by decide)), fun hr => ?_⟩
    have hrel : s.released r.g x.toNat = true := by rwa [show x.toNat = 4 from hx]
    exact ⟨hgone true false false fun _ => hrel, hgone true true false fun _ => hrel, hgone true true true fun _ => hrel⟩
  case unfixed => exact fenceRun_of_unfixed false false hf (fun h0 => absurd (beq_iff_eq.mp h0) hx) hfault hl
  case unfixedRel => exact ⟨fenceRun_of_unfixed true false hf (fun _ => hr) hfault hl, fenceRun_of_unfixed true true hf (fun _ => hr) hfault hl⟩
  case acq =>
    have hgo := fence_goesOn_of_acquire hf (i := .fenceAcq x) (rel := false) (sc := false) rfl hin hfault
      (fun h0 => absurd (beq_iff_eq.mp h0) hx) hl hj
    rwa [acquireLeaves_of_no_release s r tm hx] at hgo
  case acqAtGrp =>
    have hgo := fence_goesOn_of_acquire hf (i := .fenceAcq x) (rel := false) (sc := false) rfl hin hfault (fun _ => hr) hl hj
    rwa [show x.toNat = 0 from hx, acquireLeaves_at_grp] at hgo
  case ar => exact fence_goesOn_of_acquire hf (i := .fenceAr x) (rel := true) (sc := false) rfl hin hfault (fun _ => hr) hl hj
  case sc => exact fence_goesOn_of_acquire hf (i := .fenceSc x) (rel := true) (sc := true) rfl hin hfault (fun _ => hr) hl hj

end Sys2Proof.Proofs

/-!
PROOF. Scalar accesses (R345, R346): the obligation fails. An operation that issues is told from the others by the number of the next
operation, and the remote pieces of the operation of that number are sent. No hypothesis of the clause about stores says that no operation in
flight has that number already. Where one has, its remote piece is sent again by the store of another address: with its link down it fails,
and leaves a remote fault in its group, which the clause says is unchanged.
-/

namespace Sys2Proof.Proofs

open Sys2Proof.Machine Sys2Proof.Safety

/-- A store of one byte to a peer. -/
def peerPiece : Piece :=
  { lane := 0, va := 0x20000, place := .peer 1 0 0, ca := 0, n := 1, sub := 0, data := [0], cmp := [], done := false, got := [], miss := false
    lanes := [(0, [0])] }

/-- A store to a peer that is in flight under a number. -/
def peerStore (id : Nat) : MOp :=
  { id, g := 0, sp := 1, heirs := [], pc := 0, code := 0x0E, clause := none, kind := .scalarStore, aop := 0, ty := 0, esize := 1, sx := false
    ord := 0, scope := 3, dst := 255, sd := 0, rmask := 0, lanes := 0, missed := 0, drop := [], dead := false, pieces := [peerPiece] }

/-- One group, whose split 0 issues with the address 0x10000 in s3. -/
def storing : State :=
  { ((State.reset.plant [] none).1.modGroup 0 (fun g => { g with sregs := g.sregs.set 3 0x10000 })) with cur := some ⟨0, 0⟩ }

/-- The same with a store to a peer in flight, under the number that the next operation takes. -/
def collided : State := { storing with ops := { storing.ops with mops := [peerStore storing.ops.nextId] } }

/-- Its group, its split, its team and its context, as an access reads them. -/
def collidedGroup : Group := (collided.exec.groups[0]?).getD (newGroup 0 0 0 LaunchRec.blank 0)
def collidedEnv : AccEnv :=
  { g := 0, sp := 0, core := (0, 0), cn := 0, ctx := collided.exec.ctxs.getD 0 (newCtx 0 0 0 0 LaunchRec.blank [])
    tm := collided.exec.teams.getD 0 (newTeam 0 0 (0, 0, 0) 0 0 0 0 0) }
/-- What a store of four zero bytes at 0x10000 meets. -/
def collidedMet : Met :=
  collided.meet collidedEnv (collidedGroup.split 0).fails .write true false [{ lane := 0, va := 0x10000, n := 4, data := [0, 0, 0, 0] }]

/-- Whether a remote fault is pending in group 0 after a step. -/
def faultAfter : Out → Option Bool
  | .next t => t.exec.groups[0]?.map (·.rfault.pend)
  | _ => none

/-- The model sends the piece of the store in flight: a remote fault is pending in the group. -/
theorem faultAfter_exec : faultAfter (exec (.ssw 2 3 0) collided) = some true := by decide +kernel

theorem runs_collided : Runs collided ⟨0, 0⟩ collidedGroup (collidedGroup.split 0) [2, 3] where
  cur := rfl
  group := by decide +kernel
  split := by decide +kernel
  free := by decide +kernel

theorem accEnv_collided : collided.accEnv 0 0 = some collidedEnv := rfl

/-- Nothing stops, delays or redirects the store. -/
theorem scalarClear_collided :
    ScalarClear collided ⟨0, 0⟩ (collidedGroup.split 0) collidedEnv .write 0x10000 4 [0, 0, 0, 0] collidedMet where
  acc := accEnv_collided
  single := by decide +kernel
  here := by decide +kernel
  budget := by decide +kernel
  first_ := by decide +kernel
  met := rfl
  good := by decide +kernel
  local_ := by decide +kernel

/-- Refutes O32: beside an operation that has the number of the next one, a store of local memory leaves a remote fault in its group. -/
theorem not_scalarAccessesIssueOrTrap : ¬ Obligations.ScalarAccessesIssueOrTrap := by
  rintro ⟨hclear, -⟩
  obtain ⟨hssw, -⟩ := hclear collided ⟨0, 0⟩ collidedGroup (collidedGroup.split 0) 2 3 0 collidedEnv collidedMet runs_collided
  obtain ⟨t, o, hexec, hgroups, -⟩ := hssw [0, 0, 0, 0] (by decide +kernel) scalarClear_collided (by decide +kernel)
  have hasked : faultAfter (exec (.ssw 2 3 0) collided) = some false := by
    rw [hexec, faultAfter, hgroups]
    decide +kernel
  exact absurd (faultAfter_exec.symm.trans hasked) (by decide)

end Sys2Proof.Proofs

/-!
PROOF. What every lane instruction without a memory access does (R158, R162, R165, R166, R168, R266): it runs for the started clause of its
split, applies its last-use marks, has its effect on its group, and its clause goes on.
-/

namespace Sys2Proof.Proofs

open Sys2Proof.Machine Sys2Proof.Safety Sys2Proof.Laws

/-! ### The clause goes on -/

/-- From g to g' the flags and the account of clauses alone have changed. -/
def FlagsOnly (g g' : Group) : Prop := g' = { g with clauses := g'.clauses, flags := g'.flags, pend := g'.pend }

namespace FlagsOnly

variable {g g' g'' : Group}

theorem refl (g : Group) : FlagsOnly g g := rfl

theorem trans (h : FlagsOnly g g') (h' : FlagsOnly g' g'') : FlagsOnly g g'' := by
  unfold FlagsOnly at h h' ⊢
  rw [h', h]

theorem vregs (h : FlagsOnly g g') : g'.vregs = g.vregs := (congrArg Group.vregs h :)
theorem sregs (h : FlagsOnly g g') : g'.sregs = g.sregs := (congrArg Group.sregs h :)
theorem masks (h : FlagsOnly g g') : g'.masks = g.masks := (congrArg Group.masks h :)
theorem ccs (h : FlagsOnly g g') : g'.ccs = g.ccs := (congrArg Group.ccs h :)
theorem fxf (h : FlagsOnly g g') : g'.fxf = g.fxf := (congrArg Group.fxf h :)
theorem poison (h : FlagsOnly g g') : g'.poison = g.poison := (congrArg Group.poison h :)
theorem splits (h : FlagsOnly g g') : g'.splits = g.splits := (congrArg Group.splits h :)

theorem foldl {α : Type} {f : Group → α → Group} (hf : ∀ g a, FlagsOnly g (f g a)) (l : List α) (g : Group) : FlagsOnly g (l.foldl f g) := by
  induction l generalizing g with
  | nil => exact refl g
  | cons a l ih => exact (hf g a).trans (ih (f g a))

end FlagsOnly

/-- R162: clauses that are over set flags, and nothing else of their group changes. -/
theorem settleClauses_eq {s : State} {n : Nat} {g : Group} (hg : s.exec.groups[n]? = some g) :
    ∃ g', s.settleClauses n = setGroup s n g' ∧ FlagsOnly g g' := by
  refine ⟨_, modGroup_eq _ hg, ?_⟩
  refine FlagsOnly.trans (g' := { g with clauses := [] }) rfl (.foldl (fun g t => ?_) _ _)
  extract_lets d0 d1 u v t'
  have hu : FlagsOnly g u := by
    unfold u
    split
    · split <;> rfl
    · rfl
  have hv : FlagsOnly u v := by
    unfold v
    split
    · split <;> rfl
    · rfl
  split
  · exact hu.trans hv
  · exact (hu.trans hv).trans rfl

/-- R158: a started clause after the instruction that it was at; none after its last one. -/
def nextClause (c : ClauseRun) : Option ClauseRun := if c.done + 1 < c.code.length then some { c with done := c.done + 1 } else none

/-- A group whose issuing split's clause is past its instruction. -/
def pastGroup (e : Env) (g : Group) : Group := { g with splits := g.splits.set e.r.sp { e.sp with clause := nextClause e.c } }

theorem setGroup_getElem? {s : State} {n : Nat} {g : Group} (hg : s.exec.groups[n]? = some g) (g' : Group) :
    (setGroup s n g').exec.groups[n]? = some g' := by
  have hl : n < s.exec.groups.length := (List.getElem?_eq_some_iff.mp hg).1
  simp [setGroup, hl]

theorem setGroup_self {s : State} {n : Nat} {g : Group} (hg : s.exec.groups[n]? = some g) : setGroup s n g = s := by
  obtain ⟨hl, rfl⟩ := List.getElem?_eq_some_iff.mp hg
  simp [setGroup]

section LaneDone

variable {s : State} {e : Env} {g : Group} (hg : s.exec.groups[e.r.g]? = some g) (hsp : g.splits[e.r.sp]? = some e.sp)
variable (hc : e.sp.clause = some e.c)
include hg hsp hc

/-- R158, R162: when a lane instruction has issued, its clause goes on and flags are set, and nothing else changes. -/
theorem laneDone_eq : ∃ g', s.laneDone e.r = setGroup s e.r.g g' ∧ FlagsOnly (pastGroup e g) g' := by
  have hsplit : g.split e.r.sp = e.sp := getD_of_getElem? hsp
  simp only [State.laneDone, State.group?, hg, hsplit, hc]
  by_cases hnext : e.c.done + 1 < e.c.code.length
  · have hpast : setGroup s e.r.g (pastGroup e g) = s.modGroup e.r.g (fun g => { g with
        splits := g.splits.set e.r.sp { e.sp with clause := some { e.c with done := e.c.done + 1 } } }) := by
      rw [modGroup_eq _ hg, pastGroup, nextClause, if_pos hnext]
    rw [if_pos hnext, ← hpast]
    split
    · obtain ⟨g', heq, hflags⟩ := settleClauses_eq (setGroup_getElem? hg (pastGroup e g))
      exact ⟨g', heq.trans (setGroup_setGroup ..), hflags⟩
    · exact ⟨_, rfl, .refl _⟩
  · rw [if_neg hnext, modGroup_eq _ hg]
    obtain ⟨g', heq, hflags⟩ := settleClauses_eq (setGroup_getElem? hg _)
    refine ⟨g', heq.trans (setGroup_setGroup ..), .trans (g' := _) ?_ hflags⟩
    rw [pastGroup, nextClause, if_neg hnext]
    rfl

end LaneDone

/-! ### A state of which a group, the operations and memory are replaced -/

/-- s with g for its group n, and with these operations and this memory. -/
def regrouped (s : State) (n : Nat) (g : Group) (ops : Ops) (m : Store) : State := { setGroup s n g with ops, store := m }

section Regrouped

variable {s : State} {n : Nat} {g₀ : Group} (hg : s.exec.groups[n]? = some g₀) (g g' : Group) (ops : Ops) (m : Store)

@[simp] theorem regrouped_store : (regrouped s n g ops m).store = m := rfl

theorem setGroup_regrouped : setGroup (regrouped s n g ops m) n g' = regrouped s n g' ops m := by
  simp [regrouped, setGroup]

include hg

theorem regrouped_group : (regrouped s n g ops m).exec.groups[n]? = some g := setGroup_getElem? hg g

theorem modGroup_regrouped (f : Group → Group) : (regrouped s n g ops m).modGroup n f = regrouped s n (f g) ops m :=
  (modGroup_eq f (regrouped_group hg g ops m)).trans (setGroup_regrouped ..)

end Regrouped

/-! ### Last-use marks -/

/-- R166: registers after the last uses of some of them. -/
def killed (v : List VReg) (regs : List Nat) : List VReg := regs.foldl (fun v n => v.set n VReg.dead) v

@[simp] theorem length_killed (v : List VReg) (regs : List Nat) : (killed v regs).length = v.length := by
  induction regs generalizing v with
  | nil => rfl
  | cons n regs ih => exact (ih _).trans List.length_set

theorem killed_of_not_mem {v : List VReg} {regs : List Nat} {n : Nat} (h : n ∉ regs) : (killed v regs)[n]? = v[n]? := by
  induction regs generalizing v with
  | nil => rfl
  | cons k regs ih =>
    obtain ⟨hk, hn⟩ := not_or.mp (mt List.mem_cons.mpr h)
    exact (ih hn).trans (List.getElem?_set_ne (Ne.symm hk))

theorem killed_of_mem {v : List VReg} {regs : List Nat} {n : Nat} (h : n ∈ regs) (hn : n < v.length) :
    (killed v regs)[n]? = some VReg.dead := by
  induction regs generalizing v with
  | nil => cases h
  | cons k regs ih =>
    by_cases hmem : n ∈ regs
    · exact ih hmem (by simpa using hn)
    · obtain rfl : n = k := (List.mem_cons.mp h).resolve_right hmem
      exact (killed_of_not_mem hmem).trans (by simp [hn])

/-- Last-use marks kill registers of their group, and what loads still bring to them. -/
theorem lastUse_eq {s : State} {n : Nat} {g : Group} (hg : s.exec.groups[n]? = some g) (regs : List Nat) :
    ∃ ops, s.lastUse n regs = regrouped s n { g with vregs := killed g.vregs regs } ops s.store := by
  by_cases hr : regs = []
  · refine ⟨s.ops, ?_⟩
    have hself : { g with vregs := killed g.vregs regs } = g := by rw [hr]; rfl
    rw [State.lastUse, if_pos hr, hself, regrouped, setGroup_self hg]
  · rw [State.lastUse, if_neg hr, modGroup_eq _ hg]
    exact ⟨_, rfl⟩

/-! ### A lane instruction -/

/-- A lane instruction runs for the started clause of the split that issues. -/
theorem withEnv_of_laneAt {s : State} {e : Env} (h : LaneAt s e) (k : Env → State) : withEnv s k = .next (k e) := by
  have hsp : e.g.split e.r.sp = e.sp := getD_of_getElem? h.split
  simp only [withEnv, withClause, h.cur, State.group?, h.group, hsp, h.clause, State.env, State.team?, h.team, State.ctx?, h.ctx, Option.map_some]

/-- From s to t a lane instruction has left g in its group, but for what its clause, which goes on, makes of it; m in memory; and operations. -/
def LaneLeaves (s t : State) (e : Env) (m : Store) (g : Group) : Prop :=
  ∃ ops g', t = regrouped s e.r.g g' ops m ∧ FlagsOnly (pastGroup e g) g'

/-- A group that an instruction has changed, but for its splits, is left so when the instruction has issued. -/
theorem laneLeaves_laneDone {s : State} {e : Env} {g : Group} (h : LaneAt s e) (hs : g.splits = e.g.splits) (ops : Ops) (m : Store) :
    LaneLeaves s ((regrouped s e.r.g g ops m).laneDone e.r) e m g := by
  obtain ⟨g', heq, hflags⟩ := laneDone_eq (regrouped_group h.group g ops m) (hs ▸ h.split) h.clause
  exact ⟨ops, g', heq.trans (setGroup_regrouped ..), hflags⟩

/-- Whether an instruction consumes an unreadable source: POISON (R164, R166, R195). -/
def readsDead (e : Env) (f : LaneWord) (srcs : List (Src × Nat)) (unread : Bool) : Bool :=
  (srcs.flatMap (fun p => p.1.regs p.2)).any (fun n => !(e.g.vreg n).readable) || e.g.maskUnpub f.msk.toNat || unread

/-- The group in which an instruction has its effect: its last uses are applied, and POISON tells of what it has read. -/
def primedGroup (e : Env) (f : LaneWord) (srcs : List (Src × Nat)) (unread : Bool) : Group :=
  { e.g with vregs := killed e.g.vregs (lastUses srcs), poison := e.g.poison || readsDead e f srcs unread }

/-- The group that an empty mask leaves (R168). -/
def unmaskedGroup (e : Env) (f : LaneWord) (srcs : List (Src × Nat)) : Group :=
  { e.g with vregs := killed e.g.vregs (lastUses srcs), poison := e.g.poison || e.g.maskUnpub f.msk.toNat }

section Effect

variable {s : State} {e : Env} {f : LaneWord} {srcs : List (Src × Nat)} {busy : Bool} (unread : Bool) (empty full : State → State)

/-- R168: with an empty mask an instruction has its last uses, and what it does then. -/
theorem laneEffect_of_empty (h : LaneAt s e) (hl : e.lanes (e.mask f) = []) : ∃ ops, s.laneEffect e f srcs busy unread empty full =
    (empty (regrouped s e.r.g (unmaskedGroup e f srcs) ops s.store)).laneDone e.r := by
  obtain ⟨ops, hlast⟩ := lastUse_eq (setGroup_getElem? h.group { e.g with poison := e.g.poison || e.g.maskUnpub f.msk.toNat }) (lastUses srcs)
  refine ⟨ops, ?_⟩
  simp only [State.laneEffect, if_pos hl, modGroup_eq _ h.group, hlast, regrouped, setGroup_setGroup]
  rfl

/-- R165: an instruction whose destination a load still writes waits. -/
theorem laneEffect_of_busy (hl : e.lanes (e.mask f) ≠ []) (hb : busy = true) : s.laneEffect e f srcs busy unread empty full = s := by
  simp only [State.laneEffect, if_neg hl, if_pos hb]

/-- Else, without poisoned data, it has its effect. -/
theorem laneEffect_of_free (h : LaneAt s e) (hl : e.lanes (e.mask f) ≠ []) (hb : busy = false)
    (hc : s.spoiledLane e.r.g (srcs.flatMap (fun p => p.1.regs p.2)) (e.lanes (e.mask f)) = none) :
    ∃ ops, s.laneEffect e f srcs busy unread empty full =
      (full (regrouped s e.r.g (primedGroup e f srcs unread) ops s.store)).laneDone e.r := by
  obtain ⟨ops, hlast⟩ := lastUse_eq h.group (lastUses srcs)
  refine ⟨ops, ?_⟩
  simp only [State.laneEffect, if_neg hl, hb, Bool.false_eq_true, if_false, hc, hlast, modGroup_regrouped h.group, primedGroup, readsDead,
    Bool.or_assoc]

end Effect

end Sys2Proof.Proofs

/-!
PROOF. Vector results (R165, R166, R168, R317, R319, R325): what a lane instruction with a vector destination writes, what it leaves alone,
and what an empty mask leaves.
-/

namespace Sys2Proof.Proofs

open Sys2Proof.Machine Sys2Proof.Safety Sys2Proof.Laws

/-! ### Writing vector registers -/

section SetVec

variable (gw : Nat) (mask : W64)

/-- Writing a destination changes vector registers alone. -/
theorem setVec_eq (g : Group) (n : Nat) (v : Nat → Nat) (k : Nat) :
    g.setVec gw mask n v k = { g with vregs := (g.setVec gw mask n v k).vregs } := by
  induction k generalizing g n v with
  | zero => rfl
  | succ k ih => exact (ih _ _ _).trans rfl

theorem vregs_setVec_of_outside {j : Nat} (g : Group) (n : Nat) (v : Nat → Nat) (k : Nat) (hj : j < n ∨ n + k ≤ j) :
    (g.setVec gw mask n v k).vregs[j]? = g.vregs[j]? := by
  induction k generalizing g n v with
  | zero => rfl
  | succ k ih =>
    have hne : j ≠ n := by omega
    refine (ih _ (n + 1) _ (by omega)).trans ?_
    rw [getElem?_modAt, if_neg hne]

/-- What a lane of the mask reads of a register that has been written. -/
theorem lane_write {l : Nat} (r : VReg) (v : Nat → W32) (hl : l < gw) (hm : mask.getLsbD l = true) : (r.write gw mask v).lane l = v l := by
  simp [VReg.lane, VReg.readable, VReg.write, hl, hm]

/-- What lanes hold is a matter of the vector registers alone. -/
theorem vec_of_vregs {g g' : Group} (h : g.vregs = g'.vregs) (n l k : Nat) : g.vec n l k = g'.vec n l k := by
  induction k generalizing n with
  | zero => rfl
  | succ k ih => rw [Group.vec, Group.vec, ih, Group.vreg, Group.vreg, h]

/-- R317, R319: in the lanes of the mask a destination holds what was written to it. -/
theorem vec_setVec {l : Nat} (hl : l < gw) (hm : mask.getLsbD l = true) (g : Group) (n : Nat) (v : Nat → Nat) (k : Nat)
    (hn : n + k ≤ g.vregs.length) : (g.setVec gw mask n v k).vec n l k = v l % 2 ^ (32 * k) := by
  induction k generalizing g n v with
  | zero => simp [Group.vec, Nat.mod_one]
  | succ k ih =>
    have hreg : n < g.vregs.length := by omega
    have hlow : ((g.setVec gw mask n v (k + 1)).vreg n).lane l = BitVec.ofNat 32 (v l) := by
      have hat : (g.setVec gw mask n v (k + 1)).vregs[n]? = some (g.vregs[n].write gw mask (fun l => BitVec.ofNat 32 (v l))) := by
        refine (vregs_setVec_of_outside gw mask _ (n + 1) _ k (.inl (Nat.lt_succ_self n))).trans ?_
        rw [getElem?_modAt, if_pos rfl, List.getElem?_eq_getElem hreg, Option.map_some]
      rw [Group.vreg, getD_of_getElem? hat, lane_write gw mask _ _ hl hm]
    have hhigh : (g.setVec gw mask n v (k + 1)).vec (n + 1) l k = v l / 2 ^ 32 % 2 ^ (32 * k) :=
      ih _ (n + 1) _ (by rw [length_modAt]; omega)
    have hpow : 2 ^ (32 * (k + 1)) = 2 ^ 32 * 2 ^ (32 * k) := by rw [Nat.mul_succ, Nat.add_comm, Nat.pow_add]
    rw [Group.vec, hlow, hhigh, BitVec.toNat_ofNat, hpow, Nat.mod_mul]

end SetVec

/-! ### The results of an instruction -/

/-- Registers that lose their poison marks: no byte of memory is another. -/
theorem cleansed_eq (g : Nat) (mask : W64) (l : List Nat) (m : Store) :
    ∃ poison, l.foldl (fun m' n => m'.cleanseReg g n mask) m = { m with poison } := by
  induction l generalizing m with
  | nil => exact ⟨m.poison, rfl⟩
  | cons n l ih =>
    obtain ⟨p, hp⟩ := ih (m.cleanseReg g n mask)
    exact ⟨p, hp⟩

section Written

variable (e : Env) (f : LaneWord) (w : Nat) (res : Nat → LaneOut) (g : Group)

/-- What the lanes compute, with nothing in those that do not execute. -/
def laneOuts : List LaneOut := (List.range e.gw).map (fun l => if (e.mask f).getLsbD l then res l else { d := 0 })

/-- A group with the results of a lane instruction (R319, R367, R369). -/
def writtenGroup : Group :=
  { g with
    vregs := if f.dst = 255 then g.vregs
      else (g.setVec e.gw (e.mask f) f.dst.toNat (fun l => ((laneOuts e f res).getD l { d := 0 }).d) (w / 32)).vregs
    ccs := if f.cw then (List.range e.gw).map (fun l =>
      if (e.mask f).getLsbD l then ((laneOuts e f res).getD l { d := 0 }).cc else g.ccs.getD l 0) else g.ccs
    fxf := (laneOuts e f res).foldl (fun a o => a ||| o.fl) g.fxf }

theorem writeOuts_regrouped {s : State} (h : LaneAt s e) (ops : Ops) (m : Store) :
    ∃ poison, (regrouped s e.r.g g ops m).writeOuts e f w res = regrouped s e.r.g (writtenGroup e f w res g) ops { m with poison } := by
  obtain ⟨poison, hp⟩ := cleansed_eq e.r.g (e.mask f) (dstRegs f w) m
  refine ⟨poison, ?_⟩
  simp only [State.writeOuts, modGroup_regrouped h.group, regrouped_store, hp]
  by_cases hd : f.dst = 255
  · simp only [writtenGroup, if_pos hd]
    rfl
  · simp only [writtenGroup, if_neg hd]
    rw [setVec_eq]
    rfl

theorem laneOuts_getD {l : Nat} (hl : l < e.gw) : (laneOuts e f res).getD l { d := 0 } = if (e.mask f).getLsbD l then res l else { d := 0 } := by
  simp [laneOuts, hl]

/-- R369: FXF gains the flags of the lanes that execute. -/
theorem fxf_writtenGroup : (writtenGroup e f w res g).fxf = (e.lanes (e.mask f)).foldl (fun a l => a ||| (res l).fl) g.fxf := by
  simp only [writtenGroup, laneOuts, List.foldl_map, Env.lanes, List.foldl_filter]
  congr 1
  funext a l
  by_cases hm : (e.mask f).getLsbD l = true
  · rw [if_pos hm, if_pos hm]
  · rw [if_neg hm, if_neg hm]
    exact BitVec.or_zero

/-- R367: with CW the codes of the lanes that execute are written. -/
theorem ccs_writtenGroup {l : Nat} (hl : l < e.gw) : (writtenGroup e f w res g).ccs.getD l 0 =
    if f.cw ∧ (e.mask f).getLsbD l = true then (res l).cc else g.ccs.getD l 0 := by
  by_cases hcw : f.cw = true
  · by_cases hm : (e.mask f).getLsbD l = true
    · simp [writtenGroup, hcw, hm, hl, laneOuts]
    · simp [writtenGroup, hcw, hm, hl]
  · simp [writtenGroup, hcw]

/-- R317, R319: a destination of w bits holds the results of the lanes that execute. -/
theorem vec_writtenGroup {l : Nat} (hw : 32 * (w / 32) = w) (hd : f.dst ≠ 255) (hn : f.dst.toNat + w / 32 ≤ g.vregs.length) (hl : l < e.gw)
    (hm : (e.mask f).getLsbD l = true) : (writtenGroup e f w res g).vec f.dst.toNat l (w / 32) = (res l).d % 2 ^ w := by
  have hvec : (writtenGroup e f w res g).vec f.dst.toNat l (w / 32) = (g.setVec e.gw (e.mask f) f.dst.toNat
      (fun l => ((laneOuts e f res).getD l { d := 0 }).d) (w / 32)).vec f.dst.toNat l (w / 32) :=
    vec_of_vregs (if_neg hd) ..
  rw [hvec, vec_setVec _ _ hl hm _ _ _ _ hn, laneOuts_getD e f res hl, if_pos hm, hw]

/-- The registers that are no destination stay. -/
theorem vregs_writtenGroup_of_not_mem {n : Nat} (hn : n ∉ dstRegs f w) : (writtenGroup e f w res g).vregs[n]? = g.vregs[n]? := by
  by_cases hd : f.dst = 255
  · simp only [writtenGroup, if_pos hd]
  · simp only [writtenGroup, if_neg hd]
    refine vregs_setVec_of_outside _ _ g _ _ _ ?_
    rw [dstRegs, if_neg hd] at hn
    have hout : ∀ k < w / 32, f.dst.toNat + k ≠ n := by simpa using hn
    by_contra hin
    exact hout (n - f.dst.toNat) (by omega) (by omega)

end Written

end Sys2Proof.Proofs

/-!
PROOF. What the lane instructions that compute a vector result leave alone (R165, R166, R168, R325), and what an empty mask leaves (R168).
-/

namespace Sys2Proof.Proofs

open Sys2Proof.Machine Sys2Proof.Safety Sys2Proof.Laws

/-! ### What is left -/

section Leaves

variable {s t : State} {e : Env} {m : Store} {g : Group}

/-- The clause of the issuing split has gone on, in a group that is the one left but for its splits and flags. -/
theorem LaneLeaves.clausePast (h : LaneAt s e) (hs : g.splits = e.g.splits) (hl : LaneLeaves s t e m g) :
    ∃ g', t.exec.groups[e.r.g]? = some g' ∧ ClausePast g' e ∧ FlagsOnly (pastGroup e g) g' := by
  obtain ⟨ops, g', rfl, hflags⟩ := hl
  have hat : e.r.sp < g.splits.length := hs ▸ (List.getElem?_eq_some_iff.mp h.split).1
  refine ⟨g', regrouped_group h.group g' ops m, ⟨{ e.sp with clause := nextClause e.c }, ?_, rfl⟩, hflags⟩
  rw [hflags.splits]
  exact List.getElem?_set_self hat

theorem LaneLeaves.store (hl : LaneLeaves s t e m g) : t.store = m := by
  obtain ⟨ops, g', rfl, -⟩ := hl
  rfl

/-- What an instruction leaves alone that changes, in its group, vector registers, codes, FXF and POISON. -/
theorem LaneLeaves.laneFrame {ds : List Nat} {poison : List PoisonLoc} (h : LaneAt s e) (hl : LaneLeaves s t e { s.store with poison } g)
    (hg : g = { e.g with vregs := g.vregs, ccs := g.ccs, fxf := g.fxf, poison := g.poison })
    (hv : ∀ n, n ∉ ds → g.vregs[n]? = e.g.vregs[n]?) : ∃ g', LaneFrame s t e g' ds := by
  obtain ⟨ops, g', rfl, hflags⟩ := hl
  have hsplits : g'.splits = e.g.splits.set e.r.sp { e.sp with clause := nextClause e.c } :=
    hflags.splits.trans (congrArg (List.set · _ _) (congrArg Group.splits hg :))
  refine ⟨g', fun n hn => List.getElem?_set_ne (Ne.symm hn), regrouped_group h.group .., rfl, ?_, fun n hn => ?_, fun k hk => ?_, fun sp' hsp => ?_,
    ⟨fun _ => rfl, fun _ => rfl, fun _ _ _ => rfl⟩⟩
  · obtain ⟨vr, cc, fx, po, rfl⟩ : ∃ vr cc fx po, g = { e.g with vregs := vr, ccs := cc, fxf := fx, poison := po } := ⟨_, _, _, _, hg⟩
    obtain ⟨cl, fl, pe, rfl⟩ : ∃ cl fl pe, g' = { pastGroup e _ with clauses := cl, flags := fl, pend := pe } := ⟨_, _, _, hflags⟩
    rfl
  · rw [hflags.vregs]
    exact hv n hn
  · rw [hsplits, List.getElem?_set_ne (Ne.symm hk)]
  · rw [hsplits, List.getElem?_set_self (List.getElem?_eq_some_iff.mp h.split).1] at hsp
    rw [← Option.some.inj hsp]

/-- An instruction that waits changes nothing. -/
theorem laneFrame_refl (h : LaneAt s e) (ds : List Nat) : LaneFrame s s e e.g ds where
  others _ _ := rfl
  group := h.group
  rest := rfl
  parts := rfl
  vregs _ _ := rfl
  splits _ _ := rfl
  own sp' hsp := by rw [← Option.some.inj (h.split.symm.trans hsp)]
  bytes := ⟨fun _ => rfl, fun _ => rfl, fun _ _ _ => rfl⟩

end Leaves

/-! ### The instructions -/

/-- Each of them writes what it computes in each lane. -/
theorem exec_of_laneShapes {f : LaneWord} : ∀ p ∈ laneShapes f, ∃ res, ∀ s, exec p.1 s = laneOp s f p.2.1 p.2.2 res := by
  simp only [laneShapes, List.map_cons, List.map_nil, List.cons_append, List.nil_append, List.forall_mem_cons, List.not_mem_nil, false_implies,
    implies_true, and_true]
  and_intros <;> exact ⟨_, fun _ => rfl⟩

section Write

variable {s : State} {e : Env} {f : LaneWord} {i : Instr} {srcs : List (Src × Nat)} {w : Nat}

theorem next_of_laneShapes (h : LaneAt s e) (hi : (i, srcs, w) ∈ laneShapes f) :
    ∃ res, exec i s = .next (s.laneWrite e f srcs w false res) := by
  obtain ⟨res, hres⟩ := exec_of_laneShapes _ hi
  exact ⟨res e, (hres s).trans (withEnv_of_laneAt h _)⟩

variable (unread : Bool) (res : Nat → LaneOut)

/-- R168: with an empty mask the last uses alone are left. -/
theorem laneWrite_of_empty (h : LaneAt s e) (hl : e.lanes (e.mask f) = []) :
    LaneLeaves s (s.laneWrite e f srcs w unread res) e s.store (unmaskedGroup e f srcs) := by
  obtain ⟨ops, heq⟩ := laneEffect_of_empty unread (fun s => s) (fun s => s.writeOuts e f w res) h (srcs := srcs) (busy := s.dstBusy e f w) hl
  rw [State.laneWrite, heq]
  exact laneLeaves_laneDone (g := unmaskedGroup e f srcs) h rfl ops s.store

/-- An instruction that nothing stops leaves its results. -/
theorem laneWrite_of_free (h : LaneAt s e) (hl : e.lanes (e.mask f) ≠ []) (hb : s.dstBusy e f w = false)
    (hc : s.spoiledLane e.r.g (srcs.flatMap (fun p => p.1.regs p.2)) (e.lanes (e.mask f)) = none) :
    ∃ poison, LaneLeaves s (s.laneWrite e f srcs w unread res) e { s.store with poison }
      (writtenGroup e f w res (primedGroup e f srcs unread)) := by
  obtain ⟨ops, heq⟩ := laneEffect_of_free unread (fun s => s) (fun s => s.writeOuts e f w res) h hl hb hc
  obtain ⟨poison, hw⟩ := writeOuts_regrouped e f w res (primedGroup e f srcs unread) h ops s.store
  refine ⟨poison, ?_⟩
  rw [State.laneWrite, heq, hw]
  exact laneLeaves_laneDone (g := writtenGroup e f w res (primedGroup e f srcs unread)) h rfl ops _

end Write

/-- Settles O28: an empty mask leaves the last uses alone. -/
theorem emptyMaskWritesNothing : Obligations.EmptyMaskWritesNothing := by
  intro s e f i srcs w h hl hm hi
  obtain ⟨res, hnext⟩ := next_of_laneShapes h hi
  have hleaves := laneWrite_of_empty (srcs := srcs) (w := w) false res h hl
  obtain ⟨g', hgroup, hpast, hflags⟩ := LaneLeaves.clausePast (g := unmaskedGroup e f srcs) h rfl hleaves
  have hvregs : g'.vregs = killed e.g.vregs (lastUses srcs) := hflags.vregs
  have hpoison : g'.poison = (e.g.poison || e.g.maskUnpub f.msk.toNat) := hflags.poison
  refine ⟨_, g', hnext, hgroup, hpast, fun n hn => ?_, fun n hn hlt => ?_, hflags.ccs, hflags.fxf, hflags.sregs, ?_, hleaves.store⟩
  · rw [hvregs, killed_of_not_mem hn]
  · rw [hvregs, killed_of_mem hn hlt]
  · rw [hpoison, hm, Bool.or_false]

/-- Settles O27: the cases of an instruction with an empty mask, of one that waits for its destination, and of one that has its effect. -/
theorem laneFrameIsDestinationAndLastUses : Obligations.LaneFrameIsDestinationAndLastUses := by
  intro s t e f i srcs w h hi hc ht
  obtain ⟨res, hnext⟩ := next_of_laneShapes h hi
  obtain rfl : s.laneWrite e f srcs w false res = t := Host.Outcome.next.inj (hnext.symm.trans ht)
  have hkilled : ∀ n, n ∉ dstRegs f w ++ lastUses srcs → (killed e.g.vregs (lastUses srcs))[n]? = e.g.vregs[n]? :=
    fun n hn => killed_of_not_mem (fun hmem => hn (List.mem_append_right _ hmem))
  by_cases hl : e.lanes (e.mask f) = []
  · exact (laneWrite_of_empty (srcs := srcs) (w := w) false res h hl).laneFrame (poison := s.store.poison) h rfl hkilled
  cases hb : s.dstBusy e f w with
  | true =>
    rw [State.laneWrite, laneEffect_of_busy _ _ _ hl hb]
    exact ⟨e.g, laneFrame_refl h _⟩
  | false =>
    obtain ⟨poison, hleaves⟩ := laneWrite_of_free false res h hl hb hc
    refine hleaves.laneFrame h rfl (fun n hn => ?_)
    rw [vregs_writtenGroup_of_not_mem e f w res _ (fun hmem => hn (List.mem_append_left _ hmem))]
    exact hkilled n hn

end Sys2Proof.Proofs

/-!
PROOF. The results of the cross-lane, mask and condition-code instructions (R161, R389 to R397), from what a lane instruction that executes
leaves in vector, scalar and mask registers.
-/

namespace Sys2Proof.Proofs

open Sys2Proof.Machine Sys2Proof.Safety Sys2Proof.Laws

/-! ### What an instruction that executes gives -/

section Gives

variable {s : State} {e : Env} {f : LaneWord} {i : Instr} {srcs : List (Src × Nat)}

/-- R317, R319, R367, R369: a vector result. -/
theorem laneGives_of_laneWrite {w : Nat} {unread : Bool} {out : Nat → LaneOut} (h : LaneFree s e f srcs w) (hw : 32 * (w / 32) = w)
    (hx : exec i s = .next (s.laneWrite e f srcs w unread out)) : LaneGives s e f w i out := by
  obtain ⟨poison, hleaves⟩ := laneWrite_of_free unread out h.toLaneAt h.some_ h.free h.clean
  obtain ⟨g', hgroup, hpast, hflags⟩ :=
    LaneLeaves.clausePast (g := writtenGroup e f w out (primedGroup e f srcs unread)) h.toLaneAt rfl hleaves
  have hlen : (primedGroup e f srcs unread).vregs.length = e.g.vregs.length := length_killed ..
  refine ⟨_, g', hx, hgroup, hpast, fun hd l hl hm => ?_, fun l hl => ?_, ?_⟩
  · rw [vec_of_vregs (g' := writtenGroup e f w out (primedGroup e f srcs unread)) hflags.vregs]
    exact vec_writtenGroup e f w out _ hw hd (hlen ▸ h.dst hd) hl hm
  · rw [hflags.ccs]
    exact ccs_writtenGroup e f w out _ hl
  · rw [hflags.fxf]
    exact fxf_writtenGroup e f w out _

/-- An instruction that executes and changes its group, but for its splits, leaves it so changed. -/
theorem laneEffect_of_runs {busy unread : Bool} (empty : State → State) {k : Group → Group} (h : LaneRuns s e f srcs) (hb : busy = false)
    (hk : (k (primedGroup e f srcs unread)).splits = e.g.splits)
    (hx : exec i s = .next (s.laneEffect e f srcs busy unread empty (fun s => s.modGroup e.r.g k))) :
    ∃ t g', exec i s = .next t ∧ t.exec.groups[e.r.g]? = some g' ∧ ClausePast g' e ∧
      FlagsOnly (pastGroup e (k (primedGroup e f srcs unread))) g' := by
  obtain ⟨ops, heq⟩ := laneEffect_of_free unread empty (fun s => s.modGroup e.r.g k) h.toLaneAt h.some_ hb h.clean
  rw [modGroup_regrouped h.group] at heq
  obtain ⟨g', hgroup, hpast, hflags⟩ := (laneLeaves_laneDone h.toLaneAt hk ops s.store).clausePast h.toLaneAt hk
  exact ⟨_, g', hx.trans (congrArg _ heq), hgroup, hpast, hflags⟩

/-- R6, R312: a scalar register holds what was written to it, but for s63. -/
theorem sreg_setSreg {g : Group} (hlen : g.sregs.length = 64) (d : SReg) (v : W64) (k : SReg) :
    (g.setSreg d v).sreg k = if k = d ∧ k ≠ 63 then v else g.sreg k := by
  by_cases hk : k = 63
  · rw [if_neg (not_and_of_not_right _ (not_not_intro hk)), hk, sreg_63, sreg_63]
  by_cases hd : k = d
  · subst hd
    rw [if_pos ⟨rfl, hk⟩, Group.sreg, if_neg hk, Group.setSreg, if_neg hk]
    exact getD_of_getElem? (List.getElem?_set_self (hlen ▸ k.isLt))
  · rw [if_neg (not_and_of_not_left _ hd), Group.sreg, Group.sreg, if_neg hk, if_neg hk, setSreg_eq]
    exact getD_sregsWith_of_ne hd

/-- R161, R325: a scalar result. -/
theorem scalarGives_of_laneScalar {empty v : W64} {fl : Flags} {unread : Bool} (h : LaneRuns s e f srcs)
    (hx : exec i s = .next (s.laneScalar e f srcs empty v fl unread)) : ScalarGives s e f i v := by
  intro hlen
  rw [State.laneScalar] at hx
  obtain ⟨t, g', ht, hgroup, hpast, hflags⟩ := laneEffect_of_runs _ h rfl (by rw [setSreg_eq]; rfl) hx
  refine ⟨t, g', ht, hgroup, hpast, fun k => ?_⟩
  have hsregs : g'.sregs = ((primedGroup e f srcs unread).setSreg (f.dst.truncate 6) v).sregs := hflags.sregs
  have hsreg : g'.sreg k = ((primedGroup e f srcs unread).setSreg (f.dst.truncate 6) v).sreg k := by
    rw [Group.sreg, Group.sreg, hsregs]
  rw [hsreg]
  exact sreg_setSreg (g := primedGroup e f srcs unread) hlen (f.dst.truncate 6) v k

/-- R394 to R396: a mask register. -/
theorem maskGives_of_laneMask {unread : Bool} {v : W64} (h : LaneRuns s e f srcs) (hb : s.loadIntoMask e.r.g f.dst.toNat = false)
    (hx : exec i s = .next (s.laneMask e f srcs unread v)) : MaskGives s e f i v := by
  rw [State.laneMask] at hx
  obtain ⟨t, g', ht, hgroup, hpast, hflags⟩ := laneEffect_of_runs _ h hb (by unfold Group.setMask; split <;> rfl) hx
  refine ⟨t, g', ht, hgroup, hpast, fun hd hlt => ?_⟩
  rw [hflags.masks, pastGroup, Group.setMask, if_neg hd]
  exact getD_of_getElem? (List.getElem?_set_self hlt)

/-- R397: the codes. -/
theorem ccs_of_ccput (h : LaneRuns s e f [(srcA f, 32)]) :
    ∃ t g', exec (.ccput f) s = .next t ∧ t.exec.groups[e.r.g]? = some g' ∧ ClausePast g' e ∧ ∀ l, l < e.gw →
      g'.ccs.getD l 0 = if (e.mask f).getLsbD l then BitVec.ofNat 4 (e.bits f (srcA f) 32 l) else e.g.ccs.getD l 0 := by
  have hx : exec (.ccput f) s = _ := (withEnv_of_laneAt h.toLaneAt _ : execCcput f s = _)
  obtain ⟨t, g', ht, hgroup, hpast, hflags⟩ := laneEffect_of_runs _ h rfl rfl hx
  refine ⟨t, g', ht, hgroup, hpast, fun l hl => ?_⟩
  rw [hflags.ccs]
  simp [pastGroup, primedGroup, hl]

end Gives

end Sys2Proof.Proofs

/-!
PROOF. O26: the cross-lane, mask and condition-code instructions (R389 to R397) compute what their rules say, and so give it.
-/

namespace Sys2Proof.Proofs

open Sys2Proof.Machine Sys2Proof.Safety Sys2Proof.Laws

/-- A value of a type is held in whole registers. -/
theorem tyHeld_registers (t : BitVec 4) : 32 * (tyHeld t / 32) = tyHeld t := by
  unfold tyHeld
  split <;> rfl

section Cross

variable {s : State} {e : Env} {f : LaneWord}

/-- LXCH's source lane, where it lies in the segment and in the mask (R390). -/
def lxchSource (f : LaneWord) (e : Env) (m : W64) (l : Nat) : Option Nat :=
  (lxchFrom (modLow f 3) (e.special 1 l) (e.bits f (srcB f) 32 l) e.g.segw).bind (fun j =>
    if j < e.g.segw ∧ m.getLsbD (l - e.special 1 l + j) = true then some (l - e.special 1 l + j) else none)

/-- R390: LXCH takes the value of its source lane, and without one its own. -/
theorem exec_lxch (h : LaneAt s e) : exec (.lxch f) s = .next (s.laneWrite e f [(srcA f, tyHeld f.ty), (srcB f, 32)] (tyHeld f.ty) false (fun l =>
    { d := e.opnd f (srcA f) f.ty ((lxchSource f e (e.mask f) l).getD l),
      cc := ccInt (tyWidth f.ty) (e.opnd f (srcA f) f.ty ((lxchSource f e (e.mask f) l).getD l)) (lxchSource f e (e.mask f) l).isSome false })) := by
  refine (withEnv_of_laneAt h _ : execLxch f s = _).trans ?_
  refine congrArg (fun out => Host.Outcome.next (s.laneWrite e f _ _ false out)) (funext fun l => ?_)
  have hsrc : lxchSource f e (e.mask f) l =
      match lxchFrom (modLow f 3) (e.special 1 l) (e.bits f (srcB f) 32 l) e.g.segw with
      | some j => if decide (j < e.g.segw) && (e.mask f).getLsbD (e.base l + j) then some (e.base l + j) else none
      | none => none := by
    unfold lxchSource Env.base
    cases lxchFrom (modLow f 3) (e.special 1 l) (e.bits f (srcB f) 32 l) e.g.segw with
    | none => rfl
    | some j => simp
  rw [hsrc]
  rfl

/-- R391: without a scalar destination. -/
theorem exec_lpoll (h : LaneAt s e) (hv : f.mod.getLsbD 8 = false) : exec (.lpoll f) s =
    .next (s.laneWrite e f [(srcA f, if modLow f 3 = 3 then 32 else tyHeld f.ty)] (if modLow f 3 = 3 then tyHeld f.ty else 32) false
      (fun l => { d := lpollOut f e (e.mask f) l, cc := ccOf false (lpollOut f e (e.mask f) l == 0) false false })) := by
  refine (withEnv_of_laneAt h _ : execLpoll f s = _).trans ?_
  rw [hv]
  rfl

/-- R392: without a scalar destination. -/
theorem exec_lred (h : LaneAt s e) (hv : f.mod.getLsbD 8 = false) : exec (.lred f) s =
    .next (s.laneWrite e f (src1 f) (tyHeld f.ty) false (fun l =>
      redOut f ((lredSeg f e (e.mask f) (e.base l)).getD (0, 0)).1 ((lredSeg f e (e.mask f) (e.base l)).getD (0, 0)).2)) := by
  refine (withEnv_of_laneAt h _ : execLred f s = _).trans ?_
  rw [hv]
  rfl

/-- R161, R391: with a scalar destination. -/
theorem exec_lpoll_scalar (h : LaneAt s e) (hv : f.mod.getLsbD 8 = true) {w : Nat} (hw : w = if modLow f 3 = 3 then 32 else tyHeld f.ty) :
    exec (.lpoll f) s = .next (s.laneScalar e f [(srcA f, w)] 0 (BitVec.ofNat 64
      (if modLow f 3 = 3 then maskOf ((e.lanes (e.mask f)).filter (fun k => e.bits f (srcA f) w k != 0))
        else ((e.lanes (e.mask f)).filter (fun k => e.bits f (srcA f) w k != 0)).length)) 0) := by
  subst hw
  refine (withEnv_of_laneAt h _ : execLpoll f s = _).trans ?_
  rw [hv]
  rfl

/-- R161, R392: with a scalar destination, which receives what the first segment reduces to. -/
theorem exec_lred_scalar (h : LaneAt s e) (hv : f.mod.getLsbD 8 = true) {b : Nat} (hb : e.segBases.head? = some b) {r : Nat × Flags}
    (hr : lredSeg f e (e.mask f) b = some r) : ∃ empty fl, exec (.lred f) s = .next (s.laneScalar e f (src1 f) empty
      (BitVec.ofNat 64 (if tySigned f.ty then wrapInt 64 (signedOf (tyWidth f.ty) r.1) else r.1)) fl) := by
  have hx : exec (.lred f) s = _ := (withEnv_of_laneAt h _ : execLred f s = _)
  obtain ⟨rest, hbases⟩ := List.head?_eq_some_iff.mp hb
  simp only [hv, if_true, hbases, List.map_cons, List.headD_cons, hr] at hx
  exact ⟨_, _, hx⟩

/-- MOP's function depends on a first mask up to code 5, and on a second one up to code 3. -/
theorem mopFn_of_used (full : Nat → W64) (a b : Nat) : ∀ op,
    mopFn op (full (if op ≤ 5 then a else 0)) (full (if op ≤ 3 then b else 0)) = mopFn op (full a) (full b)
  | 0 | 1 | 2 | 3 | 4 | 5 | 6 | _ + 7 => rfl

/-- R395: MOP's function of the mask registers that it reads. -/
theorem exec_mop (h : LaneAt s e) : ∃ unread, exec (.mop f) s = .next (s.laneMask e f [] unread
    (mopFn (modLow f 3) (e.g.maskReg f.sa.toNat e.c.mask) (e.g.maskReg f.sb.toNat e.c.mask))) := by
  have hx : exec (.mop f) s = _ := (withEnv_of_laneAt h _ : execMop f s = _)
  rw [← mopFn_of_used (fun n => e.g.maskReg n e.c.mask)]
  exact ⟨_, hx⟩

end Cross

/-- Settles O26: each instruction computes what its rule says, for a vector, a scalar or a mask destination. -/
theorem laneCrossMasksAndCodes : Obligations.LaneCrossMasksAndCodes := by
  refine ⟨fun s e f => ⟨fun h => ?_, fun hv => ⟨fun w x hw hx h => ?_, fun h => ?_⟩, fun h => ?_, fun h => ?_, fun h => ⟨?_, ?_⟩,
    fun h => ⟨?_, fun hb => ⟨?_, ?_⟩⟩, fun h => ⟨fun hb => ?_, ?_⟩⟩, fun s e f hv => ⟨fun w hw h => ?_, fun h b hb r hr => ?_⟩⟩
  · exact laneGives_of_laneWrite h (tyHeld_registers _) (exec_lxch h.toLaneAt)
  · subst hw hx
    refine laneGives_of_laneWrite h ?_ (exec_lpoll h.toLaneAt hv)
    split
    · exact tyHeld_registers _
    · rfl
  · exact laneGives_of_laneWrite h (tyHeld_registers _) (exec_lred h.toLaneAt hv)
  · exact laneGives_of_laneWrite h (tyHeld_registers _) (withEnv_of_laneAt h.toLaneAt _ : execLscan f s = _)
  · exact laneGives_of_laneWrite h rfl (withEnv_of_laneAt h.toLaneAt _ : execLpeer f s = _)
  · exact laneGives_of_laneWrite h rfl (withEnv_of_laneAt h.toLaneAt _ : execMcopyM2v f s = _)
  · exact laneGives_of_laneWrite h rfl (withEnv_of_laneAt h.toLaneAt _ : execCcget f s = _)
  · exact scalarGives_of_laneScalar h (withEnv_of_laneAt h.toLaneAt _ : execMcopyM2s f s = _)
  · obtain ⟨unread, hx⟩ := exec_mop h.toLaneAt
    exact maskGives_of_laneMask h hb hx
  · exact maskGives_of_laneMask h hb (withEnv_of_laneAt h.toLaneAt _ : execMcopyS2m f s = _)
  · exact maskGives_of_laneMask h hb (withEnv_of_laneAt h.toLaneAt _ : execMcopyV2m f s = _)
  · exact ccs_of_ccput h
  · exact scalarGives_of_laneScalar h (exec_lpoll_scalar h.toLaneAt hv hw)
  · obtain ⟨empty, fl, hx⟩ := exec_lred_scalar h.toLaneAt hv hb hr
    exact scalarGives_of_laneScalar h hx

end Sys2Proof.Proofs

/-!
PROOF. What memory reads after each operation of the store (O55), and its canonical form at reset (O56). -/

namespace Sys2Proof.Proofs

open Sys2Proof.Machine Sys2Proof.Safety Sys2Proof.Laws

/-- Settles O56: every table of memory is empty at reset. -/
theorem resetMemoryIsCanonical : Obligations.ResetMemoryIsCanonical := storeWf_reset

theorem sget_sclear {α : Type} {d : α} (m : Sparse α) (lo n a : Nat) :
    sget d (sclear m lo n) a = if lo ≤ a ∧ a < lo + n then d else sget d m a := by
  induction m with
  | nil => exact (ite_self _).symm
  | cons p r ih =>
    unfold sclear at ih ⊢
    rw [List.filter_cons]
    by_cases hp : p.1 < lo ∨ lo + n ≤ p.1
    · rw [if_pos (by simpa using hp)]
      simp only [sget, ih]
      split
      · next e => subst e; rw [if_neg (by omega)]
      · rfl
    · rw [if_neg (by simpa using hp), ih]
      split
      · rfl
      · rw [sget, if_neg (by omega)]

/-! ### What a byte of memory reads as -/

/-- The live bit of a frame, and the two tables behind its bytes, say what a byte reads as. -/
theorem byte_of_live {m : Store} {a : Nat} (h : (m.frame a).live = true) : m.byte a = (sget none m.dirty a).getD (sget 0 m.dram a) := by
  unfold Store.byte
  rw [if_pos h]
  split
  · next e => rw [e]; rfl
  · next e => rw [e]; rfl

theorem byte_of_dead {m : Store} {a : Nat} (h : (m.frame a).live = false) : m.byte a = 0 := if_neg (h ▸ Bool.false_ne_true)

/-- Two stores whose frames are live together, and whose tables read alike there, hold the same byte. -/
theorem byte_congr {m n : Store} {a : Nat} (hl : (m.frame a).live = (n.frame a).live)
    (hb : (sget none m.dirty a).getD (sget 0 m.dram a) = (sget none n.dirty a).getD (sget 0 n.dram a)) : m.byte a = n.byte a := by
  cases h : (n.frame a).live with
  | false => rw [byte_of_dead h, byte_of_dead (hl.trans h)]
  | true => rw [byte_of_live h, byte_of_live (hl.trans h), hb]

/-! ### A write -/

/-- A frame that becomes live reads as zero, as it did while it was dead. -/
theorem revive_byte {m : Store} (hm : StoreWf m) (pa a : Nat) : (m.revive pa).byte a = m.byte a := by
  unfold Store.revive
  split
  · rfl
  · next hl =>
    by_cases ha : a / 65536 = pa / 65536
    · rw [byte_of_dead (m := m) (a := a) (by unfold Store.frame at hl ⊢; rw [ha]; simpa using hl), byte_of_live]
      · simp only [sget_sclear]
        rw [if_pos (by omega), if_pos (by omega)]
        rfl
      · unfold Store.frame
        rw [sget_sset _ hm.frames, if_pos ha]
    · refine byte_congr ?_ ?_
      · unfold Store.frame
        rw [sget_sset _ hm.frames, if_neg ha]
      · simp only [sget_sclear]
        rw [if_neg (by omega), if_neg (by omega)]

theorem revive_live {m : Store} (hm : StoreWf m) (pa : Nat) : ((m.revive pa).frame pa).live = true := by
  unfold Store.revive
  split
  · assumption
  · unfold Store.frame
    rw [sget_sset _ hm.frames, if_pos rfl]

theorem put_plain (m : Store) (pa : Nat) (b : Byte) : m.put false pa b =
    { m.revive pa with dram := sset 0 (m.revive pa).dram pa b, dirty := sset none (m.revive pa).dirty pa none } := rfl
theorem put_cached (m : Store) (pa : Nat) (b : Byte) : m.put true pa b = { m.revive pa with dirty := sset none (m.revive pa).dirty pa (some b) } := rfl

theorem put_byte {m : Store} (hm : StoreWf m) (cached : Bool) (pa : Nat) (b : Byte) (a : Nat) :
    (m.put cached pa b).byte a = if a = pa then b else m.byte a := by
  have hr := storeWf_revive hm pa
  have hd : swf (0 : Byte) (m.revive pa).dram = true := hr.dram
  split
  · next ha =>
    subst ha
    have hl : ((m.put cached a b).frame a).live = true := by cases cached <;> exact revive_live hm a
    rw [byte_of_live hl]
    cases cached
    · rw [put_plain, sget_sset _ hd, sget_sset _ hr.dirty, if_pos rfl, if_pos rfl, Option.getD_none]
    · rw [put_cached, sget_sset _ hr.dirty, if_pos rfl, Option.getD_some]
  · next ha =>
    rw [← revive_byte hm pa a]
    cases cached
    · exact byte_congr rfl (by rw [put_plain, sget_sset _ hd, sget_sset _ hr.dirty, if_neg ha, if_neg ha])
    · exact byte_congr rfl (by rw [put_cached, sget_sset _ hr.dirty, if_neg ha])

/-- Bytes put one after the other: the first one, then the rest from the next place on. -/
theorem getD_window {pa a : Nat} {b x : Byte} {r : List Byte} :
    (if pa + 1 ≤ a ∧ a < pa + 1 + r.length then r.getD (a - (pa + 1)) 0 else if a = pa then b else x) =
      if pa ≤ a ∧ a < pa + (b :: r).length then (b :: r).getD (a - pa) 0 else x := by
  rw [List.length_cons]
  rcases Nat.lt_trichotomy a pa with h | h | h
  · rw [if_neg (by omega), if_neg (by omega), if_neg (by omega)]
  · subst h; rw [if_neg (by omega), if_pos rfl, if_pos (by omega), Nat.sub_self]; rfl
  · obtain ⟨k, rfl⟩ : ∃ k, a = pa + 1 + k := ⟨a - (pa + 1), by omega⟩
    rw [show pa + 1 + k - (pa + 1) = k by omega, show pa + 1 + k - pa = k + 1 by omega, List.getD_cons_succ, if_neg (by omega : ¬ pa + 1 + k = pa)]
    by_cases hk : k < r.length
    · rw [if_pos (by omega), if_pos (by omega)]
    · rw [if_neg (by omega), if_neg (by omega)]

theorem putBytes_byte {m : Store} (hm : StoreWf m) (cached : Bool) (pa : Nat) (d : List Byte) (a : Nat) :
    (m.putBytes cached pa d).byte a = if pa ≤ a ∧ a < pa + d.length then d.getD (a - pa) 0 else m.byte a := by
  induction d generalizing m pa with
  | nil => exact (if_neg (by simp)).symm
  | cons b r ih => rw [Store.putBytes, ih (storeWf_put hm cached pa b), put_byte hm, getD_window]

theorem hostPut_byte {m : Store} (hm : StoreWf m) (pa : Nat) (d : List Byte) (a : Nat) :
    sget 0 (m.hostPut pa d).host a = if pa ≤ a ∧ a < pa + d.length then d.getD (a - pa) 0 else sget 0 m.host a := by
  induction d generalizing m pa with
  | nil => exact (if_neg (by simp)).symm
  | cons b r ih =>
    have hh : swf (0 : Byte) m.host = true := hm.host
    refine (ih (storeWf_hostPut hm pa [b]) (pa + 1)).trans ?_
    rw [Store.hostPut, Store.hostPut, sget_sset _ hh, getD_window]

/-! ### A write back, a new tag, a frame made dead -/

/-- One byte of a line written back: DRAM takes what the MSC holds, and the MSC holds it no more. -/
def flushByte (m : Store) (p : Nat) (b : Byte) : Store := { m with dram := sset 0 m.dram p b, dirty := sset none m.dirty p none }

theorem storeWf_flushByte {m : Store} (hm : StoreWf m) (p : Nat) (b : Byte) : StoreWf (flushByte m p b) :=
  ⟨swf_sset b hm.dram, swf_sset none hm.dirty, hm.host, hm.frames⟩

theorem flushByte_byte {m : Store} (hm : StoreWf m) {p : Nat} {b : Byte} (hb : sget none m.dirty p = some b) (a : Nat) :
    (flushByte m p b).byte a = m.byte a := by
  have hd : swf (0 : Byte) m.dram = true := hm.dram
  refine byte_congr rfl ?_
  unfold flushByte
  rw [sget_sset _ hd, sget_sset _ hm.dirty]
  by_cases h : a = p
  · rw [h, hb, if_pos rfl, if_pos rfl]; rfl
  · rw [if_neg h, if_neg h]

theorem writeBack_byte {m : Store} (hm : StoreWf m) (line a : Nat) : (m.writeBack line).byte a = m.byte a := by
  unfold Store.writeBack
  generalize List.range 128 = l
  induction l generalizing m with
  | nil => rfl
  | cons i r ih =>
    rw [List.foldl_cons]
    dsimp only
    split
    · next b hb => exact (ih (storeWf_flushByte hm _ b)).trans (flushByte_byte hm hb a)
    · exact ih hm

theorem tag_byte {m : Store} (hm : StoreWf m) (f : Nat) (key : BitVec 10) (a : Nat) : (m.tag f key).byte a = m.byte a := by
  refine byte_congr ?_ rfl
  unfold Store.tag Store.frame
  rw [sget_sset _ hm.frames]
  split
  · next h => rw [h, Nat.mul_div_cancel _ (by decide)]
  · rfl

theorem kill_byte {m : Store} (hm : StoreWf m) (key : Option (BitVec 10)) (f a : Nat) :
    (m.kill key f).byte a = if a / 65536 = f then 0 else m.byte a := by
  split
  · next h => exact byte_of_dead (by unfold Store.kill Store.frame; rw [sget_sset _ hm.frames, if_pos h])
  · next h =>
    refine byte_congr ?_ ?_
    · unfold Store.kill Store.frame
      rw [sget_sset _ hm.frames, if_neg h]
    · unfold Store.kill
      rw [sget_sclear, sget_sclear, if_neg (by omega), if_neg (by omega)]

/-- Settles O55, by the equation of each operation. -/
theorem memoryReadsBackWhatWasWritten : Obligations.MemoryReadsBackWhatWasWritten := fun _ hm =>
  ⟨putBytes_byte hm, hostPut_byte hm, writeBack_byte hm, tag_byte hm, kill_byte hm⟩

end Sys2Proof.Proofs

/-!
PROOF. The rules for the canonical form of memory (O57): the form says something of the store alone, and of four of its tables;
what a branch, a fold, an optional value or a pair must give for the result to have it. -/

namespace Sys2Proof.Machine

open Sys2Proof.Safety

/-! ### Results that carry a state: every state in them has its tables in canonical form -/

def Served.Wf : Served → Prop
  | .answer s _ | .late s | .hold s _ => MemoryWf s

def Got.Wf : Got → Prop
  | .ok s _ _ | .wait s => MemoryWf s
  | _ => True

def StepGot.Wf : StepGot → Prop
  | .ok s _ | .bad s _ => MemoryWf s
  | .wait => True

def Checked.Wf : Checked → Prop
  | .ok s _ _ _ | .wait s | .refused s _ _ => MemoryWf s

def CpRes.Wf {α : Type} (P : α → Prop) : CpRes α → Prop
  | .ok a => P a
  | .wait s => MemoryWf s
  | .fail _ => True

def WaitGot.Wf : WaitGot → Prop
  | .wait s => MemoryWf s
  | _ => True

def RecGot.Wf : RecGot → Prop
  | .ok s _ _ | .wait s => MemoryWf s
  | _ => True

def Due.Wf : Due → Prop
  | .idle s | .run s _ => MemoryWf s

theorem Served.Wf.answer {x : Served} (h : x.Wf) {s r} (e : x = .answer s r) : MemoryWf s := by subst e; exact h
theorem Served.Wf.late {x : Served} (h : x.Wf) {s} (e : x = .late s) : MemoryWf s := by subst e; exact h
theorem Served.Wf.hold {x : Served} (h : x.Wf) {s p} (e : x = .hold s p) : MemoryWf s := by subst e; exact h
theorem Got.Wf.ok {x : Got} (h : x.Wf) {s b u} (e : x = .ok s b u) : MemoryWf s := by subst e; exact h
theorem Got.Wf.wait {x : Got} (h : x.Wf) {s} (e : x = .wait s) : MemoryWf s := by subst e; exact h
theorem StepGot.Wf.ok {x : StepGot} (h : x.Wf) {s b} (e : x = .ok s b) : MemoryWf s := by subst e; exact h
theorem StepGot.Wf.bad {x : StepGot} (h : x.Wf) {s b} (e : x = .bad s b) : MemoryWf s := by subst e; exact h
theorem Checked.Wf.ok {x : Checked} (h : x.Wf) {s l st sv} (e : x = .ok s l st sv) : MemoryWf s := by subst e; exact h
theorem Checked.Wf.wait {x : Checked} (h : x.Wf) {s} (e : x = .wait s) : MemoryWf s := by subst e; exact h
theorem Checked.Wf.refused {x : Checked} (h : x.Wf) {s r a} (e : x = .refused s r a) : MemoryWf s := by subst e; exact h
theorem CpRes.Wf.ok {α : Type} {P : α → Prop} {x : CpRes α} (h : x.Wf P) {a} (e : x = .ok a) : P a := by subst e; exact h
theorem CpRes.Wf.wait {α : Type} {P : α → Prop} {x : CpRes α} (h : x.Wf P) {s} (e : x = .wait s) : MemoryWf s := by subst e; exact h
theorem WaitGot.Wf.wait {x : WaitGot} (h : x.Wf) {s} (e : x = .wait s) : MemoryWf s := by subst e; exact h
theorem RecGot.Wf.ok {x : RecGot} (h : x.Wf) {s b u} (e : x = .ok s b u) : MemoryWf s := by subst e; exact h
theorem RecGot.Wf.wait {x : RecGot} (h : x.Wf) {s} (e : x = .wait s) : MemoryWf s := by subst e; exact h
theorem Due.Wf.idle {x : Due} (h : x.Wf) {s} (e : x = .idle s) : MemoryWf s := by subst e; exact h
theorem Due.Wf.run {x : Due} (h : x.Wf) {s i} (e : x = .run s i) : MemoryWf s := by subst e; exact h

end Sys2Proof.Machine

namespace Sys2Proof.Proofs

open Sys2Proof.Machine Sys2Proof.Safety Sys2Proof.Laws

/-! ### The store of a state, the tables of a store -/

/-- The tables of memory are the four that `StoreWf` names: the rest of a store does not matter. -/
theorem storeWf_rest {m : Store} {poison lines tlb follow follows usedFr freed} (h : StoreWf m) :
    StoreWf { m with poison, lines, tlb, follow, follows, usedFr, freed } := ⟨h.dram, h.dirty, h.host, h.frames⟩

theorem storeWf_dirty {m : Store} {l : Sparse (Option Byte)} (h : StoreWf m) (hl : swf none m.dirty = true → swf none l = true) :
    StoreWf { m with dirty := l } := ⟨h.dram, hl h.dirty, h.host, h.frames⟩

/-- The store is all of a state that matters. -/
theorem memoryWf_rest {s : State}
    {part sites lost clock power fabric host memctl caches exec ops berths ropes mgmt cur sel agenda fresh out} (h : MemoryWf s) :
    MemoryWf { s with part, sites, lost, clock, power, fabric, host, memctl, caches, exec, ops, berths, ropes, mgmt, cur, sel, agenda, fresh, out } := h

theorem memoryWf_mk {part sites lost clock power fabric host memctl store caches exec ops berths ropes mgmt cur sel agenda fresh out}
    (h : StoreWf store) :
    MemoryWf { part, sites, lost, clock, power, fabric, host, memctl, store, caches, exec, ops, berths, ropes, mgmt, cur, sel, agenda, fresh, out } := h

theorem memoryWf_of_mk {α : Type} {x : State × α} {t : State} {a : α} (h : MemoryWf x.1) (e : x = (t, a)) : MemoryWf t := by
  subst e; exact h

/-! ### Optional values and outcomes -/

/-- Every value that an optional result may hold has a property. -/
def OptWf {α : Type} (P : α → Prop) (o : Option α) : Prop := ∀ a, o = some a → P a

/-- The next state that an outcome may hold has canonical tables. -/
def OutWf (o : Out) : Prop := ∀ t, o = .next t → MemoryWf t

theorem outWf_next {s : State} (h : MemoryWf s) : OutWf (.next s) := fun _ e => Host.Outcome.next.inj e ▸ h
theorem outWf_fault {x : Fault} : OutWf (.fault x) := fun _ e => nomatch e
theorem outWf_refused {x : Refusal} : OutWf (.refused x) := fun _ e => nomatch e

section Option

variable {α β : Type} {P : α → Prop} {Q : β → Prop}

theorem optWf_none : OptWf P none := fun _ e => nomatch e
theorem optWf_some {a : α} (h : P a) : OptWf P (some a) := fun _ e => Option.some.inj e ▸ h

theorem optWf_map {o : Option α} {f : α → β} (ho : OptWf P o) (hf : ∀ a, P a → Q (f a)) : OptWf Q (o.map f) := by
  cases o with
  | none => exact optWf_none
  | some a => exact optWf_some (hf a (ho a rfl))

theorem optWf_bind {o : Option α} {f : α → Option β} (ho : OptWf P o) (hf : ∀ a, P a → OptWf Q (f a)) : OptWf Q (o.bind f) := by
  cases o with
  | none => exact optWf_none
  | some a => exact hf a (ho a rfl)

theorem optWf_map' {o : Option α} {f : α → β} (hf : ∀ a, Q (f a)) : OptWf Q (o.map f) :=
  optWf_map (P := fun _ => True) (fun _ _ => trivial) fun a _ => hf a
theorem optWf_bind' {o : Option α} {f : α → Option β} (hf : ∀ a, OptWf Q (f a)) : OptWf Q (o.bind f) :=
  optWf_bind (P := fun _ => True) (fun _ _ => trivial) fun a _ => hf a

theorem optWf_orElse {o : Option α} {f : Unit → Option α} (ho : OptWf P o) (hf : OptWf P (f ())) : OptWf P (o.orElse f) := by
  cases o with
  | none => exact hf
  | some a => exact ho

end Option

theorem memoryWf_getD {o : Option State} {d : State} (ho : OptWf MemoryWf o) (hd : MemoryWf d) : MemoryWf (o.getD d) := by
  cases o with
  | none => exact hd
  | some t => exact ho t rfl

/-! ### Branches -/

theorem ite_keeps {α : Type} {P : α → Prop} {c : Prop} [Decidable c] {a b : α} (ha : P a) (hb : P b) : P (if c then a else b) := by
  split <;> assumption

section Branch

variable {c : Prop} [Decidable c]

theorem memoryWf_ite {s t : State} (hs : MemoryWf s) (ht : MemoryWf t) : MemoryWf (if c then s else t) := ite_keeps hs ht
theorem outWf_ite {s t : Out} (hs : OutWf s) (ht : OutWf t) : OutWf (if c then s else t) := ite_keeps hs ht
theorem optWf_ite {α : Type} {P : α → Prop} {s t : Option α} (hs : OptWf P s) (ht : OptWf P t) : OptWf P (if c then s else t) := ite_keeps hs ht
theorem memoryWf_ite_fst {α : Type} {s t : State × α} (hs : MemoryWf s.1) (ht : MemoryWf t.1) : MemoryWf (if c then s else t).1 :=
  ite_keeps (P := fun x : State × α => MemoryWf x.1) hs ht

end Branch

/-! ### Folds -/

section Fold

variable {α β : Type} {l : List α}

theorem foldl_preserves {P : β → Prop} {f : β → α → β} {b : β} (hf : ∀ b a, P b → P (f b a)) (h : P b) : P (l.foldl f b) := by
  induction l generalizing b with
  | nil => exact h
  | cons a l ih => exact ih (hf b a h)

theorem memoryWf_foldl {f : State → α → State} {s : State} (hf : ∀ s a, MemoryWf s → MemoryWf (f s a)) (h : MemoryWf s) : MemoryWf (l.foldl f s) :=
  foldl_preserves hf h
theorem memoryWf_foldl_fst {f : State × β → α → State × β} {b : State × β} (hf : ∀ (b : State × β) a, MemoryWf b.1 → MemoryWf (f b a).1)
    (h : MemoryWf b.1) : MemoryWf (l.foldl f b).1 := foldl_preserves (P := fun b : State × β => MemoryWf b.1) hf h
theorem optWf_foldl {P : β → Prop} {f : Option β → α → Option β} {b : Option β} (hf : ∀ b a, OptWf P b → OptWf P (f b a)) (h : OptWf P b) :
    OptWf P (l.foldl f b) := foldl_preserves hf h

end Fold

end Sys2Proof.Proofs

/-!
PROOF. Canonical memory (O57): lines of the MSC, writes of the device, and the marks of leaf entries keep it. -/

namespace Sys2Proof.Proofs

open Sys2Proof.Machine Sys2Proof.Safety Sys2Proof.Laws

variable {s : State}

theorem memoryWf_dropPeers {gone} (h : MemoryWf s) : MemoryWf (s.dropPeers gone) := memoryWf_mk (storeWf_rest h)

theorem memoryWf_dropMscLine {line} (h : MemoryWf s) : MemoryWf (s.dropMscLine line) :=
  memoryWf_ite (memoryWf_dropPeers h) (memoryWf_mk (storeWf_dropLine h _))

theorem memoryWf_allocLine {line bd pent ctx stream} (h : MemoryWf s) : MemoryWf (s.allocLine line bd pent ctx stream) := by
  unfold State.allocLine
  split
  · exact memoryWf_mk (storeWf_rest h)
  · dsimp only
    split
    · exact memoryWf_mk (storeWf_rest h)
    · split
      exacts [h, memoryWf_mk (storeWf_rest (memoryWf_dropMscLine h))]

theorem memoryWf_touchLine {pa pent ctx stream} (h : MemoryWf s) : MemoryWf (s.touchLine pa pent ctx stream) := memoryWf_allocLine h

theorem memoryWf_memWrite {pent ctx ca stream pa data} (h : MemoryWf s) : MemoryWf (s.memWrite pent ctx ca stream pa data) :=
  memoryWf_mk (storeWf_cleanse (storeWf_putBytes (memoryWf_ite (memoryWf_touchLine h) h) _ _ _) _ _)

theorem memoryWf_modSnap {e f} (h : MemoryWf s) : MemoryWf (s.modSnap e f) := h

theorem memoryWf_forStore {pa} (h : MemoryWf s) : OptWf (fun p => MemoryWf p.1) (s.forStore pa) := by
  unfold State.forStore
  dsimp only
  split
  · exact optWf_some h
  · split
    · exact optWf_none
    · exact optWf_some (memoryWf_modSnap (memoryWf_mk (storeWf_carryPoison (storeWf_putBytes (storeWf_takeFrame h _ _) _ _ _) _ _ _)))

theorem memoryWf_noteWrite {pa n} (h : MemoryWf s) : MemoryWf (s.noteWrite pa n) := by
  unfold State.noteWrite
  split <;> exact h

theorem memoryWf_devNow {pa x} (h : MemoryWf s) : OptWf MemoryWf (s.devNow pa x) := by
  unfold State.devNow
  refine optWf_ite optWf_none ?_
  split
  · exact optWf_none
  · next t p he =>
    have hp : ∀ b, MemoryWf (({ t with store := (t.store.putBytes false p b).cleanse p b.length } : State).noteWrite pa b.length) := fun b =>
      memoryWf_noteWrite (memoryWf_mk (storeWf_cleanse (storeWf_putBytes (memoryWf_forStore h _ he) _ _ _) _ _))
    cases x with
    | bytes b => exact optWf_some (hp b)
    | leaf bits clear => exact optWf_some (memoryWf_ite (hp _) (memoryWf_forStore h _ he))

theorem memoryWf_devDo {pa x} (h : MemoryWf s) : MemoryWf (s.devDo pa x) := memoryWf_ite h (memoryWf_getD (memoryWf_devNow h) h)
theorem memoryWf_devWrite {pa data} (h : MemoryWf s) : MemoryWf (s.devWrite pa data) := memoryWf_devDo h
theorem memoryWf_settleLate (h : MemoryWf s) : MemoryWf (s.settleLate) := memoryWf_foldl (fun _ _ h1 => memoryWf_devDo h1) h

theorem memoryWf_markLeaf {e va write} (h : MemoryWf s) : MemoryWf (s.markLeaf e va write) := by
  unfold State.markLeaf
  split
  exacts [h, memoryWf_mk (storeWf_cacheEntries (memoryWf_ite h (memoryWf_devDo h)) _ _)]

theorem memoryWf_markWrite {pent va} (h : MemoryWf s) : MemoryWf (s.markWrite pent va) := by
  unfold State.markWrite
  split
  exacts [memoryWf_markLeaf h, h]

theorem memoryWf_countDead {pent} (h : MemoryWf s) : MemoryWf (s.countDead pent) := h

end Sys2Proof.Proofs

/-!
PROOF. Canonical memory (O57): the operations of the state, the barriers and the traps keep it. -/

namespace Sys2Proof.Proofs

open Sys2Proof.Machine Sys2Proof.Safety Sys2Proof.Laws

variable {s : State}

theorem memoryWf_modGroup {g f} (h : MemoryWf s) : MemoryWf (s.modGroup g f) := h
theorem memoryWf_modTeam {t f} (h : MemoryWf s) : MemoryWf (s.modTeam t f) := h
theorem memoryWf_modCtx {c f} (h : MemoryWf s) : MemoryWf (s.modCtx c f) := h
theorem memoryWf_modQueue {q f} (h : MemoryWf s) : MemoryWf (s.modQueue q f) := h
theorem memoryWf_modFn {n f} (h : MemoryWf s) : MemoryWf (s.modFn n f) := h
theorem memoryWf_modPart {e f} (h : MemoryWf s) : MemoryWf (s.modPart e f) := h
theorem memoryWf_emit {o} (h : MemoryWf s) : MemoryWf (s.emit o) := h
theorem memoryWf_putSplit {r sp} (h : MemoryWf s) : MemoryWf (s.putSplit r sp) := h
theorem memoryWf_finish {r sp n d v} (h : MemoryWf s) : MemoryWf (s.finish r sp n d v) := h
theorem memoryWf_finish0 {r sp n} (h : MemoryWf s) : MemoryWf (s.finish0 r sp n) := h
theorem memoryWf_dropL1 {gone} (h : MemoryWf s) : MemoryWf (s.dropL1 gone) := memoryWf_mk (storeWf_rest h)
theorem memoryWf_flushL1 {die site} (h : MemoryWf s) : MemoryWf (s.flushL1 die site) := memoryWf_dropL1 h
theorem memoryWf_acquire {g} (h : MemoryWf s) : MemoryWf (s.acquire g) := memoryWf_flushL1 h

theorem memoryWf_settleBar {t n} (h : MemoryWf s) : MemoryWf (s.settleBar t n) := by
  unfold State.settleBar
  split
  · exact h
  · dsimp only
    split
    exacts [memoryWf_flushL1 (memoryWf_foldl (fun _ _ h1 => memoryWf_modGroup h1) (memoryWf_modTeam h)), h]

theorem memoryWf_settleCbar {lead} (h : MemoryWf s) : MemoryWf (s.settleCbar lead) := by
  unfold State.settleCbar
  split
  · exact h
  · split
    · exact memoryWf_foldl (fun _ _ h1 => memoryWf_flushL1 (memoryWf_foldl (fun _ _ h2 => memoryWf_modGroup h2) h1)) (memoryWf_modTeam h)
    · exact h

theorem memoryWf_barEvent {t n f} (h : MemoryWf s) : MemoryWf (s.barEvent t n f) := memoryWf_settleBar (memoryWf_modTeam h)
theorem memoryWf_stopCtx {c} (h : MemoryWf s) : MemoryWf (s.stopCtx c) := h

theorem memoryWf_endCtx {c f} (h : MemoryWf s) : MemoryWf (s.endCtx c f) := by
  unfold State.endCtx
  split
  · exact h
  · split
    exacts [memoryWf_modCtx (memoryWf_stopCtx h), memoryWf_modCtx (memoryWf_stopCtx h), h]

theorem memoryWf_unwait {r} (h : MemoryWf s) : MemoryWf (s.unwait r) := h

theorem memoryWf_abandonLoad {sp} (h : MemoryWf s) : MemoryWf (s.abandonLoad sp) := by
  unfold State.abandonLoad
  split <;> exact h

theorem memoryWf_takeTrap {r t} (h : MemoryWf s) : MemoryWf (s.takeTrap r t) := by
  unfold State.takeTrap
  split
  · exact h
  · split
    · exact h
    · split
      · exact h
      · dsimp only
        split
        exacts [memoryWf_endCtx h, memoryWf_ite (memoryWf_endCtx h) (memoryWf_putSplit (memoryWf_abandonLoad (memoryWf_unwait h)))]

theorem memoryWf_scalarTrap {r sp code sub addr sop} (h : MemoryWf s) : MemoryWf (s.scalarTrap r sp code sub addr sop) := memoryWf_takeTrap h
theorem memoryWf_illegal {r sp sop} (h : MemoryWf s) : MemoryWf (s.illegal r sp sop) := memoryWf_scalarTrap h

theorem memoryWf_withIssuer {f} (hf : ∀ x0 x1 x2, MemoryWf (f x0 x1 x2)) : OutWf (withIssuer s f) := by
  unfold withIssuer
  split
  · exact outWf_fault
  · split
    exacts [outWf_fault, outWf_next (hf _ _ _)]

theorem memoryWf_withClause {f} (hf : ∀ x0 x1 x2 x3, MemoryWf (f x0 x1 x2 x3)) : OutWf (withClause s f) := by
  unfold withClause
  split
  · exact outWf_fault
  · split
    · exact outWf_fault
    · split
      exacts [outWf_fault, outWf_next (hf _ _ _ _)]

end Sys2Proof.Proofs

/-!
PROOF. Canonical memory (O57): events, page requests, reads of the control processor, and signals keep it. -/

namespace Sys2Proof.Proofs

open Sys2Proof.Machine Sys2Proof.Safety Sys2Proof.Laws

variable {s : State}

theorem memoryWf_logBytes {kind b} (h : MemoryWf s) : MemoryWf (s.logBytes kind b) := h
theorem memoryWf_log {kind data} (h : MemoryWf s) : MemoryWf (s.log kind data) := h
theorem memoryWf_noteError {e} (h : MemoryWf s) : MemoryWf (s.noteError e) := h
theorem memoryWf_countError {row fixed die msc link} (h : MemoryWf s) : MemoryWf (s.countError row fixed die msc link) := h

theorem memoryWf_putPlace {p data} (h : MemoryWf s) : MemoryWf (s.putPlace p data) := by
  unfold State.putPlace
  split
  exacts [memoryWf_devWrite h, memoryWf_mk (storeWf_hostPut h _ _), h]

theorem memoryWf_event {fn kind part sub body} (h : MemoryWf s) : MemoryWf (s.event fn kind part sub body) := by
  have hl : MemoryWf (if fn = 0 then (eventEntries kind part sub (s.fn fn).evq.ovf (s.fn fn).evq.evseq body).foldl
      (fun (s : State) b => s.logBytes (BitVec.ofNat 16 kind) b) s else s) :=
    memoryWf_ite (memoryWf_foldl (fun _ _ h1 => memoryWf_logBytes h1) h) h
  unfold State.event
  refine memoryWf_ite (memoryWf_ite (memoryWf_emit (memoryWf_modFn ?_)) (memoryWf_modFn ?_)) (memoryWf_modFn hl)
  all_goals
    refine memoryWf_foldl (fun _ _ h1 => ?_) ?_
    · split
      exacts [h1, memoryWf_putPlace h1, h1]
    · split
      exacts [memoryWf_foldl (fun _ _ h1 => memoryWf_markWrite h1) hl, hl]

theorem memoryWf_fabricEvent {code peer dir mask seq count} (h : MemoryWf s) : MemoryWf (s.fabricEvent code peer dir mask seq count) :=
  memoryWf_event h

theorem memoryWf_queueErrorEvent {q tag idx reason arg value} (h : MemoryWf s) : MemoryWf (s.queueErrorEvent q tag idx reason arg value) :=
  memoryWf_event h

theorem memoryWf_queueError {q tag idx code reason arg} (h : MemoryWf s) : MemoryWf (s.queueError q tag idx code reason arg) :=
  memoryWf_ite h (memoryWf_queueErrorEvent (memoryWf_emit (memoryWf_modQueue h)))

theorem memoryWf_sendPageReq {p} (h : MemoryWf s) : MemoryWf (s.sendPageReq p).1 := by
  unfold State.sendPageReq
  refine memoryWf_ite_fst ?_ h
  exact memoryWf_ite (memoryWf_emit (memoryWf_rest (memoryWf_devWrite h))) (memoryWf_rest (memoryWf_devWrite h))

theorem memoryWf_pageRequest {pent page write expl queue index} (h : MemoryWf s) : MemoryWf (s.pageRequest pent page write expl queue index) := by
  unfold State.pageRequest
  split
  exacts [memoryWf_rest (memoryWf_sendPageReq h), memoryWf_ite h (memoryWf_rest (memoryWf_sendPageReq h))]

theorem memoryWf_startFollow {pent page} (h : MemoryWf s) : MemoryWf (s.startFollow pent page) := memoryWf_mk (storeWf_rest h)

theorem memoryWf_cpPlace {pent q idx va k} (h : MemoryWf s) : (s.cpPlace pent q idx va k).Wf (fun _ => True) := by
  unfold State.cpPlace
  split
  exacts [trivial, trivial, trivial, trivial, trivial, memoryWf_pageRequest h, memoryWf_startFollow h]

theorem memoryWf_cpReadPart {ask pent q idx va n} (h : MemoryWf s) (hask : ∀ x0 x1 x2 x3 x4, MemoryWf x0 → (ask x0 x1 x2 x3 x4).Wf MemoryWf) :
    (s.cpReadPart ask pent q idx va n).Wf (fun _ => True) := by
  unfold State.cpReadPart
  split
  case h_2 => exact (memoryWf_cpPlace h).wait ‹_›
  case h_3 =>
    split
    · exact h
    · dsimp only
      split <;> exact trivial
  case h_7 =>
    split
    · split
      · exact h
      · split <;> exact trivial
    · split
      exacts [(hask _ _ _ _ _ h).ok ‹_›, (hask _ _ _ _ _ h).wait ‹_›, trivial]
  all_goals exact trivial

theorem memoryWf_cpRead {ask pent q idx fuel va n} (h : MemoryWf s) (hask : ∀ x0 x1 x2 x3 x4, MemoryWf x0 → (ask x0 x1 x2 x3 x4).Wf MemoryWf) :
    (s.cpRead ask pent q idx fuel va n).Wf (fun _ => True) := by
  induction fuel generalizing va n with
  | zero => trivial
  | succ fuel ih =>
    unfold State.cpRead
    split
    · trivial
    · dsimp only
      split
      · split
        exacts [trivial, ih.wait ‹_›, trivial]
      · exact (memoryWf_cpReadPart h hask).wait ‹_›
      · trivial

theorem memoryWf_dropFetched (h : MemoryWf s) : MemoryWf (s.dropFetched) := h
theorem memoryWf_workDone {q idx} (h : MemoryWf s) : MemoryWf (s.workDone q idx) := h
theorem memoryWf_sigEnd {u} (h : MemoryWf s) : MemoryWf (s.sigEnd u) := memoryWf_ite (memoryWf_workDone h) h
theorem memoryWf_sigFailed {u} (h : MemoryWf s) : MemoryWf (s.sigFailed u) := memoryWf_sigEnd (memoryWf_queueErrorEvent h)

theorem memoryWf_sigUpdate {u} (h : MemoryWf s) : MemoryWf (s.sigUpdate u) := by
  unfold State.sigUpdate
  dsimp only
  split
  · exact memoryWf_sigEnd h
  · split
    case h_2 => exact memoryWf_rest ((memoryWf_cpPlace h).wait ‹_›)
    case h_3 =>
      split
      · exact memoryWf_sigFailed h
      · split
        · exact h
        · split
          · exact memoryWf_sigEnd h
          · split
            exacts [h, memoryWf_sigEnd (memoryWf_noteWrite (memoryWf_memWrite (memoryWf_markWrite (memoryWf_forStore h _ ‹_›))))]
    case h_4 =>
      split
      · exact memoryWf_sigFailed h
      · split
        exacts [memoryWf_sigEnd h, memoryWf_sigEnd (memoryWf_mk (storeWf_hostPut (memoryWf_markWrite h) _ _))]
    case h_5 => exact h
    all_goals exact memoryWf_sigFailed h

theorem memoryWf_signal {q idx tag va act} (h : MemoryWf s) : MemoryWf (s.signal q idx tag va act) := memoryWf_sigUpdate h
theorem memoryWf_signalEnd {q idx tag va act} (h : MemoryWf s) : MemoryWf (s.signalEnd q idx tag va act) := memoryWf_sigUpdate h

end Sys2Proof.Proofs

/-!
PROOF. Canonical memory (O57): messages, budgets and the journal keep it. -/

namespace Sys2Proof.Proofs

open Sys2Proof.Machine Sys2Proof.Safety Sys2Proof.Laws

variable {s : State}

theorem memoryWf_modLink {w f} (h : MemoryWf s) : MemoryWf (s.modLink w f) := h
theorem memoryWf_setXoff {die} (h : MemoryWf s) : MemoryWf (s.setXoff die) := h
theorem memoryWf_modSpent {e f} (h : MemoryWf s) : MemoryWf (s.modSpent e f) := h

theorem memoryWf_pay {e p f} (h : MemoryWf s) : MemoryWf (s.pay e p f) := by
  unfold State.pay
  split
  exacts [memoryWf_modSpent h, memoryWf_modCtx (memoryWf_modSpent h), h]

theorem memoryWf_chargeAct {a n} (h : MemoryWf s) : MemoryWf (s.chargeAct a n) := h
theorem memoryWf_work {a n} (h : MemoryWf s) : MemoryWf (s.work a n).1 := memoryWf_rest (memoryWf_ite h (memoryWf_chargeAct h))
theorem memoryWf_holdForwards {slot} (h : MemoryWf s) : MemoryWf (s.holdForwards slot) := h
theorem memoryWf_linkEvent {w code dir mask seq count} (h : MemoryWf s) : MemoryWf (s.linkEvent w code dir mask seq count) := memoryWf_fabricEvent h
theorem memoryWf_linkIsDown {w dir} (h : MemoryWf s) : MemoryWf (s.linkIsDown w dir) := memoryWf_holdForwards (memoryWf_linkEvent h)

theorem memoryWf_keyCheck {w} (h : MemoryWf s) : MemoryWf (s.keyCheck w) := by
  unfold State.keyCheck
  dsimp only
  split
  exacts [memoryWf_linkIsDown (memoryWf_modLink h), memoryWf_ite (memoryWf_emit (memoryWf_modLink h)) h]

theorem memoryWf_sendFlit {w i m} (h : MemoryWf s) : MemoryWf (s.sendFlit w i m) :=
  memoryWf_keyCheck (memoryWf_pay (memoryWf_emit (memoryWf_modLink h)))

theorem memoryWf_pumpN {w n} (h : MemoryWf s) : MemoryWf (s.pumpN w n) := by
  induction n generalizing s with
  | zero => exact h
  | succ n ih =>
    unfold State.pumpN
    split
    exacts [h, ih (memoryWf_sendFlit (memoryWf_modLink h))]

theorem memoryWf_pump {w} (h : MemoryWf s) : MemoryWf (s.pump w) := memoryWf_pumpN h
theorem memoryWf_push {w m} (h : MemoryWf s) : MemoryWf (s.push w m) := memoryWf_pump (memoryWf_modLink h)

theorem memoryWf_sendAs {payer slot type cls o pois msg} (h : MemoryWf s) : MemoryWf (s.sendAs payer slot type cls o pois msg) := by
  unfold State.sendAs
  split
  exacts [h, memoryWf_ite h (memoryWf_push h)]

theorem memoryWf_send {slot type cls o pois msg} (h : MemoryWf s) : MemoryWf (s.send slot type cls o pois msg) := memoryWf_sendAs h
theorem memoryWf_sendReq {slot cls e pois msg} (h : MemoryWf s) : MemoryWf (s.sendReq slot cls e pois msg) := memoryWf_send h
theorem memoryWf_sendCtl {slot e msg} (h : MemoryWf s) : MemoryWf (s.sendCtl slot e msg) := memoryWf_sendReq h
theorem memoryWf_sendAnswer {slot o msg} (h : MemoryWf s) : MemoryWf (s.sendAnswer slot o msg) := memoryWf_send h

theorem memoryWf_sendAll {slots e msg} (h : MemoryWf s) : MemoryWf (s.sendAll slots e msg) :=
  memoryWf_foldl (fun _ _ h1 => memoryWf_ite h1 (memoryWf_sendCtl h1)) h

theorem memoryWf_local_ {w m} (h : MemoryWf s) : MemoryWf (s.local_ w m) := memoryWf_ite h (memoryWf_keyCheck (memoryWf_emit (memoryWf_modLink h)))
theorem memoryWf_modJournal {e f} (h : MemoryWf s) : MemoryWf (s.modJournal e f) := h

theorem memoryWf_devPut {pent fuel va data} (h : MemoryWf s) : OptWf MemoryWf (s.devPut pent fuel va data) := by
  induction fuel generalizing s va data with
  | zero => exact optWf_some h
  | succ fuel ih =>
    unfold State.devPut
    split
    · exact optWf_some h
    · dsimp only
      split
      · exact ih (memoryWf_devWrite (memoryWf_markWrite h))
      · exact ih (memoryWf_mk (storeWf_hostPut (memoryWf_markWrite h) _ _))
      · exact optWf_none

theorem memoryWf_jrnlWrote {e n} (h : MemoryWf s) : MemoryWf (s.jrnlWrote e n) := memoryWf_modJournal (memoryWf_ite (memoryWf_chargeAct h) h)

theorem memoryWf_record {cn kind w payload} (h : MemoryWf s) : MemoryWf (s.record cn kind w payload) := by
  unfold State.record
  split
  · exact h
  · dsimp only
    split
    · exact h
    · split
      · exact memoryWf_modJournal (memoryWf_modCtx h)
      · split
        · exact memoryWf_jrnlWrote (optWf_ite (memoryWf_devPut (memoryWf_modCtx h)) optWf_none _ ‹_›)
        · exact memoryWf_modJournal (memoryWf_modCtx h)

theorem memoryWf_replayEnd {cn} (h : MemoryWf s) : MemoryWf (s.replayEnd cn) := memoryWf_endCtx h

theorem memoryWf_replayAcquire {cn group} (h : MemoryWf s) : MemoryWf (s.replayAcquire cn group) := by
  unfold State.replayAcquire
  split
  · exact h
  · dsimp only
    split
    · exact memoryWf_replayEnd h
    · exact memoryWf_modCtx (memoryWf_modJournal (memoryWf_foldl (fun _ _ h1 => memoryWf_getD (memoryWf_devPut h1) h1) h))

theorem memoryWf_sysAcquire {g sp} (h : MemoryWf s) : MemoryWf (s.sysAcquire g sp) := by
  unfold State.sysAcquire
  split
  exacts [h, memoryWf_ite (memoryWf_replayAcquire h) (memoryWf_record h)]

theorem memoryWf_recordStore {e pa data} (h : MemoryWf s) : MemoryWf (s.recordStore e pa data) := by
  unfold State.recordStore
  split
  exacts [h, memoryWf_foldl (fun _ _ h1 => memoryWf_ite (memoryWf_foldl (fun _ _ h2 => memoryWf_record h2) h1) h1) h]

end Sys2Proof.Proofs

/-!
PROOF. Canonical memory (O57): ends of contexts, and reads and writes at the home keep it. -/

namespace Sys2Proof.Proofs

open Sys2Proof.Machine Sys2Proof.Safety Sys2Proof.Laws

variable {s : State}

theorem memoryWf_lastUse {g regs} (h : MemoryWf s) : MemoryWf (s.lastUse g regs) := memoryWf_ite h (memoryWf_rest (memoryWf_modGroup h))
theorem memoryWf_settleClauses {g} (h : MemoryWf s) : MemoryWf (s.settleClauses g) := h

theorem memoryWf_laneDone {r} (h : MemoryWf s) : MemoryWf (s.laneDone r) := by
  unfold State.laneDone
  split
  · exact h
  · dsimp only
    split
    · exact h
    · split
      · exact memoryWf_ite (memoryWf_settleClauses (memoryWf_modGroup h)) (memoryWf_modGroup h)
      · exact memoryWf_settleClauses (memoryWf_modGroup h)

theorem memoryWf_laneTrap {r sp c code sub addr info} (h : MemoryWf s) : MemoryWf (s.laneTrap r sp c code sub addr info) :=
  memoryWf_settleClauses (memoryWf_takeTrap h)

theorem memoryWf_laneEffect {e f srcs busy unread empty full} (h : MemoryWf s) (hempty : ∀ x0, MemoryWf x0 → MemoryWf (empty x0)) (hfull : ∀ x0, MemoryWf x0 → MemoryWf (full x0)) :
    MemoryWf (s.laneEffect e f srcs busy unread empty full) := by
  unfold State.laneEffect
  dsimp only
  split
  · exact memoryWf_laneDone (hempty _ (memoryWf_lastUse (memoryWf_modGroup h)))
  · split
    · exact h
    · split
      exacts [memoryWf_laneTrap h, memoryWf_laneDone (hfull _ (memoryWf_modGroup (memoryWf_lastUse h)))]

theorem memoryWf_writeOuts {e f dw res} (h : MemoryWf s) : MemoryWf (s.writeOuts e f dw res) :=
  memoryWf_mk (storeWf_foldl (fun _ _ h1 => storeWf_rest h1) (memoryWf_modGroup h) _)

theorem memoryWf_laneWrite {e f srcs dw unread res} (h : MemoryWf s) : MemoryWf (s.laneWrite e f srcs dw unread res) :=
  memoryWf_laneEffect h (fun _ h1 => h1) (fun _ h1 => memoryWf_writeOuts h1)

theorem memoryWf_withEnv {k} (h : MemoryWf s) (hk : ∀ x0, MemoryWf (k x0)) : OutWf (withEnv s k) := by
  unfold withEnv
  refine memoryWf_withClause (fun _ _ _ _ => ?_)
  split
  exacts [h, hk _]

theorem memoryWf_laneOp {f srcs dw res} (h : MemoryWf s) : OutWf (laneOp s f srcs dw res) := memoryWf_withEnv h (fun _ => memoryWf_laneWrite h)
theorem memoryWf_grant {line holder us} (h : MemoryWf s) : MemoryWf (s.grant line holder us).1 := h

theorem memoryWf_recall {id dst rsp line} (h : MemoryWf s) : MemoryWf (s.recall id dst rsp line) :=
  memoryWf_rest (memoryWf_foldl (fun _ _ h1 => memoryWf_sendCtl h1) h)

theorem memoryWf_homeRead {pent ctx ca stream pa n} (h : MemoryWf s) : MemoryWf (s.homeRead pent ctx ca stream pa n).1 :=
  memoryWf_ite (memoryWf_touchLine h) h

theorem memoryWf_homeWrite {pent ctx ca stream pa data} (h : MemoryWf s) : OptWf MemoryWf (s.homeWrite pent ctx ca stream pa data) :=
  optWf_map (memoryWf_forStore h) (fun _ h1 => memoryWf_memWrite h1)

theorem memoryWf_inboundFault {pent part sub reason src akind rope addr name} (h : MemoryWf s) :
    MemoryWf (s.inboundFault pent part sub reason src akind rope addr name) :=
  memoryWf_event h

theorem memoryWf_refuseReq {r pent reason} (h : MemoryWf s) : (s.refuseReq r pent reason).Wf := memoryWf_inboundFault h

theorem memoryWf_ackWrite {r pa old} (h : MemoryWf s) : (s.ackWrite r pa old).Wf := by
  unfold State.ackWrite
  dsimp only
  split
  · exact memoryWf_recall h
  · split <;> exact h

theorem memoryWf_recordReq {r pent pa d} (h : MemoryWf s) : MemoryWf (s.recordReq r pent pa d) := memoryWf_ite h (memoryWf_recordStore h)
theorem memoryWf_countReq {pent r pa} (h : MemoryWf s) : MemoryWf (s.countReq pent r pa) := memoryWf_ite h (memoryWf_rest (memoryWf_countDead h))

theorem memoryWf_performReq {pent r pa ca} (h : MemoryWf s) : (s.performReq pent r pa ca).Wf := by
  unfold State.performReq
  split
  · dsimp only
    split
    · split
      exacts [memoryWf_grant (memoryWf_homeRead (memoryWf_countReq h)), memoryWf_homeRead (memoryWf_countReq h)]
    · exact memoryWf_homeRead (memoryWf_countReq h)
  · split
    · exact h
    · refine memoryWf_ackWrite (memoryWf_recordReq ?_)
      split
      exacts [memoryWf_mk (storeWf_spoilRange (memoryWf_homeWrite h _ ‹_›) _ _), memoryWf_homeWrite h _ ‹_›]
  · dsimp only
    split
    · exact h
    · refine memoryWf_ackWrite (memoryWf_foldl (fun _ _ h1 => memoryWf_recordReq h1) ?_)
      split
      · exact memoryWf_mk (storeWf_spoil (optWf_foldl (fun _ _ h1 => optWf_bind h1 (fun _ h2 => memoryWf_homeWrite h2)) (optWf_some h) _ ‹_›) _)
      · exact optWf_foldl (fun _ _ h1 => optWf_bind h1 (fun _ h2 => memoryWf_homeWrite h2)) (optWf_some h) _ ‹_›
  · dsimp only
    split
    exacts [memoryWf_countReq h, memoryWf_ackWrite (memoryWf_recordReq (memoryWf_homeWrite (memoryWf_countReq h) _ ‹_›))]
  · dsimp only
    split
    exacts [memoryWf_countReq h, memoryWf_ackWrite (memoryWf_recordReq (memoryWf_homeWrite (memoryWf_countReq h) _ ‹_›))]

theorem memoryWf_markReq {pent r} (h : MemoryWf s) : MemoryWf (s.markReq pent r) := by
  unfold State.markReq
  split
  · exact h
  · split
    exacts [memoryWf_markLeaf h, h]

theorem memoryWf_serve {r} (h : MemoryWf s) : (s.serve r).Wf := by
  unfold State.serve
  split
  · exact memoryWf_refuseReq h
  · split
    · exact h
    · split
      · exact memoryWf_refuseReq h
      · split
        · exact memoryWf_refuseReq h
        · split
          exacts [memoryWf_startFollow h, memoryWf_pageRequest h]
        · refine ite_keeps (memoryWf_refuseReq h) ?_
          split
          · exact h
          · split
            exacts [h, memoryWf_performReq (memoryWf_markReq h)]

end Sys2Proof.Proofs

/-!
PROOF. Canonical memory (O57): memory operations, their pieces and their requests keep it. -/

namespace Sys2Proof.Proofs

open Sys2Proof.Machine Sys2Proof.Safety Sys2Proof.Laws

variable {s : State}

theorem memoryWf_touch {cn bit} (h : MemoryWf s) : MemoryWf (s.touch cn bit) := h
theorem memoryWf_useFeat {cn bit} (h : MemoryWf s) : MemoryWf (s.useFeat cn bit) := h

theorem memoryWf_touchPa {cn pa} (h : MemoryWf s) : MemoryWf (s.touchPa cn pa) :=
  memoryWf_ite (memoryWf_useFeat (memoryWf_touch h)) (memoryWf_touch h)

theorem memoryWf_opFault {o va slot reason} (h : MemoryWf s) : MemoryWf (s.opFault o va slot reason) := h

theorem memoryWf_deschedule {a pages write kind} (h : MemoryWf s) : MemoryWf (s.deschedule a pages write kind) :=
  memoryWf_modGroup (memoryWf_unwait (memoryWf_foldl (fun _ _ h1 => memoryWf_pageRequest h1) h))

theorem memoryWf_awaitFollow {a pages scalar} (h : MemoryWf s) : MemoryWf (s.awaitFollow a pages scalar) :=
  memoryWf_modGroup (memoryWf_foldl (fun _ _ h1 => memoryWf_startFollow h1) h)

theorem memoryWf_endLostDie {cn bit} (h : MemoryWf s) : MemoryWf (s.endLostDie cn bit) := memoryWf_endCtx h
theorem memoryWf_endLost {cn base} (h : MemoryWf s) : MemoryWf (s.endLost cn base) := memoryWf_endLostDie h
theorem memoryWf_charge {e p pa n} (h : MemoryWf s) : MemoryWf (s.charge e p pa n) := memoryWf_ite (memoryWf_pay h) h
theorem memoryWf_l1Store {core pa data} (h : MemoryWf s) : MemoryWf (s.l1Store core pa data) := h
theorem memoryWf_l1Drop {core pa} (h : MemoryWf s) : MemoryWf (s.l1Drop core pa) := memoryWf_dropL1 h

theorem memoryWf_l1Fill {core g pa data since expiry} (h : MemoryWf s) : MemoryWf (s.l1Fill core g pa data since expiry) :=
  memoryWf_rest (memoryWf_l1Drop h)

theorem memoryWf_l1Local {core e g pa} (h : MemoryWf s) : MemoryWf (s.l1Local core e g pa) := memoryWf_ite h (memoryWf_l1Fill h)

theorem memoryWf_l1Miss {core g line} (h : MemoryWf s) : MemoryWf (s.l1Miss core g line) := by
  unfold State.l1Miss
  dsimp only
  split
  exacts [memoryWf_modGroup h, h]

theorem memoryWf_dropPeer {pa} (h : MemoryWf s) : MemoryWf (s.dropPeer pa) := memoryWf_rest (memoryWf_dropPeers h)

theorem memoryWf_dropAt {p} (h : MemoryWf s) : MemoryWf (s.dropAt p) := by
  unfold State.dropAt
  split
  exacts [memoryWf_dropPeer h, h]

theorem memoryWf_modOp {id f} (h : MemoryWf s) : MemoryWf (s.modOp id f) := h
theorem memoryWf_modPiece {id i f} (h : MemoryWf s) : MemoryWf (s.modPiece id i f) := h
theorem memoryWf_dropOp {id} (h : MemoryWf s) : MemoryWf (s.dropOp id) := h

theorem memoryWf_touchMsc {cn line} (h : MemoryWf s) : MemoryWf (s.touchMsc cn line) := by
  unfold State.touchMsc
  split
  exacts [memoryWf_touch h, h]

theorem memoryWf_applyRsp {a o i p r x} (h : MemoryWf s) : MemoryWf (s.applyRsp a o i p r x) := by
  have hp : ∀ (l : List Nat) f, MemoryWf (l.foldl (fun s j => s.modPiece o.id j f) s) := fun _ _ => memoryWf_foldl (fun _ _ h1 => memoryWf_modPiece h1) h
  unfold State.applyRsp
  extract_lets mates miss
  have hm : ∀ y, MemoryWf (miss s y) := fun _ => memoryWf_opFault (hp _ _)
  split
  · extract_lets s1 s2
    have h2 : MemoryWf s2 := memoryWf_ite (memoryWf_modGroup (hp _ _)) (hp _ _)
    split
    · have h3 := fun pa bd pent ctx st => memoryWf_allocLine (line := pa) (bd := bd) (pent := pent) (ctx := ctx) (stream := st)
        (memoryWf_dropPeers (gone := (· == pa)) h2)
      refine memoryWf_ite h2 (memoryWf_ite (memoryWf_l1Fill (memoryWf_touchMsc ?_)) (memoryWf_touchMsc ?_))
      all_goals exact memoryWf_ite (h3 _ _ _ _ _) (memoryWf_rest (h3 _ _ _ _ _))
    · exact h2
  · exact hm _
  · exact hm _

theorem memoryWf_sendPiece {a o i p} (h : MemoryWf s) : MemoryWf (s.sendPiece a o i p).1 := by
  unfold State.sendPiece
  dsimp only
  split
  · split
    · exact memoryWf_applyRsp ((memoryWf_serve (memoryWf_rest h)).answer ‹_›)
    · exact memoryWf_rest ((memoryWf_serve (memoryWf_rest h)).late ‹_›)
    · exact memoryWf_rest ((memoryWf_serve (memoryWf_rest h)).hold ‹_›)
  · split
    exacts [memoryWf_useFeat (memoryWf_rest h), memoryWf_applyRsp h]

theorem memoryWf_sendRequests {payer cls e rs} (h : MemoryWf s) : MemoryWf (s.sendRequests payer cls e rs) :=
  memoryWf_foldl (fun _ _ h1 => memoryWf_foldl (fun _ _ h2 => memoryWf_sendAs h2) h1) h

theorem memoryWf_readLine {id is line} (h : MemoryWf s) : MemoryWf (s.readLine id is line) := memoryWf_foldl (fun _ _ h1 => memoryWf_modPiece h1) h
theorem memoryWf_readPoison {o p} (h : MemoryWf s) : MemoryWf (s.readPoison o p) := memoryWf_takeTrap h
theorem memoryWf_performedAtGrp {g} (h : MemoryWf s) : MemoryWf (s.performedAtGrp g) := h
theorem memoryWf_readThrough {o is} (h : MemoryWf s) : MemoryWf (s.readThrough o is) := h

theorem memoryWf_mscHit {a o p c} (h : MemoryWf s) : MemoryWf (s.mscHit a o p c) := by
  unfold State.mscHit
  dsimp only
  split
  · exact memoryWf_l1Fill (memoryWf_ite (memoryWf_l1Miss (memoryWf_touchMsc h)) (memoryWf_touchMsc h))
  · exact memoryWf_ite (memoryWf_l1Miss (memoryWf_touchMsc h)) (memoryWf_touchMsc h)

theorem memoryWf_sendPieces {a id} (h : MemoryWf s) : MemoryWf (s.sendPieces a id) := by
  unfold State.sendPieces
  split
  · exact h
  · refine memoryWf_sendRequests (memoryWf_foldl_fst (fun _ _ h1 => ?_) h)
    dsimp only
    split
    · exact h1
    · split
      · exact h1
      · split
        · split
          · exact memoryWf_readPoison h1
          · exact memoryWf_readLine (memoryWf_readThrough h1)
          · exact memoryWf_readLine (memoryWf_mscHit h1)
          · refine memoryWf_sendPiece ?_
            split
            exacts [memoryWf_ite (memoryWf_l1Miss h1) h1, h1]
        · exact h1

theorem memoryWf_modTile {t a2 f} (h : MemoryWf s) : MemoryWf (s.modTile t a2 f) := h

theorem memoryWf_doMem {a o i p pa} (h : MemoryWf s) : OptWf MemoryWf (s.doMem a o i p pa) := by
  unfold State.doMem
  extract_lets +onlyGivenNames stream
  refine optWf_ite ?_ ?_
  · extract_lets +onlyGivenNames reads
    refine optWf_ite optWf_none (optWf_ite (optWf_some (memoryWf_readPoison h)) ?_)
    refine optWf_map (memoryWf_homeWrite (memoryWf_charge (memoryWf_ite (memoryWf_modOp (memoryWf_countDead h)) h))) (fun t ht => ?_)
    have hr := fun id x line => memoryWf_ite (c := (!t.leasing && t.leasesOn line != []) = true)
      (memoryWf_recall (id := id) (dst := 0) (rsp := x) (line := line) ht) ht
    refine memoryWf_modGroup (memoryWf_modPiece ?_)
    split
    exacts [memoryWf_l1Drop (hr _ _ _), memoryWf_l1Drop (hr _ _ _), memoryWf_l1Drop (hr _ _ _), hr _ _ _]
  · extract_lets +onlyGivenNames ms fw
    split
    · exact optWf_some (memoryWf_ite (memoryWf_readPoison h) (memoryWf_readLine (memoryWf_readThrough h)))
    · refine optWf_ite (optWf_some (memoryWf_foldl (fun _ _ h1 => memoryWf_modPiece h1) (memoryWf_l1Miss h)))
        (optWf_ite optWf_none (optWf_ite (optWf_some (memoryWf_readPoison h)) ?_))
      extract_lets +onlyGivenNames dead s1 s2
      have h2 : MemoryWf s2 := memoryWf_ite (memoryWf_l1Miss (memoryWf_charge h)) (memoryWf_charge h)
      have h3 := memoryWf_homeRead (pent := a.ctx.pent) (ctx := some a.cn) (ca := p.ca) (stream := stream)
        (pa := if p.ca = 3 then pa else pa / 32 * 32) (n := if p.ca = 3 then p.n else 32) h2
      generalize s2.homeRead _ _ _ _ _ _ = x at h3 ⊢
      obtain ⟨t, d⟩ := x
      dsimp -zeta only
      extract_lets +onlyGivenNames s4 s5
      have h5 : MemoryWf s5 := memoryWf_foldl (fun _ _ h1 => memoryWf_modPiece h1) (memoryWf_ite (memoryWf_modOp (memoryWf_countDead h3)) h3)
      exact optWf_some (memoryWf_ite (memoryWf_l1Local h5) h5)

theorem memoryWf_doHost {o i p a4} (h : MemoryWf s) : MemoryWf (s.doHost o i p a4) := by
  unfold State.doHost
  dsimp only
  split
  exacts [memoryWf_modPiece (memoryWf_mk (storeWf_hostPut h _ _)), memoryWf_foldl (fun _ _ h1 => memoryWf_modPiece h1) h]

theorem memoryWf_doTile {o i p t a5 off} (h : MemoryWf s) : MemoryWf (s.doTile o i p t a5 off) := by
  unfold State.doTile
  split
  · exact memoryWf_modPiece h
  · exact memoryWf_ite (memoryWf_readPoison h) (memoryWf_foldl (fun _ _ h1 => memoryWf_modPiece h1) (memoryWf_ite (memoryWf_modTile h) h))

theorem memoryWf_notePoint {o i} (h : MemoryWf s) : OptWf MemoryWf (s.notePoint o i) := by
  unfold State.notePoint
  split
  · exact optWf_some h
  · split
    · exact optWf_some h
    · dsimp only
      split
      · exact optWf_some (memoryWf_modOp (memoryWf_sysAcquire h))
      · split
        · exact optWf_none
        · split
          exacts [optWf_some (memoryWf_modOp (memoryWf_sysAcquire h)), optWf_some h]

theorem memoryWf_perform {fuel id i} (h : MemoryWf s) : OptWf MemoryWf (s.perform fuel id i) := by
  induction fuel generalizing s id i with
  | zero => exact optWf_none
  | succ fuel ih =>
    unfold State.perform
    split
    · exact optWf_some h
    · split
      · split
        · exact optWf_some h
        · split
          · exact optWf_none
          · have ht := optWf_foldl (fun _ _ h1 => optWf_bind h1 fun _ h2 => ih h2) (optWf_some h) _ ‹_›
            split
            · exact optWf_bind (memoryWf_notePoint ht) fun _ h1 => optWf_ite (optWf_some h1) (memoryWf_doMem h1)
            · exact optWf_some (memoryWf_doHost ht)
            · exact optWf_some (memoryWf_doTile ht)
            · exact optWf_none
      · exact optWf_some h

theorem memoryWf_performAll {id} (h : MemoryWf s) : MemoryWf (s.performAll id) := by
  unfold State.performAll
  split
  exacts [h, memoryWf_foldl (fun _ _ h1 => memoryWf_getD (memoryWf_perform h1) h1) h]

theorem memoryWf_sendHeld (h : MemoryWf s) : MemoryWf (s.sendHeld) := by
  unfold State.sendHeld
  refine memoryWf_foldl (fun _ _ h1 => ?_) h
  split
  exacts [memoryWf_sendPieces h1, h1]

theorem memoryWf_issue {a m o} (h : MemoryWf s) : MemoryWf (s.issue a m o).1 := by
  unfold State.issue
  refine memoryWf_sendPieces (memoryWf_foldl (fun _ _ h1 => memoryWf_opFault h1) (memoryWf_rest ?_))
  split
  · refine memoryWf_foldl (fun _ _ h1 => ?_) ?_
    · dsimp only
      split
      · split
        · exact h1
        · split
          · refine memoryWf_dropPeer ?_
            split
            exacts [memoryWf_l1Store h1, memoryWf_l1Store h1, memoryWf_l1Drop h1]
          · split
            exacts [memoryWf_l1Store h1, memoryWf_l1Store h1, memoryWf_l1Drop h1]
      · exact h1
    · refine memoryWf_foldl (fun _ _ h1 => ?_) (memoryWf_foldl (fun _ _ h1 => memoryWf_markLeaf h1) h)
      split
      exacts [memoryWf_ite h1 (memoryWf_touchPa h1), h1]
  · refine memoryWf_foldl (fun _ _ h1 => ?_) (memoryWf_foldl (fun _ _ h1 => memoryWf_markLeaf h1) h)
    split
    exacts [memoryWf_ite h1 (memoryWf_touchPa h1), h1]

theorem memoryWf_drainLoads {a clause since ps} (h : MemoryWf s) : OptWf MemoryWf (s.drainLoads a clause since ps) :=
  optWf_foldl (fun _ _ h1 => optWf_bind h1 (fun _ h2 => memoryWf_perform h2)) (optWf_some h)

theorem memoryWf_loadReturn {id} (h : MemoryWf s) : MemoryWf (s.loadReturn id) := by
  unfold State.loadReturn
  dsimp only
  split
  · exact memoryWf_performAll h
  · split
    · exact memoryWf_performAll h
    · refine memoryWf_settleClauses ?_
      split
      · refine memoryWf_sysAcquire ?_
        split
        · exact memoryWf_acquire (memoryWf_modGroup (memoryWf_dropOp (memoryWf_performAll h)))
        · exact memoryWf_modGroup (memoryWf_dropOp (memoryWf_performAll h))
      · split
        · exact memoryWf_acquire (memoryWf_modGroup (memoryWf_dropOp (memoryWf_performAll h)))
        · exact memoryWf_modGroup (memoryWf_dropOp (memoryWf_performAll h))

theorem memoryWf_storeAck {id} (h : MemoryWf s) : MemoryWf (s.storeAck id) := by
  unfold State.storeAck
  extract_lets s1
  have h1 : MemoryWf s1 := memoryWf_performAll h
  split
  · exact h1
  · refine memoryWf_ite h1 ?_
    extract_lets host s2 s3 s4
    have h3 : MemoryWf s3 := memoryWf_ite (memoryWf_acquire (memoryWf_modGroup (memoryWf_dropOp h1))) (memoryWf_modGroup (memoryWf_dropOp h1))
    exact memoryWf_settleClauses (memoryWf_ite (memoryWf_sysAcquire h3) h3)

theorem memoryWf_fencePassed {r hit} (h : MemoryWf s) : MemoryWf (s.fencePassed r hit) := h

theorem memoryWf_raiseRemote {r pc spc lane kind} (h : MemoryWf s) : MemoryWf (s.raiseRemote r pc spc lane kind) := by
  unfold State.raiseRemote
  split
  exacts [h, memoryWf_modGroup (memoryWf_takeTrap h)]

end Sys2Proof.Proofs

/-!
PROOF. Canonical memory (O57): fetches, and the issue of scalar and lane instructions, keep it. -/

namespace Sys2Proof.Proofs

open Sys2Proof.Machine Sys2Proof.Safety Sys2Proof.Laws

variable {s : State}

theorem memoryWf_lineAnswer {id x} (h : MemoryWf s) : MemoryWf (s.lineAnswer id x) := h

theorem memoryWf_askAt {pent slot rope line name key} (h : MemoryWf s) : (s.askAt pent slot rope line name key).Wf MemoryWf := by
  unfold State.askAt
  dsimp only
  split
  · split
    · exact memoryWf_lineAnswer ((memoryWf_serve (memoryWf_rest h)).answer ‹_›)
    · exact (memoryWf_serve (memoryWf_rest h)).late ‹_›
    · exact memoryWf_rest ((memoryWf_serve (memoryWf_rest h)).hold ‹_›)
  · split
    exacts [memoryWf_sendReq h, memoryWf_lineAnswer h]

theorem memoryWf_askLine {pent slot line key} (h : MemoryWf s) : (s.askLine pent slot line key).Wf MemoryWf := memoryWf_askAt h

theorem memoryWf_useLines {l} (h : MemoryWf s) : MemoryWf (s.useLines l) := by
  unfold State.useLines
  split <;> exact h

theorem memoryWf_refetch {core line} (h : MemoryWf s) : MemoryWf (s.refetch core line) :=
  memoryWf_ite (memoryWf_countError (memoryWf_mk (storeWf_clearMark h _))) h

theorem memoryWf_fetchFar {a va slot rope off name key e} (h : MemoryWf s) : (s.fetchFar a va slot rope off name key e).Wf := by
  unfold State.fetchFar
  split
  · exact trivial
  · split
    · split
      · exact h
      · split
        · exact trivial
        · split
          · exact trivial
          · split
            exacts [memoryWf_markLeaf h, h]
    · split
      exacts [(memoryWf_askAt h).ok ‹_›, (memoryWf_askAt h).wait ‹_›, trivial]

theorem memoryWf_fetch4 {a va} (h : MemoryWf s) : (s.fetch4 a va).Wf := by
  unfold State.fetch4
  split
  case h_6 =>
    refine ite_keeps trivial (ite_keeps trivial (ite_keeps h (memoryWf_homeRead (n := 4) (memoryWf_refetch (memoryWf_touchPa ?_)))))
    split
    exacts [memoryWf_markLeaf h, h]
  case h_7 =>
    split
    exacts [memoryWf_markLeaf h, h]
  all_goals first | trivial | exact memoryWf_startFollow h | exact memoryWf_fetchFar h

theorem memoryWf_fetchWords {a n va} (h : MemoryWf s) : (s.fetchWords a n va).Wf := by
  induction n generalizing s va with
  | zero => exact h
  | succ n ih =>
    unfold State.fetchWords
    have h1 := memoryWf_fetch4 (a := a) (va := va) h
    split
    · have h2 := ih (va := va + 4) (h1.ok ‹_›)
      split
      exacts [h2.ok ‹_›, h2]
    · exact h1

theorem memoryWf_clauseFetchTrap {r sp addr end_ code sub va} (h : MemoryWf s) : MemoryWf (s.clauseFetchTrap r sp addr end_ code sub va) :=
  memoryWf_takeTrap h

theorem memoryWf_illegalClause {r sp addr end_ info} (h : MemoryWf s) : MemoryWf (s.illegalClause r sp addr end_ info) := memoryWf_takeTrap h

theorem memoryWf_observe {g flags} (h : MemoryWf s) : MemoryWf (s.observe g flags) := by
  unfold State.observe
  split
  exacts [memoryWf_ite h (memoryWf_acquire h), h]

theorem memoryWf_startClause {r e a3 code} (h : MemoryWf s) : MemoryWf (s.startClause r e a3 code) := memoryWf_modGroup (memoryWf_observe h)

theorem memoryWf_settleRights (h : MemoryWf s) : MemoryWf (s.settleRights) := by
  unfold State.settleRights
  split <;> exact h

theorem memoryWf_holdSplit {r lane} (h : MemoryWf s) : MemoryWf (s.holdSplit r lane) := h
theorem memoryWf_touchCore {a} (h : MemoryWf s) : MemoryWf (s.touchCore a) := h

theorem memoryWf_fetchMiss {r sp a sopCode x} (h : MemoryWf s) (hx : x.Wf) : MemoryWf (s.fetchMiss r sp a sopCode x) := by
  unfold State.fetchMiss
  split
  · exact hx
  · exact hx
  · exact memoryWf_deschedule h
  · exact memoryWf_endLost h
  · exact memoryWf_modGroup (memoryWf_scalarTrap h)

theorem memoryWf_scalarReturn {r} (h : MemoryWf s) : MemoryWf (s.scalarReturn r) := by
  unfold State.scalarReturn
  split
  · exact h
  · split
    · exact h
    · dsimp only
      split
      · exact memoryWf_performAll h
      · split
        · exact memoryWf_performAll h
        · split
          exacts [memoryWf_dropOp (memoryWf_performAll h), memoryWf_finish (memoryWf_dropOp (memoryWf_performAll h))]

theorem memoryWf_dueWord {r g sp a w w1} (h : MemoryWf s) : (s.dueWord r g sp a w w1).Wf := by
  unfold State.dueWord
  dsimp only
  split
  exacts [memoryWf_scalarTrap (memoryWf_touchCore h), memoryWf_rest (memoryWf_touchCore h)]

theorem memoryWf_dueScalar {r} (h : MemoryWf s) : (s.dueScalar r).Wf := by
  unfold State.dueScalar
  split
  · dsimp only
    refine ite_keeps (memoryWf_scalarReturn h) (ite_keeps h (ite_keeps (memoryWf_endLostDie h) (ite_keeps h ?_)))
    split
    · refine ite_keeps ?_ (memoryWf_dueWord (memoryWf_useLines ((memoryWf_fetch4 h).ok ‹_›)))
      split
      · exact memoryWf_dueWord (memoryWf_useLines ((memoryWf_fetch4 ((memoryWf_fetch4 h).ok ‹_›)).ok ‹_›))
      · exact memoryWf_fetchMiss ((memoryWf_fetch4 h).ok ‹_›) (memoryWf_fetch4 ((memoryWf_fetch4 h).ok ‹_›))
    · exact memoryWf_fetchMiss h (memoryWf_fetch4 h)
  · exact h

theorem memoryWf_dueLane {r} (h : MemoryWf s) : (s.dueLane r).Wf := by
  unfold State.dueLane
  split
  · split
    · exact memoryWf_endLostDie h
    · split
      exacts [memoryWf_holdSplit h, memoryWf_rest (memoryWf_touchCore h)]
  · exact h

theorem memoryWf_runDogs {n} (h : MemoryWf s) : MemoryWf (s.runDogs n) := h

theorem memoryWf_runEngines {n} (h : MemoryWf s) : MemoryWf (s.runEngines n) := by
  unfold State.runEngines
  split <;> exact h

theorem memoryWf_barrierTimeout {t n} (h : MemoryWf s) : MemoryWf (s.barrierTimeout t n) := by
  unfold State.barrierTimeout
  split
  · exact h
  · split
    · exact h
    · refine memoryWf_ite h ?_
      split
      exacts [h, memoryWf_endCtx h]

theorem memoryWf_pass {n} (h : MemoryWf s) : MemoryWf (s.pass n) := memoryWf_rest (memoryWf_runEngines (memoryWf_runDogs h))

theorem memoryWf_elapseN {fuel n} (h : MemoryWf s) : MemoryWf (s.elapseN fuel n) := by
  induction fuel generalizing s n with
  | zero => exact memoryWf_pass h
  | succ fuel ih =>
    have hd := memoryWf_foldl (l := s.runningDogs.filter (·.2.2 == 0)) (f := fun (s : State) d => s.barrierTimeout d.1 d.2.1)
      (fun _ _ h1 => memoryWf_barrierTimeout h1) h
    unfold State.elapseN
    dsimp only
    split
    · exact memoryWf_ite (ih (memoryWf_pass hd)) (memoryWf_pass hd)
    · exact memoryWf_pass hd

theorem memoryWf_elapse {n} (h : MemoryWf s) : MemoryWf (s.elapse n) := memoryWf_elapseN h

theorem memoryWf_evictL1 {die site line} (h : MemoryWf s) : MemoryWf (s.evictL1 die site line) := by
  unfold State.evictL1
  split
  exacts [h, memoryWf_rest (memoryWf_dropL1 h)]

theorem memoryWf_dropTlb {page} (h : MemoryWf s) : MemoryWf (s.dropTlb page) := memoryWf_mk (storeWf_rest h)

theorem memoryWf_due {x} (h : MemoryWf s) : (s.due x).Wf := by
  unfold State.due
  split
  · split <;> exact h
  · exact memoryWf_dueScalar h
  · exact memoryWf_dueLane h
  · exact memoryWf_ite (memoryWf_getD (memoryWf_perform h) h) h
  · exact memoryWf_elapse h
  · exact memoryWf_evictL1 h
  · exact memoryWf_dropMscLine h
  · exact memoryWf_dropTlb h

theorem memoryWf_countStop {t lane} (ht : MemoryWf t) : MemoryWf (s.countStop t lane) := by
  unfold State.countStop
  split
  · exact ht
  · split
    · split
      · exact ht
      · exact memoryWf_ite (memoryWf_modGroup ht) (memoryWf_ite (memoryWf_modGroup ht) (memoryWf_holdSplit ht))
    · exact ht

theorem memoryWf_renew {t} (ht : MemoryWf t) : MemoryWf (s.renew t) := by
  unfold State.renew
  split
  · exact ht
  · split
    exacts [memoryWf_ite ht (memoryWf_modGroup ht), ht]

theorem memoryWf_closeStep {t lane} (ht : MemoryWf t) : MemoryWf (s.closeStep t lane) := memoryWf_rest (memoryWf_renew (memoryWf_countStop ht))
theorem memoryWf_sign {cn inst v} (h : MemoryWf s) : MemoryWf (s.sign cn inst v) := h

end Sys2Proof.Proofs

/-!
PROOF. Canonical memory (O57): lane accesses and the ends of clauses keep it. -/

namespace Sys2Proof.Proofs

open Sys2Proof.Machine Sys2Proof.Safety Sys2Proof.Laws

variable {s : State}

theorem memoryWf_laneIssue {e f q a m ws} (h : MemoryWf s) : MemoryWf (s.laneIssue e f q a m ws) := by
  unfold State.laneIssue
  refine memoryWf_laneDone (memoryWf_modGroup (memoryWf_issue ?_))
  split
  · exact memoryWf_sign (memoryWf_mk (storeWf_foldl (fun _ _ h1 => storeWf_rest h1) (memoryWf_modGroup (memoryWf_lastUse h)) _))
  · exact memoryWf_mk (storeWf_foldl (fun _ _ h1 => storeWf_rest h1) (memoryWf_modGroup (memoryWf_lastUse h)) _)

theorem memoryWf_laneMet {e f q a m ws} (h : MemoryWf s) : MemoryWf (s.laneMet e f q a m ws) := by
  unfold State.laneMet
  split
  · exact memoryWf_laneTrap h
  · split
    · exact memoryWf_endLost h
    · split
      · exact memoryWf_deschedule h
      · split
        · exact memoryWf_awaitFollow h
        · split
          · exact memoryWf_laneTrap h
          · split
            · split
              exacts [h, memoryWf_laneIssue (memoryWf_drainLoads h _ ‹_›)]
            · exact memoryWf_laneIssue h

theorem memoryWf_laneMem {e f q want} (h : MemoryWf s) : MemoryWf (s.laneMem e f q want) := by
  unfold State.laneMem
  dsimp only
  split
  · exact memoryWf_laneDone (memoryWf_lastUse (memoryWf_modGroup h))
  · split
    · exact h
    · refine memoryWf_ite (memoryWf_laneTrap h) ?_
      split
      · exact h
      · split
        · exact h
        · split
          · exact memoryWf_raiseRemote h
          · exact memoryWf_ite (memoryWf_ite (memoryWf_performedAtGrp h) h) (memoryWf_laneMet (memoryWf_ite (memoryWf_performedAtGrp h) h))

theorem memoryWf_prefetch {a l1 str va} (h : MemoryWf s) : MemoryWf (s.prefetch a l1 str va) := by
  unfold State.prefetch
  split
  · split
    · exact h
    · dsimp only
      split
      · refine memoryWf_l1Local (memoryWf_ite ?_ ?_)
        · refine memoryWf_touchLine (memoryWf_charge (memoryWf_touchPa ?_))
          split
          exacts [memoryWf_markLeaf h, h]
        · refine memoryWf_charge (memoryWf_touchPa ?_)
          split
          exacts [memoryWf_markLeaf h, h]
      · refine memoryWf_ite ?_ ?_
        · refine memoryWf_touchLine (memoryWf_charge (memoryWf_touchPa ?_))
          split
          exacts [memoryWf_markLeaf h, h]
        · refine memoryWf_charge (memoryWf_touchPa ?_)
          split
          exacts [memoryWf_markLeaf h, h]
  · exact h

theorem memoryWf_execPref {f} (h : MemoryWf s) : OutWf (execPref f s) := by
  unfold execPref
  refine memoryWf_withEnv h (fun _ => ?_)
  refine memoryWf_laneDone ?_
  split
  · exact memoryWf_modGroup (memoryWf_lastUse h)
  · exact memoryWf_foldl (fun _ _ h1 => memoryWf_prefetch h1) (memoryWf_modGroup (memoryWf_lastUse h))

theorem memoryWf_laneTile {e f q data} (h : MemoryWf s) : MemoryWf (s.laneTile e f q data) := by
  unfold State.laneTile
  dsimp only
  split
  · exact memoryWf_laneDone (memoryWf_lastUse (memoryWf_modGroup h))
  · split
    · exact h
    · split
      · exact memoryWf_laneTrap h
      · split
        · exact h
        · split
          · exact memoryWf_laneTrap h
          · split
            · exact memoryWf_laneTrap h
            · split
              · exact h
              · refine memoryWf_laneIssue ?_
                split
                exacts [memoryWf_mk (storeWf_rest (memoryWf_ite (memoryWf_touch h) h)), memoryWf_ite (memoryWf_touch h) h]

theorem memoryWf_freeTile {t a2} (h : MemoryWf s) : MemoryWf (s.freeTile t a2) := memoryWf_mk (storeWf_rest (memoryWf_modTeam h))

theorem memoryWf_freeTiles {t} (h : MemoryWf s) : MemoryWf (s.freeTiles t) := by
  unfold State.freeTiles
  refine memoryWf_foldl (fun _ _ h1 => ?_) h
  split
  exacts [memoryWf_ite h1 (memoryWf_freeTile h1), h1]

theorem memoryWf_settleTeam {t} (h : MemoryWf s) : MemoryWf (s.settleTeam t) := by
  unfold State.settleTeam
  split
  exacts [h, memoryWf_ite (memoryWf_modCtx (memoryWf_freeTiles (memoryWf_modTeam h))) h]

theorem memoryWf_freeBerths {g} (h : MemoryWf s) : MemoryWf (s.freeBerths g) := h

theorem memoryWf_settleGroup {g} (h : MemoryWf s) : MemoryWf (s.settleGroup g) := by
  unfold State.settleGroup
  split
  exacts [h, memoryWf_ite (memoryWf_settleTeam (memoryWf_modGroup (memoryWf_freeBerths h))) h]

end Sys2Proof.Proofs

/-!
PROOF. Canonical memory (O57): scalar instructions, control flow, barriers, fences and tiles keep it. -/

namespace Sys2Proof.Proofs

open Sys2Proof.Machine Sys2Proof.Safety Sys2Proof.Laws

variable {s : State}

theorem memoryWf_scalarOp {rs n d val} (h : MemoryWf s) : OutWf (scalarOp s rs n d val) :=
  memoryWf_withIssuer (fun _ _ _ => memoryWf_ite h (memoryWf_finish h))

theorem memoryWf_scalarRun {rs f} (h : MemoryWf s) (hf : ∀ x0 x1 x2, MemoryWf (f x0 x1 x2)) : OutWf (scalarRun s rs f) :=
  memoryWf_withIssuer (fun _ _ _ => memoryWf_ite h (hf _ _ _))

theorem memoryWf_scalarStore {r sp sop a m va data} (h : MemoryWf s) : MemoryWf (s.scalarStore r sp sop a m va data) := by
  unfold State.scalarStore
  split
  · exact h
  · refine memoryWf_finish0 ?_
    split
    · exact memoryWf_ite (memoryWf_sign (memoryWf_drainLoads h _ ‹_›)) (memoryWf_drainLoads h _ ‹_›)
    · exact memoryWf_issue (memoryWf_ite (memoryWf_sign (memoryWf_drainLoads h _ ‹_›)) (memoryWf_drainLoads h _ ‹_›))

theorem memoryWf_scalarLoad {r sp sop a m d n} (h : MemoryWf s) : MemoryWf (s.scalarLoad r sp sop a m d n) :=
  memoryWf_scalarReturn (memoryWf_modGroup (memoryWf_issue h))

theorem memoryWf_scalarMem {r sp sop va n store d} (h : MemoryWf s) : MemoryWf (s.scalarMem r sp sop va n store d) := by
  unfold State.scalarMem
  split
  · exact h
  · split
    · exact h
    · dsimp only
      split
      · exact memoryWf_scalarTrap h
      · split
        · exact memoryWf_endLost h
        · refine memoryWf_ite (memoryWf_deschedule h) (memoryWf_ite (memoryWf_awaitFollow h) (memoryWf_ite (memoryWf_scalarTrap h) ?_))
          refine memoryWf_ite h ?_
          split
          exacts [memoryWf_scalarStore h, memoryWf_scalarLoad h]

theorem memoryWf_goTo {r sp pc} (h : MemoryWf s) : MemoryWf (s.goTo r sp pc) := h
theorem memoryWf_goToAligned {r sp pc} (h : MemoryWf s) : MemoryWf (s.goToAligned r sp pc) := memoryWf_ite (memoryWf_goTo h) (memoryWf_scalarTrap h)

theorem memoryWf_execBrc {a b c o} (h : MemoryWf s) : OutWf (execBrc a b c o s) := by
  unfold execBrc
  refine memoryWf_scalarRun h (fun _ _ _ => ?_)
  split
  exacts [memoryWf_illegal h, memoryWf_goTo h, memoryWf_goTo h]

theorem memoryWf_inherit {r n} (h : MemoryWf s) : MemoryWf (s.inherit r n) := h

theorem memoryWf_bspl {r g sp m inv tgt jn} (h : MemoryWf s) : MemoryWf (s.bspl r g sp m inv tgt jn) := by
  unfold State.bspl
  refine memoryWf_ite (memoryWf_goTo (memoryWf_ite (memoryWf_modGroup h) h)) (memoryWf_ite (memoryWf_goTo (memoryWf_ite (memoryWf_modGroup h) h)) ?_)
  split
  · split
    · exact memoryWf_goTo (memoryWf_modGroup (memoryWf_inherit (memoryWf_ite (memoryWf_modGroup h) h)))
    · exact memoryWf_goTo (memoryWf_ite (memoryWf_modGroup h) h)
  · exact memoryWf_scalarTrap (memoryWf_ite (memoryWf_modGroup h) h)

theorem memoryWf_waitJoin {r sp} (h : MemoryWf s) : MemoryWf (s.waitJoin r sp) := h

theorem memoryWf_execJoin (h : MemoryWf s) : OutWf (execJoin s) := by
  unfold execJoin
  refine memoryWf_scalarRun h (fun _ _ _ => ?_)
  dsimp only
  split
  · exact h
  · split
    · exact memoryWf_waitJoin h
    · split
      exacts [memoryWf_scalarTrap h, memoryWf_ite (memoryWf_goTo h) (memoryWf_ite (memoryWf_waitJoin h) (memoryWf_goTo h))]

theorem memoryWf_exitSplit {r g sp} (h : MemoryWf s) : MemoryWf (s.exitSplit r g sp) := by
  unfold State.exitSplit
  dsimp only
  split
  · exact memoryWf_putSplit h
  · split
    exacts [h, memoryWf_ite (memoryWf_raiseRemote h) (memoryWf_settleGroup (memoryWf_modGroup (memoryWf_putSplit h)))]

theorem memoryWf_execExit (h : MemoryWf s) : OutWf (execExit s) := by
  unfold execExit
  refine memoryWf_scalarRun h (fun _ _ _ => ?_)
  split
  · exact memoryWf_illegal h
  · split
    · exact h
    · split
      · exact memoryWf_exitSplit h
      · split <;> exact memoryWf_goTo h

theorem memoryWf_execRun {i} (h : MemoryWf s) : OutWf (execRun i s) := by
  unfold execRun
  refine memoryWf_scalarRun h (fun _ _ _ => ?_)
  dsimp only
  split
  · exact memoryWf_illegal h
  · split
    · exact h
    · split
      exacts [h, memoryWf_finish0 h]

theorem memoryWf_execWaitf {any m} (h : MemoryWf s) : OutWf (execWaitf any m s) := by
  unfold execWaitf
  refine memoryWf_scalarRun h (fun _ _ _ => ?_)
  dsimp only
  split
  exacts [h, memoryWf_ite (memoryWf_putSplit h) (memoryWf_finish0 (memoryWf_fencePassed (memoryWf_modGroup (memoryWf_observe h))))]

theorem memoryWf_execSeg {w} (h : MemoryWf s) : OutWf (execSeg w s) := by
  unfold execSeg
  refine memoryWf_scalarRun h (fun _ _ _ => ?_)
  split
  exacts [h, memoryWf_ite (memoryWf_illegal h) (memoryWf_ite h (memoryWf_finish0 (memoryWf_modGroup h)))]

theorem memoryWf_blockOn {r sp} (h : MemoryWf s) : MemoryWf (s.blockOn r sp) := h
theorem memoryWf_settleJoins {g} (h : MemoryWf s) : MemoryWf (s.settleJoins g) := h

theorem memoryWf_rejoin {r sp b st n sync d} (h : MemoryWf s) : MemoryWf (s.rejoin r sp b st n sync d) :=
  memoryWf_ite (memoryWf_putSplit h) (memoryWf_finish h)

theorem memoryWf_tbarRun {rs n f} (h : MemoryWf s) (hf : ∀ x0 x1 x2 x3, MemoryWf (f x0 x1 x2 x3)) : OutWf (tbarRun s rs n f) := by
  unfold tbarRun
  refine memoryWf_scalarRun h (fun _ _ _ => ?_)
  split
  exacts [h, hf _ _ _ _]

theorem memoryWf_execTbarArrive {d n} (h : MemoryWf s) : OutWf (execTbarArrive d n s) :=
  memoryWf_tbarRun h (fun _ _ _ _ => memoryWf_ite h (memoryWf_barEvent (memoryWf_finish (memoryWf_performedAtGrp h))))

theorem memoryWf_execTbarWait {d n} (h : MemoryWf s) : OutWf (execTbarWait d n s) :=
  memoryWf_tbarRun h (fun _ _ _ _ => memoryWf_ite (memoryWf_rejoin h) (memoryWf_putSplit h))

theorem memoryWf_execTbarSync {d n} (h : MemoryWf s) : OutWf (execTbarSync d n s) := by
  unfold execTbarSync
  refine memoryWf_tbarRun h (fun _ _ _ _ => ?_)
  split
  · exact memoryWf_rejoin h
  · exact memoryWf_ite h (memoryWf_settleJoins (memoryWf_barEvent (memoryWf_blockOn (memoryWf_performedAtGrp h))))

theorem memoryWf_execTbarExpect {d a b n} (h : MemoryWf s) : OutWf (execTbarExpect d a b n s) :=
  memoryWf_tbarRun h (fun _ _ _ _ => memoryWf_ite (memoryWf_finish h) (memoryWf_barEvent (memoryWf_finish h)))

theorem memoryWf_execTbarAddb {d b n} (h : MemoryWf s) : OutWf (execTbarAddb d b n s) :=
  memoryWf_tbarRun h (fun _ _ _ _ => memoryWf_barEvent (memoryWf_finish h))

theorem memoryWf_execTbarTest {d n} (h : MemoryWf s) : OutWf (execTbarTest d n s) := memoryWf_tbarRun h (fun _ _ _ _ => memoryWf_finish h)

theorem memoryWf_cbarRun {d f} (h : MemoryWf s) (hf : ∀ x0 x1 x2 x3, MemoryWf (f x0 x1 x2 x3)) : OutWf (cbarRun s d f) := by
  unfold cbarRun
  refine memoryWf_scalarRun h (fun _ _ _ => ?_)
  split
  · exact h
  · split
    exacts [h, hf _ _ _ _]

theorem memoryWf_cbarArrive {lead g lanes} (h : MemoryWf s) : MemoryWf (s.cbarArrive lead g lanes) := memoryWf_settleCbar (memoryWf_modTeam h)

theorem memoryWf_execCbarArrive {d} (h : MemoryWf s) : OutWf (execCbarArrive d s) :=
  memoryWf_cbarRun h (fun _ _ _ _ => memoryWf_ite h (memoryWf_cbarArrive (memoryWf_finish (memoryWf_performedAtGrp h))))

theorem memoryWf_execCbarWait {d} (h : MemoryWf s) : OutWf (execCbarWait d s) :=
  memoryWf_cbarRun h (fun _ _ _ _ => memoryWf_ite (memoryWf_rejoin h) (memoryWf_putSplit h))

theorem memoryWf_execCbarSync {d} (h : MemoryWf s) : OutWf (execCbarSync d s) := by
  unfold execCbarSync
  refine memoryWf_cbarRun h (fun _ _ _ _ => ?_)
  split
  · exact memoryWf_rejoin h
  · split
    exacts [h, memoryWf_settleJoins (memoryWf_cbarArrive (memoryWf_blockOn (memoryWf_performedAtGrp h)))]

theorem memoryWf_fenceAcquire {r scope sc} (h : MemoryWf s) : MemoryWf (s.fenceAcquire r scope sc) := by
  unfold State.fenceAcquire
  dsimp only
  split
  · refine memoryWf_modGroup ?_
    split
    exacts [memoryWf_sysAcquire (memoryWf_ite (memoryWf_acquire h) h), memoryWf_ite (memoryWf_acquire h) h]
  · split
    exacts [memoryWf_sysAcquire (memoryWf_ite (memoryWf_acquire h) h), memoryWf_ite (memoryWf_acquire h) h]

theorem memoryWf_fenceRun {scope rel acq sc} (h : MemoryWf s) : OutWf (fenceRun s scope rel acq sc) := by
  unfold fenceRun
  refine memoryWf_scalarRun h (fun _ _ _ => ?_)
  dsimp only
  split
  · exact memoryWf_illegal h
  · split
    · exact h
    · split
      · exact h
      · split
        · exact memoryWf_raiseRemote h
        · split
          · exact h
          · split
            · exact h
            · split
              · refine memoryWf_fencePassed ?_
                split
                exacts [memoryWf_fenceAcquire (memoryWf_ite (memoryWf_performedAtGrp h) h), memoryWf_ite (memoryWf_performedAtGrp h) h]
              · refine memoryWf_finish0 (memoryWf_fencePassed ?_)
                split
                exacts [memoryWf_fenceAcquire (memoryWf_ite (memoryWf_performedAtGrp h) h), memoryWf_ite (memoryWf_performedAtGrp h) h]

theorem memoryWf_execFenceAcq {x} (h : MemoryWf s) : OutWf (execFenceAcq x s) := memoryWf_fenceRun h
theorem memoryWf_execFenceRel {x} (h : MemoryWf s) : OutWf (execFenceRel x s) := memoryWf_fenceRun h
theorem memoryWf_execFenceAr {x} (h : MemoryWf s) : OutWf (execFenceAr x s) := memoryWf_fenceRun h
theorem memoryWf_execFenceSc {x} (h : MemoryWf s) : OutWf (execFenceSc x s) := memoryWf_fenceRun h

theorem memoryWf_execTalloc {d a b l a4} (h : MemoryWf s) : OutWf (execTalloc d a b l a4 s) := by
  unfold execTalloc
  refine memoryWf_scalarRun h (fun _ _ _ => ?_)
  dsimp only
  split
  · split
    · exact h
    · split
      · exact memoryWf_scalarTrap h
      · refine memoryWf_finish ?_
        split
        · exact h
        · split
          · exact memoryWf_modGroup h
          · split
            · exact memoryWf_useFeat (memoryWf_touch (memoryWf_mk (storeWf_clearMark (memoryWf_modTeam h) _)))
            · exact memoryWf_mk (storeWf_clearMark (memoryWf_modTeam h) _)
  · exact h

theorem memoryWf_execTfree {d l a2} (h : MemoryWf s) : OutWf (execTfree d l a2 s) := by
  unfold execTfree
  refine memoryWf_scalarRun h (fun _ _ _ => ?_)
  dsimp only
  split
  · exact h
  · split
    · exact h
    · split
      · exact memoryWf_scalarTrap h
      · split
        · exact memoryWf_finish h
        · split
          · split
            exacts [memoryWf_finish h, memoryWf_ite h (memoryWf_finish (memoryWf_modGroup (memoryWf_mk (storeWf_clearAcc h _ _))))]
          · exact memoryWf_ite (memoryWf_finish h) (memoryWf_ite h (memoryWf_finish (memoryWf_freeTile h)))

theorem memoryWf_execTinfo {d l a2} (h : MemoryWf s) : OutWf (execTinfo d l a2 s) := by
  unfold execTinfo
  refine memoryWf_scalarRun h (fun _ _ _ => ?_)
  dsimp only
  split
  exacts [h, memoryWf_ite (memoryWf_scalarTrap h) (memoryWf_finish h)]

end Sys2Proof.Proofs

/-!
PROOF. Canonical memory (O57): copies keep it. -/

namespace Sys2Proof.Proofs

open Sys2Proof.Machine Sys2Proof.Safety Sys2Proof.Laws

variable {s : State}

theorem memoryWf_modCopy {id f} (h : MemoryWf s) : MemoryWf (s.modCopy id f) := h
theorem memoryWf_dropCopy {id} (h : MemoryWf s) : MemoryWf (s.dropCopy id) := h

theorem memoryWf_freeRetired {t} (h : MemoryWf s) : MemoryWf (s.freeRetired t) := by
  unfold State.freeRetired
  split
  exacts [memoryWf_ite (memoryWf_freeTiles h) h, h]

theorem memoryWf_dropParts {c} (h : MemoryWf s) : MemoryWf (s.dropParts c) := by
  unfold State.dropParts
  split <;> exact h

theorem memoryWf_redFailed {c} (h : MemoryWf s) : MemoryWf (s.redFailed c) := by
  unfold State.redFailed
  split
  exacts [memoryWf_foldl (fun _ _ h1 => memoryWf_ite (memoryWf_sendAs h1) h1) h, h]

theorem memoryWf_endCopy {c} (h : MemoryWf s) : MemoryWf (s.endCopy c) := by
  unfold State.endCopy
  extract_lets s1 s2
  have h1 : MemoryWf s1 := memoryWf_dropParts (memoryWf_dropCopy h)
  have h2 : MemoryWf s2 := by
    unfold s2
    split
    · exact h1
    · split
      exacts [memoryWf_freeRetired (memoryWf_freeRetired h1), memoryWf_freeRetired h1]
  split
  exacts [h2, memoryWf_modGroup h2]

theorem memoryWf_countCopy {c n} (h : MemoryWf s) : MemoryWf (s.countCopy c n) := by
  unfold State.countCopy
  dsimp only
  split
  exacts [memoryWf_barEvent (memoryWf_modCopy h), memoryWf_modCopy h]

theorem memoryWf_copyFault {c reason va aux} (h : MemoryWf s) : MemoryWf (s.copyFault c reason va aux) := by
  unfold State.copyFault
  split
  · exact memoryWf_modCopy h
  · refine memoryWf_endCopy ?_
    split
    · refine memoryWf_event ?_
      split
      · refine memoryWf_modTile ?_
        split
        exacts [memoryWf_barEvent h, h]
      · split
        exacts [memoryWf_barEvent h, h]
    · refine memoryWf_redFailed (memoryWf_event ?_)
      split
      · refine memoryWf_modTile ?_
        split
        exacts [memoryWf_barEvent h, h]
      · split
        exacts [memoryWf_barEvent h, h]

theorem memoryWf_settleCopy {id} (h : MemoryWf s) : MemoryWf (s.settleCopy id) := by
  unfold State.settleCopy
  split
  · exact h
  · split
    exacts [memoryWf_ite (memoryWf_copyFault h) h, memoryWf_ite (memoryWf_endCopy h) h]

theorem memoryWf_landChunk {id k n} (h : MemoryWf s) : MemoryWf (s.landChunk id k n) := by
  unfold State.landChunk
  split
  · exact h
  · refine memoryWf_settleCopy (memoryWf_countCopy ?_)
    split
    exacts [memoryWf_modTile (memoryWf_modCopy h), memoryWf_modCopy h]

theorem memoryWf_copyRead {c r m} (h : MemoryWf r.s) : MemoryWf (State.copyRead c r m).s := by
  have hm : ∀ (t : State) (e : Option TlbEntry) (va : Nat), MemoryWf t → MemoryWf (match e with | some e => t.markLeaf e va false | none => t) := fun t e va ht => by
    split
    exacts [memoryWf_markLeaf ht, ht]
  unfold State.copyRead
  dsimp only
  refine ite_keeps (P := fun r : CopyRun => MemoryWf r.s) h ?_
  split
  case h_1 => exact h
  case h_2 => split <;> exact h
  case h_3 =>
    split
    case h_1 => exact h
    case h_2 =>
      split
      case h_5 =>
        refine memoryWf_homeRead (n := 32) (hm _ _ _ (memoryWf_charge ?_))
        split
        exacts [memoryWf_touchPa h, h]
      case h_6 | h_9 => exact hm _ _ _ h
      all_goals exact h

theorem memoryWf_copyPut {c x} (h : MemoryWf s) : OptWf MemoryWf (s.copyPut c x) := by
  unfold State.copyPut
  dsimp only
  split
  · refine optWf_map (memoryWf_homeWrite (memoryWf_charge ?_)) (fun _ h1 => memoryWf_modCopy (memoryWf_ite (memoryWf_recall h1) h1))
    split
    · refine memoryWf_touchPa ?_
      split
      exacts [memoryWf_markLeaf h, h]
    · split
      exacts [memoryWf_markLeaf h, h]
  · refine optWf_some (memoryWf_mk (storeWf_hostPut ?_ _ _))
    split
    exacts [memoryWf_markLeaf h, h]
  · refine optWf_some ?_
    split
    exacts [memoryWf_markLeaf h, h]

theorem memoryWf_copyPoison {ps} (h : MemoryWf s) : MemoryWf (s.copyPoison ps) :=
  memoryWf_foldl (fun _ _ h1 => memoryWf_mk (ite_keeps (storeWf_spoil (ite_keeps (storeWf_cleanse h1 _ _) h1) _) (ite_keeps (storeWf_cleanse h1 _ _) h1))) h

theorem memoryWf_keepReq {c k r} (h : MemoryWf s) : MemoryWf (s.keepReq c k r) := by
  unfold State.keepReq
  refine memoryWf_rest ?_
  split
  exacts [memoryWf_useFeat h, h]

theorem memoryWf_holdOwn {r page} (h : MemoryWf s) : MemoryWf (s.holdOwn r page) := h

theorem memoryWf_copySend {c k xs} (h : MemoryWf s) : MemoryWf (s.copySend c k xs).1 := by
  unfold State.copySend
  split
  · exact h
  · next x r =>
    have hm : MemoryWf ((x :: r).foldl (fun (s : State) x => match x.e with | some e => s.markLeaf e x.va.toNat true | none => s)
        (({ s with ops := { s.ops with nextId := s.ops.nextId + 1 } } : State).dropAt x.p)) :=
      memoryWf_foldl (fun _ _ h1 => by split; exacts [memoryWf_markLeaf h1, h1]) (memoryWf_dropAt h)
    dsimp only
    refine memoryWf_ite_fst ?_ (memoryWf_keepReq hm)
    split
    · exact memoryWf_modCopy ((memoryWf_serve hm).answer ‹_›)
    · split
      exacts [memoryWf_copyFault ((memoryWf_serve hm).answer ‹_›), (memoryWf_serve hm).answer ‹_›]
    · split
      exacts [memoryWf_copyFault ((memoryWf_serve hm).answer ‹_›), (memoryWf_serve hm).answer ‹_›]
    · exact memoryWf_keepReq ((memoryWf_serve hm).late ‹_›)
    · exact memoryWf_holdOwn (memoryWf_keepReq ((memoryWf_serve hm).hold ‹_›))

theorem memoryWf_tilePut {t a2 off b bad} (h : MemoryWf s) : MemoryWf (s.tilePut t a2 off b bad) := by
  unfold State.tilePut
  split
  · exact h
  · refine memoryWf_mk ?_
    split
    exacts [storeWf_spoil (storeWf_rest (memoryWf_modTile h)) _, storeWf_rest (memoryWf_modTile h)]

theorem memoryWf_addPart {m} (h : MemoryWf s) : MemoryWf (s.addPart m) := h

theorem memoryWf_sendPart {c slots m} (h : MemoryWf s) : OptWf MemoryWf (s.sendPart c slots m) := by
  unfold State.sendPart
  dsimp only
  split
  exacts [optWf_some (memoryWf_foldl (fun _ _ h1 => memoryWf_sendAs h1) h), optWf_none]

theorem memoryWf_copyStop {c x} (h : MemoryWf s) : MemoryWf (s.copyStop c x) := by
  unfold State.copyStop
  dsimp only
  split
  · exact memoryWf_copyFault h
  · exact memoryWf_modCopy (memoryWf_pageRequest h)
  · exact memoryWf_modCopy (memoryWf_startFollow h)
  · exact h
  · split
    exacts [memoryWf_endCtx h, h]
  · split
    exacts [memoryWf_endLost h, memoryWf_copyFault h]

theorem memoryWf_writeChunk {count c k own all seen ps} (h : MemoryWf s) (hcount : ∀ x0, MemoryWf x0 → MemoryWf (count x0)) :
    MemoryWf (s.writeChunk count c k own all seen ps) := by
  have hput : OptWf MemoryWf (ps.foldl (fun (a : Option State) (x : PutAt) => a.bind (fun s => s.copyPut c x)) (some s)) :=
    optWf_foldl (fun _ _ h1 => optWf_bind h1 (fun _ h2 => memoryWf_copyPut h2)) (optWf_some h)
  unfold State.writeChunk
  split
  · exact h
  · next t e =>
    extract_lets wrote keep s1 s2 y s3
    have h1 : MemoryWf s1 := memoryWf_modCopy (memoryWf_copyPoison (hcount _ (hput t e)))
    have h2 : MemoryWf s2 := by
      unfold s2
      split
      · refine memoryWf_foldl (fun _ _ hs => ?_) h1
        split
        exacts [memoryWf_tilePut hs, hs]
      · exact h1
    have h3 : MemoryWf s3 := memoryWf_sendRequests (memoryWf_foldl_fst (fun _ _ h1 => memoryWf_copySend h1) h2)
    exact memoryWf_ite (memoryWf_modCopy h3) (memoryWf_landChunk h3)

theorem memoryWf_readMoves {c ms} (h : MemoryWf s) : MemoryWf (s.readMoves c ms).s :=
  foldl_preserves (P := fun r : CopyRun => MemoryWf r.s) (fun _ _ h1 => memoryWf_copyRead h1) h

theorem memoryWf_putChunk {dead c k own ms out seen} (h : MemoryWf s) : MemoryWf (s.putChunk dead c k own ms out seen) := by
  unfold State.putChunk
  split
  · exact memoryWf_copyStop h
  · split
    · exact memoryWf_copyFault h
    · dsimp only
      split
      · split
        · exact memoryWf_writeChunk h (fun _ h1 => memoryWf_sign (memoryWf_ite (memoryWf_countDead h1) h1))
        · exact memoryWf_writeChunk h (fun _ h1 => memoryWf_ite (memoryWf_countDead h1) h1)
      · exact memoryWf_writeChunk h (fun _ h1 => memoryWf_ite (memoryWf_countDead h1) h1)

theorem memoryWf_moveChunk {c k} (h : MemoryWf s) : MemoryWf (s.moveChunk c k) := by
  unfold State.moveChunk
  dsimp only
  split
  · split
    exacts [memoryWf_putChunk h, memoryWf_copyFault h, h]
  · split
    exacts [memoryWf_copyStop h, memoryWf_ite h (memoryWf_putChunk (memoryWf_readMoves h))]

theorem memoryWf_copyRsp {q x} (h : MemoryWf s) : MemoryWf (s.copyRsp q x) := by
  unfold State.copyRsp
  split
  · exact h
  · dsimp only
    split
    · refine memoryWf_ite ?_ (memoryWf_ite (memoryWf_modCopy h) (memoryWf_landChunk (memoryWf_modCopy h)))
      split
      exacts [memoryWf_modCopy h, h]
    · exact memoryWf_copyFault h
    · exact memoryWf_copyFault h

theorem memoryWf_serveOwn {r} (h : MemoryWf s) : MemoryWf (s.serveOwn r) := by
  unfold State.serveOwn
  split
  · split
    exacts [memoryWf_copyRsp (memoryWf_rest ((memoryWf_serve h).answer ‹_›)), (memoryWf_serve h).answer ‹_›]
  · exact (memoryWf_serve h).late ‹_›
  · exact memoryWf_holdOwn ((memoryWf_serve h).hold ‹_›)

theorem memoryWf_askSectors {c k need} (h : MemoryWf s) : MemoryWf (s.askSectors c k need) := by
  unfold State.askSectors
  dsimp only
  split
  · exact memoryWf_copyFault h
  · refine memoryWf_sendRequests (memoryWf_foldl_fst (fun _ _ h1 => ?_) h)
    split
    exacts [memoryWf_serveOwn (memoryWf_rest (memoryWf_keepReq h1)), memoryWf_rest (memoryWf_keepReq h1)]

theorem memoryWf_contribute {c x k unit} (h : MemoryWf s) : MemoryWf (s.contribute c x k unit) := by
  unfold State.contribute
  split
  · exact h
  · dsimp only
    split
    · exact memoryWf_copyStop h
    · refine memoryWf_ite (memoryWf_askSectors h) ?_
      split
      · exact memoryWf_copyFault h
      · exact memoryWf_addPart (memoryWf_modCopy (memoryWf_ite (memoryWf_countDead (memoryWf_sendPart (memoryWf_readMoves h) _ ‹_›)) (memoryWf_sendPart (memoryWf_readMoves h) _ ‹_›)))

theorem memoryWf_askChunk {c k} (h : MemoryWf s) : MemoryWf (s.askChunk c k) := by
  unfold State.askChunk
  dsimp only
  split
  · refine memoryWf_foldl (fun _ _ h1 => ?_) h
    split
    exacts [memoryWf_contribute h1, h1]
  · split
    exacts [memoryWf_copyStop h, memoryWf_askSectors h]

theorem memoryWf_sigRsp {u q x} (h : MemoryWf s) : MemoryWf (s.sigRsp u q x).1 := by
  unfold State.sigRsp
  split
  · split
    exacts [memoryWf_sigEnd h, h]
  · exact memoryWf_sigFailed h

theorem memoryWf_sigWaits {u r} (h : MemoryWf s) : MemoryWf (s.sigWaits u r) := h

theorem memoryWf_sigAsk {u slot off key old} (h : MemoryWf s) : MemoryWf (s.sigAsk u slot off key old) := by
  unfold State.sigAsk
  split
  exacts [memoryWf_sigEnd h, memoryWf_ite (memoryWf_sendReq (memoryWf_sigWaits (memoryWf_dropAt h))) (memoryWf_sigFailed h)]

theorem memoryWf_sigOwn {u slot off key} (h : MemoryWf s) : MemoryWf (s.sigOwn u slot off key) := by
  unfold State.sigOwn
  dsimp only
  split
  · exact memoryWf_sigEnd ((memoryWf_serve (memoryWf_rest (memoryWf_markWrite h))).answer ‹_›)
  · exact memoryWf_sigFailed ((memoryWf_serve (memoryWf_rest (memoryWf_markWrite h))).answer ‹_›)
  · exact memoryWf_sigWaits ((memoryWf_serve (memoryWf_rest (memoryWf_markWrite h))).late ‹_›)
  · exact memoryWf_holdOwn (memoryWf_sigWaits ((memoryWf_serve (memoryWf_rest (memoryWf_markWrite h))).hold ‹_›))

theorem memoryWf_sigRetry {u} (h : MemoryWf s) : MemoryWf (s.sigRetry u) := by
  unfold State.sigRetry
  split
  exacts [memoryWf_ite (memoryWf_sigOwn h) (memoryWf_sigAsk (memoryWf_markWrite h)), memoryWf_sigUpdate h]

theorem memoryWf_sigsRetry (h : MemoryWf s) : MemoryWf (s.sigsRetry) := memoryWf_foldl (fun _ _ h1 => memoryWf_sigRetry h1) h
theorem memoryWf_keepPut {u} (h : MemoryWf s) : MemoryWf (s.keepPut u) := h

theorem memoryWf_putEnd {u} (h : MemoryWf s) : MemoryWf (s.putEnd u) := by
  unfold State.putEnd
  split
  · exact memoryWf_workDone (memoryWf_modQueue h)
  · exact memoryWf_ite (memoryWf_keepPut h) (memoryWf_signalEnd h)
  · exact h
  · exact h
  · exact memoryWf_modCtx h
  · exact memoryWf_modSnap h
  · exact memoryWf_modSnap h
  · exact memoryWf_modJournal (memoryWf_jrnlWrote h)

theorem memoryWf_putFail {u} (h : MemoryWf s) : MemoryWf (s.putFail u) := by
  unfold State.putFail
  split
  · exact memoryWf_workDone (memoryWf_queueError h)
  · exact memoryWf_signalEnd h
  · exact h
  · exact memoryWf_modFn h
  · exact memoryWf_modCtx h
  · exact memoryWf_modSnap h
  · exact memoryWf_modSnap h
  · exact memoryWf_modJournal h

theorem memoryWf_awaitPut {u r} (h : MemoryWf s) : MemoryWf (s.awaitPut u r) := h

theorem memoryWf_putStep {fuel u} (h : MemoryWf s) : MemoryWf (s.putStep fuel u) := by
  induction fuel generalizing s u with
  | zero => exact h
  | succ fuel ih =>
    refine memoryWf_ite (memoryWf_putEnd h) ?_
    extract_lets n u'
    split
    · exact memoryWf_putFail h
    · exact memoryWf_keepPut ((memoryWf_cpPlace h).wait ‹_›)
    · refine memoryWf_ite (memoryWf_keepPut h) ?_
      extract_lets
      split
      · exact memoryWf_keepPut h
      · have hw := memoryWf_homeWrite (memoryWf_markWrite h) _ ‹_›
        exact memoryWf_ite (memoryWf_recall (memoryWf_awaitPut (memoryWf_rest hw))) (ih hw)
    · exact ih (memoryWf_putPlace (memoryWf_markWrite h))
    · have hd : ∀ p, MemoryWf ((s.markWrite u.pent u.va).dropAt p) := fun _ => memoryWf_dropAt (memoryWf_markWrite h)
      extract_lets id r t
      have ht : MemoryWf t := memoryWf_rest (hd _)
      refine memoryWf_ite ?_ (memoryWf_ite (memoryWf_sendAs (memoryWf_awaitPut ht)) (memoryWf_putFail ht))
      split
      · exact ih ((memoryWf_serve ht).answer ‹_›)
      · exact memoryWf_putFail ((memoryWf_serve ht).answer ‹_›)
      · exact memoryWf_awaitPut ((memoryWf_serve ht).late ‹_›)
      · exact memoryWf_holdOwn (memoryWf_awaitPut ((memoryWf_serve ht).hold ‹_›))
    · exact memoryWf_putFail h

theorem memoryWf_put {u} (h : MemoryWf s) : MemoryWf (s.put u) := memoryWf_putStep h

theorem memoryWf_putRsp {u x} (h : MemoryWf s) : MemoryWf (s.putRsp u x) := by
  unfold State.putRsp
  dsimp only
  split
  exacts [memoryWf_put h, memoryWf_putFail h]

theorem memoryWf_journalsSend (h : MemoryWf s) : MemoryWf (s.journalsSend) := by
  unfold State.journalsSend
  refine memoryWf_foldl (fun _ _ h1 => ?_) h
  split
  exacts [h1, memoryWf_ite h1 (memoryWf_put h1)]

theorem memoryWf_putsRetry (h : MemoryWf s) : MemoryWf (s.putsRetry) := memoryWf_foldl (fun _ _ h1 => memoryWf_put h1) h

theorem memoryWf_answerReq {q x} (h : MemoryWf s) : MemoryWf (s.answerReq q x) := by
  unfold State.answerReq
  dsimp only
  split
  · exact memoryWf_copyRsp h
  · split
    · split
      exacts [memoryWf_sendPieces (memoryWf_applyRsp h), h]
    · split
      · split
        · split
          exacts [memoryWf_sigOwn (memoryWf_sigRsp (memoryWf_rest h)), memoryWf_sigAsk (memoryWf_sigRsp (memoryWf_rest h))]
        · exact memoryWf_sigRsp (memoryWf_rest h)
      · split
        exacts [memoryWf_putRsp h, memoryWf_lineAnswer h]

theorem memoryWf_deliverRsp {dst r} (h : MemoryWf s) : MemoryWf (s.deliverRsp dst r) := by
  unfold State.deliverRsp
  split
  · split
    exacts [memoryWf_answerReq h, h]
  · exact memoryWf_send h

theorem memoryWf_serveAgain {i} (h : MemoryWf s) : MemoryWf (s.serveAgain i) := by
  unfold State.serveAgain
  split
  · exact memoryWf_deliverRsp ((memoryWf_serve h).answer ‹_›)
  · exact (memoryWf_serve h).late ‹_›
  · exact memoryWf_rest ((memoryWf_serve h).hold ‹_›)

theorem memoryWf_retryInbound {p} (h : MemoryWf s) : MemoryWf (s.retryInbound p) := memoryWf_foldl (fun _ _ h1 => memoryWf_serveAgain h1) h

theorem memoryWf_contribution {m} (h : MemoryWf s) : MemoryWf (s.contribution m) := by
  unfold State.contribution
  split
  exacts [h, memoryWf_ite h (memoryWf_addPart h)]

theorem memoryWf_execChunkLand {c k step} (h : MemoryWf s) : OutWf (execChunkLand c k step s) := by
  unfold execChunkLand
  split
  · exact outWf_next h
  · split
    · exact outWf_next h
    · refine outWf_ite (outWf_next h) ?_
      split
      · exact outWf_next (memoryWf_askChunk h)
      · exact outWf_next (memoryWf_putsRetry (memoryWf_sigsRetry (memoryWf_retryInbound (memoryWf_moveChunk h))))

end Sys2Proof.Proofs

/-!
PROOF. Canonical memory (O57): DRAY and berths keep it. -/

namespace Sys2Proof.Proofs

open Sys2Proof.Machine Sys2Proof.Safety Sys2Proof.Laws

variable {s : State}

theorem memoryWf_recLine {a slot rope line name key} (h : MemoryWf s) : (s.recLine a slot rope line name key).Wf := by
  unfold State.recLine
  split
  · split
    · exact h
    · split
      exacts [trivial, h]
  · split
    exacts [(memoryWf_askAt h).ok ‹_›, (memoryWf_askAt h).wait ‹_›, trivial]

theorem memoryWf_readRec {a fails va n} (h : MemoryWf s) : (s.readRec a fails va n).Wf := by
  have hm : ∀ e : Option TlbEntry, MemoryWf (match e with | some e => s.markLeaf e va.toNat false | none => s) := fun e => by
    split
    exacts [memoryWf_markLeaf h, h]
  have hp : ∀ (off : Nat) {x : RecGot}, x.Wf → RecGot.Wf (match x with | .ok s b u => .ok s ((b.drop (off % 128)).take n) u | x => x) := fun off x hx => by
    cases x <;> exact hx
  unfold State.readRec
  split
  case h_7 p ca e _ =>
    dsimp only
    split
    · exact ite_keeps trivial (ite_keeps trivial (ite_keeps h (memoryWf_homeRead (n := n) (memoryWf_charge (memoryWf_touchPa (hm e))))))
    · exact hm e
    · exact hp _ (memoryWf_recLine (hm e))
    · exact hp _ (memoryWf_recLine h)
    · trivial
  case h_5 => split <;> trivial
  all_goals trivial

theorem memoryWf_touchSide {t a2} (h : MemoryWf s) : MemoryWf (s.touchSide t a2) := by
  unfold State.touchSide
  split
  exacts [memoryWf_ite (memoryWf_touch h) h, h]

theorem memoryWf_beginCopy {c fresh} (h : MemoryWf s) : MemoryWf (s.beginCopy c fresh) := by
  unfold State.beginCopy
  extract_lets +onlyGivenNames c _ s0
  split
  · exact memoryWf_copyFault h
  · extract_lets ms s1 s2 set ks s3 second
    have h1 : MemoryWf s1 := by
      unfold s1
      split
      exacts [memoryWf_touchSide h, memoryWf_touchSide h, memoryWf_touchSide h, h]
    have h2 : MemoryWf s2 := by
      unfold s2
      split
      exacts [memoryWf_touchSide h1, h1]
    have h3 : MemoryWf s3 := by
      unfold s3
      split
      exacts [memoryWf_modTile h2, h2]
    exact memoryWf_settleCopy (memoryWf_modCopy h3)

theorem memoryWf_drayStart {r g sp a q b raw} (h : MemoryWf s) : MemoryWf (s.drayStart r g sp a q b raw) := by
  unfold State.drayStart
  extract_lets +onlyGivenNames id regs c red _ s1 s2 s3 s4
  have h2 : MemoryWf s2 := memoryWf_ite (memoryWf_modCtx h) h
  have h3 : MemoryWf s3 := by
    unfold s3
    split
    exacts [memoryWf_modGroup h2, h2]
  have h4 : MemoryWf s4 := by
    unfold s4
    split
    exacts [memoryWf_finish0 h3, h3]
  split
  · exact memoryWf_beginCopy h4
  · split
    exacts [memoryWf_ite (memoryWf_beginCopy h4) (memoryWf_copyFault (memoryWf_rest h4)), memoryWf_copyFault (memoryWf_rest h4)]

theorem memoryWf_drayRun {dir a b tile w} (h : MemoryWf s) : OutWf (drayRun s dir a b tile w) := by
  unfold drayRun
  extract_lets many rs
  refine memoryWf_scalarRun h fun r g sp => ?_
  have ht : ∀ c u x, MemoryWf (s.scalarTrap r sp c u x 0x24) := fun _ _ _ => memoryWf_scalarTrap h
  split
  · exact h
  · next e _ =>
    extract_lets q red t2t locked
    refine memoryWf_ite (ht _ _ _) (memoryWf_ite (memoryWf_illegal h) (memoryWf_ite h (memoryWf_ite (ht _ _ _) (memoryWf_ite (ht _ _ _)
      (memoryWf_ite (memoryWf_drayStart h) ?_)))))
    have hr : RecGot.Wf (if q.sa.toNat % 128 = 0 then s.readRec e sp.fails q.sa 128 else .bad 7) := ite_keeps (memoryWf_readRec h) trivial
    split
    · exact memoryWf_ite (hr.ok ‹_›) (memoryWf_drayStart (memoryWf_useLines (hr.ok ‹_›)))
    · exact ht _ _ _
    · exact memoryWf_drayStart h
    · exact hr.wait ‹_›
    · exact memoryWf_deschedule h
    · exact memoryWf_awaitFollow h
    · exact memoryWf_endLost h

theorem memoryWf_execDrayM2t {a b tile w} (h : MemoryWf s) : OutWf (execDrayM2t a b tile w s) := memoryWf_drayRun h
theorem memoryWf_execDrayT2m {a b tile w} (h : MemoryWf s) : OutWf (execDrayT2m a b tile w s) := memoryWf_drayRun h
theorem memoryWf_execDrayT2t {a tile w} (h : MemoryWf s) : OutWf (execDrayT2t a tile w s) := memoryWf_drayRun h
theorem memoryWf_execDrayRed {a b w} (h : MemoryWf s) : OutWf (execDrayRed a b w s) := memoryWf_drayRun h

theorem memoryWf_execDprobe {d a b t} (h : MemoryWf s) : OutWf (execDprobe d a b t s) := by
  unfold execDprobe
  refine memoryWf_scalarRun h (fun _ _ _ => ?_)
  split
  · exact memoryWf_scalarTrap h
  · split
    exacts [memoryWf_scalarTrap h, memoryWf_finish h]

theorem memoryWf_modBerth {bd slot f} (h : MemoryWf s) : MemoryWf (s.modBerth bd slot f) := h
theorem memoryWf_mint {b} (h : MemoryWf s) : MemoryWf (s.mint b).1 := memoryWf_mk (storeWf_clearMark h _)
theorem memoryWf_freeBerth {b} (h : MemoryWf s) : MemoryWf (s.freeBerth b) := h

theorem memoryWf_bwaitDone {g sp status} (h : MemoryWf s) : MemoryWf (s.bwaitDone g sp status) :=
  memoryWf_ite (memoryWf_sysAcquire (memoryWf_acquire h)) h

theorem memoryWf_takeRecorded {g sp cn k bytes x} (h : MemoryWf s) : MemoryWf (s.takeRecorded g sp cn k bytes x) :=
  memoryWf_modGroup (memoryWf_record h)

theorem memoryWf_resolveAt {g k bytes waiter x} (h : MemoryWf s) : MemoryWf (s.resolveAt g k bytes waiter x) := by
  unfold State.resolveAt
  split
  · exact h
  · split
    · split
      exacts [h, memoryWf_modGroup h]
    · dsimp only
      split
      exacts [memoryWf_modGroup h, memoryWf_bwaitDone (memoryWf_modGroup (memoryWf_modGroup h))]

theorem memoryWf_sendResolution {b slot} (h : MemoryWf s) : MemoryWf (s.sendResolution b slot) :=
  memoryWf_ite h (memoryWf_ite (memoryWf_sendCtl (memoryWf_modBerth h)) (memoryWf_modBerth h))

theorem memoryWf_resolve {b x} (h : MemoryWf s) : MemoryWf (s.resolve b x) := by
  unfold State.resolve
  dsimp only
  split
  · exact memoryWf_sendResolution (memoryWf_modBerth h)
  · split
    exacts [memoryWf_put (memoryWf_modBerth h), memoryWf_modBerth h]
  · exact memoryWf_resolveAt (memoryWf_modBerth h)
  · exact memoryWf_put (memoryWf_freeBerth h)

theorem memoryWf_deliver {d} (h : MemoryWf s) : MemoryWf (s.deliver d).1 := by
  have hd : MemoryWf (s.inboundFault (some (5 * d.part.toNat + d.sub.toNat)) (d.part.zeroExtend 8) (d.sub.zeroExtend 8) 13 d.src 4 0 0 d.name) :=
    memoryWf_inboundFault h
  unfold State.deliver
  split
  · exact hd
  · refine ite_keeps (P := fun p : State × Bool => MemoryWf p.1) (memoryWf_resolve h) hd

theorem memoryWf_modForward {n f} (h : MemoryWf s) : MemoryWf (s.modForward n f) := h

theorem memoryWf_releaseForward {n} (h : MemoryWf s) : MemoryWf (s.releaseForward n) :=
  memoryWf_ite (memoryWf_sendCtl (memoryWf_modForward h)) (memoryWf_modForward h)

theorem memoryWf_execForwardedResolution {r} (h : MemoryWf s) : OutWf (execForwardedResolution r s) := by
  have ha : ∀ ok, MemoryWf (s.sendAnswer r.src r.origin (.resolutionAck r.name ok)) := fun _ => memoryWf_sendAnswer h
  unfold execForwardedResolution
  split
  · exact outWf_next (ha false)
  · refine outWf_ite (outWf_next (ha true)) (outWf_ite ?_ (outWf_next (memoryWf_ite (memoryWf_releaseForward ?_) ?_)))
    · dsimp only
      split
      exacts [outWf_next (memoryWf_put (memoryWf_modForward (memoryWf_modForward (ha true)))),
        outWf_next (memoryWf_modForward (memoryWf_modForward (ha true)))]
    all_goals exact memoryWf_resolveAt (memoryWf_modForward (memoryWf_modForward (ha true)))

theorem memoryWf_execResolutionAck {name exists_} (h : MemoryWf s) : OutWf (execResolutionAck name exists_ s) := by
  unfold execResolutionAck
  split
  · exact outWf_next h
  · split
    exacts [outWf_next (memoryWf_ite (memoryWf_modBerth h) (memoryWf_freeBerth h)), outWf_next h]

theorem memoryWf_execResolutionResend (h : MemoryWf s) : OutWf (execResolutionResend s) := by
  unfold execResolutionResend
  split
  · split
    · exact outWf_next h
    · split
      exacts [outWf_ite (outWf_next (memoryWf_sendResolution (memoryWf_modBerth h))) (outWf_next h), outWf_next h]
  · split
    exacts [outWf_next (memoryWf_ite (memoryWf_releaseForward h) h), outWf_next h]

theorem memoryWf_takeRelease {n} (h : MemoryWf s) : MemoryWf (s.takeRelease n) := by
  unfold State.takeRelease
  split
  · exact h
  · split
    exacts [memoryWf_freeBerth h, h]

theorem memoryWf_execBerthRelease (h : MemoryWf s) : OutWf (execBerthRelease s) := by
  unfold execBerthRelease
  split
  exacts [outWf_next h, outWf_next (memoryWf_ite h (memoryWf_takeRelease h))]

theorem memoryWf_execForwardingRegistration {r} (h : MemoryWf s) : OutWf (execForwardingRegistration r s) := by
  unfold execForwardingRegistration
  split
  exacts [outWf_next h, outWf_next (memoryWf_ite (memoryWf_sendResolution (memoryWf_modBerth h)) (memoryWf_modBerth h))]

theorem memoryWf_execBerthDelivery {d} (h : MemoryWf s) : OutWf (execBerthDelivery d s) :=
  outWf_ite (outWf_next (memoryWf_deliver h)) (outWf_next (memoryWf_send (memoryWf_deliver h)))

theorem memoryWf_wakeSpoiled {b} (h : MemoryWf s) : MemoryWf (s.wakeSpoiled b) := by
  unfold State.wakeSpoiled
  split
  exacts [memoryWf_modGroup (memoryWf_modBerth h), h]

theorem memoryWf_execBerthExpiry (h : MemoryWf s) : OutWf (execBerthExpiry s) := by
  unfold execBerthExpiry
  split
  exacts [outWf_next h, outWf_next (memoryWf_ite (memoryWf_wakeSpoiled h) (memoryWf_ite (memoryWf_resolve h) h))]

theorem memoryWf_berthRun {feat sopCode rs f} (h : MemoryWf s) (hf : ∀ x0 x1 x2 x3, MemoryWf (f x0 x1 x2 x3)) :
    OutWf (berthRun s feat sopCode rs f) := by
  unfold berthRun
  refine memoryWf_scalarRun h (fun _ _ _ => ?_)
  split
  exacts [h, memoryWf_ite (memoryWf_illegal h) (memoryWf_ite (memoryWf_scalarTrap h) (hf _ _ _ _))]

theorem memoryWf_bmint {r a k n life} (h : MemoryWf s) : MemoryWf (s.bmint r a k n life).1 := by
  unfold State.bmint
  dsimp only
  split
  · exact h
  · split
    exacts [h, memoryWf_useFeat (memoryWf_touch (memoryWf_mint h))]

theorem memoryWf_execBmint {d a z k} (h : MemoryWf s) : OutWf (execBmint d a z k s) :=
  memoryWf_berthRun h (fun _ _ _ _ => memoryWf_ite (memoryWf_illegal h) (memoryWf_finish (memoryWf_modGroup (memoryWf_bmint h))))

theorem memoryWf_touchOwned {cn o} (h : MemoryWf s) : MemoryWf (s.touchOwned cn o) := by
  unfold State.touchOwned
  split
  exacts [memoryWf_touch h, h]

theorem memoryWf_endOwned {n o} (h : MemoryWf s) : MemoryWf (s.endOwned n o) := by
  unfold State.endOwned
  split
  exacts [memoryWf_modBerth h, memoryWf_releaseForward h]

theorem memoryWf_waitOwned {n o sp} (h : MemoryWf s) : MemoryWf (s.waitOwned n o sp) := by
  unfold State.waitOwned
  split
  exacts [memoryWf_modBerth h, memoryWf_modForward h]

theorem memoryWf_bwaitReplay {r sp cn d n o} (h : MemoryWf s) : MemoryWf (s.bwaitReplay r sp cn d n o) := by
  unfold State.bwaitReplay
  dsimp only
  split
  exacts [memoryWf_replayEnd h, memoryWf_bwaitDone (memoryWf_finish (memoryWf_modGroup (memoryWf_modCtx (memoryWf_endOwned h))))]

theorem memoryWf_execBwait {d a} (h : MemoryWf s) : OutWf (execBwait d a s) := by
  unfold execBwait
  refine memoryWf_berthRun h (fun _ _ _ _ => ?_)
  dsimp only
  split
  · exact memoryWf_finish h
  · split
    · exact h
    · split
      · exact memoryWf_scalarTrap (memoryWf_touchOwned h)
      · split
        · exact memoryWf_finish (memoryWf_touchOwned h)
        · split
          · exact memoryWf_bwaitReplay (memoryWf_touchOwned h)
          · split
            · refine memoryWf_bwaitDone (memoryWf_finish ?_)
              split
              exacts [memoryWf_takeRecorded (memoryWf_endOwned (memoryWf_touchOwned h)), memoryWf_endOwned (memoryWf_touchOwned h)]
            · exact memoryWf_putSplit (memoryWf_waitOwned (memoryWf_touchOwned h))

theorem memoryWf_execBdrop {a} (h : MemoryWf s) : OutWf (execBdrop a s) := by
  unfold execBdrop
  refine memoryWf_berthRun h (fun r g sp e => ?_)
  extract_lets n
  split
  · exact memoryWf_finish0 h
  · next o _ =>
    have ht : MemoryWf (s.touchOwned e.cn o) := memoryWf_touchOwned h
    refine memoryWf_ite h (memoryWf_ite (memoryWf_scalarTrap ht) (memoryWf_ite (memoryWf_replayEnd ht) ?_))
    extract_lets s1 s2
    have h1 : MemoryWf s1 := by
      refine memoryWf_ite ht (memoryWf_ite ?_ (memoryWf_takeRecorded ht))
      split
      exacts [memoryWf_modGroup (memoryWf_modCtx ht), ht]
    have h2 : MemoryWf s2 := memoryWf_finish0 (memoryWf_endOwned h1)
    split
    exacts [memoryWf_ite h2 (memoryWf_modGroup h2), h2]

theorem memoryWf_bput {a pc n data} (h : MemoryWf s) : MemoryWf (s.bput a pc n data) := by
  unfold State.bput
  extract_lets +onlyGivenNames s1 op id slot p _ o d r _ s2
  have h2 : MemoryWf s2 := memoryWf_rest (memoryWf_useFeat (memoryWf_ite (memoryWf_touch h) (memoryWf_useFeat h)))
  exact memoryWf_ite (memoryWf_applyRsp (memoryWf_deliver h2)) (memoryWf_ite (memoryWf_sendReq (memoryWf_rest h2)) (memoryWf_applyRsp h2))

theorem memoryWf_execBput {a b z} (h : MemoryWf s) : OutWf (execBput a b z s) :=
  memoryWf_berthRun h (fun _ _ _ _ => memoryWf_ite (memoryWf_illegal h) (memoryWf_ite h (memoryWf_bput (memoryWf_finish0 h))))

end Sys2Proof.Proofs

/-!
PROOF. Canonical memory (O57): lane arithmetic and stages keep it. -/

namespace Sys2Proof.Proofs

open Sys2Proof.Machine Sys2Proof.Safety Sys2Proof.Laws

variable {s : State}

theorem memoryWf_transOp {f fn} (h : MemoryWf s) : OutWf (transOp s f fn) := memoryWf_laneOp h

theorem memoryWf_cvtsOp {f enc} (h : MemoryWf s) : OutWf (cvtsOp s f enc) := by
  unfold cvtsOp
  refine memoryWf_withEnv h (fun _ => ?_)
  split
  exacts [memoryWf_laneTrap h, memoryWf_laneWrite h]

theorem memoryWf_laneScalar {e f srcs empty v fl unread} (h : MemoryWf s) : MemoryWf (s.laneScalar e f srcs empty v fl unread) :=
  memoryWf_laneEffect h (fun _ h1 => memoryWf_modGroup h1) (fun _ h1 => memoryWf_modGroup h1)

theorem memoryWf_laneMask {e f srcs unread v} (h : MemoryWf s) : MemoryWf (s.laneMask e f srcs unread v) :=
  memoryWf_laneEffect h (fun _ h1 => h1) (fun _ h1 => memoryWf_modGroup h1)

theorem memoryWf_stageFault {pent p code addr} (h : MemoryWf s) : MemoryWf (s.stageFault pent p code addr) := memoryWf_inboundFault h

theorem memoryWf_stepPart {pent va n} (h : MemoryWf s) : (s.stepPart pent va n).Wf := by
  unfold State.stepPart
  refine ite_keeps h ?_
  split
  case h_7 =>
    refine ite_keeps h (ite_keeps trivial ?_)
    have hm : ∀ e : Option TlbEntry, MemoryWf (match e with | some e => s.markLeaf e (va &&& 0xFFFFFFFFFFFF).toNat false | none => s) := fun e => by
      split
      exacts [memoryWf_markLeaf h, h]
    exact memoryWf_homeRead (n := n) (memoryWf_ite (memoryWf_countDead (hm _)) (hm _))
  all_goals exact h

theorem memoryWf_stepLoad {pent va n} (h : MemoryWf s) : (s.stepLoad pent va n).Wf := by
  unfold State.stepLoad
  split
  · exact h
  · refine foldl_preserves (fun a p h1 => ?_) h
    split
    · have h2 := memoryWf_stepPart (pent := pent) (va := va + BitVec.ofNat 64 p.1) (n := p.2) h1
      split
      exacts [h2.ok ‹_›, h2]
    · exact h1

theorem memoryWf_chainLoad {b p va n k} (h : MemoryWf s) (hk : ∀ t x, MemoryWf t → MemoryWf (k t x).1) : MemoryWf (s.chainLoad b p va n k).1 := by
  have hl := memoryWf_stepLoad (pent := b.pent) (va := va) (n := n) h
  unfold State.chainLoad
  generalize s.stepLoad b.pent va n = x at hl ⊢
  cases x with
  | ok t d => exact hk t d hl
  | bad t code =>
    dsimp only
    exact memoryWf_stageFault hl
  | wait => exact h

theorem memoryWf_chain {b fuel p} (h : MemoryWf s) : MemoryWf (s.chain b fuel p).1 := by
  induction fuel generalizing s p with
  | zero => exact h
  | succ fuel ih =>
    have load : ∀ {t : State} {va n}, MemoryWf t → MemoryWf (t.chainLoad b p va n (fun s x => (s, .deliver 0 x))).1 := fun ht => memoryWf_chainLoad ht fun _ _ h1 => h1
    have next : ∀ {t : State} {va n} {q : List Byte → StagePkt}, MemoryWf t → MemoryWf (t.chainLoad b p va n (fun s x => s.chain b fuel (q x))).1 :=
      fun ht => memoryWf_chainLoad ht fun _ _ h1 => ih h1
    unfold State.chain
    refine memoryWf_ite_fst h (memoryWf_ite_fst h (memoryWf_ite_fst h (memoryWf_ite_fst h (memoryWf_ite_fst ?_ ?_))))
    · exact memoryWf_ite_fst (load h) (next h)
    · exact memoryWf_chainLoad h fun _ _ h1 => memoryWf_ite_fst (load h1) (next h1)

theorem memoryWf_sendResult {p status data} (h : MemoryWf s) : MemoryWf (s.sendResult p status data) :=
  memoryWf_ite (memoryWf_deliver h) (memoryWf_sendReq h)

theorem memoryWf_sendStage {slot p ctx g} (h : MemoryWf s) : MemoryWf (s.sendStage slot p ctx g) :=
  memoryWf_ite (memoryWf_sendReq h) (memoryWf_sendResult h)

theorem memoryWf_runChain {p ctx g} (h : MemoryWf s) : MemoryWf (s.runChain p ctx g) := by
  unfold State.runChain
  split
  · exact memoryWf_sendResult (memoryWf_stageFault h)
  · split
    exacts [memoryWf_sendResult (memoryWf_of_mk (memoryWf_chain h) ‹_›), memoryWf_sendStage (memoryWf_of_mk (memoryWf_chain h) ‹_›), h]

theorem memoryWf_stagesRetry (h : MemoryWf s) : MemoryWf (s.stagesRetry) := memoryWf_foldl (fun _ _ h1 => memoryWf_runChain h1) h
theorem memoryWf_stageAccepted {id} (h : MemoryWf s) : MemoryWf (s.stageAccepted id) := h
theorem memoryWf_execStageStep {p} (h : MemoryWf s) : OutWf (execStageStep p s) := outWf_next (memoryWf_runChain (memoryWf_sendAnswer h))

theorem memoryWf_execStageTimeout (h : MemoryWf s) : OutWf (execStageTimeout s) := by
  unfold execStageTimeout
  split
  · exact outWf_next h
  · dsimp only
    split
    exacts [outWf_next (memoryWf_sendResult (memoryWf_stageAccepted h)), outWf_next h]

theorem memoryWf_stageBad {pent rope name desc code} (h : MemoryWf s) : MemoryWf (s.stageBad pent rope name desc code) := memoryWf_sendResult h

theorem memoryWf_startChain {pent rope start name desc bytes ctx g} (h : MemoryWf s) :
    MemoryWf (s.startChain pent rope start name desc bytes ctx g) := by
  unfold State.startChain
  split
  exacts [memoryWf_stageBad h, memoryWf_runChain h]

theorem memoryWf_execStage {d a b} (h : MemoryWf s) : OutWf (execStage d a b s) := by
  unfold execStage
  refine memoryWf_berthRun h (fun r g sp e => memoryWf_ite (memoryWf_illegal h) (memoryWf_ite h ?_))
  extract_lets va done
  have hd : ∀ {t}, MemoryWf t → MemoryWf (done t) := fun {t} ht => by
    unfold done
    split
    exacts [memoryWf_finish0 (memoryWf_useFeat ht), ht]
  refine memoryWf_ite (memoryWf_stageBad (hd h)) ?_
  split
  · exact memoryWf_startChain (hd (memoryWf_useLines ((memoryWf_readRec h).ok ‹_›)))
  · exact memoryWf_stageBad (hd h)
  · exact memoryWf_stageBad (hd h)
  · exact (memoryWf_readRec h).wait ‹_›
  · exact memoryWf_deschedule h
  · exact memoryWf_awaitFollow h
  · exact memoryWf_endLost h

end Sys2Proof.Proofs

/-!
PROOF. Canonical memory (O57): placement, timed ends and the progress of operations keep it. -/

namespace Sys2Proof.Proofs

open Sys2Proof.Machine Sys2Proof.Safety Sys2Proof.Laws

variable {s : State}

theorem memoryWf_claimNext {die site} (h : MemoryWf s) : OptWf MemoryWf (s.claimNext die site) := by
  unfold State.claimNext
  dsimp only
  split
  · exact optWf_map' (fun _ => memoryWf_modTeam h)
  · exact optWf_map' (fun _ => memoryWf_modTeam h)
  · split
    exacts [optWf_none, optWf_map' (fun _ => memoryWf_modTeam h)]

theorem memoryWf_claims {fuel die site} (h : MemoryWf s) : MemoryWf (s.claims fuel die site) := by
  induction fuel generalizing s with
  | zero => exact h
  | succ fuel ih =>
    unfold State.claims
    split
    exacts [h, ih (memoryWf_claimNext h _ ‹_›)]

theorem memoryWf_claim {die site} (h : MemoryWf s) : MemoryWf (s.claim die site) := memoryWf_claims h

theorem memoryWf_addTeam {cn c inst linear crank lead die site a9} (h : MemoryWf s) : MemoryWf (s.addTeam cn c inst linear crank lead die site a9) :=
  memoryWf_modCtx (memoryWf_flushL1 (memoryWf_claim h))

theorem memoryWf_placeNext {cn inst} (h : MemoryWf s) : OptWf MemoryWf (s.placeNext cn inst) := by
  unfold State.placeNext
  split
  · exact optWf_none
  · dsimp only
    split
    exacts [optWf_none, optWf_some (memoryWf_modCtx (memoryWf_foldl (fun _ _ h1 => memoryWf_addTeam h1) h))]

theorem memoryWf_placeAll {cn fuel} (h : MemoryWf s) : OptWf MemoryWf (s.placeAll cn fuel) := by
  induction fuel generalizing s with
  | zero => exact optWf_some h
  | succ fuel ih =>
    unfold State.placeAll
    split
    exacts [optWf_some h, optWf_bind (memoryWf_placeNext h) fun _ h1 => ih h1]

theorem memoryWf_restartCopies {t} (h : MemoryWf s) : MemoryWf (s.restartCopies t) := h

theorem memoryWf_resumeTeam {t} (h : MemoryWf s) : OptWf MemoryWf (s.resumeTeam t) := by
  unfold State.resumeTeam
  split
  · exact optWf_none
  · split
    · exact optWf_none
    · next tm _ _ _ =>
      extract_lets back
      have hb : ∀ die site x, MemoryWf (back s die site x) := fun _ _ _ => memoryWf_modCtx (memoryWf_flushL1 (memoryWf_claim
        (memoryWf_foldl (fun _ _ h1 => memoryWf_modGroup h1) (memoryWf_modTeam (memoryWf_restartCopies h)))))
      clear_value back
      refine optWf_ite (optWf_some (hb _ _ _)) (optWf_ite ?_ optWf_none)
      split
      exacts [optWf_some (hb _ _ _), optWf_none]

theorem memoryWf_settleHalts (h : MemoryWf s) : MemoryWf (s.settleHalts) :=
  memoryWf_foldl (fun _ _ h1 => memoryWf_ite (memoryWf_modCtx (memoryWf_modTeam h1)) h1) h

theorem memoryWf_stopGroup {g} (h : MemoryWf s) : MemoryWf (s.stopGroup g) := by
  unfold State.stopGroup
  split
  exacts [memoryWf_modGroup (memoryWf_foldl (fun _ _ h1 => memoryWf_unwait h1) h), h]

theorem memoryWf_yieldTo {cn others} (h : MemoryWf s) : MemoryWf (s.yieldTo cn others) := h

theorem memoryWf_execSliceExpiry (h : MemoryWf s) : OutWf (execSliceExpiry s) := by
  unfold execSliceExpiry
  split
  · exact outWf_next h
  · split
    · exact outWf_next h
    · split
      · exact outWf_next h
      · split
        · refine outWf_next (memoryWf_settleHalts ?_)
          split
          · exact memoryWf_foldl (fun _ _ h1 => memoryWf_foldl (fun _ _ h2 => memoryWf_stopGroup h2) (memoryWf_modTeam h1)) h
          · exact memoryWf_yieldTo (memoryWf_foldl (fun _ _ h1 => memoryWf_foldl (fun _ _ h2 => memoryWf_stopGroup h2) (memoryWf_modTeam h1)) h)
        · exact outWf_next (memoryWf_modCtx h)

theorem memoryWf_execMemoryIssueWindow {die site p misses} (h : MemoryWf s) : OutWf (execMemoryIssueWindow die site p misses s) := by
  unfold execMemoryIssueWindow
  dsimp only
  split
  exacts [outWf_next h, outWf_next (memoryWf_rest (memoryWf_foldl (fun _ _ h1 => memoryWf_modGroup h1) h))]

theorem memoryWf_execTime {d} (h : MemoryWf s) : OutWf (execTime d s) := by
  unfold execTime
  refine memoryWf_scalarRun h (fun _ _ _ => ?_)
  dsimp only
  split
  · exact h
  · split
    · split
      exacts [memoryWf_replayEnd h, memoryWf_finish (memoryWf_modCtx h)]
    · exact memoryWf_ite h (memoryWf_finish (memoryWf_record h))

theorem memoryWf_awaitPage {r sp a page} (h : MemoryWf s) : MemoryWf (s.awaitPage r sp a page) := h

theorem memoryWf_execPagereq {x} (h : MemoryWf s) : OutWf (execPagereq x s) := by
  unfold execPagereq
  refine memoryWf_scalarRun h (fun _ _ _ => ?_)
  dsimp only
  split
  · exact h
  · split
    · exact memoryWf_scalarTrap h
    · split
      · exact memoryWf_finish0 h
      · split
        · exact memoryWf_scalarTrap h
        · exact memoryWf_scalarTrap h
        · exact memoryWf_finish0 h
        · split
          · exact memoryWf_finish0 h
          · exact memoryWf_ite (memoryWf_awaitPage (memoryWf_startFollow h)) (memoryWf_awaitPage (memoryWf_pageRequest h))

theorem memoryWf_execRett (h : MemoryWf s) : OutWf (execRett s) := by
  unfold execRett
  refine memoryWf_scalarRun h (fun _ _ _ => ?_)
  dsimp only
  split
  · exact h
  · split
    · exact memoryWf_illegal h
    · split
      · exact memoryWf_settleClauses (memoryWf_modGroup (memoryWf_putSplit h))
      · exact memoryWf_ite (memoryWf_modGroup (memoryWf_putSplit h)) (memoryWf_putSplit h)
      · exact memoryWf_putSplit h

theorem memoryWf_execSmr {d n} (h : MemoryWf s) : OutWf (execSmr d n s) := by
  unfold execSmr
  refine memoryWf_scalarRun h (fun _ _ _ => ?_)
  split
  · split
    exacts [memoryWf_illegal h, memoryWf_ite h (memoryWf_finish h)]
  · exact h

theorem memoryWf_execSmw {a n} (h : MemoryWf s) : OutWf (execSmw a n s) := by
  unfold execSmw
  refine memoryWf_scalarRun h (fun _ _ _ => ?_)
  split
  exacts [memoryWf_illegal h, memoryWf_ite h (memoryWf_finish0 (memoryWf_modGroup h))]

theorem memoryWf_resumeClause {r e a3 code d} (h : MemoryWf s) : MemoryWf (s.resumeClause r e a3 code d) := h

theorem memoryWf_runClause {r sp a e w} (h : MemoryWf s) : MemoryWf (s.runClause r sp a e w) := by
  unfold State.runClause
  dsimp only
  split
  · exact memoryWf_clauseFetchTrap h
  · exact memoryWf_deschedule h
  · exact memoryWf_endLost h
  · exact (memoryWf_fetchWords h).wait ‹_›
  · split
    · exact memoryWf_illegalClause (memoryWf_useLines ((memoryWf_fetchWords h).ok ‹_›))
    · split
      · exact memoryWf_startClause (memoryWf_useLines ((memoryWf_fetchWords h).ok ‹_›))
      · exact memoryWf_resumeClause (memoryWf_useLines ((memoryWf_fetchWords h).ok ‹_›))

theorem memoryWf_tryClause {r g sp a e} (h : MemoryWf s) : MemoryWf (s.tryClause r g sp a e) := by
  unfold State.tryClause
  split
  · exact memoryWf_clauseFetchTrap h
  · exact memoryWf_deschedule h
  · exact memoryWf_endLost h
  · exact (memoryWf_fetchWords h).wait ‹_›
  · dsimp only
    split
    · exact memoryWf_runClause (memoryWf_useLines ((memoryWf_fetchWords h).ok ‹_›))
    · exact memoryWf_ite h (memoryWf_runClause (memoryWf_useLines ((memoryWf_fetchWords h).ok ‹_›)))

theorem memoryWf_execClauseStart (h : MemoryWf s) : OutWf (execClauseStart s) := by
  unfold execClauseStart
  dsimp only
  split
  · split
    · exact outWf_next h
    · split
      exacts [outWf_next h, outWf_next (memoryWf_tryClause h)]
  · exact outWf_next h

theorem memoryWf_execSleepWake (h : MemoryWf s) : OutWf (execSleepWake s) := by
  unfold execSleepWake
  dsimp only
  split
  · exact outWf_next h
  · split
    exacts [outWf_next (memoryWf_putSplit h), outWf_next h]

theorem memoryWf_execGwctPassed (h : MemoryWf s) : OutWf (execGwctPassed s) := by
  unfold execGwctPassed
  dsimp only
  split
  · split
    · split
      exacts [memoryWf_execFenceRel h, memoryWf_execFenceAr h, memoryWf_execFenceSc h, outWf_next h]
    · exact outWf_next h
  · exact outWf_next h

theorem memoryWf_dropCtx {cn} (h : MemoryWf s) : MemoryWf (s.dropCtx cn) :=
  memoryWf_rest (memoryWf_modCtx (memoryWf_mk (storeWf_foldl (fun _ _ h1 => storeWf_freeFrame h1 _) h _)))

theorem memoryWf_endSerial {c complete} (h : MemoryWf s) : MemoryWf (s.endSerial c complete) := by
  unfold State.endSerial
  split
  · exact h
  · split
    exacts [h, memoryWf_sigUpdate (memoryWf_modFn h)]

theorem memoryWf_faultEvent {c f} (h : MemoryWf s) : MemoryWf (s.faultEvent c f) := memoryWf_event h

theorem memoryWf_execContextEnd (h : MemoryWf s) : OutWf (execContextEnd s) := by
  unfold execContextEnd
  split
  · exact outWf_next h
  · dsimp only
    split
    · exact outWf_next (memoryWf_foldl (fun _ _ h1 => memoryWf_performAll h1) h)
    · refine outWf_next (memoryWf_dropCtx (memoryWf_endSerial ?_))
      split
      · exact memoryWf_signalEnd (memoryWf_foldl (fun _ _ h1 => memoryWf_performAll h1) h)
      · exact memoryWf_faultEvent (memoryWf_signalEnd (memoryWf_foldl (fun _ _ h1 => memoryWf_performAll h1) h))

theorem memoryWf_gridEnd {cn c} (h : MemoryWf s) : MemoryWf (s.gridEnd cn c) :=
  memoryWf_dropCtx (memoryWf_endSerial (memoryWf_ite (memoryWf_faultEvent (memoryWf_signalEnd h)) (memoryWf_signalEnd h)))

theorem memoryWf_execGridComplete (h : MemoryWf s) : OutWf (execGridComplete s) := by
  unfold execGridComplete
  split
  · exact outWf_next h
  · split
    exacts [outWf_next h, outWf_next (memoryWf_gridEnd h)]

end Sys2Proof.Proofs

/-!
PROOF. Canonical memory (O57): queues and packets keep it. -/

namespace Sys2Proof.Proofs

open Sys2Proof.Machine Sys2Proof.Safety Sys2Proof.Laws

variable {s : State}

theorem memoryWf_overrun {q} (h : MemoryWf s) : MemoryWf (s.overrun q) :=
  memoryWf_ite (memoryWf_modQueue (memoryWf_ite (memoryWf_queueError h) h)) h

theorem memoryWf_execQueueBind {q bind} (h : MemoryWf s) : OutWf (execQueueBind q bind s) := by
  unfold execQueueBind
  dsimp only
  split
  · exact outWf_next (memoryWf_emit h)
  · split
    · exact outWf_next (memoryWf_modQueue h)
    · split
      exacts [outWf_next h, outWf_next (memoryWf_modQueue h)]

theorem memoryWf_ring {q wr} (h : MemoryWf s) : MemoryWf (s.ring q wr) := memoryWf_overrun (memoryWf_modQueue h)
theorem memoryWf_ringFrom {fn q wr} (h : MemoryWf s) : MemoryWf (s.ringFrom fn q wr) := memoryWf_ite h (memoryWf_ring h)
theorem memoryWf_queuePage {q f} (h : MemoryWf s) : MemoryWf (s.queuePage q f) := memoryWf_ite (memoryWf_modQueue h) (memoryWf_emit h)
theorem memoryWf_execQueueEnable (h : MemoryWf s) : OutWf (execQueueEnable s) := outWf_next (memoryWf_queuePage h)
theorem memoryWf_execQueueDisable (h : MemoryWf s) : OutWf (execQueueDisable s) := outWf_next (memoryWf_queuePage h)
theorem memoryWf_execQueuePause (h : MemoryWf s) : OutWf (execQueuePause s) := outWf_next (memoryWf_queuePage h)
theorem memoryWf_execQueueUnpause (h : MemoryWf s) : OutWf (execQueueUnpause s) := outWf_next (memoryWf_queuePage h)
theorem memoryWf_dispatched {q w hold} (h : MemoryWf s) : MemoryWf (s.dispatched q w hold) := h

theorem memoryWf_refuse {q idx tag sig code reason arg} (h : MemoryWf s) : MemoryWf (s.refuse q idx tag sig code reason arg) :=
  memoryWf_queueError (memoryWf_signal (memoryWf_modQueue h))

theorem memoryWf_invalidPacket {q idx b} (h : MemoryWf s) : MemoryWf (s.invalidPacket q idx b) := memoryWf_refuse h

theorem memoryWf_skipped {q idx b code} (h : MemoryWf s) : (s.skipped q idx b code).Wf MemoryWf := by
  unfold State.skipped
  dsimp only
  split
  · split
    · exact h
    · split
      · exact h
      · split
        exacts [(memoryWf_cpRead h (fun _ _ _ _ _ h1 => memoryWf_askLine h1)).wait ‹_›, h, memoryWf_signal (memoryWf_dropFetched h)]
  · exact memoryWf_ite h (memoryWf_signal h)

theorem memoryWf_fetchedPacket {q b} (h : MemoryWf s) : MemoryWf (s.fetchedPacket q b) := by
  unfold State.fetchedPacket
  dsimp only
  split
  · split
    exacts [memoryWf_modQueue ((memoryWf_skipped h).ok ‹_›), (memoryWf_skipped h).wait ‹_›, h]
  · exact memoryWf_ite (memoryWf_modQueue (memoryWf_modQueue h)) (memoryWf_invalidPacket (memoryWf_modQueue h))

theorem memoryWf_execRingFetch (h : MemoryWf s) : OutWf (execRingFetch s) := by
  unfold execRingFetch
  dsimp only
  split
  · exact outWf_next (memoryWf_overrun h)
  · split
    · exact outWf_next ((memoryWf_cpRead (memoryWf_overrun h) (fun _ _ _ _ _ h1 => memoryWf_askLine h1)).wait ‹_›)
    · exact outWf_next (memoryWf_modQueue (memoryWf_queueError (memoryWf_overrun h)))
    · exact outWf_next (memoryWf_fetchedPacket (memoryWf_dropFetched (memoryWf_overrun h)))

theorem memoryWf_execCopy (h : MemoryWf s) : OutWf (execCopy s) := by
  unfold execCopy
  dsimp only
  split
  · exact outWf_next h
  · split
    · exact outWf_next (memoryWf_invalidPacket h)
    · split
      exacts [outWf_next h, outWf_next (memoryWf_rest (memoryWf_dispatched h))]

theorem memoryWf_execCopyComplete (h : MemoryWf s) : OutWf (execCopyComplete s) := by
  unfold execCopyComplete
  split
  · exact outWf_next h
  · dsimp only
    split
    · exact outWf_next h
    · split
      · exact outWf_next (memoryWf_signalEnd (memoryWf_dropCopy h))
      · split
        exacts [outWf_next (memoryWf_signalEnd (memoryWf_dropCopy h)), outWf_next h]

theorem memoryWf_waitRead {q idx l} (h : MemoryWf s) : (s.waitRead q idx l).Wf := by
  induction l with
  | nil => trivial
  | cons va r ih =>
    unfold State.waitRead
    split
    · exact ih
    · split
      · exact (memoryWf_cpRead h fun _ _ _ _ _ h1 => memoryWf_askLine h1).wait ‹_›
      · trivial
      · split
        exacts [trivial, ih]

theorem memoryWf_waitEval {q w} (h : MemoryWf s) : MemoryWf (s.waitEval q w) := by
  unfold State.waitEval
  dsimp only
  split
  · exact (memoryWf_waitRead h).wait ‹_›
  · exact memoryWf_queueError (memoryWf_modQueue (memoryWf_dropFetched h))
  · split
    · exact memoryWf_queueError (memoryWf_modQueue (memoryWf_dropFetched h))
    · split
      · exact memoryWf_modQueue (memoryWf_dropFetched h)
      · split
        · exact memoryWf_ite (memoryWf_queueError (memoryWf_modQueue (memoryWf_dropFetched h))) (memoryWf_dropFetched h)
        · exact memoryWf_dropFetched h

theorem memoryWf_execWait (h : MemoryWf s) : OutWf (execWait s) := by
  unfold execWait
  dsimp only
  split
  · exact outWf_next h
  · split
    exacts [outWf_next (memoryWf_invalidPacket h), outWf_next (memoryWf_waitEval (memoryWf_modQueue h))]

theorem memoryWf_execWaitPoll (h : MemoryWf s) : OutWf (execWaitPoll s) := by
  unfold execWaitPoll
  split
  exacts [outWf_next h, outWf_next (memoryWf_waitEval h)]

theorem memoryWf_execWaitTimeout (h : MemoryWf s) : OutWf (execWaitTimeout s) := by
  unfold execWaitTimeout
  split
  · exact outWf_next h
  · refine outWf_next ?_
    split
    exacts [memoryWf_ite (memoryWf_waitEval h) h, h]

theorem memoryWf_execSignal (h : MemoryWf s) : OutWf (execSignal s) := by
  unfold execSignal
  dsimp only
  split
  · exact outWf_next h
  · split
    exacts [outWf_next (memoryWf_invalidPacket h), outWf_next (memoryWf_signalEnd (memoryWf_dispatched h))]

theorem memoryWf_execMark (h : MemoryWf s) : OutWf (execMark s) := by
  unfold execMark
  dsimp only
  split
  · exact outWf_next h
  · refine outWf_ite (outWf_next (memoryWf_invalidPacket h)) ?_
    split
    exacts [outWf_next h, outWf_next (memoryWf_put (memoryWf_dispatched h))]

theorem memoryWf_stageMint {q w} (h : MemoryWf s) : OptWf MemoryWf (s.stageMint q w) :=
  optWf_map' (fun _ => memoryWf_ite (memoryWf_startChain (memoryWf_mint h)) (memoryWf_stageBad (memoryWf_mint h)))

theorem memoryWf_execStagePacket (h : MemoryWf s) : OutWf (execStagePacket s) := by
  unfold execStagePacket
  dsimp only
  split
  · exact outWf_next h
  · split
    · exact outWf_next (memoryWf_invalidPacket h)
    · split
      · refine outWf_next ?_
        split
        exacts [memoryWf_stageMint (memoryWf_dispatched h) _ ‹_›, memoryWf_modQueue (memoryWf_dispatched h)]
      · split
        · exact outWf_next ((memoryWf_cpRead h (fun _ _ _ _ _ h1 => memoryWf_askLine h1)).wait ‹_›)
        · refine outWf_next ?_
          split
          exacts [memoryWf_stageMint (memoryWf_dispatched h) _ ‹_›, memoryWf_modQueue (memoryWf_dispatched h)]
        · refine outWf_next ?_
          split
          · exact memoryWf_stageMint (memoryWf_dispatched (memoryWf_dropFetched h)) _ ‹_›
          · exact memoryWf_modQueue (memoryWf_dispatched (memoryWf_dropFetched h))

theorem memoryWf_execCpBerthRetry (h : MemoryWf s) : OutWf (execCpBerthRetry s) := by
  unfold execCpBerthRetry
  dsimp only
  split
  · exact outWf_next h
  · split
    · exact outWf_next (memoryWf_put (memoryWf_modQueue h))
    · split
      exacts [outWf_next (memoryWf_modQueue (memoryWf_stageMint h _ ‹_›)), outWf_next h]

theorem memoryWf_checkRecord {q idx b rope} (h : MemoryWf s) : (s.checkRecord q idx b rope).Wf := by
  unfold State.checkRecord
  dsimp only
  split
  · exact h
  · split
    · exact h
    · split
      · exact h
      · split
        · exact h
        · split
          · exact h
          · split
            · exact h
            · split
              · exact h
              · split
                · exact h
                · split
                  · exact h
                  · split
                    · exact h
                    · split
                      · exact (memoryWf_cpRead h (fun _ _ _ _ _ h1 => memoryWf_askLine h1)).wait ‹_›
                      · exact memoryWf_dropFetched h
                      · split
                        · exact memoryWf_dropFetched h
                        · split <;> exact memoryWf_dropFetched h

theorem memoryWf_argBlock {e q idx va} (h : MemoryWf s) : (s.argBlock e q idx va).Wf (fun _ => True) := by
  unfold State.argBlock
  dsimp only
  split
  · exact (memoryWf_cpRead h (fun _ _ _ _ _ h1 => memoryWf_askLine h1)).wait ‹_›
  · exact trivial
  · split
    exacts [(memoryWf_cpRead h (fun _ _ _ _ _ h1 => memoryWf_askLine h1)).wait ‹_›, trivial, trivial]

theorem memoryWf_launchArgs {q idx l} (h : MemoryWf s) : (s.launchArgs q idx l).Wf (fun _ => True) := by
  unfold State.launchArgs
  dsimp only
  split
  · exact h
  · split
    exacts [memoryWf_argBlock h, trivial]

theorem memoryWf_startJournal {cn pkt raw args pos} (h : MemoryWf s) : MemoryWf (s.startJournal cn pkt raw args pos) := by
  unfold State.startJournal
  split
  · exact h
  · dsimp only
    split
    · exact h
    · split
      exacts [memoryWf_modCtx (memoryWf_modJournal h), memoryWf_ite (memoryWf_record h) (memoryWf_record (memoryWf_record h))]

theorem memoryWf_addCtx {c} (h : MemoryWf s) : MemoryWf (s.addCtx c).1 := memoryWf_touch h
theorem memoryWf_refuseLaunch {q idx tag raw reason arg} (h : MemoryWf s) : MemoryWf (s.refuseLaunch q idx tag raw reason arg) := memoryWf_refuse h

theorem memoryWf_execLaunch (h : MemoryWf s) : OutWf (execLaunch s) := by
  unfold execLaunch
  dsimp only
  split
  · exact outWf_next h
  · split
    · exact outWf_next (memoryWf_refuseLaunch h)
    · split
      · exact outWf_next ((memoryWf_cpRead h (fun _ _ _ _ _ h1 => memoryWf_askLine h1)).wait ‹_›)
      · exact outWf_next (memoryWf_refuseLaunch (memoryWf_dropFetched h))
      · split
        · exact outWf_next ((memoryWf_checkRecord h).wait ‹_›)
        · exact outWf_next (memoryWf_refuseLaunch ((memoryWf_checkRecord h).refused ‹_›))
        · split
          · exact outWf_next ((memoryWf_launchArgs h).wait ‹_›)
          · exact outWf_next h
          · exact outWf_next (memoryWf_startJournal (memoryWf_addCtx (memoryWf_dispatched ((memoryWf_checkRecord h).ok ‹_›))))

theorem memoryWf_modXlat {e f} (h : MemoryWf s) : MemoryWf (s.modXlat e f) := h

theorem memoryWf_moveLeaf {e va w entry k new_ tier} (h : MemoryWf s) : MemoryWf (s.moveLeaf e va w entry k new_ tier) := by
  unfold State.moveLeaf
  refine memoryWf_devWrite (memoryWf_dropL1 (memoryWf_mk (storeWf_rest (storeWf_foldl (fun _ _ h1 => storeWf_freeFrame h1 _) ?_ _))))
  refine storeWf_foldl (fun _ _ h1 => ?_) h _
  dsimp only
  split
  exacts [storeWf_carryPoison (storeWf_putBytes (storeWf_takeFrame h1 _ _) _ _ _) _ _ _, storeWf_takeFrame h1 _ _]

theorem memoryWf_stagedPage {cn va} (h : MemoryWf s) : MemoryWf (s.stagedPage cn va) := h

theorem memoryWf_execStaging {c va} (h : MemoryWf s) : OutWf (execStaging c va s) := by
  unfold execStaging
  split
  · exact outWf_next h
  · split
    · exact outWf_next h
    · split
      · exact outWf_next (memoryWf_stagedPage h)
      · exact outWf_next (memoryWf_stagedPage h)
      · dsimp only
        split
        · exact outWf_next (memoryWf_stagedPage h)
        · split
          · exact outWf_next h
          · split
            · exact outWf_next (memoryWf_modXlat (memoryWf_stagedPage h))
            · exact outWf_next (memoryWf_ite (memoryWf_stagedPage (memoryWf_moveLeaf (memoryWf_work h))) (memoryWf_work h))

end Sys2Proof.Proofs

/-!
PROOF. Canonical memory (O57): matrix batches keep it. -/

namespace Sys2Proof.Proofs

open Sys2Proof.Machine Sys2Proof.Safety Sys2Proof.Laws

variable {s : State}

theorem memoryWf_matTrap {e f code sub} (h : MemoryWf s) : MemoryWf (s.matTrap e f code sub) := memoryWf_laneTrap h
theorem memoryWf_commitEmpty {g} (h : MemoryWf s) : MemoryWf (s.commitEmpty g) := h

theorem memoryWf_matIssue {e f i} (h : MemoryWf s) : MemoryWf (s.matIssue e f i) := by
  unfold State.matIssue
  split
  · exact memoryWf_matTrap h
  · split
    · exact memoryWf_matTrap h
    · split
      · exact memoryWf_matTrap h
      · split
        · exact h
        · refine memoryWf_laneDone (memoryWf_modGroup (memoryWf_ite ?_ ?_))
          · refine memoryWf_touch ?_
            split
            exacts [memoryWf_useFeat h, h]
          · split
            exacts [memoryWf_useFeat h, h]

theorem memoryWf_endEmul {r t} (h : MemoryWf s) : MemoryWf (s.endEmul r t) := by
  unfold State.endEmul
  split
  · exact h
  · split
    exacts [memoryWf_endCtx h, h]

theorem memoryWf_execMclose {f} (h : MemoryWf s) : OutWf (execMclose f s) := by
  unfold execMclose
  refine memoryWf_withEnv h (fun _ => ?_)
  dsimp only
  split
  exacts [memoryWf_matTrap h, memoryWf_ite h (memoryWf_laneDone (memoryWf_commitEmpty (memoryWf_modGroup h)))]

theorem memoryWf_writeTile {t a2 bs} (h : MemoryWf s) : MemoryWf (s.writeTile t a2 bs) := memoryWf_mk (storeWf_rest (memoryWf_modTeam h))
theorem memoryWf_matPoison {g gr tm b k} (h : MemoryWf s) : MemoryWf (s.matPoison g gr tm b k) := memoryWf_endCtx h

theorem memoryWf_execBatchCommit {g residueOk retryOk} (h : MemoryWf s) : OutWf (execBatchCommit g residueOk retryOk s) := by
  unfold execBatchCommit
  split
  · split
    · refine outWf_ite (outWf_next h) (outWf_ite (outWf_next (memoryWf_matPoison (memoryWf_countError h))) ?_)
      split
      · exact outWf_next (memoryWf_matPoison h)
      · extract_lets e m s1 s2 s3 s4 s5
        have h3 : MemoryWf s3 := memoryWf_modGroup (memoryWf_mk (storeWf_rest (memoryWf_ite h (memoryWf_countError h))))
        have h4 : MemoryWf s4 := memoryWf_foldl (fun _ _ h1 => memoryWf_writeTile h1) h3
        exact outWf_next (memoryWf_settleGroup (memoryWf_commitEmpty (memoryWf_ite (memoryWf_touch h4) h4)))
    · exact outWf_next h
  · exact outWf_next h

end Sys2Proof.Proofs

/-!
PROOF. Canonical memory (O57): images and serialisation keep it. -/

namespace Sys2Proof.Proofs

open Sys2Proof.Machine Sys2Proof.Safety Sys2Proof.Laws

variable {s : State}

theorem memoryWf_endSpoiled {g} (h : MemoryWf s) : MemoryWf (s.endSpoiled g) := by
  unfold State.endSpoiled
  split
  exacts [h, memoryWf_takeTrap h]

theorem memoryWf_writeSave {c data} (h : MemoryWf s) : MemoryWf (s.writeSave c data) :=
  memoryWf_mk (storeWf_foldl (fun _ _ h1 => storeWf_putBytes (storeWf_tag h1 _ _) _ _ _) h _)

theorem memoryWf_writeClaims {cn c} (h : MemoryWf s) : MemoryWf (s.writeClaims cn c) := by
  unfold State.writeClaims
  split
  · exact h
  · split
    exacts [memoryWf_endSpoiled h, memoryWf_ite (memoryWf_work h) (memoryWf_rest (memoryWf_writeSave (memoryWf_work h)))]

theorem memoryWf_settleClaims (h : MemoryWf s) : MemoryWf (s.settleClaims) := memoryWf_foldl (fun _ _ h1 => memoryWf_writeClaims h1) h
theorem memoryWf_takeClaims {t} (h : MemoryWf s) : MemoryWf (s.takeClaims t) := h

theorem memoryWf_placing {place} (h : MemoryWf s) (hplace : ∀ x0, MemoryWf x0 → OptWf MemoryWf (place x0)) : MemoryWf (s.placing place) := by
  unfold State.placing
  split
  · exact h
  · split
    · dsimp only
      split
      · exact memoryWf_settleClaims (memoryWf_takeClaims h)
      · split
        exacts [memoryWf_settleClaims (memoryWf_takeClaims h), hplace _ (memoryWf_settleClaims (memoryWf_takeClaims h)) _ ‹_›]
    · exact hplace _ h _ ‹_›

theorem memoryWf_parkBerths {cn} (h : MemoryWf s) : MemoryWf (s.parkBerths cn) := h

theorem memoryWf_unparkSlot {b} (h : MemoryWf s) : MemoryWf (s.unparkSlot b) := by
  unfold State.unparkSlot
  dsimp only
  split
  exacts [memoryWf_resolveAt (memoryWf_modBerth h), memoryWf_modBerth h]

theorem memoryWf_unparkForward {f} (h : MemoryWf s) : MemoryWf (s.unparkForward f) := by
  unfold State.unparkForward
  dsimp only
  split
  · split
    · exact memoryWf_releaseForward (memoryWf_resolveAt (memoryWf_modForward h))
    · exact memoryWf_modForward (memoryWf_resolveAt (memoryWf_modForward h))
  · exact memoryWf_modForward h

theorem memoryWf_unparkBerths {cn} (h : MemoryWf s) : MemoryWf (s.unparkBerths cn) :=
  memoryWf_foldl (fun _ _ h1 => memoryWf_unparkForward h1) (memoryWf_foldl (fun _ _ h1 => memoryWf_unparkSlot h1) h)

theorem memoryWf_unstop {cn} (h : MemoryWf s) : MemoryWf (s.unstop cn) := memoryWf_foldl (fun _ _ h1 => memoryWf_modGroup h1) h

theorem memoryWf_startSerial {cn z} (h : MemoryWf s) : MemoryWf (s.startSerial cn z) := by
  unfold State.startSerial
  refine memoryWf_parkBerths (memoryWf_foldl (fun _ _ h1 => ?_) (memoryWf_modCtx h))
  split
  exacts [memoryWf_ite (memoryWf_stopGroup h1) h1, h1]

theorem memoryWf_resumeSerial {cn} (h : MemoryWf s) : MemoryWf (s.resumeSerial cn) := by
  unfold State.resumeSerial
  dsimp only
  split
  · exact memoryWf_unparkBerths (memoryWf_unstop (memoryWf_modCtx h))
  · split
    · exact memoryWf_startSerial (memoryWf_unparkBerths (memoryWf_unstop (memoryWf_modCtx h)))
    · exact memoryWf_unparkBerths (memoryWf_unstop (memoryWf_modCtx h))

theorem memoryWf_serAnswer {fn c result} (h : MemoryWf s) : MemoryWf (s.serAnswer fn c result) := memoryWf_sigUpdate (memoryWf_modFn h)

theorem memoryWf_execSerialise {fn ctl} (h : MemoryWf s) : OutWf (execSerialise fn ctl s) := by
  unfold execSerialise
  dsimp only
  split
  · exact outWf_next (memoryWf_ite h (memoryWf_modFn h))
  · split
    · exact outWf_next (memoryWf_modFn h)
    · split
      · exact outWf_next (memoryWf_serAnswer (memoryWf_modFn h))
      · split
        exacts [outWf_next (memoryWf_serAnswer (memoryWf_modFn h)), outWf_next (memoryWf_startSerial (memoryWf_modFn h))]

theorem memoryWf_abandonSerial {cn c z result} (h : MemoryWf s) : MemoryWf (s.abandonSerial cn c z result) := by
  unfold State.abandonSerial
  dsimp only
  split
  exacts [memoryWf_serAnswer (memoryWf_resumeSerial h), memoryWf_resumeSerial h]

theorem memoryWf_ropeSealed {cn} (h : MemoryWf s) : MemoryWf (s.ropeSealed cn) := by
  unfold State.ropeSealed
  split
  exacts [h, memoryWf_signalEnd h]

theorem memoryWf_retireSealed {cn c slots va} (h : MemoryWf s) : MemoryWf (s.retireSealed cn c slots va) := by
  unfold State.retireSealed
  refine memoryWf_dropCtx (memoryWf_workDone (memoryWf_rest (memoryWf_foldl (fun _ _ h1 => ?_) ?_)))
  · split
    exacts [memoryWf_put h1, h1]
  · refine memoryWf_foldl (fun _ _ h1 => ?_) h
    split
    exacts [memoryWf_put h1, h1]

theorem memoryWf_sealed {cn c z slots va} (h : MemoryWf s) : MemoryWf (s.sealed cn c z slots va) := by
  unfold State.sealed
  dsimp only
  split
  · refine memoryWf_serAnswer ?_
    split
    · exact memoryWf_resumeSerial (memoryWf_ite (memoryWf_ropeSealed h) h)
    · exact memoryWf_retireSealed (memoryWf_ite (memoryWf_ropeSealed h) h)
  · split
    · exact memoryWf_resumeSerial (memoryWf_ite (memoryWf_ropeSealed h) h)
    · exact memoryWf_retireSealed (memoryWf_ite (memoryWf_ropeSealed h) h)

theorem memoryWf_sealOn {cn va slots fuel} (h : MemoryWf s) : MemoryWf (s.sealOn cn va slots fuel) := by
  induction fuel generalizing s with
  | zero => exact h
  | succ fuel ih =>
    unfold State.sealOn
    split
    · exact h
    · split
      · exact h
      · exact memoryWf_ite (ih (memoryWf_put (memoryWf_modCtx h))) (memoryWf_ite (memoryWf_sealed h) (memoryWf_ite (memoryWf_abandonSerial h) h))

theorem memoryWf_ropeStopped {cn} (h : MemoryWf s) : MemoryWf (s.ropeStopped cn) := by
  unfold State.ropeStopped
  split
  · exact h
  · split
    · exact h
    · dsimp only
      split <;> exact memoryWf_sendAll h

theorem memoryWf_trigger {e level} (h : MemoryWf s) : MemoryWf (s.trigger e level) :=
  memoryWf_foldl (fun _ _ h1 => memoryWf_ite (memoryWf_startSerial h1) h1) (memoryWf_modSnap h)

theorem memoryWf_snapSignal {e act} (h : MemoryWf s) : MemoryWf (s.snapSignal e act) := memoryWf_sigUpdate h

theorem memoryWf_endShadow {e old new_} (h : MemoryWf s) : MemoryWf (s.endShadow e old new_) := by
  unfold State.endShadow
  split
  · split
    exacts [memoryWf_devWrite (memoryWf_dropL1 (memoryWf_mk (storeWf_freeFrame (storeWf_rest h) _))), h, h]
  · exact memoryWf_dropL1 (memoryWf_mk (storeWf_freeFrame (storeWf_carryPoison (storeWf_cleanse (storeWf_putBytes h _ _ _) _ _) _ _ _) _))

theorem memoryWf_endShadows {e} (h : MemoryWf s) : MemoryWf (s.endShadows e) :=
  memoryWf_foldl (fun _ _ h1 => memoryWf_endShadow h1) (memoryWf_modSnap h)

theorem memoryWf_snapFail {e} (h : MemoryWf s) : MemoryWf (s.snapFail e) := memoryWf_modSnap (memoryWf_endShadows (memoryWf_snapSignal h))
theorem memoryWf_snapDrain {e} (h : MemoryWf s) : MemoryWf (s.snapDrain e) := memoryWf_ite (memoryWf_snapFail h) (memoryWf_modSnap h)
theorem memoryWf_snapPut {e va data kind} (h : MemoryWf s) : MemoryWf (s.snapPut e va data kind) := memoryWf_put h

theorem memoryWf_snapImages {e} (h : MemoryWf s) : MemoryWf (s.snapImages e) :=
  memoryWf_ite (memoryWf_foldl (fun _ _ h1 => memoryWf_snapPut h1) (memoryWf_modSnap (memoryWf_work h))) (memoryWf_work h)

theorem memoryWf_snapSealed {e} (h : MemoryWf s) : MemoryWf (s.snapSealed e) := memoryWf_ite (memoryWf_snapDrain h) h

theorem memoryWf_snapSeal {cn c e} (h : MemoryWf s) : MemoryWf (s.snapSeal cn c e) := by
  unfold State.snapSeal
  dsimp only
  split
  exacts [memoryWf_work h, memoryWf_resumeSerial (memoryWf_snapSealed (memoryWf_modSnap (memoryWf_writeSave (memoryWf_work h))))]

theorem memoryWf_execSerialiseSeal (h : MemoryWf s) : OutWf (execSerialiseSeal s) := by
  unfold execSerialiseSeal
  extract_lets +onlyGivenNames cn
  split
  · exact outWf_next h
  · split
    · exact outWf_next h
    · refine outWf_ite (outWf_next h) ?_
      split
      · exact outWf_next (memoryWf_endSpoiled h)
      · split
        · exact outWf_next (memoryWf_snapSeal h)
        · extract_lets s1 img
          have h1 : MemoryWf s1 := memoryWf_ite (memoryWf_ropeStopped h) h
          refine outWf_ite (outWf_next h1) ?_
          split
          · exact outWf_next h1
          · refine outWf_ite (outWf_ite (outWf_next (memoryWf_abandonSerial h1)) ?_) (outWf_next (memoryWf_sealOn h1))
            exact outWf_ite (outWf_next (memoryWf_work h1)) (outWf_next (memoryWf_sealOn (memoryWf_put (memoryWf_modCtx (memoryWf_work h1)))))

theorem memoryWf_drainFrame {e f} (h : MemoryWf s) : MemoryWf (s.drainFrame e f) :=
  memoryWf_foldl (fun _ _ h1 => memoryWf_snapPut h1) (memoryWf_modSnap h)

theorem memoryWf_execSnapshotDrained (h : MemoryWf s) : OutWf (execSnapshotDrained s) := by
  unfold execSnapshotDrained
  dsimp only
  split
  · exact outWf_next h
  · split
    · exact outWf_next (memoryWf_snapSealed h)
    · split
      · exact outWf_next (memoryWf_snapFail h)
      · split
        · exact outWf_next (memoryWf_snapImages h)
        · split
          · exact outWf_next h
          · split
            · exact outWf_next (memoryWf_ite (memoryWf_drainFrame (memoryWf_work h)) (memoryWf_work h))
            · split
              · exact outWf_next h
              · split
                · exact outWf_next (memoryWf_foldl (fun _ _ h1 => memoryWf_snapPut h1) (memoryWf_modSnap (memoryWf_endShadows h)))
                · split
                  exacts [outWf_next h, outWf_next (memoryWf_snapSignal (memoryWf_modSnap (memoryWf_endShadows h)))]

end Sys2Proof.Proofs

/-!
PROOF. Canonical memory (O57): the re-planting of an image keeps it. -/

namespace Sys2Proof.Proofs

open Sys2Proof.Machine Sys2Proof.Safety Sys2Proof.Laws

variable {s : State}

theorem memoryWf_readImage {e q idx va} (h : MemoryWf s) : (s.readImage e q idx va).Wf (fun _ => True) := by
  unfold State.readImage
  dsimp only
  split
  · exact (memoryWf_cpRead h (fun _ _ _ _ _ h1 => memoryWf_askLine h1)).wait ‹_›
  · exact trivial
  · split
    · exact trivial
    · split
      · exact (memoryWf_cpRead h (fun _ _ _ _ _ h1 => memoryWf_askLine h1)).wait ‹_›
      · exact trivial
      · split
        · exact (memoryWf_cpRead h (fun _ _ _ _ _ h1 => memoryWf_askLine h1)).wait ‹_›
        · exact trivial
        · split
          exacts [(memoryWf_cpRead h (fun _ _ _ _ _ h1 => memoryWf_askLine h1)).wait ‹_›, trivial, trivial]

theorem memoryWf_tableFor {va n level table} (h : MemoryWf s) : OptWf (fun p => MemoryWf p.1) (s.tableFor va n level table) := by
  induction n generalizing s level table with
  | zero => exact optWf_none
  | succ n ih =>
    unfold State.tableFor
    dsimp only
    split
    · exact optWf_some h
    · split
      · exact optWf_none
      · refine optWf_ite optWf_none (optWf_ite (ih h) ?_)
        split
        · exact optWf_none
        · exact ih (memoryWf_devWrite (memoryWf_mk (storeWf_putBytes (storeWf_takeFrame h _ _) _ _ _)))

theorem memoryWf_enterPage {e cn va origin leaf okind tier} (h : MemoryWf s) : MemoryWf (s.enterPage e cn va origin leaf okind tier) := by
  unfold State.enterPage
  dsimp only
  split
  · exact h
  · split
    exacts [h, memoryWf_ite (memoryWf_tableFor h _ ‹_›) (memoryWf_mk (storeWf_rest (memoryWf_devWrite (memoryWf_tableFor h _ ‹_›))))]

theorem memoryWf_settleFollow {cn} (h : MemoryWf s) : MemoryWf (s.settleFollow cn) := by
  unfold State.settleFollow
  split
  exacts [memoryWf_ite h (memoryWf_sigUpdate (memoryWf_mk (storeWf_rest h))), h]

theorem memoryWf_enterList {e cn pl} (h : MemoryWf s) : MemoryWf (s.enterList e cn pl) :=
  memoryWf_settleFollow (memoryWf_foldl (fun _ _ h1 => memoryWf_foldl (fun _ _ h2 => memoryWf_enterPage h2) h1) (memoryWf_mk (storeWf_rest h)))

theorem memoryWf_wakePage {e page} (h : MemoryWf s) : MemoryWf (s.wakePage e page) :=
  memoryWf_stagesRetry (memoryWf_putsRetry (memoryWf_sigsRetry (memoryWf_retryInbound h)))

theorem memoryWf_execFollowingPull (h : MemoryWf s) : OutWf (execFollowingPull s) := by
  unfold execFollowingPull
  dsimp only
  split
  exacts [outWf_next h, outWf_next (memoryWf_ite (memoryWf_startFollow (memoryWf_work h)) (memoryWf_work h))]

theorem memoryWf_followFail {f reason} (h : MemoryWf s) : MemoryWf (s.followFail f reason) := by
  unfold State.followFail
  extract_lets +onlyGivenNames slot mine _ st _ s1 hit s2 ins _ s3 s4 first _ s5
  have h2 : MemoryWf s2 := memoryWf_foldl (fun _ _ h1 => memoryWf_copyFault h1) (memoryWf_mk (storeWf_rest h))
  have h4 : MemoryWf s4 := by
    refine memoryWf_foldl (fun _ _ h1 => ?_) (memoryWf_rest h2)
    split
    exacts [memoryWf_deliverRsp ((memoryWf_refuseReq h1).answer ‹_›), h1]
  have h5 : MemoryWf s5 := by
    unfold s5
    split
    exacts [memoryWf_sigUpdate (memoryWf_mk (storeWf_rest h4)), h4]
  exact memoryWf_settleFollow (memoryWf_wakePage h5)

theorem memoryWf_execFollowingFetch {e va got} (h : MemoryWf s) : OutWf (execFollowingFetch e va got s) := by
  unfold execFollowingFetch
  split
  · exact outWf_next h
  · split
    · exact outWf_next (memoryWf_followFail h)
    · split
      · exact outWf_next (memoryWf_followFail h)
      · dsimp only
        split
        · split
          · exact outWf_next h
          · exact outWf_next (memoryWf_settleFollow (memoryWf_wakePage (memoryWf_devWrite (memoryWf_mk (storeWf_rest (storeWf_putBytes (storeWf_takeFrame h _ _) _ _ _))))))
        · exact outWf_next h

theorem memoryWf_placeUnit {cn b corner} (h : MemoryWf s) : OptWf MemoryWf (s.placeUnit cn b corner) := by
  unfold State.placeUnit
  split
  · exact optWf_none
  · dsimp only
    split
    exacts [optWf_none, optWf_some (memoryWf_foldl (fun _ _ h1 => memoryWf_addTeam h1) h)]

theorem memoryWf_fillTeam {c b t} (h : MemoryWf s) : MemoryWf (s.fillTeam c b t) := by
  unfold State.fillTeam
  split
  · exact h
  · dsimp only
    split
    · exact memoryWf_foldl (fun _ _ h1 => memoryWf_modGroup h1) (memoryWf_modTeam h)
    · split
      · exact memoryWf_foldl (fun _ _ h1 => memoryWf_modGroup h1) (memoryWf_modTeam (memoryWf_modTeam h))
      · refine memoryWf_foldl (fun _ _ h1 => ?_) (memoryWf_modTeam h)
        split
        exacts [memoryWf_modGroup h1, memoryWf_ite h1 (memoryWf_modGroup h1)]

theorem memoryWf_placeUnits {cn c b l} (h : MemoryWf s) : MemoryWf (s.placeUnits cn c b l).1 := by
  induction l generalizing s with
  | nil => exact h
  | cons u r ih =>
    unfold State.placeUnits
    dsimp only
    split
    · exact h
    · exact ih (memoryWf_foldl (fun _ _ h1 => memoryWf_fillTeam h1) (memoryWf_placeUnit h _ ‹_›))

theorem memoryWf_plantBerth {cn b o} (h : MemoryWf s) : MemoryWf (s.plantBerth cn b o) := by
  unfold State.plantBerth
  split
  · exact h
  · dsimp only
    split
    · split
      exacts [memoryWf_resolveAt (memoryWf_modBerth (memoryWf_touch h)), memoryWf_modBerth (memoryWf_touch h)]
    · split
      exacts [memoryWf_resolveAt (memoryWf_ite h (memoryWf_sendCtl h)), memoryWf_ite h (memoryWf_sendCtl h)]

theorem memoryWf_plantCopy {cn c b o} (h : MemoryWf s) : MemoryWf (s.plantCopy cn c b o) := by
  unfold State.plantCopy
  split
  · exact h
  · split
    exacts [memoryWf_beginCopy h, h]

theorem memoryWf_plantRed {cn c b team o} (h : MemoryWf s) : MemoryWf (s.plantRed cn c b team o) := memoryWf_beginCopy h

theorem memoryWf_plantStage {cn c b o} (h : MemoryWf s) : MemoryWf (s.plantStage cn c b o) := by
  unfold State.plantStage
  split
  exacts [h, memoryWf_startChain h]

theorem memoryWf_reissueBatch {g ws} (h : MemoryWf s) : MemoryWf (s.reissueBatch g ws) := by
  unfold State.reissueBatch
  refine memoryWf_ite ?_ (memoryWf_commitEmpty (memoryWf_modGroup h))
  split
  exacts [memoryWf_endEmul h, h]

theorem memoryWf_plantTeams {cn c b pl first all} (h : MemoryWf s) : MemoryWf (s.plantTeams cn c b pl first all) := by
  have settled : ∀ (t : State) (gs : List Nat), MemoryWf t → MemoryWf (gs.foldl State.settleGroup t) := fun _ _ ht =>
    memoryWf_foldl (fun _ _ h1 => memoryWf_settleGroup h1) ht
  unfold State.plantTeams
  refine memoryWf_ite (memoryWf_parkBerths (memoryWf_foldl (fun _ _ h1 => memoryWf_stopGroup h1) (settled _ _ ?_))) (settled _ _ ?_)
  all_goals
    refine memoryWf_foldl (fun _ _ h1 => memoryWf_plantStage h1) ?_
    have copied : ∀ (t : State) (l : List Nat), MemoryWf t → MemoryWf (l.foldl (fun (s : State) o => s.plantCopy cn c b o) t) := fun _ _ ht =>
      memoryWf_foldl (fun _ _ h1 => memoryWf_plantCopy h1) ht
    refine memoryWf_ite (memoryWf_foldl (fun _ _ h1 => memoryWf_plantRed h1) (copied _ _ ?_)) (copied _ _ ?_)
    all_goals
      refine memoryWf_foldl (fun _ _ h1 => memoryWf_foldl (fun _ _ h2 => ?_) h1) (memoryWf_ite (memoryWf_enterList ?_) ?_)
      · split
        exacts [memoryWf_reissueBatch h2, h2]
      all_goals exact memoryWf_foldl (fun _ _ h1 => memoryWf_plantBerth h1) (memoryWf_modCtx h)

theorem memoryWf_plantImage {cn b pl} (h : MemoryWf s) : OptWf MemoryWf (s.plantImage cn b pl) := by
  unfold State.plantImage
  split
  · exact optWf_none
  · dsimp only
    split
    exacts [optWf_none, optWf_some (memoryWf_plantTeams (memoryWf_placeUnits h))]

theorem memoryWf_addImage {q idx tag b pl pkt args start} (h : MemoryWf s) : MemoryWf (s.addImage q idx tag b pl pkt args start).1 :=
  memoryWf_startJournal (memoryWf_addCtx h)

theorem memoryWf_execLaunchImage (h : MemoryWf s) : OutWf (execLaunchImage s) := by
  unfold execLaunchImage
  dsimp only
  split
  · exact outWf_next h
  · split
    · exact outWf_next ((memoryWf_readImage h).wait ‹_›)
    · exact outWf_next (memoryWf_refuse (memoryWf_dropFetched h))
    · split
      · exact outWf_next (memoryWf_refuse (memoryWf_dropFetched h))
      · exact outWf_next (memoryWf_refuse (memoryWf_dropFetched h))
      · split
        · exact outWf_next (memoryWf_workDone (memoryWf_dispatched (memoryWf_dropFetched h)))
        · split
          · exact outWf_next ((memoryWf_launchArgs h).wait ‹_›)
          · exact outWf_next h
          · exact outWf_next (memoryWf_addImage (memoryWf_dispatched (memoryWf_dropFetched h)))

theorem memoryWf_execTeamResident (h : MemoryWf s) : OutWf (execTeamResident s) := by
  have hs := memoryWf_settleHalts h
  have again : ∀ {cn c} (t : State), MemoryWf t → OptWf MemoryWf
      (if c.ser.isSome || t.yielding t.sel.a c then none else (t.haltedOf cn).head?.bind t.resumeTeam) := fun t ht =>
    optWf_ite optWf_none (optWf_bind' fun _ => memoryWf_resumeTeam ht)
  unfold execTeamResident
  dsimp only
  split
  · exact outWf_next hs
  · next cn c _ =>
    split
    · refine outWf_next (memoryWf_placing hs fun t ht => ?_)
      exact optWf_orElse (memoryWf_plantImage ht) (again t ht)
    · refine outWf_ite (outWf_next (memoryWf_placing hs again)) ?_
      split
      · exact outWf_next hs
      · exact outWf_next (memoryWf_placing hs fun _ ht => optWf_ite (memoryWf_placeAll ht) (memoryWf_placeNext ht))

end Sys2Proof.Proofs

/-!
PROOF. Canonical memory (O57): ropes keep it. -/

namespace Sys2Proof.Proofs

open Sys2Proof.Machine Sys2Proof.Safety Sys2Proof.Laws

variable {s : State}

theorem memoryWf_modAct {a f} (h : MemoryWf s) : MemoryWf (s.modAct a f) := h
theorem memoryWf_dropAct {a} (h : MemoryWf s) : MemoryWf (s.dropAct a) := h
theorem memoryWf_ropeFail {a reason rank} (h : MemoryWf s) : MemoryWf (s.ropeFail a reason rank) := memoryWf_queueErrorEvent (memoryWf_signalEnd h)

theorem memoryWf_unprepare {a} (h : MemoryWf s) : MemoryWf (s.unprepare a) := by
  unfold State.unprepare
  split
  · exact h
  · split
    exacts [memoryWf_ite h (memoryWf_dropCtx (memoryWf_stopCtx h)), h]
  · exact h

theorem memoryWf_ropeDisagree {a rank} (h : MemoryWf s) : MemoryWf (s.ropeDisagree a rank) :=
  memoryWf_ropeFail (memoryWf_unprepare (memoryWf_dropAct h))

theorem memoryWf_ropeStraggle {a rank} (h : MemoryWf s) : MemoryWf (s.ropeStraggle a rank) := by
  unfold State.ropeStraggle
  dsimp only
  split
  · split
    · exact memoryWf_ite (memoryWf_resumeSerial (memoryWf_rest (memoryWf_dropAct (memoryWf_ropeFail h)))) (memoryWf_rest (memoryWf_dropAct (memoryWf_ropeFail h)))
    · exact memoryWf_dropAct (memoryWf_ropeFail h)
  · exact memoryWf_ite (memoryWf_dropAct (memoryWf_ropeFail h)) (memoryWf_modAct (memoryWf_ropeFail h))

theorem memoryWf_sendArms {a} (h : MemoryWf s) : MemoryWf (s.sendArms a) := memoryWf_sendAll h

theorem memoryWf_ropeRefuse {a csig reason arg} (h : MemoryWf s) : MemoryWf (s.ropeRefuse a csig reason arg) :=
  memoryWf_modQueue (memoryWf_queueError (memoryWf_signal (memoryWf_signal (memoryWf_workDone (memoryWf_dropAct h)))))

theorem memoryWf_ropeRead {q idx rec_} (h : MemoryWf s) : (s.ropeRead q idx rec_).Wf (fun p => MemoryWf p.1) := by
  unfold State.ropeRead
  dsimp only
  split
  · split
    · exact h
    · split
      · exact (memoryWf_cpRead h (fun _ _ _ _ _ h1 => memoryWf_askLine h1)).wait ‹_›
      · exact h
      · split
        · exact (memoryWf_checkRecord h).wait ‹_›
        · exact (memoryWf_checkRecord h).refused ‹_›
        · split
          exacts [(memoryWf_checkRecord h).ok ‹_›, (memoryWf_launchArgs h).wait ‹_›, trivial]
  · split
    · exact (memoryWf_readImage h).wait ‹_›
    · exact h
    · split
      · split
        exacts [h, (memoryWf_launchArgs h).wait ‹_›, trivial]
      · exact h
      · exact h
  · exact h

theorem memoryWf_ropePrepare {a pkt p} (h : MemoryWf s) : MemoryWf (s.ropePrepare a pkt p) := by
  unfold State.ropePrepare
  split
  · exact memoryWf_ropeRefuse h
  · exact memoryWf_modAct h
  · exact memoryWf_modAct (memoryWf_startJournal (memoryWf_addCtx h))
  · split
    exacts [memoryWf_signalEnd (memoryWf_dropAct h), memoryWf_modAct (memoryWf_modCtx (memoryWf_addImage h))]

theorem memoryWf_execRope (h : MemoryWf s) : OutWf (execRope s) := by
  unfold execRope
  dsimp only
  split
  · exact outWf_next h
  · split
    · exact outWf_next (memoryWf_invalidPacket h)
    · split
      · exact outWf_next ((memoryWf_cpRead h (fun _ _ _ _ _ h1 => memoryWf_askLine h1)).wait ‹_›)
      · exact outWf_next (memoryWf_refuse (memoryWf_dropFetched h))
      · split
        · exact outWf_next (memoryWf_refuse (memoryWf_dropFetched h))
        · split
          · exact outWf_next ((memoryWf_cpRead h (fun _ _ _ _ _ h1 => memoryWf_askLine h1)).wait ‹_›)
          · exact outWf_next (memoryWf_refuse (memoryWf_dropFetched h))
          · split
            · exact outWf_next (memoryWf_refuse (memoryWf_dropFetched h))
            · split
              · exact outWf_next ((memoryWf_ropeRead h).wait ‹_›)
              · exact outWf_next (memoryWf_refuse (memoryWf_dropFetched h))
              · split
                · exact outWf_next (memoryWf_refuse (memoryWf_dropFetched ((memoryWf_ropeRead h).ok ‹_›)))
                · exact outWf_next (memoryWf_ropePrepare (memoryWf_sendArms (memoryWf_dispatched (memoryWf_dropFetched ((memoryWf_ropeRead h).ok ‹_›)))))

theorem memoryWf_execArm {m} (h : MemoryWf s) : OutWf (execArm m s) := by
  unfold execArm
  split
  · split
    exacts [outWf_next (memoryWf_modAct h), outWf_next h]
  · exact outWf_next h

theorem memoryWf_execRopeArmDeadline (h : MemoryWf s) : OutWf (execRopeArmDeadline s) := by
  unfold execRopeArmDeadline
  split
  · exact outWf_next h
  · split
    · exact outWf_next h
    · split
      exacts [outWf_next (memoryWf_modAct h), outWf_next (memoryWf_sendAll (memoryWf_ropeDisagree h))]

theorem memoryWf_execAbandon {rope rank} (h : MemoryWf s) : OutWf (execAbandon rope rank s) := by
  unfold execAbandon
  split
  · exact outWf_next h
  · split
    · exact outWf_next (memoryWf_ropeDisagree h)
    · split
      exacts [outWf_next (memoryWf_ropeStraggle h), outWf_next h]

theorem memoryWf_ropeStart {a} (h : MemoryWf s) : MemoryWf (s.ropeStart a) := by
  unfold State.ropeStart
  split
  · exact h
  · dsimp only
    split
    exacts [memoryWf_dropAct (memoryWf_modCtx h), memoryWf_signalEnd (memoryWf_modAct (memoryWf_modCtx h))]

theorem memoryWf_ropeSwitchNow {a} (h : MemoryWf s) : MemoryWf (s.ropeSwitchNow a) := by
  unfold State.ropeSwitchNow
  dsimp only
  split
  · exact memoryWf_modAct h
  · split
    · split
      · exact memoryWf_modAct h
      · split
        · exact memoryWf_ite h (memoryWf_startSerial (memoryWf_modAct h))
        · exact memoryWf_ite h (memoryWf_startSerial (memoryWf_modAct h))
        · exact memoryWf_modAct h
    · exact memoryWf_ite (memoryWf_ropeStart (memoryWf_rest (memoryWf_modAct h))) (memoryWf_rest (memoryWf_modAct h))

theorem memoryWf_execRopeSwitch (h : MemoryWf s) : OutWf (execRopeSwitch s) := by
  unfold execRopeSwitch
  split
  · exact outWf_next h
  · split
    · exact outWf_next h
    · split
      · exact outWf_next (memoryWf_ite (memoryWf_ropeStart h) h)
      · split
        · exact outWf_next (memoryWf_ropeSwitchNow h)
        · dsimp only
          split
          exacts [outWf_next (memoryWf_ropeSwitchNow (memoryWf_sendAll (memoryWf_modAct h))), outWf_next (memoryWf_modAct h)]

theorem memoryWf_execGo (h : MemoryWf s) : OutWf (execGo s) := by
  unfold execGo
  split
  · exact outWf_next h
  · split
    exacts [outWf_next h, outWf_next (memoryWf_ropeSwitchNow (memoryWf_modAct h))]

theorem memoryWf_execRopeModeSend (h : MemoryWf s) : OutWf (execRopeModeSend s) := by
  unfold execRopeModeSend
  split
  · exact outWf_next h
  · split
    exacts [outWf_next h, outWf_next (memoryWf_sendAll (memoryWf_modAct h))]

theorem memoryWf_execMode {rope timed} (h : MemoryWf s) : OutWf (execMode rope timed s) := by
  unfold execMode
  split
  · exact outWf_next h
  · split
    exacts [outWf_next h, outWf_next (memoryWf_modAct h)]

theorem memoryWf_execReady {rope rank} (h : MemoryWf s) : OutWf (execReady rope rank s) := by
  unfold execReady
  split
  · exact outWf_next h
  · split
    exacts [outWf_next h, outWf_next (memoryWf_modAct h)]

theorem memoryWf_execStopped {rope rank} (h : MemoryWf s) : OutWf (execStopped rope rank s) := by
  unfold execStopped
  split
  · exact outWf_next h
  · split
    exacts [outWf_next h, outWf_next (memoryWf_modAct h)]

theorem memoryWf_execSealNow (h : MemoryWf s) : OutWf (execSealNow s) := by
  unfold execSealNow
  split
  exacts [outWf_next h, outWf_next (memoryWf_modAct h)]

theorem memoryWf_ropeSends (h : MemoryWf s) : MemoryWf (s.ropeSends) := by
  unfold State.ropeSends
  refine memoryWf_foldl (fun _ _ h1 => ?_) h
  split
  · exact h1
  · split
    exacts [memoryWf_sendAll (memoryWf_modAct h1), memoryWf_ite (memoryWf_sendAll (memoryWf_modAct h1)) h1]

theorem memoryWf_execRopeWindowExpiry (h : MemoryWf s) : OutWf (execRopeWindowExpiry s) := by
  unfold execRopeWindowExpiry
  split
  · exact outWf_next h
  · split
    · exact outWf_next h
    · split
      · exact outWf_next h
      · split
        · exact outWf_next (memoryWf_ite h (memoryWf_dropAct h))
        · split
          · exact outWf_next (memoryWf_modAct h)
          · exact outWf_next (memoryWf_ite (memoryWf_ropeStraggle h) (memoryWf_sendAll (memoryWf_ropeStraggle h)))

end Sys2Proof.Proofs

/-!
PROOF. Canonical memory (O57): resets keep it. -/

namespace Sys2Proof.Proofs

open Sys2Proof.Machine Sys2Proof.Safety Sys2Proof.Laws

variable {s : State}

theorem memoryWf_resetWaiting {quiet meets} (h : MemoryWf s) : MemoryWf (s.resetWaiting quiet meets) :=
  memoryWf_ite (memoryWf_foldl (fun _ _ h1 => memoryWf_sigEnd h1) h) h

theorem memoryWf_resetWork {q w quiet} (h : MemoryWf s) : MemoryWf (s.resetWork q w quiet) :=
  memoryWf_ite (memoryWf_resetWaiting h) (memoryWf_ite (memoryWf_workDone h) (memoryWf_signalEnd h))

theorem memoryWf_dropPuts {q kind} (h : MemoryWf s) : MemoryWf (s.dropPuts q kind) := h

theorem memoryWf_resetStages {q quiet} (h : MemoryWf s) : MemoryWf (s.resetStages q quiet) :=
  memoryWf_foldl (fun _ _ h1 => memoryWf_resetWork h1) (memoryWf_dropPuts (memoryWf_modQueue h))

theorem memoryWf_stopQueue {q quiet} (h : MemoryWf s) : MemoryWf (s.stopQueue q quiet) := memoryWf_resetStages (memoryWf_modQueue h)

theorem memoryWf_drainQueue {q fuel} (h : MemoryWf s) : MemoryWf (s.drainQueue q fuel).1 := by
  induction fuel generalizing s with
  | zero => exact h
  | succ fuel ih =>
    unfold State.drainQueue
    dsimp only
    split
    · exact h
    · split
      · exact (memoryWf_cpRead h fun _ _ _ _ _ h1 => memoryWf_askLine h1).wait ‹_›
      · exact ih (memoryWf_modQueue h)
      · split
        · exact (memoryWf_skipped (memoryWf_dropFetched h)).wait ‹_›
        · exact ih (memoryWf_modQueue ((memoryWf_skipped (memoryWf_dropFetched h)).ok ‹_›))
        · exact ih (memoryWf_modQueue h)

theorem memoryWf_drain {q quiet} (h : MemoryWf s) : MemoryWf (s.drain q quiet).1 := by
  unfold State.drain
  dsimp only
  split
  exacts [h, memoryWf_drainQueue h]

theorem memoryWf_resetCtx {quiet cn} (h : MemoryWf s) : MemoryWf (s.resetCtx quiet cn) := by
  unfold State.resetCtx
  dsimp only
  split
  · exact memoryWf_ite (memoryWf_modCtx h) h
  · exact memoryWf_ite (memoryWf_gridEnd (memoryWf_ite (memoryWf_modCtx h) h)) (memoryWf_modCtx (memoryWf_endCtx (memoryWf_ite (memoryWf_modCtx h) h)))

theorem memoryWf_clearCore {c} (h : MemoryWf s) : MemoryWf (s.clearCore c) := memoryWf_rest (memoryWf_flushL1 h)

theorem memoryWf_resetWorks {q quiet} (h : MemoryWf s) : MemoryWf (s.resetWorks q quiet) :=
  memoryWf_foldl (fun _ _ h1 => memoryWf_resetWork h1) (memoryWf_rest (memoryWf_dropPuts h))

theorem memoryWf_dropMsc {es} (h : MemoryWf s) : MemoryWf (s.dropMsc es) := memoryWf_mk (storeWf_rest (storeWf_dirty h (swf_filter _)))
theorem memoryWf_dropReads {cs} (h : MemoryWf s) : MemoryWf (s.dropReads cs) := h
theorem memoryWf_setInReset {fs x} (h : MemoryWf s) : MemoryWf (s.setInReset fs x) := memoryWf_foldl (fun _ _ h1 => memoryWf_modFn h1) h
theorem memoryWf_sendGen {w e} (h : MemoryWf s) : MemoryWf (s.sendGen w e) := memoryWf_ite h (memoryWf_push h)

theorem memoryWf_resetEntry {e} (h : MemoryWf s) : MemoryWf (s.resetEntry e) :=
  memoryWf_foldl (fun _ _ h1 => memoryWf_deliverRsp h1) (memoryWf_rest (memoryWf_foldl (fun _ _ h1 => memoryWf_sendGen h1) (memoryWf_rest (memoryWf_modPart h))))

theorem memoryWf_resetPart {e quiet} (h : MemoryWf s) : MemoryWf (s.resetPart e quiet) := by
  unfold State.resetPart
  extract_lets es qs cs cores late s1 s2 s3 s4
  have h2 : MemoryWf s2 := memoryWf_foldl (fun _ _ h1 => memoryWf_resetWorks (memoryWf_stopQueue h1)) (memoryWf_resetWaiting h)
  have h3 : MemoryWf s3 := memoryWf_foldl (fun _ _ h1 => memoryWf_resetCtx h1) (memoryWf_dropReads h2)
  have h4 : MemoryWf s4 := memoryWf_dropMsc (memoryWf_foldl (fun _ _ h1 => memoryWf_clearCore h1) h3)
  exact memoryWf_foldl (fun _ _ h1 => memoryWf_resetEntry h1) h4

theorem memoryWf_activate {bad i} (h : MemoryWf s) : MemoryWf (s.activate bad i) := memoryWf_ite h (memoryWf_log h)
theorem memoryWf_activateRest {bad} (h : MemoryWf s) : MemoryWf (s.activateRest bad) := memoryWf_foldl (fun _ _ h1 => memoryWf_activate h1) h
theorem memoryWf_activateAll {bad} (h : MemoryWf s) : MemoryWf (s.activateAll bad) := memoryWf_activateRest (memoryWf_activate h)

theorem memoryWf_resetAll (h : MemoryWf s) : MemoryWf (s.resetAll) := by
  unfold State.resetAll
  extract_lets +onlyGivenNames qs cs s1 s2 s3 s4
  have h2 : MemoryWf s2 := memoryWf_foldl (fun _ _ h1 => memoryWf_drain (memoryWf_resetWorks (memoryWf_stopQueue h1))) (memoryWf_resetWaiting (memoryWf_dropReads h))
  clear_value s2
  have h3 : MemoryWf s3 := by
    refine memoryWf_foldl (fun _ _ h1 => ?_) h2
    split
    exacts [memoryWf_ite (memoryWf_gridEnd h1) (memoryWf_dropCtx (memoryWf_stopCtx (memoryWf_signal h1))), h1]
  clear_value s3
  have h4 : MemoryWf s4 := memoryWf_activateRest h3
  clear_value s4
  exact memoryWf_mk (storeWf_rest (storeWf_dirty (l := []) h4 fun _ => rfl))

theorem memoryWf_modPage {fn f} (h : MemoryWf s) : MemoryWf (s.modPage fn f) := h

theorem memoryWf_resetLaunches {r} (h : MemoryWf s) : MemoryWf (s.resetLaunches r) :=
  memoryWf_ite (memoryWf_resetStages (memoryWf_resetWaiting h)) (memoryWf_resetWaiting h)

theorem memoryWf_startRung {fn r} (h : MemoryWf s) : MemoryWf (s.startRung fn r) := by
  unfold State.startRung
  dsimp only
  split
  · exact memoryWf_modPage (memoryWf_stopQueue h)
  · exact memoryWf_modPage (memoryWf_foldl (fun _ _ h1 => memoryWf_resetCtx h1) (memoryWf_resetLaunches h))
  · exact memoryWf_modPage (memoryWf_foldl (fun _ _ h1 => memoryWf_clearCore h1) (memoryWf_foldl (fun _ _ h1 => memoryWf_resetCtx h1) (memoryWf_resetLaunches h)))
  · exact memoryWf_ite (memoryWf_modPage h) (memoryWf_modPage (memoryWf_setInReset (memoryWf_resetPart h)))
  · exact memoryWf_modPage (memoryWf_modPage (memoryWf_rest (memoryWf_resetAll h)))

theorem memoryWf_askReset {fn rung r flr teardown} (h : MemoryWf s) : MemoryWf (s.askReset fn rung r flr teardown) := by
  unfold State.askReset
  refine memoryWf_ite (memoryWf_modPage (memoryWf_modPage h)) ?_
  split
  · exact memoryWf_modPage (memoryWf_modPage h)
  · refine memoryWf_startRung ?_
    split
    exacts [memoryWf_modFn (memoryWf_modPage (memoryWf_modPage h)), memoryWf_modPage (memoryWf_modPage h)]

theorem memoryWf_pageReset {fn rung r} (h : MemoryWf s) : MemoryWf (s.pageReset fn rung r) := memoryWf_ite (memoryWf_askReset h) (memoryWf_emit h)

theorem memoryWf_execFunctionLevelReset (h : MemoryWf s) : OutWf (execFunctionLevelReset s) := by
  unfold execFunctionLevelReset
  dsimp only
  split
  · exact outWf_next (memoryWf_askReset h)
  · split
    · exact outWf_next h
    · split
      · exact outWf_next (memoryWf_askReset h)
      · refine outWf_next ?_
        split <;> exact memoryWf_modPage h

theorem memoryWf_unbindFn {fn} (h : MemoryWf s) : MemoryWf (s.unbindFn fn) := h

theorem memoryWf_execVfTeardown (h : MemoryWf s) : OutWf (execVfTeardown s) := by
  unfold execVfTeardown
  dsimp only
  split
  · exact outWf_next h
  · refine outWf_next (memoryWf_foldl (fun _ _ h1 => ?_) h)
    split
    exacts [memoryWf_askReset (memoryWf_modPage h1), memoryWf_unbindFn h1]

theorem memoryWf_execPartitionRungHold (h : MemoryWf s) : OutWf (execPartitionRungHold s) := by
  unfold execPartitionRungHold
  split
  · split
    exacts [outWf_next (memoryWf_startRung (memoryWf_modPage h)), outWf_next h]
  · exact outWf_next h

theorem memoryWf_drainAll {r} (h : MemoryWf s) : MemoryWf (s.drainAll r).1 := memoryWf_foldl_fst (fun _ _ h1 => memoryWf_drain h1) h

theorem memoryWf_endRung {r} (h : MemoryWf s) : MemoryWf (s.endRung r) := by
  unfold State.endRung
  dsimp only
  split
  · exact memoryWf_foldl (fun _ _ h1 => memoryWf_modPart h1) (memoryWf_foldl (fun _ _ h1 => memoryWf_modQueue h1) h)
  · split
    · exact memoryWf_rest (memoryWf_foldl (fun _ _ h1 => memoryWf_modQueue h1) h)
    · exact memoryWf_foldl (fun _ _ h1 => memoryWf_modQueue h1) h

theorem memoryWf_pageDone {fn r} (h : MemoryWf s) : MemoryWf (s.pageDone fn r) := by
  unfold State.pageDone
  refine memoryWf_event ?_
  split
  exacts [memoryWf_setInReset (memoryWf_modPage h), memoryWf_event (memoryWf_setInReset (memoryWf_modPage h))]

theorem memoryWf_execResetComplete (h : MemoryWf s) : OutWf (execResetComplete s) := by
  unfold execResetComplete
  dsimp only
  split
  · exact outWf_next h
  · refine outWf_ite (outWf_next (memoryWf_drainAll h)) (outWf_next ?_)
    split
    · exact memoryWf_unbindFn (memoryWf_pageDone (memoryWf_endRung (memoryWf_drainAll h)))
    · exact memoryWf_pageDone (memoryWf_endRung (memoryWf_drainAll h))

theorem memoryWf_execRungEscalation (h : MemoryWf s) : OutWf (execRungEscalation s) := by
  unfold execRungEscalation
  dsimp only
  split
  · exact outWf_next h
  · split
    · exact outWf_next h
    · split
      exacts [outWf_next (memoryWf_emit (memoryWf_log h)), outWf_next (memoryWf_startRung h)]

theorem memoryWf_reclaim {q} (h : MemoryWf s) : MemoryWf (s.reclaim q) := memoryWf_answerReq h

theorem memoryWf_execRequestSlotReclaim (h : MemoryWf s) : OutWf (execRequestSlotReclaim s) := by
  unfold execRequestSlotReclaim
  split
  · exact outWf_next h
  · split
    exacts [outWf_next (memoryWf_reclaim h), outWf_next h]

end Sys2Proof.Proofs

/-!
PROOF. Canonical memory (O57): memory controls and register writes keep it. -/

namespace Sys2Proof.Proofs

open Sys2Proof.Machine Sys2Proof.Safety Sys2Proof.Laws

variable {s : State}

theorem memoryWf_modCtl {f} (h : MemoryWf s) : MemoryWf (s.modCtl f) := h
theorem memoryWf_memErr {off} (h : MemoryWf s) : MemoryWf (s.memErr off) := h

theorem memoryWf_invWrite {ctl} (h : MemoryWf s) : MemoryWf (s.invWrite ctl) :=
  memoryWf_ite (memoryWf_ite h (memoryWf_modCtl h)) (memoryWf_modCtl (memoryWf_mk (storeWf_rest h)))

theorem memoryWf_frameOp {ctl} (h : MemoryWf s) : MemoryWf (s.frameOp ctl) :=
  memoryWf_ite h (memoryWf_dropL1 (memoryWf_mk (storeWf_foldl (fun _ _ h1 => storeWf_kill h1 _ _) h _)))

theorem memoryWf_frameOpOf {k ctl} (h : MemoryWf s) : MemoryWf (s.frameOpOf k ctl) :=
  memoryWf_ite (memoryWf_memErr h) (memoryWf_ite (memoryWf_frameOp h) h)

theorem memoryWf_sidewaysWrite {off k mask} (h : MemoryWf s) : MemoryWf (s.sidewaysWrite off k mask) := by
  unfold State.sidewaysWrite
  exact memoryWf_ite (memoryWf_memErr h) (memoryWf_modCtl h)

theorem memoryWf_execFlush {k mask} (h : MemoryWf s) : OutWf (execFlush k mask s) :=
  outWf_next (memoryWf_modCtl (memoryWf_foldl (fun _ _ h1 => memoryWf_dropMscLine h1) h))

theorem memoryWf_sendWaiting (h : MemoryWf s) : MemoryWf (s.sendWaiting) :=
  memoryWf_foldl (fun _ _ h1 => memoryWf_ite h1 (memoryWf_modCtl (memoryWf_sendPageReq h1))) h

theorem memoryWf_execPageDone {e va} (h : MemoryWf s) : OutWf (execPageDone e va s) := by
  unfold execPageDone
  dsimp only
  split
  exacts [outWf_next (memoryWf_wakePage (memoryWf_modCtl h)), outWf_next h]

theorem memoryWf_xlatWrite {w} (h : MemoryWf s) : OutWf (s.xlatWrite w) := by
  unfold State.xlatWrite
  dsimp only
  split
  · exact outWf_next h
  · split
    · exact outWf_next (memoryWf_memErr h)
    · split
      exacts [memoryWf_execPageDone (memoryWf_sendWaiting (memoryWf_modXlat h)), outWf_next (memoryWf_sendWaiting (memoryWf_modXlat h))]

theorem memoryWf_memCtlWrite {w} (h : MemoryWf s) : OutWf (s.memCtlWrite w) := by
  unfold State.memCtlWrite
  dsimp only
  split
  · exact memoryWf_xlatWrite h
  · split
    · exact outWf_next (memoryWf_ite (memoryWf_memErr h) (memoryWf_invWrite (memoryWf_modCtl h)))
    · split
      · exact outWf_next (memoryWf_ite (memoryWf_memErr h) (memoryWf_frameOp (memoryWf_modCtl h)))
      · split
        · exact outWf_next (memoryWf_sidewaysWrite h)
        · split
          exacts [memoryWf_execFlush h, outWf_next (memoryWf_modCtl h)]

theorem memoryWf_partWrite {w} (h : MemoryWf s) : MemoryWf (s.partWrite w) := by
  unfold State.partWrite
  dsimp only
  split
  · exact h
  · split <;> exact h

theorem memoryWf_execBudgetPeriod (h : MemoryWf s) : OutWf (execBudgetPeriod s) := by
  unfold execBudgetPeriod
  dsimp only
  split
  exacts [outWf_next h, outWf_next (memoryWf_foldl (fun _ _ h1 => memoryWf_pump h1) h)]

theorem memoryWf_execJournalEnable {e jctl} (h : MemoryWf s) : OutWf (execJournalEnable e jctl s) := outWf_next (memoryWf_modJournal h)

theorem memoryWf_journalWrite {e w} (h : MemoryWf s) : OutWf (s.journalWrite e w) := by
  unfold State.journalWrite
  dsimp only
  split
  exacts [memoryWf_execJournalEnable (memoryWf_modJournal h), outWf_next (memoryWf_modJournal h)]

theorem memoryWf_serWrite {fn w} (h : MemoryWf s) : OutWf (s.serWrite fn w) := by
  unfold State.serWrite
  dsimp only
  split
  exacts [memoryWf_execSerialise (memoryWf_modFn h), outWf_next (memoryWf_modFn h)]

theorem memoryWf_resetWrite {fn w} (h : MemoryWf s) : MemoryWf (s.resetWrite fn w) := by
  unfold State.resetWrite
  dsimp only
  split
  exacts [memoryWf_askReset (memoryWf_ite h (memoryWf_modPage h)), memoryWf_modPage (memoryWf_ite h (memoryWf_modPage h))]

theorem memoryWf_queueWrite {fn q w} (h : MemoryWf s) : OutWf (s.queueWrite fn q w) := by
  have hq := fun f => memoryWf_modQueue (q := q) (f := f) h
  unfold State.queueWrite
  refine outWf_ite (outWf_next (memoryWf_ringFrom (hq _))) (outWf_ite (outWf_ite (memoryWf_execQueueBind (hq _)) (outWf_next (hq _)))
    (outWf_ite ?_ (outWf_next (hq _))))
  dsimp only
  split
  · next t e =>
    have hf : MemoryWf t := outWf_ite (memoryWf_execQueueEnable (memoryWf_rest (hq _))) (memoryWf_execQueueDisable (memoryWf_rest (hq _))) t e
    exact outWf_ite (memoryWf_execQueuePause hf) (memoryWf_execQueueUnpause hf)
  · exact outWf_ite (memoryWf_execQueueEnable (memoryWf_rest (hq _))) (memoryWf_execQueueDisable (memoryWf_rest (hq _)))

theorem memoryWf_pfWrite {w} (h : MemoryWf s) : OutWf (s.pfWrite w) := by
  unfold State.pfWrite
  refine outWf_ite (outWf_next h) (outWf_ite (outWf_next (memoryWf_modFn h)) (outWf_ite (outWf_next (memoryWf_partWrite h))
    (outWf_ite (outWf_next (memoryWf_ite h h)) (outWf_ite (outWf_next h) (outWf_ite (outWf_next (memoryWf_resetWrite h)) (outWf_ite (memoryWf_serWrite h)
      (outWf_ite (outWf_next (memoryWf_modSnap h)) (outWf_ite (memoryWf_journalWrite h) (outWf_ite (memoryWf_memCtlWrite h)
        (outWf_ite (memoryWf_queueWrite h) (outWf_next h)))))))))))

theorem memoryWf_vfWrite {fn w} (h : MemoryWf s) : OutWf (s.vfWrite fn w) := by
  unfold State.vfWrite
  dsimp only
  split
  · exact outWf_next h
  · split
    · exact outWf_next (memoryWf_modFn h)
    · split
      · exact outWf_next (memoryWf_resetWrite h)
      · split
        · exact memoryWf_serWrite h
        · split
          · split
            · exact outWf_next h
            · split
              exacts [outWf_next (memoryWf_modSnap h), memoryWf_journalWrite h]
          · split
            · split
              exacts [memoryWf_queueWrite h, outWf_next h]
            · exact outWf_next h

theorem memoryWf_sysWrite {p v} (h : MemoryWf s) : OutWf (s.sysWrite p v) := by
  unfold State.sysWrite
  dsimp only
  split
  case h_2 | h_3 | h_7 =>
    refine outWf_next ?_
    split <;> exact h
  case h_4 | h_5 => exact outWf_next (memoryWf_foldl (fun _ _ h1 => memoryWf_setXoff h1) h)
  case h_6 =>
    split
    · exact outWf_next h
    · split
      exacts [memoryWf_execVfTeardown h, outWf_next h]
  all_goals exact outWf_next h

theorem memoryWf_execRegisterWrite {fn at_ size v} (h : MemoryWf s) : OutWf (execRegisterWrite fn at_ size v s) := by
  unfold execRegisterWrite
  split
  · exact outWf_next (memoryWf_emit h)
  · split
    · dsimp only
      split
      · exact outWf_next (memoryWf_emit h)
      · split
        exacts [memoryWf_pfWrite h, memoryWf_vfWrite h]
    · split
      exacts [memoryWf_sysWrite h, outWf_next h]

end Sys2Proof.Proofs

/-!
PROOF. Canonical memory (O57): remote requests, responses and recalls keep it. -/

namespace Sys2Proof.Proofs

open Sys2Proof.Machine Sys2Proof.Safety Sys2Proof.Laws

variable {s : State}

theorem memoryWf_after {r} (h : MemoryWf s) (hr : OutWf r) : MemoryWf (after s r) := by
  cases r with
  | next t => exact hr t rfl
  | fault _ => exact h
  | refused _ => exact h

theorem memoryWf_execRemoteRequest {r} (h : MemoryWf s) : OutWf (execRemoteRequest r s) := by
  unfold execRemoteRequest
  split
  · exact outWf_next (memoryWf_deliverRsp ((memoryWf_serve h).answer ‹_›))
  · exact outWf_next ((memoryWf_serve h).late ‹_›)
  · exact outWf_next (memoryWf_rest ((memoryWf_serve h).hold ‹_›))

theorem memoryWf_dropRsp {src} (h : MemoryWf s) : MemoryWf (s.dropRsp src) := by
  unfold State.dropRsp
  split
  exacts [memoryWf_linkEvent h, h]

theorem memoryWf_execRemoteResponse {r} (h : MemoryWf s) : OutWf (execRemoteResponse r s) := by
  unfold execRemoteResponse
  split
  exacts [outWf_next h, outWf_next (memoryWf_ite (memoryWf_reclaim h) (memoryWf_ite (memoryWf_dropRsp h) (memoryWf_answerReq h)))]

theorem memoryWf_execRemoteTimeout (h : MemoryWf s) : OutWf (execRemoteTimeout s) := by
  unfold execRemoteTimeout
  split
  exacts [outWf_next h, outWf_next (memoryWf_ite (memoryWf_answerReq h) h)]

theorem memoryWf_execInboundPageTimeout (h : MemoryWf s) : OutWf (execInboundPageTimeout s) := by
  unfold execInboundPageTimeout
  dsimp only
  split
  · exact outWf_next h
  · split
    exacts [outWf_next h, outWf_next (memoryWf_deliverRsp (memoryWf_inboundFault h))]

theorem memoryWf_releaseAck {a1} (h : MemoryWf s) : MemoryWf (s.releaseAck a1) := by
  unfold State.releaseAck
  dsimp only
  split
  exacts [memoryWf_settleCopy h, memoryWf_deliverRsp h]

theorem memoryWf_execNotimeAck (h : MemoryWf s) : OutWf (execNotimeAck s) := by
  unfold execNotimeAck
  split
  exacts [outWf_next (memoryWf_releaseAck h), outWf_next h]

theorem memoryWf_answered {slot line p} (h : MemoryWf s) : MemoryWf (s.answered slot line p) :=
  memoryWf_foldl (fun _ _ h1 => memoryWf_releaseAck h1) h

theorem memoryWf_sendRecalls (h : MemoryWf s) : MemoryWf (s.sendRecalls) := memoryWf_foldl (fun _ _ h1 => memoryWf_recall h1) h

theorem memoryWf_execRecallLine {w x} (h : MemoryWf s) : OutWf (execRecallLine w x s) :=
  outWf_next (memoryWf_sendAnswer (memoryWf_dropL1 (memoryWf_dropPeers h)))

theorem memoryWf_execRecallAck {w line} (h : MemoryWf s) : OutWf (execRecallAck w line s) := outWf_next (memoryWf_answered h)

theorem memoryWf_execRecallTimeout {w line} (h : MemoryWf s) : OutWf (execRecallTimeout w line s) := by
  unfold execRecallTimeout
  dsimp only
  split
  exacts [outWf_next (memoryWf_answered (memoryWf_ite (memoryWf_linkEvent h) h)), outWf_next h]

theorem memoryWf_windowWrite {pa d} (h : MemoryWf s) : OptWf MemoryWf (s.windowWrite pa d) :=
  optWf_map (memoryWf_homeWrite h) (fun _ h1 => memoryWf_noteWrite (memoryWf_foldl (fun _ _ h2 => memoryWf_recordStore h2) h1))

theorem memoryWf_windowDo {pa a} (h : MemoryWf s) : OptWf MemoryWf (s.windowDo pa a) := by
  unfold State.windowDo
  refine optWf_ite optWf_none ?_
  split
  · exact optWf_some (memoryWf_emit h)
  · exact optWf_ite (optWf_some h) (memoryWf_windowWrite h)
  · exact optWf_ite (optWf_some (memoryWf_emit h)) (optWf_map (memoryWf_windowWrite h) (fun _ h1 => memoryWf_emit h1))

theorem memoryWf_windowRun {l} (h : MemoryWf s) : MemoryWf (s.windowRun l) := by
  induction l generalizing s with
  | nil => exact h
  | cons a r ih =>
    cases a with
    | doorbell q i => exact ih (memoryWf_ring h)
    | access off a =>
      unfold State.windowRun
      split
      exacts [ih (memoryWf_windowDo h _ ‹_›), h]

theorem memoryWf_windowRetry (h : MemoryWf s) : MemoryWf (s.windowRetry) := memoryWf_ite h (memoryWf_windowRun h)

theorem memoryWf_execHostWindowAccess {off a} (h : MemoryWf s) : OutWf (execHostWindowAccess off a s) := by
  unfold execHostWindowAccess
  dsimp only
  split
  · exact outWf_next (memoryWf_emit h)
  · split
    exacts [outWf_next (memoryWf_emit h), outWf_next (memoryWf_windowRetry h)]

end Sys2Proof.Proofs

/-!
PROOF. Canonical memory (O57): links keep it. -/

namespace Sys2Proof.Proofs

open Sys2Proof.Machine Sys2Proof.Safety Sys2Proof.Laws

variable {s : State}

theorem memoryWf_sendKeyctl {w m} (h : MemoryWf s) : MemoryWf (s.sendKeyctl w m) := memoryWf_push h

theorem memoryWf_retireKey {w} (h : MemoryWf s) : MemoryWf (s.retireKey w) := by
  unfold State.retireKey
  split
  exacts [h, memoryWf_ite h (memoryWf_sendKeyctl (memoryWf_modLink h))]

theorem memoryWf_delivered {fs} (h : MemoryWf s) : MemoryWf (s.delivered fs) := h

theorem memoryWf_acked {w ack} (h : MemoryWf s) : MemoryWf (s.acked w ack) := by
  unfold State.acked
  dsimp only
  split
  · exact h
  · exact memoryWf_retireKey (memoryWf_modLink (memoryWf_delivered (memoryWf_mk (storeWf_foldl (fun _ _ h1 => storeWf_clearMark h1 _) h _))))

theorem memoryWf_ackPri {w a2} (h : MemoryWf s) : MemoryWf (s.ackPri w a2) := memoryWf_modLink (memoryWf_ite (memoryWf_acked h) h)
theorem memoryWf_header {w a2} (h : MemoryWf s) : MemoryWf (s.header w a2) := memoryWf_pump (memoryWf_ackPri h)

theorem memoryWf_replayFrom {w seq} (h : MemoryWf s) : MemoryWf (s.replayFrom w seq) := by
  unfold State.replayFrom
  dsimp only
  split
  exacts [memoryWf_modLink h, memoryWf_ite (memoryWf_pump h) (memoryWf_pump (memoryWf_rest (memoryWf_modLink h)))]

theorem memoryWf_sendNak {w} (h : MemoryWf s) : MemoryWf (s.sendNak w) := by
  unfold State.sendNak
  dsimp only
  split
  exacts [memoryWf_ite h (memoryWf_local_ (memoryWf_modLink h)), memoryWf_local_ (memoryWf_modLink h)]

theorem memoryWf_modPool {die f} (h : MemoryWf s) : MemoryWf (s.modPool die f) := h
theorem memoryWf_poolDone {w a2 m} (h : MemoryWf s) : MemoryWf (s.poolDone w a2 m) := memoryWf_modPool (memoryWf_mk (storeWf_clearMark h _))
theorem memoryWf_settlePools (h : MemoryWf s) : MemoryWf (s.settlePools) := memoryWf_foldl (fun _ _ h1 => memoryWf_ite h1 (memoryWf_modPool h1)) h
theorem memoryWf_modOpen {w f} (h : MemoryWf s) : MemoryWf (s.modOpen w f) := h
theorem memoryWf_begin_ {w a2 m stale} (h : MemoryWf s) : MemoryWf (s.begin_ w a2 m stale) := h
theorem memoryWf_discardFlit {w a2} (h : MemoryWf s) : MemoryWf (s.discardFlit w a2) := memoryWf_poolDone (memoryWf_linkEvent h)

theorem memoryWf_takeFlit {w f type} (h : MemoryWf s) : MemoryWf (s.takeFlit w f type).1 := by
  unfold State.takeFlit
  extract_lets l s1
  have h1 : MemoryWf s1 := memoryWf_header h
  clear_value s1
  refine memoryWf_ite_fst h (memoryWf_ite_fst (memoryWf_sendNak (memoryWf_countError h)) (memoryWf_ite_fst (memoryWf_sendNak h1)
    (memoryWf_ite_fst (memoryWf_modLink h1) ?_)))
  split
  · exact memoryWf_linkEvent (memoryWf_sendNak h1)
  · extract_lets s2 s3
    have h3 : MemoryWf s3 := memoryWf_modLink (memoryWf_modPool h1)
    exact memoryWf_ite_fst (memoryWf_discardFlit (memoryWf_begin_ h3)) h3

theorem memoryWf_takeLocal {w f type} (h : MemoryWf s) : MemoryWf (s.takeLocal w f type).1 := by
  unfold State.takeLocal
  dsimp only
  split
  · exact h
  · split
    · exact memoryWf_countError h
    · split
      · exact h
      · split
        · exact h
        · split
          · exact memoryWf_linkEvent (memoryWf_ite (memoryWf_ackPri (memoryWf_modLink h)) (memoryWf_header (memoryWf_modLink h)))
          · exact memoryWf_ite (memoryWf_ackPri (memoryWf_modLink h)) (memoryWf_header (memoryWf_modLink h))

theorem memoryWf_handleCtl {w m} (h : MemoryWf s) : MemoryWf (s.handleCtl w m) := by
  cases m with
  | request | requests | response | contribution | keyctl | nack => exact h
  | release => exact memoryWf_takeRelease h
  | stageAccept => exact memoryWf_stageAccepted h
  | delivery => exact memoryWf_after h (memoryWf_execBerthDelivery h)
  | resolution => exact memoryWf_after h (memoryWf_execForwardedResolution h)
  | resolutionAck => exact memoryWf_after h (memoryWf_execResolutionAck h)
  | registration => exact memoryWf_after h (memoryWf_execForwardingRegistration h)
  | stage => exact memoryWf_after h (memoryWf_execStageStep h)
  | arm => exact memoryWf_after h (memoryWf_execArm h)
  | abandon => exact memoryWf_after h (memoryWf_execAbandon h)
  | mode => exact memoryWf_after h (memoryWf_execMode h)
  | ready => exact memoryWf_after h (memoryWf_execReady h)
  | go => exact memoryWf_after h (memoryWf_execGo (memoryWf_rest h))
  | stopped => exact memoryWf_after h (memoryWf_execStopped h)
  | sealNow => exact memoryWf_after h (memoryWf_execSealNow (memoryWf_rest h))
  | recallLine => exact memoryWf_after h (memoryWf_execRecallLine h)
  | recallAck => exact memoryWf_after h (memoryWf_execRecallAck h)

theorem memoryWf_handle {w pois m} (h : MemoryWf s) : MemoryWf (s.handle w pois m) := by
  unfold State.handle
  split
  · exact memoryWf_after h (memoryWf_execRemoteRequest h)
  · exact memoryWf_foldl (fun _ _ h1 => memoryWf_after h1 (memoryWf_execRemoteRequest h1)) h
  · exact memoryWf_contribution h
  · exact memoryWf_after h (memoryWf_execRemoteResponse h)
  · exact memoryWf_ite h (memoryWf_handleCtl h)

theorem memoryWf_nackMsg {w a2 m} (h : MemoryWf s) : MemoryWf (s.nackMsg w a2 m) := by
  unfold State.nackMsg
  split
  · exact memoryWf_deliverRsp h
  · exact memoryWf_foldl (fun _ _ h1 => memoryWf_deliverRsp h1) h
  · exact memoryWf_ite (memoryWf_sendAnswer h) (memoryWf_deliverRsp h)
  · exact memoryWf_send h

theorem memoryWf_openMsg {w f} (h : MemoryWf s) : MemoryWf (s.openMsg w f) := by
  unfold State.openMsg
  dsimp only
  split
  · split
    exacts [memoryWf_poolDone (memoryWf_handle (memoryWf_begin_ h)), memoryWf_poolDone (memoryWf_begin_ h)]
  · exact memoryWf_begin_ h

theorem memoryWf_dropMsg {w f stale} (h : MemoryWf s) : MemoryWf (s.dropMsg w f stale) :=
  memoryWf_ite (memoryWf_discardFlit (memoryWf_begin_ h)) (memoryWf_poolDone (memoryWf_begin_ h))

theorem memoryWf_execReq {w f} (h : MemoryWf s) : OutWf (execReq w f s) := by
  have ht := memoryWf_takeFlit (w := w) (f := f) (type := 0x01) h
  unfold execReq
  refine outWf_ite (outWf_next ht) (outWf_ite (outWf_next (memoryWf_dropMsg ?_)) (outWf_ite (outWf_next (memoryWf_dropMsg ht)) (outWf_next (memoryWf_openMsg ht))))
  split
  exacts [memoryWf_nackMsg ht, ht]

theorem memoryWf_execRsp {w f} (h : MemoryWf s) : OutWf (execRsp w f s) := by
  have ht := memoryWf_takeFlit (w := w) (f := f) (type := 0x02) h
  unfold execRsp
  refine outWf_ite (outWf_next ht) (outWf_ite ?_ (outWf_next (memoryWf_openMsg ht)))
  dsimp only
  split
  · split
    exacts [outWf_next (memoryWf_reclaim (memoryWf_dropMsg ht)), outWf_next (memoryWf_dropMsg ht)]
  · exact outWf_next (memoryWf_dropMsg ht)

theorem memoryWf_dropOldRsps {w} (h : MemoryWf s) : MemoryWf (s.dropOldRsps w) :=
  memoryWf_foldl (fun _ _ h1 => memoryWf_poolDone (memoryWf_linkEvent (memoryWf_modOpen h1))) h

theorem memoryWf_settleRsps (h : MemoryWf s) : MemoryWf (s.settleRsps) := memoryWf_foldl (fun _ _ h1 => memoryWf_dropOldRsps h1) h

theorem memoryWf_execData {w f} (h : MemoryWf s) : OutWf (execData w f s) := by
  unfold execData
  refine outWf_ite (outWf_next (memoryWf_takeFlit h)) ?_
  split
  · exact outWf_next (memoryWf_poolDone (memoryWf_takeFlit h))
  · refine outWf_ite (outWf_next (memoryWf_discardFlit (memoryWf_modOpen (memoryWf_takeFlit h)))) ?_
    split
    · exact outWf_next (memoryWf_poolDone (memoryWf_modOpen (memoryWf_takeFlit h)))
    · refine outWf_next ?_
      split
      exacts [memoryWf_poolDone (memoryWf_handle (memoryWf_modOpen (memoryWf_takeFlit h))), memoryWf_modOpen (memoryWf_takeFlit h)]

theorem memoryWf_execKeyctl {w f m} (h : MemoryWf s) : OutWf (execKeyctl w f m s) := by
  have ht : MemoryWf ((s.takeFlit w f 0x14).1.poolDone w f.hdr none) := memoryWf_poolDone (memoryWf_takeFlit h)
  unfold execKeyctl
  refine outWf_ite (outWf_next (memoryWf_takeFlit h)) ?_
  cases m with
  | installed b => exact outWf_ite (outWf_next ht) (outWf_next (memoryWf_retireKey (memoryWf_linkEvent (memoryWf_modLink ht))))
  | retire b => exact outWf_next (memoryWf_modLink ht)

theorem memoryWf_sendRestripe {w} (h : MemoryWf s) : MemoryWf (s.sendRestripe w) := memoryWf_local_ h

theorem memoryWf_loseTx {w lost} (h : MemoryWf s) : MemoryWf (s.loseTx w lost) := by
  unfold State.loseTx
  dsimp only
  split
  · exact h
  · split
    · split
      exacts [memoryWf_modLink (memoryWf_modLink (memoryWf_linkEvent h)), memoryWf_modLink (memoryWf_linkEvent h)]
    · split
      · exact memoryWf_linkIsDown (memoryWf_modLink (memoryWf_linkEvent h))
      · exact memoryWf_sendRestripe (memoryWf_modLink (memoryWf_linkEvent h))

theorem memoryWf_execElsFault (h : MemoryWf s) : OutWf (execElsFault s) := by
  unfold execElsFault
  dsimp only
  split
  exacts [outWf_next h, outWf_next (memoryWf_foldl (fun _ _ h1 => memoryWf_loseTx h1) (memoryWf_fabricEvent (memoryWf_noteError h)))]

theorem memoryWf_execStripeLost {w lit} (h : MemoryWf s) : OutWf (execStripeLost w lit s) := by
  unfold execStripeLost
  dsimp only
  split
  · exact outWf_next h
  · split
    · exact outWf_next (memoryWf_modLink (memoryWf_linkEvent h))
    · split
      · exact outWf_next (memoryWf_modLink (memoryWf_linkEvent h))
      · refine outWf_next (memoryWf_local_ ?_)
        split
        · exact memoryWf_linkIsDown (memoryWf_modLink (memoryWf_modLink (memoryWf_linkEvent h)))
        · exact memoryWf_modLink (memoryWf_modLink (memoryWf_linkEvent h))

theorem memoryWf_execRestripeAck {w f mask} (h : MemoryWf s) : OutWf (execRestripeAck w f mask s) := by
  have ht := memoryWf_takeLocal (w := w) (f := f) (type := 0x12) h
  unfold execRestripeAck
  exact outWf_ite (outWf_next ht) (outWf_ite (outWf_next (memoryWf_loseTx ht)) (outWf_next (memoryWf_replayFrom (memoryWf_linkEvent (memoryWf_modLink ht)))))

theorem memoryWf_execStripeRestored {w x} (h : MemoryWf s) : OutWf (execStripeRestored w x s) := by
  unfold execStripeRestored
  dsimp only
  split
  · exact outWf_next h
  · split
    · split
      exacts [outWf_next h, outWf_next (memoryWf_sendRestripe (memoryWf_linkEvent (memoryWf_modLink h)))]
    · split
      exacts [outWf_next h, outWf_next (memoryWf_linkEvent (memoryWf_modLink h))]

theorem memoryWf_execLinkTraining {w lit} (h : MemoryWf s) : OutWf (execLinkTraining w lit s) := by
  unfold execLinkTraining
  split
  exacts [outWf_next h, outWf_next (memoryWf_modLink h)]

theorem memoryWf_execLinkUp {w verified} (h : MemoryWf s) : OutWf (execLinkUp w verified s) := by
  unfold execLinkUp
  split
  · exact outWf_next h
  · split
    · exact outWf_next (memoryWf_log h)
    · exact outWf_next (memoryWf_pump (memoryWf_modLink (memoryWf_foldl (fun _ _ h1 => memoryWf_sendGen h1) (memoryWf_linkEvent (memoryWf_modLink h)))))

theorem memoryWf_execRekey {w x} (h : MemoryWf s) : OutWf (execRekey w x s) := by
  unfold execRekey
  dsimp only
  split
  · exact outWf_next h
  · split
    · exact outWf_next (memoryWf_linkEvent h)
    · split
      · split
        exacts [outWf_next h, outWf_next (memoryWf_modLink h)]
      · split
        exacts [outWf_next h, outWf_next (memoryWf_sendKeyctl (memoryWf_modLink h))]

theorem memoryWf_execTimexSend (h : MemoryWf s) : OutWf (execTimexSend s) := by
  unfold execTimexSend
  dsimp only
  split
  exacts [outWf_next h, outWf_next (memoryWf_local_ h)]

end Sys2Proof.Proofs

/-!
PROOF. Canonical memory (O57): management, lost dies and power keep it. -/

namespace Sys2Proof.Proofs

open Sys2Proof.Machine Sys2Proof.Safety Sys2Proof.Laws

variable {s : State}

theorem memoryWf_powerOn {slot} (h : MemoryWf s) : MemoryWf (s.powerOn slot) :=
  memoryWf_activateAll (memoryWf_mk ⟨storeWf_reset.dram, storeWf_reset.dirty, h.host, storeWf_reset.frames⟩)

theorem memoryWf_endLeases (h : MemoryWf s) : MemoryWf (s.endLeases) := memoryWf_dropL1 (memoryWf_dropPeers h)
theorem memoryWf_enterTime {st} (h : MemoryWf s) : MemoryWf (s.enterTime st) := memoryWf_fabricEvent (memoryWf_ite (memoryWf_endLeases h) h)

theorem memoryWf_timeSettle (h : MemoryWf s) : MemoryWf (s.timeSettle) := by
  unfold State.timeSettle
  dsimp only
  split
  exacts [memoryWf_ite (memoryWf_enterTime h) (memoryWf_ite (memoryWf_enterTime h) h), memoryWf_ite (memoryWf_enterTime h) h, h, h]

theorem memoryWf_execPtpMessage {m} (h : MemoryWf s) : OutWf (execPtpMessage m s) := by
  unfold execPtpMessage
  split
  · exact outWf_next h
  · split <;> exact outWf_next (memoryWf_timeSettle h)

theorem memoryWf_execTimeStateChange {st u stepNs} (h : MemoryWf s) : OutWf (execTimeStateChange st u stepNs s) := by
  unfold execTimeStateChange
  split
  exacts [outWf_next h, outWf_next (memoryWf_enterTime (memoryWf_rest (memoryWf_ite (memoryWf_runDogs h) h)))]

theorem memoryWf_reclock (h : MemoryWf s) : MemoryWf (s.reclock) := h

theorem memoryWf_execPowerLimit (h : MemoryWf s) : OutWf (execPowerLimit s) := by
  unfold execPowerLimit
  split
  · exact outWf_next h
  · split
    · exact outWf_next h
    · split
      exacts [outWf_next (memoryWf_reclock h), outWf_next h]

theorem memoryWf_execPowerRestore (h : MemoryWf s) : OutWf (execPowerRestore s) := by
  unfold execPowerRestore
  split
  · exact outWf_next h
  · split
    · exact outWf_next h
    · split
      exacts [outWf_next (memoryWf_reclock h), outWf_next h]

theorem memoryWf_execThermalThrottle {t} (h : MemoryWf s) : OutWf (execThermalThrottle t s) := by
  unfold execThermalThrottle
  split
  exacts [outWf_next (memoryWf_reclock h), outWf_next h]

theorem memoryWf_execUndervoltage (h : MemoryWf s) : OutWf (execUndervoltage s) := by
  unfold execUndervoltage
  refine outWf_next ?_
  split <;> exact h

theorem memoryWf_execMainInputRestored (h : MemoryWf s) : OutWf (execMainInputRestored s) := by
  unfold execMainInputRestored
  refine outWf_next ?_
  split <;> exact h

theorem memoryWf_execTrip {cause} (h : MemoryWf s) : OutWf (execTrip cause s) := by
  unfold execTrip
  split
  exacts [outWf_next h, outWf_next (memoryWf_emit (memoryWf_log h))]

theorem memoryWf_poison {loc} (h : MemoryWf s) : MemoryWf (s.poison loc) := by
  unfold State.poison
  split
  exacts [memoryWf_modGroup h, memoryWf_mk (storeWf_spoil h _), memoryWf_mk (storeWf_spoil h _)]

theorem memoryWf_execScrub {loc found} (h : MemoryWf s) : OutWf (execScrub loc found s) := by
  unfold execScrub
  dsimp only
  split
  · exact outWf_next h
  · split
    · exact outWf_next (memoryWf_chargeAct h)
    · exact outWf_next (memoryWf_countError (memoryWf_chargeAct h))
    · refine outWf_next ?_
      split
      exacts [memoryWf_poison (memoryWf_chargeAct h), memoryWf_countError (memoryWf_poison (memoryWf_chargeAct h))]

theorem memoryWf_riskRise {old new_ e} (h : MemoryWf s) : MemoryWf (s.riskRise old new_ e) :=
  memoryWf_ite h (memoryWf_ite (memoryWf_modSnap h) (memoryWf_ite h (memoryWf_trigger h)))

theorem memoryWf_settleRise {e} (h : MemoryWf s) : MemoryWf (s.settleRise e) :=
  memoryWf_ite h (memoryWf_ite (memoryWf_trigger (memoryWf_modSnap h)) (memoryWf_modSnap h))

theorem memoryWf_settleRises (h : MemoryWf s) : MemoryWf (s.settleRises) := memoryWf_ite (memoryWf_foldl (fun _ _ h1 => memoryWf_settleRise h1) h) h

theorem memoryWf_execRiskCompute {m} (h : MemoryWf s) : OutWf (execRiskCompute m s) := by
  unfold execRiskCompute
  exact outWf_ite (outWf_next h) (outWf_ite (outWf_next h) (outWf_next (memoryWf_foldl (fun _ _ h1 => memoryWf_riskRise h1) (memoryWf_event h))))

theorem memoryWf_loseDie {b} (h : MemoryWf s) : MemoryWf (s.loseDie b) := by
  unfold State.loseDie
  split
  · exact h
  · dsimp only
    split
    · exact memoryWf_foldl (fun _ _ h1 => memoryWf_endLostDie h1) (memoryWf_log h)
    · exact memoryWf_foldl (fun _ _ h1 => memoryWf_ite (memoryWf_snapFail h1) h1) (memoryWf_foldl (fun _ _ h1 => memoryWf_endLostDie h1) (memoryWf_log h))

theorem memoryWf_execDieLost (h : MemoryWf s) : OutWf (execDieLost s) := by
  unfold execDieLost
  dsimp only
  split
  · exact outWf_next (memoryWf_ite (memoryWf_loseDie h) h)
  · split
    · exact outWf_next h
    · split
      · exact outWf_next (memoryWf_loseDie (memoryWf_ite (memoryWf_countError h) h))
      · exact outWf_next (memoryWf_ite h (memoryWf_countError h))
  · exact outWf_next (memoryWf_ite (memoryWf_loseDie h) h)

theorem memoryWf_settleDies (h : MemoryWf s) : MemoryWf (s.settleDies) :=
  memoryWf_ite h (memoryWf_foldl (fun _ _ h1 => memoryWf_ite (memoryWf_loseDie h1) h1) h)

theorem memoryWf_rungEvent {rung q idx} (h : MemoryWf s) : MemoryWf (s.rungEvent rung q idx) := memoryWf_event h

theorem memoryWf_endStaging {cn} (h : MemoryWf s) : MemoryWf (s.endStaging cn) := by
  unfold State.endStaging
  split
  exacts [h, memoryWf_rungEvent (memoryWf_dropCtx (memoryWf_stopCtx (memoryWf_signal h)))]

theorem memoryWf_recoverQueue {q} (h : MemoryWf s) : MemoryWf (s.recoverQueue q) :=
  memoryWf_ite (memoryWf_rungEvent (memoryWf_modQueue (memoryWf_drain h))) (memoryWf_drain h)

theorem memoryWf_execCpMismatch (h : MemoryWf s) : OutWf (execCpMismatch s) := by
  unfold execCpMismatch
  dsimp only
  split
  · exact outWf_next h
  · split
    · exact outWf_next (memoryWf_foldl (fun _ _ h1 => memoryWf_recoverQueue h1) h)
    · exact outWf_next (memoryWf_foldl (fun _ _ h1 => memoryWf_recoverQueue h1) (memoryWf_foldl (fun _ _ h1 => memoryWf_stopQueue h1) (memoryWf_foldl (fun _ _ h1 => memoryWf_endStaging h1) (memoryWf_countError h))))

theorem memoryWf_execFirmwareUpdate {u} (h : MemoryWf s) : OutWf (execFirmwareUpdate u s) := by
  unfold execFirmwareUpdate
  dsimp only
  split <;> exact outWf_next (memoryWf_log h)

theorem memoryWf_execControllerRestart (h : MemoryWf s) : OutWf (execControllerRestart s) := by
  unfold execControllerRestart
  split
  exacts [outWf_next h, outWf_next (memoryWf_rest (memoryWf_activate h))]

theorem memoryWf_execSpdmRequest {r} (h : MemoryWf s) : OutWf (execSpdmRequest r s) := by
  unfold execSpdmRequest
  dsimp only
  split
  case h_1 =>
    split
    · exact outWf_next (memoryWf_emit h)
    · split
      · exact outWf_next (memoryWf_emit h)
      · split <;> exact outWf_next (memoryWf_emit h)
  case h_4 | h_6 => split <;> exact outWf_next (memoryWf_emit h)
  all_goals exact outWf_next (memoryWf_emit h)

theorem memoryWf_execPldmRequest {r} (h : MemoryWf s) : OutWf (execPldmRequest r s) := by
  unfold execPldmRequest
  dsimp only
  split
  · exact outWf_next (memoryWf_emit h)
  · split
    · split <;> exact outWf_next (memoryWf_emit h)
    · exact outWf_next (memoryWf_emit h)
  · split <;> exact outWf_next (memoryWf_emit h)
  · split
    exacts [outWf_next (memoryWf_emit (memoryWf_emit h)), outWf_next (memoryWf_emit h)]
  · split <;> exact outWf_next (memoryWf_emit h)

theorem memoryWf_settleSnaps (h : MemoryWf s) : MemoryWf (s.settleSnaps) := memoryWf_ite (memoryWf_foldl (fun _ _ h1 => memoryWf_snapSealed h1) h) h
theorem memoryWf_settleTags (h : MemoryWf s) : MemoryWf (s.settleTags) := h

theorem memoryWf_tidy (h : MemoryWf s) : MemoryWf (s.tidy) := by
  unfold State.tidy
  extract_lets s1 s2 s3
  have h1 : MemoryWf s1 := memoryWf_journalsSend (memoryWf_stagesRetry (memoryWf_putsRetry (memoryWf_sigsRetry (memoryWf_settleLate
    (memoryWf_retryInbound (memoryWf_sendHeld (memoryWf_settleRights h)))))))
  have h2 : MemoryWf s2 := memoryWf_settlePools (memoryWf_settleRsps (memoryWf_ropeSends (memoryWf_settleClaims (memoryWf_settleHalts h1))))
  have h3 : MemoryWf s3 := memoryWf_settleTags (memoryWf_sendRecalls (memoryWf_windowRetry h2))
  exact memoryWf_settleRises (memoryWf_settleDies (memoryWf_timeSettle (memoryWf_settleSnaps h3)))

end Sys2Proof.Proofs

/-!
PROOF. Canonical memory (O57): every instruction and every step keep it. -/

namespace Sys2Proof.Proofs

open Sys2Proof.Machine Sys2Proof.Safety Sys2Proof.Laws

variable {s : State}

theorem memoryWf_exec {i} (h : MemoryWf s) : OutWf (exec i s) := by
  cases i with
  | powerOn => exact outWf_next (memoryWf_powerOn h)
  | ptpMessage => exact memoryWf_execPtpMessage h
  | timeStateChange => exact memoryWf_execTimeStateChange h
  | timex => exact outWf_next (memoryWf_ite (memoryWf_modLink (memoryWf_takeLocal h)) (memoryWf_takeLocal h))
  | linkTraining => exact memoryWf_execLinkTraining h
  | linkUp => exact memoryWf_execLinkUp h
  | req => exact memoryWf_execReq h
  | rsp => exact memoryWf_execRsp h
  | data => exact memoryWf_execData h
  | idle => exact outWf_next (memoryWf_takeLocal h)
  | nak => exact outWf_next (memoryWf_ite (memoryWf_replayFrom (memoryWf_acked (memoryWf_takeLocal h))) (memoryWf_takeLocal h))
  | restripe => exact outWf_ite (outWf_next (memoryWf_takeLocal h)) (outWf_next (memoryWf_local_ (memoryWf_modLink (memoryWf_takeLocal h))))
  | restripeAck => exact memoryWf_execRestripeAck h
  | keyctl => exact memoryWf_execKeyctl h
  | genbump =>
    exact outWf_ite (outWf_next (memoryWf_takeFlit h)) (outWf_next (memoryWf_poolDone (memoryWf_foldl (fun _ _ h1 => memoryWf_poolDone h1) (memoryWf_modLink (memoryWf_takeFlit h)))))
  | loss => exact outWf_next (memoryWf_ite (memoryWf_loseTx (memoryWf_takeLocal h)) (memoryWf_takeLocal h))
  | stripeLost => exact memoryWf_execStripeLost h
  | stripeRestored => exact memoryWf_execStripeRestored h
  | rekey => exact memoryWf_execRekey h
  | queueBind => exact memoryWf_execQueueBind h
  | doorbell => exact outWf_next (memoryWf_ite (memoryWf_ringFrom h) (memoryWf_emit h))
  | resetQueue | resetContext | resetEngine | resetPartition | resetDevice => exact outWf_next (memoryWf_pageReset h)
  | partitionTableWrite => exact outWf_next (memoryWf_ite (memoryWf_partWrite h) (memoryWf_emit h))
  | registerWrite => exact memoryWf_execRegisterWrite h
  | serialise => exact memoryWf_execSerialise h
  | riskCompute => exact memoryWf_execRiskCompute h
  | journalEnable => exact memoryWf_execJournalEnable h
  | tlbInvalidate => exact outWf_next (memoryWf_ite (memoryWf_memErr h) (memoryWf_invWrite h))
  | retag | elide => exact outWf_next (memoryWf_frameOpOf h)
  | sidewaysWrite => exact outWf_next (memoryWf_sidewaysWrite h)
  | flush => exact memoryWf_execFlush h
  | pageDone => exact memoryWf_execPageDone h
  | staging => exact memoryWf_execStaging h
  | followingFetch => exact memoryWf_execFollowingFetch h
  | scrub => exact memoryWf_execScrub h
  | recallLine => exact memoryWf_execRecallLine h
  | recallAck => exact memoryWf_execRecallAck h
  | recallTimeout => exact memoryWf_execRecallTimeout h
  | remoteRequest => exact memoryWf_execRemoteRequest h
  | remoteResponse => exact memoryWf_execRemoteResponse h
  | berthDelivery => exact memoryWf_execBerthDelivery h
  | forwardedResolution => exact memoryWf_execForwardedResolution h
  | stageStep => exact memoryWf_execStageStep h
  | arm => exact memoryWf_execArm h
  | abandon => exact memoryWf_execAbandon h
  | stopped => exact memoryWf_execStopped h
  | mode => exact memoryWf_execMode h
  | ready => exact memoryWf_execReady h
  | batchCommit => exact memoryWf_execBatchCommit h
  | chunkLand => exact memoryWf_execChunkLand h
  | trip => exact memoryWf_execTrip h
  | firmwareUpdate => exact memoryWf_execFirmwareUpdate h
  | spdmRequest => exact memoryWf_execSpdmRequest h
  | hostWindowAccess => exact memoryWf_execHostWindowAccess h
  | jmpr | ret => exact memoryWf_scalarRun h (fun _ _ _ => memoryWf_goToAligned h)
  | time => exact memoryWf_execTime h
  | sleept => exact memoryWf_scalarRun h (fun _ _ _ => memoryWf_ite (memoryWf_finish0 h) (memoryWf_putSplit h))
  | pagereq => exact memoryWf_execPagereq h
  | add | sub | mul | mulhn | mulhi | divn | divi | remn | remi | and | or | xor | andn | shl | shr | sra | minn | mini | maxn | maxi | seq | sne
    | sltn | slti | clz | popc | addi | andi | ori | xori | shli | shri | srai | sltin | sltii | liwSx | liwZx | liwHi => exact memoryWf_scalarOp h
  | slw | sld | ssw | ssd => exact memoryWf_scalarRun h (fun _ _ _ => memoryWf_scalarMem h)
  | brc => exact memoryWf_execBrc h
  | jmp => exact memoryWf_scalarRun h (fun _ _ _ => memoryWf_goTo h)
  | call => exact memoryWf_scalarRun h (fun _ _ _ => memoryWf_goTo (memoryWf_modGroup h))
  | bspl => exact memoryWf_scalarRun h (fun _ _ _ => memoryWf_ite h (memoryWf_bspl h))
  | run => exact memoryWf_execRun h
  | waitf => exact memoryWf_execWaitf h
  | seg => exact memoryWf_execSeg h
  | trap | brk => exact memoryWf_scalarRun h (fun _ _ _ => memoryWf_takeTrap h)
  | tbarArrive => exact memoryWf_execTbarArrive h
  | tbarWait => exact memoryWf_execTbarWait h
  | tbarSync => exact memoryWf_execTbarSync h
  | tbarExpect => exact memoryWf_execTbarExpect h
  | tbarAddb => exact memoryWf_execTbarAddb h
  | tbarTest => exact memoryWf_execTbarTest h
  | cbarArrive => exact memoryWf_execCbarArrive h
  | cbarWait => exact memoryWf_execCbarWait h
  | cbarSync => exact memoryWf_execCbarSync h
  | fenceAcq => exact memoryWf_execFenceAcq h
  | fenceRel => exact memoryWf_execFenceRel h
  | fenceAr => exact memoryWf_execFenceAr h
  | fenceSc => exact memoryWf_execFenceSc h
  | smr => exact memoryWf_execSmr h
  | smw => exact memoryWf_execSmw h
  | talloc => exact memoryWf_execTalloc h
  | tfree => exact memoryWf_execTfree h
  | tinfo => exact memoryWf_execTinfo h
  | drayM2t => exact memoryWf_execDrayM2t h
  | drayT2m => exact memoryWf_execDrayT2m h
  | drayT2t => exact memoryWf_execDrayT2t h
  | drayRed => exact memoryWf_execDrayRed h
  | dprobe => exact memoryWf_execDprobe h
  | bmint => exact memoryWf_execBmint h
  | bwait => exact memoryWf_execBwait h
  | bput => exact memoryWf_execBput h
  | bdrop => exact memoryWf_execBdrop h
  | stage => exact memoryWf_execStage h
  | iadd | isub | iadc | isbc | imul | imulh | imad | idiv | irem | imin | imax | iabs | isad | blut | laneShl | laneShr | laneSra | fshl | fshr
    | bfx | bfi | lanePopc | laneClz | brev | prmt | iset | sel | mov | fadd | fsub | fmul | ffma | fmin | fmax | fdiv | fsqrt | frcp | frsq | fset
    | fclass | frnd | fscale | fgete | cvt | pack | unpk => exact memoryWf_laneOp h
  | fex2 | flg2 | fsinp | fcosp => exact memoryWf_transOp h
  | cvtsEnc | cvtsDec => exact memoryWf_cvtsOp h
  | lxch | lscan | lpeer | mcopyM2v | ccget => exact memoryWf_withEnv h (fun _ => memoryWf_laneWrite h)
  | lpoll | lred => exact memoryWf_withEnv h (fun _ => memoryWf_ite (memoryWf_laneScalar h) (memoryWf_laneWrite h))
  | mop | mcopyV2m | mcopyS2m => exact memoryWf_withEnv h (fun _ => memoryWf_laneMask h)
  | mcopyM2s => exact memoryWf_withEnv h (fun _ => memoryWf_laneScalar h)
  | ccput => exact memoryWf_withEnv h (fun _ => memoryWf_laneEffect h (fun _ h1 => h1) (fun _ h1 => memoryWf_modGroup h1))
  | ld | st | atom | atomn | cas => exact memoryWf_withEnv h (fun _ => memoryWf_laneMem h)
  | pref => exact memoryWf_execPref h
  | tld | tst | tatom => exact memoryWf_withEnv h (fun _ => memoryWf_laneTile h)
  | mma | mmac | aclr | ald | acvt => exact memoryWf_withEnv h (fun _ => memoryWf_matIssue h)
  | fmma => exact memoryWf_withEnv h (fun _ => memoryWf_ite (memoryWf_endEmul h) (memoryWf_matIssue h))
  | mclose => exact memoryWf_execMclose h
  | illegalInstr => exact memoryWf_withIssuer (fun _ _ _ => memoryWf_illegal h)
  | memoryIssueWindow => exact memoryWf_execMemoryIssueWindow h
  | forwardingRegistration => exact memoryWf_execForwardingRegistration h
  | resolutionAck => exact memoryWf_execResolutionAck h
  | translationEntryWrite => exact memoryWf_xlatWrite h
  | pldmRequest => exact memoryWf_execPldmRequest h
  | thermalThrottle => exact memoryWf_execThermalThrottle h
  | timexSend => exact memoryWf_execTimexSend h
  | idleSend | lossRepeat => exact outWf_next (memoryWf_ite (memoryWf_local_ h) h)
  | nakRepeat => exact outWf_next (memoryWf_ite (memoryWf_sendNak h) h)
  | elsFault => exact memoryWf_execElsFault h
  | restripeRepeat => exact outWf_next (memoryWf_ite (memoryWf_sendRestripe h) h)
  | requestSlotReclaim => exact memoryWf_execRequestSlotReclaim h
  | queueEnable => exact memoryWf_execQueueEnable h
  | queueDisable => exact memoryWf_execQueueDisable h
  | queuePause => exact memoryWf_execQueuePause h
  | queueUnpause => exact memoryWf_execQueueUnpause h
  | ringFetch => exact memoryWf_execRingFetch h
  | launch => exact memoryWf_execLaunch h
  | launchImage => exact memoryWf_execLaunchImage h
  | copy => exact memoryWf_execCopy h
  | wait => exact memoryWf_execWait h
  | signal => exact memoryWf_execSignal h
  | rope => exact memoryWf_execRope h
  | stagePacket => exact memoryWf_execStagePacket h
  | mark => exact memoryWf_execMark h
  | waitPoll => exact memoryWf_execWaitPoll h
  | waitTimeout => exact memoryWf_execWaitTimeout h
  | copyComplete => exact memoryWf_execCopyComplete h
  | gridComplete => exact memoryWf_execGridComplete h
  | resetComplete => exact memoryWf_execResetComplete h
  | rungEscalation => exact memoryWf_execRungEscalation h
  | functionLevelReset => exact memoryWf_execFunctionLevelReset h
  | vfTeardown => exact memoryWf_execVfTeardown h
  | budgetPeriod => exact memoryWf_execBudgetPeriod h
  | copyDrainExpiry => exact outWf_next (memoryWf_modCtx h)
  | serialiseSeal => exact memoryWf_execSerialiseSeal h
  | snapshotDrained => exact memoryWf_execSnapshotDrained h
  | invalidateComplete => exact outWf_next (memoryWf_ite (memoryWf_modCtl h) h)
  | followingPull => exact memoryWf_execFollowingPull h
  | remoteTimeout => exact memoryWf_execRemoteTimeout h
  | storeAck => exact outWf_next (memoryWf_storeAck h)
  | loadReturn => exact outWf_next (memoryWf_loadReturn h)
  | berthExpiry => exact memoryWf_execBerthExpiry h
  | resolutionResend => exact memoryWf_execResolutionResend h
  | berthRelease => exact memoryWf_execBerthRelease h
  | stageTimeout => exact memoryWf_execStageTimeout h
  | ropeArmDeadline => exact memoryWf_execRopeArmDeadline h
  | ropeSwitch => exact memoryWf_execRopeSwitch h
  | ropeWindowExpiry => exact memoryWf_execRopeWindowExpiry h
  | ropeModeSend => exact memoryWf_execRopeModeSend h
  | go => exact memoryWf_execGo h
  | sealNow => exact memoryWf_execSealNow h
  | teamResident => exact memoryWf_execTeamResident h
  | sliceExpiry => exact memoryWf_execSliceExpiry h
  | clauseStart => exact memoryWf_execClauseStart h
  | barrierTimeout => exact outWf_next (memoryWf_barrierTimeout h)
  | sleepWake => exact memoryWf_execSleepWake h
  | contextEnd => exact memoryWf_execContextEnd h
  | dieLost => exact memoryWf_execDieLost h
  | cpMismatch => exact memoryWf_execCpMismatch h
  | powerLimit => exact memoryWf_execPowerLimit h
  | powerRestore => exact memoryWf_execPowerRestore h
  | undervoltage => exact memoryWf_execUndervoltage h
  | controllerRestart => exact memoryWf_execControllerRestart h
  | nop | yield => exact memoryWf_scalarRun h (fun _ _ _ => memoryWf_finish0 h)
  | exit => exact memoryWf_execExit h
  | join => exact memoryWf_execJoin h
  | rett => exact memoryWf_execRett h
  | gwctPassed => exact memoryWf_execGwctPassed h
  | notimeAck => exact memoryWf_execNotimeAck h
  | inboundPageTimeout => exact memoryWf_execInboundPageTimeout h
  | partitionRungHold => exact memoryWf_execPartitionRungHold h
  | cpBerthRetry => exact memoryWf_execCpBerthRetry h
  | mainInputRestored => exact memoryWf_execMainInputRestored h

theorem memoryWf_closed {lane x} (h : OutWf x) : OutWf (closed s lane x) := by
  unfold closed
  split
  exacts [outWf_next (memoryWf_tidy (memoryWf_closeStep (h _ rfl))), outWf_fault, outWf_refused]

theorem memoryWf_occur {o} (h : MemoryWf s) : OutWf (occur s o) := by
  unfold occur
  split
  exacts [outWf_next (memoryWf_tidy ((memoryWf_due h).idle ‹_›)), memoryWf_closed (memoryWf_exec ((memoryWf_due h).run ‹_›))]

theorem memoryWf_firstOf {l} (h : MemoryWf s) : OutWf (firstOf s l) := by
  induction l with
  | nil => exact outWf_next (memoryWf_tidy (memoryWf_elapse h))
  | cons o r ih =>
    unfold firstOf
    split
    · exact outWf_ite ih (outWf_next (memoryWf_tidy (memoryWf_elapse (memoryWf_occur h _ ‹_›))))
    · exact outWf_fault
    · exact outWf_refused

theorem memoryWf_step (h : MemoryWf s) : OutWf (step s) := by
  unfold step
  dsimp only
  split
  exacts [memoryWf_occur (memoryWf_rest h), memoryWf_firstOf h]

/-- Settles O57, by the lemma of the step. -/
theorem everyStepKeepsMemoryCanonical : Obligations.EveryStepKeepsMemoryCanonical := fun _ t h e => memoryWf_step h t e

end Sys2Proof.Proofs

/-!
PROOF. Team and cluster barriers (R205 to R208, R356 to R359, R462): what an arrival, a wait, an EXPECT and an ADDB leave while a quota is
not met (O10, O12, O13), and what the arrival that meets the quotas completes (O11). -/

namespace Sys2Proof.Proofs

open Sys2Proof.Machine Sys2Proof.Safety Sys2Proof.Laws

/-! ### Events on a barrier -/

/-- A team changed by a function is a team replaced. -/
theorem modTeam_eq {s : State} {n : Nat} {tm : Team} (f : Team → Team) (h : s.exec.teams[n]? = some tm) : s.modTeam n f = setTeam s n (f tm) := by
  simp [State.modTeam, setTeam, modAt_eq_set f h]

theorem team_setTeam {s : State} {n : Nat} {tm : Team} (h : s.exec.teams[n]? = some tm) (tm' : Team) :
    (setTeam s n tm').exec.teams[n]? = some tm' := by
  have hn : n < s.exec.teams.length := (List.getElem?_eq_some_iff.mp h).1
  simp [setTeam, hn]

/-- A change of barrier n that leaves a quota not met changes the barrier alone. -/
theorem barEvent_of_not_full {s : State} {t n : Nat} {tm : Team} {b : Barrier} {f : Barrier → Barrier} (ht : s.exec.teams[t]? = some tm)
    (hb : tm.bars[n]? = some b) (hf : (f b).full = false) : s.barEvent t n f = setTeam s t (Bar tm n (f b)) := by
  have hn : n < tm.bars.length := (List.getElem?_eq_some_iff.mp hb).1
  rw [State.barEvent, modTeam_eq _ ht, modAt_eq_set f hb]
  simp [State.settleBar, State.team?, team_setTeam ht, Bar, hn, hf]

/-- The same for the cluster barrier. -/
theorem cbarArrive_of_not_full {s : State} {lead k lanes : Nat} {ld : Team} (ht : s.exec.teams[lead]? = some ld)
    (hf : (ld.cbar.arrive k lanes).full = false) : s.cbarArrive lead k lanes = setTeam s lead { ld with cbar := ld.cbar.arrive k lanes } := by
  rw [State.cbarArrive, modTeam_eq _ ht]
  simp [State.settleCbar, State.team?, team_setTeam ht, hf]

/-! ### Splits that block -/

/-- The stores of a group performed for its own team: its split issues still. -/
theorem issues_performedAtGrp {s r g sp} (h : Issues s r g sp) : Issues (s.performedAtGrp r.g) r g sp := ⟨h.cur, h.group, h.split⟩

/-- R154: a split that blocks elsewhere than at a JOIN releases none, in a group that is steady without it. -/
theorem settle_set_of_steady {s : State} {r : SplitRef} {g : Group} {sp q : Split} (h : Issues s r g sp) (hs : Steady g r.sp)
    (hq : q.status ≠ .join) : Group.settle { g with splits := g.splits.set r.sp q } s.now = { g with splits := g.splits.set r.sp q } := by
  have hput := putSplit_of_steady h hs hq
  have hg : r.g < s.exec.groups.length := (List.getElem?_eq_some_iff.mp h.group).1
  rw [State.putSplit, modGroup_eq _ h.group, became] at hput
  have hgroup := congrArg (fun t : State => t.exec.groups[r.g]?) hput
  simpa [setGroup, hg] using hgroup

/-- A split that blocks before an event on a barrier of its team, which leaves its group as it is. -/
theorem settleJoins_setTeam_became {s : State} {r : SplitRef} {g : Group} {sp q : Split} (h : Issues s r g sp) (hs : Steady g r.sp)
    (hq : q.status ≠ .join) (t : Nat) (tm : Team) : (setTeam (became s r g q) t tm).settleJoins r.g = setTeam (became s r g q) t tm := by
  have hb := (issues_became h q).group
  rw [State.settleJoins, modGroup_eq (s := setTeam (became s r g q) t tm) _ hb, show (setTeam (became s r g q) t tm).now = s.now from rfl,
    settle_set_of_steady h hs hq]
  simp [setGroup, setTeam, became]

theorem blockOn_eq {s : State} {r : SplitRef} {g : Group} {sp : Split} (h : Issues s r g sp) (q : Split) : s.blockOn r q = became s r g q :=
  modGroup_eq _ h.group

/-- R447, R462: the wait part of a SYNC or WAIT that is issued again blocks again in the phase that it waited for. -/
theorem rejoin_of_same {s : State} {r : SplitRef} {g : Group} {sp : Split} {b : Barrier} {st : Status} {n : Nat} {sync : Bool} {d : SReg}
    (h : Issues s r g sp) (hs : Steady g r.sp) (hst : st ≠ .join) (hp : b.parity = sp.wpar) :
    s.rejoin r sp b st n sync d = became s r g (sp.onBar st n b.parity sync d) := by
  rw [State.rejoin, if_pos hp, hp]
  exact putSplit_of_steady h hs hst

/-- R447, R462: when that phase has completed it goes on, with the status of the phase. -/
theorem rejoin_of_past {s : State} {r : SplitRef} {g : Group} {sp : Split} {b : Barrier} {st : Status} {n : Nat} {sync : Bool} {d : SReg}
    (h : Issues s r g sp) (hp : b.parity ≠ sp.wpar) :
    s.rejoin r sp b st n sync d = wrote s r g sp (sp.pc + 4) d (if b.lastErr then 1 else 0) := by
  rw [State.rejoin, if_neg hp, finish_eq _ _ _ _ h]

/-! ### Team barriers -/

section Tbar

variable {s : State} {r : SplitRef} {g : Group} {sp : Split} {tm : Team} {n : BitVec 4} {b : Barrier} {rs : List SReg}
variable (h : Runs s r g sp rs) (ht : s.exec.teams[g.team]? = some tm) (hb : tm.bars[n.toNat]? = some b)
include h ht hb

theorem tbarRun_of_runs (f : SplitRef → Group → Split → Barrier → State) : tbarRun s rs n f = .next (f r g sp b) := by
  rw [tbarRun, scalarRun_of_runs h]
  simp only [State.team?, ht, getD_of_getElem? hb]

end Tbar

section TbarArrivals

variable {s : State} {r : SplitRef} {g : Group} {sp : Split} {tm : Team} {n : BitVec 4} {b : Barrier} {d : SReg}
variable (h : Runs s r g sp [d]) (ht : s.exec.teams[g.team]? = some tm) (hb : tm.bars[n.toNat]? = some b)
include h ht hb

theorem exec_tbarArrive (hm : s.mayArrive r 1 = true) (hf : (b.arrive r.g sp.lanes).full = false) : exec (.tbarArrive d n) s =
    .next (setTeam (wrote (s.performedAtGrp r.g) r g sp (sp.pc + 4) d 0) g.team (Bar tm n.toNat (b.arrive r.g sp.lanes))) := by
  change execTbarArrive d n s = _
  rw [execTbarArrive, tbarRun_of_runs h ht hb, hm, finish_eq _ _ _ _ (issues_performedAtGrp h.toIssues)]
  exact congrArg Host.Outcome.next (barEvent_of_not_full (f := (·.arrive r.g sp.lanes)) ht hb hf)

theorem exec_tbarSync (ha : sp.arrived = false) (hs : Steady g r.sp) (hm : s.mayArrive r 1 = true) (hf : (b.arrive r.g sp.lanes).full = false) :
    exec (.tbarSync d n) s = .next (setTeam (became (s.performedAtGrp r.g) r g (sp.onBar .tbar n.toNat b.parity true d)) g.team
      (Bar tm n.toNat (b.arrive r.g sp.lanes))) := by
  have hu := issues_performedAtGrp h.toIssues
  change execTbarSync d n s = _
  rw [execTbarSync, tbarRun_of_runs h ht hb, ha, hm, blockOn_eq hu]
  refine congrArg Host.Outcome.next ?_
  rw [← settleJoins_setTeam_became hu hs (q := sp.onBar .tbar n.toNat b.parity true d) (by simp [Split.onBar])]
  exact congrArg (State.settleJoins · r.g) (barEvent_of_not_full (f := (·.arrive r.g sp.lanes)) ht hb hf)

theorem exec_tbar_held (hm : s.mayArrive r 1 = false) : exec (.tbarArrive d n) s = .next s ∧ (sp.arrived = false → exec (.tbarSync d n) s = .next s) := by
  refine ⟨?_, fun ha => ?_⟩
  · change execTbarArrive d n s = _
    rw [execTbarArrive, tbarRun_of_runs h ht hb, hm]
    rfl
  · change execTbarSync d n s = _
    rw [execTbarSync, tbarRun_of_runs h ht hb, ha, hm]
    rfl

theorem exec_tbarWait (ha : sp.arrived = false) (hs : Steady g r.sp) :
    exec (.tbarWait d n) s = .next (became s r g (sp.onBar .tbar n.toNat b.parity false d)) := by
  change execTbarWait d n s = _
  rw [execTbarWait, tbarRun_of_runs h ht hb, ha, ← putSplit_of_steady h.toIssues hs (by simp [Split.onBar])]
  rfl

theorem exec_tbar_again (ha : sp.arrived = true) : exec (.tbarWait d n) s = .next (s.rejoin r sp b .tbar n.toNat false d) ∧
    exec (.tbarSync d n) s = .next (s.rejoin r sp b .tbar n.toNat true d) := by
  refine ⟨?_, ?_⟩
  · change execTbarWait d n s = _
    rw [execTbarWait, tbarRun_of_runs h ht hb, ha]
    rfl
  · change execTbarSync d n s = _
    rw [execTbarSync, tbarRun_of_runs h ht hb, ha]
    rfl

theorem exec_tbarTest : exec (.tbarTest d n) s = .next (wrote s r g sp (sp.pc + 4) d (b.word (s.waiting tm n.toNat))) := by
  change execTbarTest d n s = _
  rw [execTbarTest, tbarRun_of_runs h ht hb, finish_eq _ _ _ _ h.toIssues]
  simp only [State.team?, ht]

end TbarArrivals

/-- Settles O10, form by form: an arrival that is held, one that counts, and the waits. -/
theorem teamBarrierCountsArrivals : Obligations.TeamBarrierCountsArrivals := by
  intro s r g sp tm d n b h ht hb
  refine ⟨exec_tbar_held h ht hb, fun hm hf => ⟨exec_tbarArrive h ht hb hm hf, fun ha hs => exec_tbarSync h ht hb ha hs hm hf⟩,
    fun ha hs => exec_tbarWait h ht hb ha hs, fun ha hp => ?_, fun ha hp hs => ?_, exec_tbarTest h ht hb⟩
  · obtain ⟨hw, hy⟩ := exec_tbar_again h ht hb ha
    rw [rejoin_of_past h.toIssues hp] at hw hy
    exact ⟨hw, hy⟩
  · obtain ⟨hw, hy⟩ := exec_tbar_again h ht hb ha
    rw [rejoin_of_same h.toIssues hs (by simp) hp] at hw hy
    exact ⟨hw, hy⟩

/-- EXPECT: a quota that would not fit is an error, and else both quotas grow. -/
theorem exec_tbarExpect {s : State} {r : SplitRef} {g : Group} {sp : Split} {tm : Team} {d x y : SReg} {n : BitVec 4} {b : Barrier}
    (h : Runs s r g sp [d, x, y]) (ht : s.exec.teams[g.team]? = some tm) (hb : tm.bars[n.toNat]? = some b) : exec (.tbarExpect d x y n) s =
      .next (if 2 ^ 32 ≤ (g.sreg x).toNat ∨ 2 ^ 32 ≤ b.lquota + (g.sreg x).toNat ∨ 2 ^ 64 ≤ b.bquota + (g.sreg y).toNat then
          wrote s r g sp (sp.pc + 4) d 2
        else (wrote s r g sp (sp.pc + 4) d 0).barEvent g.team n.toNat (fun bar =>
          { bar with lquota := bar.lquota + (g.sreg x).toNat, bquota := bar.bquota + (g.sreg y).toNat })) := by
  change execTbarExpect d x y n s = _
  rw [execTbarExpect, tbarRun_of_runs h ht hb, finish_eq _ _ _ _ h.toIssues, finish_eq _ _ _ _ h.toIssues]

/-- Settles O12: EXPECT and ADDB are events on the barrier that leave its quotas not met. -/
theorem expectAndAddbChangeThePhase : Obligations.ExpectAndAddbChangeThePhase := by
  intro s r g sp tm d x y n b ht hb
  refine ⟨fun h => ⟨fun hov => ?_, fun hl hq hf => ?_⟩, fun h hf => ?_⟩
  · rw [exec_tbarExpect h ht hb, if_pos (Or.inr hov)]
  · rw [exec_tbarExpect h ht hb, if_neg (by omega)]
    exact congrArg Host.Outcome.next (barEvent_of_not_full ht hb hf)
  · change execTbarAddb d y n s = _
    rw [execTbarAddb, tbarRun_of_runs h ht hb, finish_eq _ _ _ _ h.toIssues]
    exact congrArg Host.Outcome.next (barEvent_of_not_full ht hb hf)

/-! ### Cluster barriers -/

section Cbar

variable {s : State} {r : SplitRef} {g : Group} {sp : Split} {tm ld : Team} {d : SReg}
variable (h : Runs s r g sp [d]) (ht : s.exec.teams[g.team]? = some tm) (hl : s.exec.teams[tm.lead]? = some ld)
include h ht hl

theorem cbarRun_of_runs (f : SplitRef → Split → Nat → Barrier → State) : cbarRun s d f = .next (f r sp tm.lead ld.cbar) := by
  rw [cbarRun, scalarRun_of_runs h]
  simp only [State.team?, ht, hl]

theorem exec_cbar_held (hm : s.mayArrive r 2 = false) : exec (.cbarArrive d) s = .next s ∧ (sp.arrived = false → exec (.cbarSync d) s = .next s) := by
  refine ⟨?_, fun ha => ?_⟩
  · change execCbarArrive d s = _
    rw [execCbarArrive, cbarRun_of_runs h ht hl, hm]
    rfl
  · change execCbarSync d s = _
    rw [execCbarSync, cbarRun_of_runs h ht hl, ha, hm]
    rfl

theorem exec_cbarArrive (hm : s.mayArrive r 2 = true) (hf : (ld.cbar.arrive r.g sp.lanes).full = false) : exec (.cbarArrive d) s =
    .next (setTeam (wrote (s.performedAtGrp r.g) r g sp (sp.pc + 4) d 0) tm.lead { ld with cbar := ld.cbar.arrive r.g sp.lanes }) := by
  change execCbarArrive d s = _
  rw [execCbarArrive, cbarRun_of_runs h ht hl, hm, finish_eq _ _ _ _ (issues_performedAtGrp h.toIssues)]
  exact congrArg Host.Outcome.next (cbarArrive_of_not_full hl hf)

theorem exec_cbarSync (ha : sp.arrived = false) (hs : Steady g r.sp) (hm : s.mayArrive r 2 = true)
    (hf : (ld.cbar.arrive r.g sp.lanes).full = false) :
    exec (.cbarSync d) s = .next (setTeam (became (s.performedAtGrp r.g) r g (sp.onBar .cbar 0 ld.cbar.parity true d)) tm.lead
      { ld with cbar := ld.cbar.arrive r.g sp.lanes }) := by
  have hu := issues_performedAtGrp h.toIssues
  change execCbarSync d s = _
  rw [execCbarSync, cbarRun_of_runs h ht hl, ha, hm, blockOn_eq hu]
  refine congrArg Host.Outcome.next ?_
  rw [← settleJoins_setTeam_became hu hs (q := sp.onBar .cbar 0 ld.cbar.parity true d) (by simp [Split.onBar])]
  exact congrArg (State.settleJoins · r.g) (cbarArrive_of_not_full hl hf)

theorem exec_cbarWait (ha : sp.arrived = false) (hs : Steady g r.sp) :
    exec (.cbarWait d) s = .next (became s r g (sp.onBar .cbar 0 ld.cbar.parity false d)) := by
  change execCbarWait d s = _
  rw [execCbarWait, cbarRun_of_runs h ht hl, ha, ← putSplit_of_steady h.toIssues hs (by simp [Split.onBar])]
  rfl

theorem exec_cbar_again (ha : sp.arrived = true) : exec (.cbarWait d) s = .next (s.rejoin r sp ld.cbar .cbar 0 false d) ∧
    exec (.cbarSync d) s = .next (s.rejoin r sp ld.cbar .cbar 0 true d) := by
  refine ⟨?_, ?_⟩
  · change execCbarWait d s = _
    rw [execCbarWait, cbarRun_of_runs h ht hl, ha]
    rfl
  · change execCbarSync d s = _
    rw [execCbarSync, cbarRun_of_runs h ht hl, ha]
    rfl

end Cbar

/-- Settles O13, as O10. -/
theorem clusterBarrierCountsArrivals : Obligations.ClusterBarrierCountsArrivals := by
  intro s r g sp tm ld d h ht hl
  refine ⟨exec_cbar_held h ht hl, fun hm hf => ⟨exec_cbarArrive h ht hl hm hf, fun ha hs => exec_cbarSync h ht hl ha hs hm hf⟩,
    fun ha hs => exec_cbarWait h ht hl ha hs, fun ha hp => ?_, fun ha hp hs => ?_⟩
  · obtain ⟨hw, hy⟩ := exec_cbar_again h ht hl ha
    rw [rejoin_of_past h.toIssues hp] at hw hy
    exact ⟨hw, hy⟩
  · obtain ⟨hw, hy⟩ := exec_cbar_again h ht hl ha
    rw [rejoin_of_same h.toIssues hs (by simp) hp] at hw hy
    exact ⟨hw, hy⟩

end Sys2Proof.Proofs

/-!
PROOF. The arrival that completes a phase of a team barrier (R206, R358): the barrier's next phase, and the splits that it releases (O11). -/

namespace Sys2Proof.Proofs

open Sys2Proof.Machine Sys2Proof.Safety Sys2Proof.Laws

/-! ### Splits that a phase releases -/

/-- R154: a release of JOINs changes the splits that wait at a JOIN alone. -/
theorem split_settle {g : Group} {k : Nat} {q : Split} (now : Nat) (hq : g.splits[k]? = some q) (hj : q.status ≠ .join) :
    (g.settle now).splits[k]? = some q := by
  unfold Group.settle
  split
  · exact hq
  · split
    · exact hq
    · simp [getElem?_withIndex hq, hj]

theorem settle_sregs (g : Group) (now : Nat) : (g.settle now).sregs = g.sregs := by
  unfold Group.settle
  split
  · rfl
  · split <;> rfl

theorem sreg_settle (g : Group) (now : Nat) (k : SReg) : (g.settle now).sreg k = g.sreg k := by
  rw [Group.sreg, Group.sreg, settle_sregs]

/-- One split of a release: it goes on if it waits on the barrier in the phase. -/
def releaseStep (st : Status) (bar : Nat) (par err : Bool) (now : Nat) (g : Group) (i : Nat) : Group :=
  let sp := g.split i
  if sp.status = st ∧ sp.wbar = bar ∧ sp.wpar = par then g.wake i (if err then 1 else 0) now else g

theorem release_eq_foldl (g : Group) (st : Status) (bar : Nat) (par err : Bool) (now : Nat) :
    g.release st bar par err now = (List.range 4).foldl (releaseStep st bar par err now) g := rfl

/-- What a release keeps of a group: splits elsewhere than those it looks at and than JOINs, how many scalar registers there are, and in
them the status that it writes. -/
structure KeptByRelease (l : List Nat) (v : W64) (g g' : Group) : Prop where
  split : ∀ k q, k ∉ l → g.splits[k]? = some q → q.status ≠ .join → g'.splits[k]? = some q
  sregs : g'.sregs.length = g.sregs.length
  sreg  : g.sregs.length = 64 → ∀ d : SReg, g.sreg d = v → g'.sreg d = v

theorem keptByRelease_refl (l : List Nat) (v : W64) (g : Group) : KeptByRelease l v g g := ⟨fun _ _ _ hq _ => hq, rfl, fun _ _ h => h⟩

theorem keptByRelease_wake (g : Group) (i : Nat) (v : W64) (now : Nat) : KeptByRelease [i] v g (g.wake i v now) := by
  refine ⟨fun k q hk hq hj => split_settle now ?_ hj, ?_, fun hlen d hd => ?_⟩
  · have hne : i ≠ k := fun e => hk (by simp [e])
    exact (List.getElem?_set_ne hne).trans hq
  · simp only [Group.wake, settle_sregs, setSreg_eq, sregsWith]
    split <;> simp
  · by_cases h63 : d = 63
    · subst h63
      exact hd
    · rw [Group.wake, sreg_settle]
      refine (sreg_setSreg hlen (g.split i).wreg v d).trans ?_
      split
      · rfl
      · exact hd

theorem keptByRelease_step (st : Status) (bar : Nat) (par err : Bool) (now : Nat) (g : Group) (i : Nat) :
    KeptByRelease [i] (if err then 1 else 0) g (releaseStep st bar par err now g i) :=
  ite_keeps (P := KeptByRelease [i] (if err then 1 else 0) g) (keptByRelease_wake g i _ now) (keptByRelease_refl _ _ g)

theorem keptByRelease_foldl (st : Status) (bar : Nat) (par err : Bool) (now : Nat) (l : List Nat) (g : Group) :
    KeptByRelease l (if err then 1 else 0) g (l.foldl (releaseStep st bar par err now) g) := by
  induction l generalizing g with
  | nil => exact keptByRelease_refl _ _ g
  | cons i l ih =>
    obtain ⟨hsplit, hlen, hsreg⟩ := keptByRelease_step st bar par err now g i
    obtain ⟨hsplit', hlen', hsreg'⟩ := ih (releaseStep st bar par err now g i)
    refine ⟨fun k q hk hq hj => ?_, hlen'.trans hlen, fun h d hd => hsreg' (hlen.trans h) d (hsreg h d hd)⟩
    rw [List.mem_cons, not_or] at hk
    exact hsplit' k q hk.2 (hsplit k q (by simpa using hk.1) hq hj) hj

/-- R206: every split that waits on the barrier in the phase goes on after its instruction, with the status in its SD. -/
theorem released_release {g : Group} (hlen : g.sregs.length = 64) {st : Status} (hst : st ≠ .join) (bar : Nat) (par err : Bool) (now : Nat) :
    Released g (g.release st bar par err now) st bar par (if err then 1 else 0) := by
  intro i sp hi hsp hwait hbar hpar
  obtain ⟨l, m, hl⟩ := List.append_of_mem (List.mem_range.mpr hi)
  have hnd : (l ++ i :: m).Nodup := hl ▸ List.nodup_range
  have hil : i ∉ l := fun hm => (List.nodup_append.mp hnd).2.2 i hm i (by simp) rfl
  have him : i ∉ m := (List.nodup_cons.mp (List.nodup_append.mp hnd).2.1).1
  rw [release_eq_foldl, hl, List.foldl_append, List.foldl_cons]
  obtain ⟨hsplit, hlen1, -⟩ := keptByRelease_foldl st bar par err now l g
  generalize l.foldl (releaseStep st bar par err now) g = g1 at hsplit hlen1 ⊢
  have hsp1 : g1.splits[i]? = some sp := hsplit i sp hil hsp (hwait ▸ hst)
  have hlt : i < g1.splits.length := (List.getElem?_eq_some_iff.mp hsp1).1
  have hg1 : g1.split i = sp := getD_of_getElem? hsp1
  have hstep : releaseStep st bar par err now g1 i = g1.wake i (if err then 1 else 0) now := by
    rw [releaseStep, hg1]
    exact if_pos ⟨hwait, hbar, hpar⟩
  rw [hstep]
  obtain ⟨hsplit2, -, hsreg2⟩ := keptByRelease_foldl st bar par err now m (g1.wake i (if err then 1 else 0) now)
  have hawake : (g1.wake i (if err then 1 else 0) now).splits[i]? = some { sp.advance 4 with age := now } := by
    rw [Group.wake, hg1]
    exact split_settle now (by simp [hlt]) (by simp [Split.advance])
  refine ⟨⟨_, hsplit2 i _ him hawake (by simp [Split.advance]), rfl, rfl⟩, fun h63 => hsreg2 ?_ sp.wreg ?_⟩
  · exact (keptByRelease_wake g1 i _ now).sregs.trans (hlen1.trans hlen)
  · rw [Group.wake, hg1, sreg_settle]
    exact (sreg_setSreg (hlen1.trans hlen) sp.wreg _ sp.wreg).trans (if_pos ⟨rfl, h63⟩)

/-! ### The groups of a team -/

/-- A change of the groups of a list, each named once, changes each of them once; the teams and the time stay. -/
theorem foldl_modGroup (F : Nat → Group → Group) (l : List Nat) (s : State) (hl : l.Nodup) :
    let t := l.foldl (fun (s : State) g => s.modGroup g (F s.now)) s
    t.exec.teams = s.exec.teams ∧ ∀ k, k ∈ l → t.exec.groups[k]? = (s.exec.groups[k]?).map (F s.now) := by
  have hout : ∀ (l : List Nat) (s : State) (k : Nat), k ∉ l →
      (l.foldl (fun (s : State) g => s.modGroup g (F s.now)) s).exec.groups[k]? = s.exec.groups[k]? := by
    intro l
    induction l with
    | nil => exact fun _ _ _ => rfl
    | cons g l ih =>
      intro s k hk
      rw [List.mem_cons, not_or] at hk
      rw [List.foldl_cons, ih _ k hk.2]
      exact (getElem?_modAt _ g k _).trans (if_neg hk.1)
  induction l generalizing s with
  | nil => exact ⟨rfl, fun _ hk => absurd hk List.not_mem_nil⟩
  | cons g l ih =>
    obtain ⟨hg, hnd⟩ := List.nodup_cons.mp hl
    obtain ⟨hteams, hgroups⟩ := ih (s.modGroup g (F s.now)) hnd
    refine ⟨hteams, fun k hk => ?_⟩
    rcases List.mem_cons.mp hk with rfl | hk
    · exact (hout l _ k hg).trans ((getElem?_modAt _ k k _).trans (if_pos rfl))
    · refine (hgroups k hk).trans (congrArg (Option.map (F s.now)) ((getElem?_modAt _ g k _).trans (if_neg ?_)))
      exact fun e => hg (e ▸ hk)

/-- R206: an event that meets the quotas of barrier n starts its next phase, and releases the splits of the team's groups that wait on it. -/
theorem barEvent_of_full {s : State} {t n : Nat} {tm : Team} {b : Barrier} {f : Barrier → Barrier} (ht : s.exec.teams[t]? = some tm)
    (hb : tm.bars[n]? = some b) (hf : (f b).full = true) (hnd : tm.groups.Nodup) :
    (s.barEvent t n f).exec.teams[t]? = some (Bar tm n (f b).next) ∧
    ∀ k, k ∈ tm.groups → (s.barEvent t n f).exec.groups[k]? =
      (s.exec.groups[k]?).map (fun gr => gr.release .tbar n (f b).parity (f b).next.lastErr s.now) := by
  have hn : n < tm.bars.length := (List.getElem?_eq_some_iff.mp hb).1
  have hfold := foldl_modGroup (fun now gr => gr.release .tbar n (f b).parity (f b).next.lastErr now) tm.groups (setTeam s t (Bar tm n (f b).next)) hnd
  have hevent : s.barEvent t n f = (tm.groups.foldl (fun (s : State) g => s.modGroup g (fun gr =>
      gr.release .tbar n (f b).parity (f b).next.lastErr s.now)) (setTeam s t (Bar tm n (f b).next))).flushL1 tm.die tm.site := by
    rw [State.barEvent, modTeam_eq _ ht, modAt_eq_set f hb]
    simp only [State.settleBar, State.team?, team_setTeam ht, modTeam_eq _ (team_setTeam ht _), List.getD_eq_getElem?_getD]
    simp [hn, hf, Bar, setTeam]
  rw [hevent]
  exact ⟨(congrArg (·[t]?) hfold.1).trans (team_setTeam ht _), hfold.2⟩

/-- R206, R358: an arrival that meets the quotas completes the phase, and releases who waits on it with its status. -/
theorem barEvent_arrive_completes {s : State} {t n k lanes : Nat} {tm : Team} {b : Barrier} (ht : s.exec.teams[t]? = some tm)
    (hb : tm.bars[n]? = some b) (hnd : tm.groups.Nodup) (hq : b.lquota ≠ 0 ∨ b.bquota ≠ 0) (hl : b.lquota ≤ b.larr + lanes) (hy : b.bquota ≤ b.barr) :
    let e : Bool := b.err || decide (b.lquota < b.larr + lanes) || decide (b.bquota < b.barr)
    let v := s.barEvent t n (·.arrive k lanes)
    ∃ tm', v.exec.teams[t]? = some tm' ∧
      tm'.bars[n]? = some { b with lastErr := e, parity := !b.parity, larr := 0, barr := 0, bquota := 0, err := false, arrived := [], dog := 0 } ∧
      ∀ j gr, j ∈ tm.groups → s.exec.groups[j]? = some gr → gr.sregs.length = 64 → ∃ gr', v.exec.groups[j]? = some gr' ∧
        Released gr gr' .tbar n b.parity (if e then 1 else 0) := by
  intro e v
  have hf : (b.arrive k lanes).full = true := by simp [Barrier.full, Barrier.arrive, hq, hl, hy]
  have hn : n < tm.bars.length := (List.getElem?_eq_some_iff.mp hb).1
  obtain ⟨hteam, hgroups⟩ := barEvent_of_full (f := (·.arrive k lanes)) ht hb hf hnd
  exact ⟨_, hteam, List.getElem?_set_self hn, fun j gr hj hgr hlen =>
    ⟨_, (hgroups j hj).trans (congrArg _ hgr), released_release hlen (by simp) n b.parity e s.now⟩⟩

/-- Settles O11: the arrival goes on, and its event completes the phase. -/
theorem teamBarrierPhaseCompletes : Obligations.TeamBarrierPhaseCompletes := by
  intro s r g sp tm d n b h ht hb hm hnd hq hl hy e
  have hexec : exec (.tbarArrive d n) s = .next ((wrote (s.performedAtGrp r.g) r g sp (sp.pc + 4) d 0).barEvent g.team n.toNat (·.arrive r.g sp.lanes)) := by
    change execTbarArrive d n s = _
    rw [execTbarArrive, tbarRun_of_runs h ht hb, hm, finish_eq _ _ _ _ (issues_performedAtGrp h.toIssues)]
    rfl
  obtain ⟨tm', hteam, hbar, hgroups⟩ := barEvent_arrive_completes (s := wrote (s.performedAtGrp r.g) r g sp (sp.pc + 4) d 0) (k := r.g)
    (lanes := sp.lanes) ht hb hnd hq hl hy
  exact ⟨_, tm', hexec, hteam, hbar, fun k gr hk hne hgr hlen => hgroups k gr hk ((List.getElem?_set_ne (Ne.symm hne)).trans hgr) hlen⟩

end Sys2Proof.Proofs

/-!
PROOF. Tiles (R200 to R204, R361 to R364, R434): what TALLOC, TFREE, TINFO and DPROBE leave (O15, O34). -/

namespace Sys2Proof.Proofs

open Sys2Proof.Machine Sys2Proof.Safety Sys2Proof.Laws

section Tiles

variable {s : State} {r : SplitRef} {g : Group} {sp : Split} {tm : Team} {cn : Nat} {c : Ctx} {d x y h : SReg} {l : BitVec 2}

/-! ### What each of them does, test by test -/

/-- The state in which TALLOC writes its status: with the tile, if it makes one. -/
def talloced (s : State) (r : SplitRef) (g : Group) (tm : Team) (cn st : Nat) (l : BitVec 2) (n rows cols esize : Nat) : State :=
  if st ≠ 0 then s
  else if l = 1 then s.modGroup r.g (fun g => { g with acc := g.acc.set n (some (newAcc rows cols esize)) })
  else
    let s := s.modTeam g.team (fun tm => { tm with tiles := tm.tiles.set n (some (newTile l.toNat rows cols esize)) })
    let s : State := { s with store := s.store.clearMark (.tileEntry g.team n) }
    if l = 2 then (s.touch cn (8 + baseBelow tm.die)).useFeat cn Config.featSide else s

theorem exec_talloc (hr : Runs s r g sp [d, x, y]) (hg : InGrid s g tm cn c) (hc : sp.clausesIssued = true) :
    exec (.talloc d x y l h) s = .next (
      if s.entrySpoiled g.team l.toNat h.toNat then s.scalarTrap r sp 13 0 0 0x20
      else
        let rows := (g.sreg x).toNat / 2 ^ 32
        let cols := (g.sreg x).toNat % 2 ^ 32
        let st := s.tallocStatus g tm c l.toNat h.toNat rows cols (g.sreg y).toNat
        (talloced s r g tm cn st l h.toNat rows cols (g.sreg y).toNat).finish r sp 4 d (BitVec.ofNat 64 st)) := by
  change execTalloc d x y l h s = _
  rw [execTalloc, scalarRun_of_runs hr]
  simp only [State.team?, hg.team, ctxOf?_of_inGrid hr.group hg, hc]
  rfl

theorem exec_tfree (hr : Runs s r g sp [d]) (ht : s.exec.teams[g.team]? = some tm) (hc : sp.clausesIssued = true) :
    exec (.tfree d l h) s = .next (
      if s.entrySpoiled g.team l.toNat h.toNat then s.scalarTrap r sp 13 0 0 0x21
      else if l = 3 ∨ (l = 1 ∧ 8 ≤ h.toNat) then s.finish r sp 4 d 2
      else if l = 1 then
        if ((g.acc[h.toNat]?).join).isNone then s.finish r sp 4 d 1
        else if g.accLocked h.toNat then s
        else
          let s : State := { s with store := s.store.clearAcc r.g h.toNat }
          (s.modGroup r.g (fun g => { g with acc := g.acc.set h.toNat none })).finish r sp 4 d 0
      else if ((tm.tiles[h.toNat]?).join).isNone then s.finish r sp 4 d 1
      else if s.copyNames g.team h.toNat || s.tileLocked g.team h.toNat || s.tileAsked g.team h.toNat then s
      else (s.freeTile g.team h.toNat).finish r sp 4 d 0) := by
  change execTfree d l h s = _
  rw [execTfree, scalarRun_of_runs hr]
  simp only [State.team?, ht, hc]
  rfl

/-- What TINFO writes (R363). -/
def tinfoOf (g : Group) (tm : Team) (l : BitVec 2) (n : Nat) : W64 :=
  if l = 3 then 0
  else if l = 1 then
    match (g.acc[n]?).join with
    | some a => tinfoWord false 1 a.atype a.esize a.rows a.cols
    | none => 0
  else
    match (tm.tiles[n]?).join with
    | some t => tinfoWord t.err t.level 0 t.esize t.rows t.cols
    | none => 0

theorem exec_tinfo (hr : Runs s r g sp [d]) (ht : s.exec.teams[g.team]? = some tm) :
    exec (.tinfo d l h) s = .next (
      if s.entrySpoiled g.team l.toNat h.toNat then s.scalarTrap r sp 13 0 0 0x22 else s.finish r sp 4 d (tinfoOf g tm l h.toNat)) := by
  change execTinfo d l h s = _
  rw [execTinfo, scalarRun_of_runs hr]
  simp only [State.team?, ht]
  rfl

/-! ### What they leave -/

/-- A change of the issuing group, then the end of its instruction. -/
theorem finish_modGroup {u : State} (hi : Issues u r g sp) {f : Group → Group} (hf : (f g).splits = g.splits) (n : W64) (v : W64) :
    (u.modGroup r.g f).finish r sp n d v = wrote u r (f g) sp (sp.pc + n) d v := by
  rw [finish_eq _ _ _ _ (issues_modGroup hi f hf), wrote, modGroup_eq f hi.group, setGroup_setGroup]
  rfl

/-- R201: TALLOC that makes no tile writes its status. -/
theorem talloced_finish_of_refused (hi : Issues s r g sp) {st n rows cols esize : Nat} (hst : st ≠ 0) (v : W64) :
    (talloced s r g tm cn st l n rows cols esize).finish r sp 4 d v = wrote s r g sp (sp.pc + 4) d v := by
  rw [talloced, if_pos hst, finish_eq _ _ _ _ hi]

theorem exec_talloc_of_status (hr : Runs s r g sp [d, x, y]) (hg : InGrid s g tm cn c) (hc : sp.clausesIssued = true)
    (hs : s.entrySpoiled g.team l.toNat h.toNat = false) {st : Nat}
    (hst : s.tallocStatus g tm c l.toNat h.toNat ((g.sreg x).toNat / 2 ^ 32) ((g.sreg x).toNat % 2 ^ 32) (g.sreg y).toNat = st) :
    exec (.talloc d x y l h) s = .next ((talloced s r g tm cn st l h.toNat ((g.sreg x).toNat / 2 ^ 32) ((g.sreg x).toNat % 2 ^ 32)
      (g.sreg y).toNat).finish r sp 4 d (BitVec.ofNat 64 st)) := by
  subst hst
  exact (exec_talloc hr hg hc).trans (congrArg _ (if_neg (hs ▸ Bool.false_ne_true)))

/-- R202: a new scratchpad tile, whose entry is no longer marked. -/
theorem talloced_finish_of_scratchpad (hi : Issues s r g sp) (ht : s.exec.teams[g.team]? = some tm) (n rows cols esize : Nat) (v : W64) :
    (talloced s r g tm cn 0 0 n rows cols esize).finish r sp 4 d v =
      setTeam (wrote (unmarked s (.tileEntry g.team n)) r g sp (sp.pc + 4) d v) g.team
        { tm with tiles := tm.tiles.set n (some (newTile 0 rows cols esize)) } := by
  have hmade : talloced s r g tm cn 0 0 n rows cols esize = unmarked (s.modTeam g.team (fun tm =>
      { tm with tiles := tm.tiles.set n (some (newTile 0 rows cols esize)) })) (.tileEntry g.team n) := rfl
  have hi' : Issues (unmarked (s.modTeam g.team (fun tm =>
      { tm with tiles := tm.tiles.set n (some (newTile 0 rows cols esize)) })) (.tileEntry g.team n)) r g sp := ⟨hi.cur, hi.group, hi.split⟩
  rw [hmade, finish_eq _ _ _ _ hi', modTeam_eq _ ht]
  rfl

/-- R202: a new ACC tile. -/
theorem talloced_finish_of_acc (hi : Issues s r g sp) (n rows cols esize : Nat) (v : W64) :
    (talloced s r g tm cn 0 1 n rows cols esize).finish r sp 4 d v =
      wrote s r { g with acc := g.acc.set n (some (newAcc rows cols esize)) } sp (sp.pc + 4) d v :=
  finish_modGroup hi (f := fun g => { g with acc := g.acc.set n (some (newAcc rows cols esize)) }) rfl 4 v

/-- R364: a tile that TFREE frees is gone from its team, and the instruction ends. -/
theorem freeTile_finish (hi : Issues s r g sp) (ht : s.exec.teams[g.team]? = some tm) (n : Nat) (v : W64) :
    ((s.freeTile g.team n).finish r sp 4 d v).exec.teams[g.team]? = some { tm with tiles := tm.tiles.set n none } ∧
    ((s.freeTile g.team n).finish r sp 4 d v).exec.groups = (wrote s r g sp (sp.pc + 4) d v).exec.groups := by
  have hi' : Issues (s.freeTile g.team n) r g sp := ⟨hi.cur, hi.group, hi.split⟩
  rw [finish_eq _ _ _ _ hi']
  refine ⟨?_, rfl⟩
  change (s.modTeam g.team (fun tm => { tm with tiles := tm.tiles.set n none })).exec.teams[g.team]? = _
  rw [modTeam_eq _ ht]
  exact team_setTeam ht _

/-! ### The levels of a tile -/

theorem not_acc_of_level (hl : l = 0 ∨ l = 2) : l ≠ 3 ∧ l ≠ 1 := by
  rcases hl with rfl | rfl <;> decide

/-- TFREE of a handle of a scratchpad or SIDE tile, with its entry not marked. -/
theorem exec_tfree_of_level (hr : Runs s r g sp [d]) (ht : s.exec.teams[g.team]? = some tm) (hc : sp.clausesIssued = true)
    (hs : s.entrySpoiled g.team l.toNat h.toNat = false) (hl : l = 0 ∨ l = 2) : exec (.tfree d l h) s = .next (
      if ((tm.tiles[h.toNat]?).join).isNone then wrote s r g sp (sp.pc + 4) d 1
      else if s.copyNames g.team h.toNat || s.tileLocked g.team h.toNat || s.tileAsked g.team h.toNat then s
      else (s.freeTile g.team h.toNat).finish r sp 4 d 0) := by
  obtain ⟨h3, h1⟩ := not_acc_of_level hl
  rw [exec_tfree hr ht hc, hs, if_neg Bool.false_ne_true, if_neg (not_or.mpr ⟨h3, fun hx => h1 hx.1⟩), if_neg h1, finish_eq _ _ _ _ hr.toIssues]

/-- TINFO with the entry that it reads not marked. -/
theorem exec_tinfo_of_clean (hr : Runs s r g sp [d]) (ht : s.exec.teams[g.team]? = some tm)
    (hs : s.entrySpoiled g.team l.toNat h.toNat = false) :
    exec (.tinfo d l h) s = .next (wrote s r g sp (sp.pc + 4) d (tinfoOf g tm l h.toNat)) := by
  rw [exec_tinfo hr ht, hs, if_neg Bool.false_ne_true, finish_eq _ _ _ _ hr.toIssues]

theorem tinfoOf_of_none (hl : l = 0 ∨ l = 2) {n : Nat} (ht : (tm.tiles[n]?).join = none) : tinfoOf g tm l n = 0 := by
  obtain ⟨h3, h1⟩ := not_acc_of_level hl
  rw [tinfoOf, if_neg h3, if_neg h1, ht]

theorem tinfoOf_of_tile (hl : l = 0 ∨ l = 2) {n : Nat} {t : Tile} (ht : tm.tiles[n]? = some (some t)) : tinfoOf g tm l n =
    BitVec.ofNat 64 ((if t.err then 2 ^ 49 else 0) + 2 ^ 48 + t.level * 2 ^ 40 + t.esize * 2 ^ 32 + t.rows * 2 ^ 16 + t.cols) := by
  obtain ⟨h3, h1⟩ := not_acc_of_level hl
  rw [tinfoOf, if_neg h3, if_neg h1, ht, Option.join_some]
  dsimp only
  rw [tinfoWord, Nat.zero_mul, Nat.add_zero]

theorem tinfoOf_of_acc {n : Nat} {a : AccTile} (ha : g.acc[n]? = some (some a)) : tinfoOf g tm 1 n =
    BitVec.ofNat 64 (2 ^ 48 + 2 ^ 40 + a.atype * 2 ^ 36 + a.esize * 2 ^ 32 + a.rows * 2 ^ 16 + a.cols) := by
  rw [tinfoOf, if_neg (by decide), if_pos rfl, ha, Option.join_some]
  simp only [tinfoWord, Bool.false_eq_true, if_false, Nat.zero_add, Nat.one_mul]

end Tiles

/-- Settles O15: the tests of each instruction in turn. -/
theorem tilesAreMadeFreedAndDescribed : Obligations.TilesAreMadeFreedAndDescribed := by
  intro s r g sp tm cn c d x y h l hg hc n rows cols esize st spoilt trap asked
  refine ⟨fun hs => ⟨fun hr => ?spoiltTalloc, fun hr => ⟨?spoiltTfree, ?spoiltTinfo⟩⟩,
    fun hs hr => ⟨fun hst => ?refused, fun hst hl => ?scratchpad, fun hst hl => ?acc⟩,
    fun hs hr => ⟨fun hl => ⟨?illegalTfree, ?illegalTinfo⟩, fun hl ht => ⟨?unusedTfree, ?unusedTinfo⟩,
      fun t hl ht => ⟨fun ha => ?askedTfree, fun ha => ?freed, ?tileTinfo⟩, fun a hl hn ha => ⟨fun hlock => ?accTfree, ?accTinfo⟩⟩⟩
  case spoiltTalloc => exact (exec_talloc hr hg hc).trans (congrArg _ (if_pos hs))
  case spoiltTfree => exact (exec_tfree hr hg.team hc).trans (congrArg _ (if_pos hs))
  case spoiltTinfo => exact (exec_tinfo hr hg.team).trans (congrArg _ (if_pos hs))
  case refused => exact (exec_talloc_of_status hr hg hc hs rfl).trans (congrArg _ (talloced_finish_of_refused hr.toIssues hst _))
  case scratchpad =>
    subst hl
    exact (exec_talloc_of_status hr hg hc hs hst).trans (congrArg _ (talloced_finish_of_scratchpad hr.toIssues hg.team n rows cols esize 0))
  case acc =>
    subst hl
    exact (exec_talloc_of_status hr hg hc hs hst).trans (congrArg _ (talloced_finish_of_acc hr.toIssues n rows cols esize 0))
  case illegalTfree =>
    rw [exec_tfree hr hg.team hc, if_neg (Bool.eq_false_iff.mp hs), if_pos (Or.inl hl), finish_eq _ _ _ _ hr.toIssues]
  case illegalTinfo => rw [exec_tinfo_of_clean hr hg.team hs, tinfoOf, if_pos hl]
  case unusedTfree => rw [exec_tfree_of_level hr hg.team hc hs hl, if_pos (by rw [ht]; rfl)]
  case unusedTinfo => rw [exec_tinfo_of_clean hr hg.team hs, tinfoOf_of_none hl ht]
  case askedTfree => rw [exec_tfree_of_level hr hg.team hc hs hl, if_neg (by rw [ht]; simp), if_pos ha]
  case freed =>
    refine ⟨_, ?_, freeTile_finish hr.toIssues hg.team n 0⟩
    rw [exec_tfree_of_level hr hg.team hc hs hl, if_neg (by rw [ht]; simp), if_neg (Bool.eq_false_iff.mp ha)]
  case tileTinfo => rw [exec_tinfo_of_clean hr hg.team hs, tinfoOf_of_tile hl ht]
  case accTfree =>
    subst hl
    rw [exec_tfree hr hg.team hc, if_neg (Bool.eq_false_iff.mp hs), if_neg (by simpa using hn), if_pos rfl, if_neg (by rw [ha]; simp),
      if_neg (Bool.eq_false_iff.mp hlock)]
    refine congrArg _ ?_
    exact finish_modGroup (u := { s with store := s.store.clearAcc r.g h.toNat }) ⟨hr.cur, hr.group, hr.split⟩
      (f := fun g => { g with acc := g.acc.set h.toNat none }) rfl 4 0
  case accTinfo =>
    subst hl
    rw [exec_tinfo_of_clean hr hg.team hs, tinfoOf_of_acc ha]

/-! ### DPROBE -/

/-- A bit of the mask that numbers make. -/
theorem testBit_maskOf (l : List Nat) (k : Nat) : (maskOf l).testBit k = decide (k ∈ l) := by
  have hfold : ∀ (l : List Nat) (m : Nat), (l.foldl (fun m i => m ||| 2 ^ i) m).testBit k = (m.testBit k || decide (k ∈ l)) := by
    intro l
    induction l with
    | nil => simp
    | cons i l ih =>
      intro m
      rw [List.foldl_cons, ih, Nat.testBit_or, Nat.testBit_two_pow]
      by_cases hik : i = k
      · simp [hik]
      · simp [hik, Ne.symm hik]
  rw [maskOf, hfold, Nat.zero_testBit, Bool.false_or]

/-- R434: the bit of one of 64 chunks: the map's, or set for a chunk that the tile does not have. -/
theorem getLsbD_probe (x : Tile) (c k : Nat) (hk : k < 64) :
    (x.probe c).getLsbD k = (decide ((x.size + 511) / 512 ≤ c + k) || x.map.testBit (c + k)) := by
  rw [Tile.probe, BitVec.getLsbD_ofNat, testBit_maskOf]
  simp only [hk, List.mem_filter, List.mem_range, Tile.chunks]
  by_cases hc : c + k < (x.size + 511) / 512
  · simp [hc, Nat.not_le.mpr hc]
  · simp [hc, Nat.not_lt.mp hc]

/-- Settles O34: DPROBE's tests in turn, then the bits of its result. -/
theorem dprobeReadsTheChunkMap : Obligations.DprobeReadsTheChunkMap := by
  intro s r g sp d a b h hr spoilt
  have hexec : exec (.dprobe d a b h) s = .next (if spoilt then s.scalarTrap r sp 13 0 0 0x25 else
      match s.tile? g.team h.toNat with
      | none => s.scalarTrap r sp 5 5 0 0x25
      | some x => s.finish r sp 4 d (x.probe (g.sreg a).toNat &&& g.sreg b)) := by
    change execDprobe d a b h s = _
    rw [execDprobe, scalarRun_of_runs hr] <;> rfl
  refine ⟨fun hs => hexec.trans (congrArg _ (if_pos hs)), fun hs ht => ?_, fun x hs ht => ⟨x.probe (g.sreg a).toNat &&& g.sreg b, ?_, fun k hk => ?_⟩⟩
  · rw [hexec, hs, if_neg Bool.false_ne_true, ht]
    rfl
  · rw [hexec, hs, if_neg Bool.false_ne_true, ht]
    exact congrArg _ (finish_eq _ _ _ _ hr.toIssues)
  · rw [BitVec.getLsbD_and, getLsbD_probe x _ k hk, Bool.and_comm]

end Sys2Proof.Proofs

/-!
PROOF. The memory control page (R190 to R193, R197, R209): what each control does when it is refused and when it is not (O46). -/

namespace Sys2Proof.Proofs

open Sys2Proof.Machine Sys2Proof.Safety Sys2Proof.Laws

section MemoryControls

variable {s : State} {c : Byte} {k : BitVec 2} {m : W64}

/-! ### Invalidation -/

theorem exec_tlbInvalidate_refused (hc : c.getLsbD 0 = true) (hi : s.memctl.invctl.getLsbD 0 = true) :
    exec (.tlbInvalidate c) s = .next (s.memErr 0xA0D) := by
  have hr : s.memctl.invRefused c = true := by simp only [MemCtl.invRefused, hc, hi, Bool.and_self]
  exact congrArg _ (if_pos hr)

theorem exec_tlbInvalidate (hi : s.memctl.invctl.getLsbD 0 = false) :
    exec (.tlbInvalidate c) s = .next (s.invWrite c) := by
  have hr : s.memctl.invRefused c = false := by simp only [MemCtl.invRefused, hi, Bool.and_false]
  exact congrArg _ (if_neg (Bool.eq_false_iff.mp hr))

/-- GO leaves the two bits of INVCTL that R192 names. -/
theorem invWrite_invctl (hc : c.getLsbD 0 = true) : (s.invWrite c).memctl.invctl = c &&& 3 := by
  simp only [State.invWrite, hc, Bool.not_true, Bool.false_eq_true, if_false]
  rfl

/-- What GO leaves of the cached translations: those that it does not name, and the global leaves where bit 1 spares them. -/
theorem mem_tlb_invWrite (hc : c.getLsbD 0 = true) (x : TlbEntry) :
    x ∈ (s.invWrite c).store.tlb ↔ (x ∈ s.store.tlb ∧
      (invNames s.memctl.named x.pent (x.page * 2 ^ offBits x.level) (2 ^ offBits x.level) = false ∨
        (c.getLsbD 1 = true ∧ lfLeaf x.leaf = true ∧ lfG x.leaf = true))) := by
  simp only [State.invWrite, hc, Bool.not_true, Bool.false_eq_true, if_false, State.modCtl, List.mem_filter,
    Bool.or_eq_true, Bool.and_eq_true, Bool.not_eq_true', and_assoc]

/-! ### Frame operations -/

theorem frameOpOf_refused (k : Byte) (h : s.memctl.fopRefused s.part c = true) : s.frameOpOf k c = s.memErr 0xA4F := if_pos h

theorem frameOpOf_eq {k : Byte} (h : s.memctl.fopRefused s.part c = false) (hk : s.memctl.fopkind = k) :
    s.frameOpOf k c = s.frameOp c :=
  (if_neg (Bool.eq_false_iff.mp h)).trans (if_pos hk)

/-! ### SIDEWAYS -/

theorem sideRefused_of_many {bd : Nat} (h : 16 < popc 24 m.toNat) : s.sideRefused bd m = true := by
  simp only [State.sideRefused, h, decide_true, Bool.true_or]

/-- With no line in the MSC and no tile in a way, only the number of ways can refuse them. -/
theorem sideRefused_of_empty {bd : Nat} (h : popc 24 m.toNat ≤ 16) (hl : s.store.lines = [])
    (hs : ∀ w, w < 24 → s.holdsSide bd w = false) : s.sideRefused bd m = false := by
  have hways : ¬ 16 < popc 24 m.toNat := Nat.not_lt.mpr h
  simp only [State.sideRefused, hways, decide_false, Bool.false_or, hl, List.any_nil, Bool.and_false, List.any_eq_false,
    List.mem_range]
  intro w hw
  simp only [hs w hw, Bool.and_false, Bool.false_eq_true, not_false_eq_true]

theorem sidewaysWrite_refused (off : Nat) (h : s.sideRefused k.toNat (m &&& 0xFFFFFF) = true) : s.sidewaysWrite off k m = s.memErr off := by
  simp only [State.sidewaysWrite, h, if_true]

theorem sidewaysWrite_eq (off : Nat) (h : s.sideRefused k.toNat (m &&& 0xFFFFFF) = false) :
    s.sidewaysWrite off k m = s.modCtl (fun c => { c with sideways := modAt c.sideways k.toNat (fun _ => m &&& 0xFFFFFF) }) := by
  simp only [State.sidewaysWrite, h, Bool.false_eq_true, if_false]

theorem exec_sidewaysWrite (k : BitVec 2) (m : W64) (s : State) :
    exec (.sidewaysWrite k m) s = .next (s.sidewaysWrite (0xA80 + 8 * k.toNat) k m) := rfl

/-! ### FLUSH -/

/-- A write back moves bytes only: the lines stay. -/
theorem writeBack_lines (st : Store) (n : Nat) : (st.writeBack n).lines = st.lines := by
  unfold Store.writeBack
  generalize List.range 128 = is
  induction is generalizing st with
  | nil => rfl
  | cons i is ih =>
    rw [List.foldl_cons, ih]
    dsimp only
    split <;> rfl

/-- A line that leaves the MSC, of the device's memory or of a peer's, leaves its ways, and no other line does. -/
theorem mem_lines_dropMscLine {n : Nat} {l : MscLine} :
    l ∈ (s.dropMscLine n).store.lines ↔ (l ∈ s.store.lines ∧ l.line ≠ n) := by
  unfold State.dropMscLine
  split
  · next hpeer =>
    have hgone : (l.line == n && s.caches.peers.any (fun c => c.line == l.line)) = (l.line == n) := by
      by_cases h : l.line = n
      · rw [h, hpeer, Bool.and_true]
      · simp only [beq_eq_false_iff_ne.mpr h, Bool.false_and]
    simp only [State.dropPeers, List.mem_filter, hgone, Bool.not_eq_true', beq_eq_false_iff_ne]
  · simp only [Store.dropLine, writeBack_lines, List.mem_filter, bne_iff_ne]

theorem mem_lines_dropAll {ls : List MscLine} {l : MscLine} :
    l ∈ (ls.foldl (fun (s : State) (x : MscLine) => s.dropMscLine x.line) s).store.lines ↔
      (l ∈ s.store.lines ∧ ∀ x ∈ ls, l.line ≠ x.line) := by
  induction ls generalizing s with
  | nil => simp only [List.foldl_nil, List.not_mem_nil, false_implies, implies_true, and_true]
  | cons x xs ih => rw [List.foldl_cons, ih, mem_lines_dropMscLine, List.forall_mem_cons, and_assoc]

/-- The lines that FLUSH of ways of a base die names. -/
def flushed (s : State) (bd : Nat) (m : W64) : List MscLine := s.store.lines.filter (fun l => l.bd == bd && m.getLsbD l.way)

/-- FLUSH leaves old lines, and none of a way that it names. -/
theorem exec_flush (k : BitVec 2) (m : W64) : ∃ t, exec (.flush k m) s = .next t ∧
    ∀ l ∈ t.store.lines, l ∈ s.store.lines ∧ ¬ (l.bd = k.toNat ∧ (m &&& 0xFFFFFF).getLsbD l.way = true) := by
  refine ⟨_, rfl, fun l hl => ?_⟩
  obtain ⟨hold, hkept⟩ := mem_lines_dropAll (ls := flushed s k.toNat (m &&& 0xFFFFFF)).mp hl
  refine ⟨hold, fun ⟨hbd, hway⟩ => ?_⟩
  have hnamed : l ∈ flushed s k.toNat (m &&& 0xFFFFFF) :=
    List.mem_filter.mpr ⟨hold, by rw [hbd, hway, beq_self_eq_true, Bool.and_self]⟩
  exact hkept l hnamed rfl

/-! ### Translation entries -/

/-- A change of ROOT under a resident context is refused (R191). -/
theorem xlatWrite_refused {w : RegWr} {x : Xlat} (he : w.off / 64 < 40) (hx : x = s.memctl.xlat.getD (w.off / 64) Xlat.reset)
    (hroot : (w.from_ (64 * (w.off / 64))).r64 0 x.root &&& 0x000FFFFFFFFFE001 ≠ x.root) (hres : s.resident (w.off / 64) = true) :
    s.xlatWrite w = .next (s.memErr w.off) := by
  subst hx
  exact (if_neg (Nat.not_le.mpr he)).trans (if_pos ⟨hroot, hres⟩)

/-- A write that does not change ROOT under a resident context, and does not cover DONE, sets the fields of the entry that it covers. -/
theorem xlatWrite_eq {w i : RegWr} {x : Xlat} {root : W64} (he : w.off / 64 < 40) (hx : x = s.memctl.xlat.getD (w.off / 64) Xlat.reset)
    (hi : i = w.from_ (64 * (w.off / 64))) (hr : root = i.r64 0 x.root &&& 0x000FFFFFFFFFE001)
    (hok : root = x.root ∨ s.resident (w.off / 64) = false) (hdone : i.hits 0x20 8 = false) :
    s.xlatWrite w = .next (s.modXlat (w.off / 64) (fun x => { x with
      root := root, prbase := i.r64 8 x.prbase, prsize := i.r8 0x10 x.prsize, prvec := i.r16 0x12 x.prvec, prrd := i.r32 0x18 x.prrd,
      occlim := i.r32 0x28 x.occlim })).sendWaiting := by
  subst hr hi hx
  have hfree := not_and_of_not_or_not (hok.imp not_not_intro Bool.eq_false_iff.mp)
  exact ((if_neg (Nat.not_le.mpr he)).trans (if_neg hfree)).trans (if_neg (Bool.eq_false_iff.mp hdone))

end MemoryControls

/-- Settles O46: each control's own equation, refused and not. -/
theorem memoryControlEvents : Obligations.MemoryControlEvents := by
  intro s
  refine ⟨fun c hc hi => exec_tlbInvalidate_refused hc hi,
    fun c hc hi => ⟨_, exec_tlbInvalidate hi, invWrite_invctl hc, mem_tlb_invWrite hc⟩,
    fun hgo hidle => ?_,
    fun c h => ⟨congrArg _ (frameOpOf_refused 1 h), congrArg _ (frameOpOf_refused 2 h)⟩,
    fun c h => ⟨fun hk => congrArg _ (frameOpOf_eq h hk), fun hk => congrArg _ (frameOpOf_eq h hk)⟩,
    fun k m h => by rw [exec_sidewaysWrite, sidewaysWrite_refused _ (sideRefused_of_many h)],
    fun k m h hl hs => by rw [exec_sidewaysWrite, sidewaysWrite_eq _ (sideRefused_of_empty h hl hs)],
    exec_flush,
    fun e va h => if_pos h,
    fun off size v he => ⟨fun hroot hres => xlatWrite_refused he rfl hroot hres,
      fun hok hdone => ⟨_, xlatWrite_eq he rfl rfl rfl hok hdone, rfl⟩⟩⟩
  have hdone : (s.memctl.invctl.getLsbD 0 && !s.invBusy) = true := by rw [hgo, hidle]; rfl
  exact congrArg _ (if_pos hdone)

end Sys2Proof.Proofs

/-!
PROOF. What the ways of reaching a peer leave alone. A request, its answer, an event, a message or a journal record may change pieces of the
operations in flight, and of a group its remote fault, GWCT or, when its context ends, whether it is live; no operation is lost, and every
group keeps its registers and its splits. No statement about issue says that the number of the next operation is free, so that an issue may
send pieces of another operation that has it (`faultAfter_exec`): the frame holds whatever they meet.
-/

namespace Sys2Proof.Machine

/-- An operation but for how far its pieces are performed. -/
def MOp.bare (o : MOp) : MOp := { o with pieces := [] }

/-- What a group computes with: its vector, scalar and mask registers, and its splits. -/
def Group.kept (g : Group) : List VReg × List W64 × List W64 × List Split := (g.vregs, g.sregs, g.masks, g.splits)

end Sys2Proof.Machine

namespace Sys2Proof.Proofs

open Sys2Proof.Machine Sys2Proof.Safety Sys2Proof.Laws

/-- In s₀ and in s the same operations are in flight, and every group computes with the same. -/
def Kept (s₀ s : State) : Prop :=
  s.ops.mops.map MOp.bare = s₀.ops.mops.map MOp.bare ∧ s.exec.groups.map Group.kept = s₀.exec.groups.map Group.kept

/-- The same of the state of what becomes of a request. -/
def ServedKept (s₀ : State) : Served → Prop
  | .answer s _ | .late s | .hold s _ => Kept s₀ s

section Kept

variable {s₀ s : State}

theorem kept_refl (s : State) : Kept s s := ⟨rfl, rfl⟩

theorem kept_foldl {α : Type} {l : List α} {f : State → α → State} (hf : ∀ s a, Kept s₀ s → Kept s₀ (f s a)) (h : Kept s₀ s) :
    Kept s₀ (l.foldl f s) := foldl_preserves hf h

theorem kept_getD {o : Option State} (ho : OptWf (Kept s₀) o) (h : Kept s₀ s) : Kept s₀ (o.getD s) := by
  cases o with
  | none => exact h
  | some t => exact ho t rfl

theorem kept_modGroup {n : Nat} {f : Group → Group} (hf : ∀ g, (f g).kept = g.kept) (h : Kept s₀ s) : Kept s₀ (s.modGroup n f) :=
  ⟨h.1, (map_modAt _ _ hf _ _).trans h.2⟩

/-- Pieces of operations change. -/
theorem kept_mapOps {f : MOp → MOp} (hf : ∀ o, (f o).bare = o.bare) (h : Kept s₀ s) :
    Kept s₀ { s with ops := { s.ops with mops := s.ops.mops.map f } } := by
  refine ⟨?_, h.2⟩
  rw [List.map_map, show MOp.bare ∘ f = MOp.bare from funext hf]
  exact h.1

theorem kept_modPiece {id i : Nat} {f : Piece → Piece} (h : Kept s₀ s) : Kept s₀ (s.modPiece id i f) :=
  kept_mapOps (fun _ => ite_keeps (P := fun x : MOp => x.bare = _) rfl rfl) h

theorem kept_markSeen {f : MOp → Piece → Bool} (h : Kept s₀ s) : Kept s₀ (s.markSeen f) :=
  kept_mapOps (fun _ => ite_keeps (P := fun x : MOp => x.bare = _) rfl rfl) h

theorem kept_store {m : Store} (h : Kept s₀ s) : Kept s₀ { s with store := m } := h
theorem kept_memctl {m : MemCtl} (h : Kept s₀ s) : Kept s₀ { s with memctl := m } := h
theorem kept_emit {x : Output} (h : Kept s₀ s) : Kept s₀ (s.emit x) := h

/-! ### Writes of the device, events and messages -/

theorem kept_dropMscLine {line : Nat} (h : Kept s₀ s) : Kept s₀ (s.dropMscLine line) := by
  unfold State.dropMscLine
  split
  exacts [h, kept_store h]

theorem kept_allocLine {line bd pent : Nat} {ctx : Option Nat} {stream : Bool} (h : Kept s₀ s) :
    Kept s₀ (s.allocLine line bd pent ctx stream) := by
  unfold State.allocLine
  split
  · exact h
  · dsimp only
    split
    · exact h
    · split
      exacts [h, kept_store (kept_dropMscLine h)]

theorem kept_memWrite {pent : Nat} {ctx : Option Nat} {ca : Nat} {stream : Bool} {pa : Nat} {data : List Byte} (h : Kept s₀ s) :
    Kept s₀ (s.memWrite pent ctx ca stream pa data) := by
  unfold State.memWrite
  extract_lets c touched
  have htouch : Kept s₀ touched := ite_keeps (kept_allocLine h) h
  exact htouch

/-- A snapshot takes a shadow (R147). -/
theorem kept_shadowed {m : Store} {e : Nat} {f : Snapshot → Snapshot} (h : Kept s₀ s) :
    Kept s₀ (({ s with store := m } : State).modSnap e f) := h

theorem kept_forStore {pa : Nat} (h : Kept s₀ s) : OptWf (fun p => Kept s₀ p.1) (s.forStore pa) := by
  unfold State.forStore
  dsimp only
  split
  · exact optWf_some h
  · split
    exacts [optWf_none, optWf_some (kept_shadowed h)]

theorem kept_noteWrite {pa n : Nat} (h : Kept s₀ s) : Kept s₀ (s.noteWrite pa n) := ite_keeps h h

theorem kept_devNow {pa : Nat} {x : DevWrite} (h : Kept s₀ s) : OptWf (Kept s₀) (s.devNow pa x) := by
  unfold State.devNow
  refine optWf_ite optWf_none ?_
  split
  · exact optWf_none
  · next t p he =>
    have ht : Kept s₀ t := kept_forStore h _ he
    cases x with
    | bytes b => exact optWf_some (kept_noteWrite (kept_store ht))
    | leaf bits clear => exact optWf_some (ite_keeps (kept_noteWrite (kept_store ht)) ht)

theorem kept_devDo {pa : Nat} {x : DevWrite} (h : Kept s₀ s) : Kept s₀ (s.devDo pa x) := by
  unfold State.devDo
  extract_lets ops wait
  have hwait : Kept s₀ wait := h
  exact ite_keeps hwait (kept_getD (kept_devNow h) hwait)

theorem kept_markLeaf {e : TlbEntry} {va : Nat} {write : Bool} (h : Kept s₀ s) : Kept s₀ (s.markLeaf e va write) := by
  unfold State.markLeaf
  split
  · exact h
  · extract_lets revives bits clear e' path marked
    have hmark : Kept s₀ marked := ite_keeps h (kept_devDo h)
    exact hmark

theorem kept_markWrite {pent : Nat} {va : W64} (h : Kept s₀ s) : Kept s₀ (s.markWrite pent va) := by
  unfold State.markWrite
  split
  exacts [kept_markLeaf h, h]

theorem kept_putPlace {p : Place} {data : List Byte} (h : Kept s₀ s) : Kept s₀ (s.putPlace p data) := by
  unfold State.putPlace
  split
  exacts [kept_devDo h, h, h]

theorem kept_event {fn kind : Nat} {part sub : Byte} {body : List Byte} (h : Kept s₀ s) : Kept s₀ (s.event fn kind part sub body) := by
  unfold State.event
  extract_lets q es logged places room marked put wrote
  have hlog : Kept s₀ logged := ite_keeps (kept_foldl (fun _ _ h => h) h) h
  have hmark : Kept s₀ marked := by
    unfold marked
    split
    exacts [kept_foldl (fun _ _ h => kept_markWrite h) hlog, hlog]
  have hput : Kept s₀ put := by
    refine kept_foldl (fun _ _ h => ?_) hmark
    split
    exacts [h, kept_putPlace h, h]
  exact ite_keeps (ite_keeps (P := Kept s₀) hput hput) hlog

theorem kept_pay {e : Nat} {p : Payer} {f : Spent → Spent} (h : Kept s₀ s) : Kept s₀ (s.pay e p f) := by
  cases p <;> exact h

theorem kept_linkIsDown {w : BitVec 7} {dir : Nat} (h : Kept s₀ s) : Kept s₀ (s.linkIsDown w dir) := by
  have hevent : Kept s₀ (s.linkEvent w 0x104 dir 0 (s.link w).rx.expect 0) := kept_event h
  exact hevent

theorem kept_keyCheck {w : BitVec 7} (h : Kept s₀ s) : Kept s₀ (s.keyCheck w) := by
  unfold State.keyCheck
  dsimp only
  split
  · exact kept_linkIsDown h
  · exact ite_keeps h h

theorem kept_pumpN {w : BitVec 7} {fuel : Nat} (h : Kept s₀ s) : Kept s₀ (s.pumpN w fuel) := by
  induction fuel generalizing s with
  | zero => exact h
  | succ fuel ih =>
    rw [State.pumpN]
    split
    · exact h
    · exact ih (kept_keyCheck (kept_pay h))

theorem kept_sendAs {payer : Payer} {slot : BitVec 7} {type : Byte} {cls : BitVec 2} {o : Origin} {pois : Bool} {msg : FabMsg}
    (h : Kept s₀ s) : Kept s₀ (s.sendAs payer slot type cls o pois msg) := by
  unfold State.sendAs
  split
  · exact h
  · exact ite_keeps h (kept_pumpN h)

theorem kept_sendPageReq {p : PageReq} (h : Kept s₀ s) : Kept s₀ (s.sendPageReq p).1 := by
  unfold State.sendPageReq
  extract_lets x bits written ctl sent
  have hsent : Kept s₀ sent := kept_memctl (kept_devDo h)
  split
  · exact ite_keeps (P := Kept s₀) (kept_emit hsent) hsent
  · exact h

theorem kept_pageRequest {pent : Nat} {page : W64} {write expl : Bool} {queue : W16} {index : W32} (h : Kept s₀ s) :
    Kept s₀ (s.pageRequest pent page write expl queue index) := by
  obtain hs | ⟨p, reqs, hs⟩ := pageRequest_cases s pent page write expl queue index
  · rwa [hs]
  · rw [hs]
    exact kept_memctl (kept_sendPageReq h)

/-! ### The journal -/

theorem kept_devPut {pent fuel : Nat} {va : W64} {data : List Byte} (h : Kept s₀ s) : OptWf (Kept s₀) (s.devPut pent fuel va data) := by
  induction fuel generalizing s va data with
  | zero => exact optWf_some h
  | succ fuel ih =>
    unfold State.devPut
    split
    · exact optWf_some h
    · dsimp only
      split
      exacts [ih (kept_devDo (kept_markWrite h)), ih (kept_markWrite (s := s) h), optWf_none]

theorem kept_record {cn kind : Nat} {w : JSite} {payload : List Byte} (h : Kept s₀ s) : Kept s₀ (s.record cn kind w payload) := by
  unfold State.record
  split
  · exact h
  · next c _ =>
    dsimp only
    split
    · exact h
    · split
      · exact h
      · split
        · next t hput =>
          have ht : Kept s₀ t := optWf_ite (kept_devPut (s := s.modCtx cn _) h) optWf_none _ hput
          exact ite_keeps (P := Kept s₀) ht ht
        · exact h

theorem kept_recordStore {e pa : Nat} {data : List Byte} (h : Kept s₀ s) : Kept s₀ (s.recordStore e pa data) := by
  unfold State.recordStore
  split
  · exact h
  · exact kept_foldl (fun _ _ h => ite_keeps (kept_foldl (fun _ _ h => kept_record h) h) h) h

/-! ### The end of a context -/

theorem map_snd_withIndex {α : Type} (l : List α) : (withIndex l).map Prod.snd = l := List.map_snd_zip (List.length_range ▸ le_rfl)

/-- A map over the entries of a list with their places that keeps a value of each of them keeps the values. -/
theorem map_map_withIndex {α β : Type} {v : α → β} {f : Nat × α → α} (hf : ∀ p, v (f p) = v p.2) (l : List α) :
    ((withIndex l).map f).map v = l.map v :=
  calc ((withIndex l).map f).map v = (withIndex l).map (v ∘ Prod.snd) := by rw [List.map_map, show v ∘ f = v ∘ Prod.snd from funext hf]
    _ = l.map v := by rw [← List.map_map, map_snd_withIndex]

/-- R177: the groups of a context stop where they stand. -/
theorem kept_stopCtx {c : Nat} (h : Kept s₀ s) : Kept s₀ (s.stopCtx c) := by
  refine ⟨h.1, Eq.trans (map_map_withIndex (fun p => ?_) s.exec.groups) h.2⟩
  split
  split <;> rfl

theorem kept_endCtx {c : Nat} {f : FaultRec} (h : Kept s₀ s) : Kept s₀ (s.endCtx c f) := by
  have hstop : Kept s₀ (s.stopCtx c) := kept_stopCtx h
  unfold State.endCtx
  split
  · exact h
  · split
    exacts [hstop, hstop, h]

/-- R173, R177: a trap whose cause ends the context whatever handler it names. -/
theorem kept_takeTrap_fatal {r : SplitRef} {x : Trap} (hx : fatalCause x.code = true) (h : Kept s₀ s) : Kept s₀ (s.takeTrap r x) := by
  unfold State.takeTrap
  split
  · exact h
  · split
    · exact h
    · split
      · exact h
      · rw [hx]
        exact ite_keeps (kept_endCtx h) (kept_endCtx h)

/-! ### A request at its home (R240) -/

theorem kept_homeRead {pent : Nat} {ctx : Option Nat} {ca : Nat} {stream : Bool} {pa n : Nat} (h : Kept s₀ s) :
    Kept s₀ (s.homeRead pent ctx ca stream pa n).1 := ite_keeps (P := Kept s₀) (kept_allocLine h) h

theorem kept_homeWrite {pent : Nat} {ctx : Option Nat} {ca : Nat} {stream : Bool} {pa : Nat} {data : List Byte} (h : Kept s₀ s) :
    OptWf (Kept s₀) (s.homeWrite pent ctx ca stream pa data) := optWf_map (kept_forStore h) (fun _ h => kept_memWrite h)

theorem kept_recall {id : Nat} {dst : BitVec 7} {rsp : RemoteRsp} {line : Nat} (h : Kept s₀ s) : Kept s₀ (s.recall id dst rsp line) :=
  kept_foldl (fun _ _ h => kept_sendAs h) h

theorem servedKept_refuseReq {r : RemoteReq} {pent : Option Nat} {reason : Byte} (h : Kept s₀ s) :
    ServedKept s₀ (s.refuseReq r pent reason) := kept_event h

theorem servedKept_ackWrite {r : RemoteReq} {pa : Nat} {old : List Byte} (h : Kept s₀ s) : ServedKept s₀ (s.ackWrite r pa old) := by
  unfold State.ackWrite
  dsimp only
  split
  · exact kept_recall h
  · split <;> exact h

theorem kept_recordReq {r : RemoteReq} {pent pa : Nat} {d : List Byte} (h : Kept s₀ s) : Kept s₀ (s.recordReq r pent pa d) :=
  ite_keeps h (kept_recordStore h)

theorem kept_countReq {pent : Nat} {r : RemoteReq} {pa : Nat} (h : Kept s₀ s) : Kept s₀ (s.countReq pent r pa) := ite_keeps (P := Kept s₀) h h

theorem servedKept_performReq {pent : Nat} {r : RemoteReq} {pa ca : Nat} (h : Kept s₀ s) : ServedKept s₀ (s.performReq pent r pa ca) := by
  have hcount : Kept s₀ (s.countReq pent r pa) := kept_countReq h
  unfold State.performReq
  split
  case h_1 =>
    dsimp only
    split
    · split <;> exact kept_homeRead (s := s.countReq pent r pa) hcount
    · exact kept_homeRead hcount
  case h_2 =>
    split
    · exact h
    · next t hw =>
      have ht : Kept s₀ t := kept_homeWrite h _ hw
      exact servedKept_ackWrite (kept_recordReq (ite_keeps (P := Kept s₀) ht ht))
  case h_3 =>
    dsimp only
    split
    · exact h
    · next t hw =>
      have ht : Kept s₀ t := optWf_foldl (fun _ _ h => optWf_bind h (fun _ h => kept_homeWrite h)) (optWf_some h) _ hw
      exact servedKept_ackWrite (kept_foldl (fun _ _ h => kept_recordReq h) (ite_keeps (P := Kept s₀) ht ht))
  all_goals
    dsimp only
    split
    · exact hcount
    · next hw => exact servedKept_ackWrite (kept_recordReq (kept_homeWrite hcount _ hw))

theorem kept_markReq {pent : Nat} {r : RemoteReq} (h : Kept s₀ s) : Kept s₀ (s.markReq pent r) := by
  unfold State.markReq
  split
  · exact h
  · split
    exacts [kept_markLeaf h, h]

theorem servedKept_serve {r : RemoteReq} (h : Kept s₀ s) : ServedKept s₀ (s.serve r) := by
  unfold State.serve
  split
  case h_1 => exact servedKept_refuseReq h
  case h_2 =>
    split
    · exact h
    · split
      · exact servedKept_refuseReq h
      · split
        case h_1 => exact servedKept_refuseReq h
        case h_2 =>
          split
          exacts [h, kept_pageRequest h]
        case h_3 =>
          extract_lets reads bad
          refine ite_keeps (servedKept_refuseReq h) (ite_keeps h (ite_keeps h ?_))
          exact servedKept_performReq (kept_markReq h)

/-! ### The pieces of an operation -/

theorem kept_opFault {o : MOp} {va : W64} {slot reason : Byte} (h : Kept s₀ s) : Kept s₀ (s.opFault o va slot reason) := by
  refine kept_modGroup (fun g => ?_) h
  dsimp only
  split <;> split <;> rfl

theorem kept_l1Fill {core : Nat × Nat} {g pa : Nat} {data : List Byte} {since expiry : Nat} (h : Kept s₀ s) :
    Kept s₀ (s.l1Fill core g pa data since expiry) := h

theorem kept_l1Miss {core : Nat × Nat} {g line : Nat} (h : Kept s₀ s) : Kept s₀ (s.l1Miss core g line) := by
  unfold State.l1Miss
  dsimp only
  split
  exacts [kept_modGroup (s := { s with exec := _ }) (fun _ => rfl) h, h]

theorem kept_touchMsc {cn line : Nat} (h : Kept s₀ s) : Kept s₀ (s.touchMsc cn line) := by
  unfold State.touchMsc
  split <;> exact h

theorem kept_modPieces {id : Nat} {l : List Nat} {f : Nat → Piece → Piece} (h : Kept s₀ s) :
    Kept s₀ (l.foldl (fun s j => s.modPiece id j (f j)) s) := kept_foldl (fun _ _ h => kept_modPiece h) h

theorem kept_applyRsp {a : AccEnv} {o : MOp} {i : Nat} {p : Piece} {r : RemoteReq} {x : RspResult} (h : Kept s₀ s) :
    Kept s₀ (s.applyRsp a o i p r x) := by
  unfold State.applyRsp
  extract_lets mates miss
  have hmiss (reason : Byte) : Kept s₀ (miss s reason) := kept_opFault (kept_modPieces h)
  split
  case h_1 =>
    extract_lets got passed
    have hgot : Kept s₀ got := kept_modPieces h
    have hpassed : Kept s₀ passed := ite_keeps (P := Kept s₀) (kept_modGroup (fun _ => rfl) hgot) hgot
    split
    · refine ite_keeps hpassed ?_
      extract_lets allocated caches copied touched
      have halloc : Kept s₀ allocated := kept_allocLine (s := passed.dropPeers _) hpassed
      have hcopied : Kept s₀ copied := ite_keeps halloc halloc
      have htouch : Kept s₀ touched := kept_touchMsc hcopied
      exact ite_keeps (kept_l1Fill htouch) htouch
    · exact hpassed
  all_goals exact hmiss _

theorem kept_sendPiece {a : AccEnv} {o : MOp} {i : Nat} {p : Piece} (h : Kept s₀ s) : Kept s₀ (s.sendPiece a o i p).1 := by
  unfold State.sendPiece
  extract_lets id r ops u rec_ listed
  have hserve : ServedKept s₀ (u.serve r) := servedKept_serve h
  split
  · split
    · next hs => exact kept_applyRsp (hs ▸ hserve :)
    · next hs => exact (hs ▸ hserve :)
    · next hs => exact (hs ▸ hserve :)
  · split
    exacts [h, kept_applyRsp (s := u) h]

theorem kept_sendRequests {payer : Payer} {cls : BitVec 2} {e : Nat} {rs : List RemoteReq} (h : Kept s₀ s) :
    Kept s₀ (s.sendRequests payer cls e rs) := kept_foldl (fun _ _ h => kept_foldl (fun _ _ h => kept_sendAs h) h) h

theorem kept_mscHit {a : AccEnv} {o : MOp} {p : Piece} {c : PeerCopy} (h : Kept s₀ s) : Kept s₀ (s.mscHit a o p c) := by
  unfold State.mscHit
  extract_lets touched missed
  have htouch : Kept s₀ touched := kept_touchMsc h
  have hmiss : Kept s₀ missed := ite_keeps (kept_l1Miss htouch) htouch
  exact ite_keeps (kept_l1Fill hmiss) hmiss

/-- Whatever operation has the number, its remote pieces are sent, served or found near, and no operation is lost. -/
theorem kept_sendPieces {a : AccEnv} {id : Nat} (h : Kept s₀ s) : Kept s₀ (s.sendPieces a id) := by
  unfold State.sendPieces
  split
  · exact h
  · refine kept_sendRequests (foldl_preserves (P := fun x : State × List RemoteReq => Kept s₀ x.1) (fun x ip hx => ?_) h)
    dsimp only
    split
    · exact hx
    · split
      · exact hx
      · split
        · split
          case h_1 => exact kept_takeTrap_fatal rfl hx
          case h_2 => exact kept_modPieces (kept_markSeen hx)
          case h_3 => exact kept_modPieces (kept_mscHit hx)
          case h_4 =>
            refine kept_sendPiece ?_
            split
            exacts [ite_keeps (kept_l1Miss hx) hx, hx]
        · exact hx

end Kept

end Sys2Proof.Proofs

/-!
PROOF. Lane accesses to memory (R398 to R404): one that nothing stops issues its operation, and its clause goes on; PREF completes. -/

namespace Sys2Proof.Proofs

open Sys2Proof.Machine Sys2Proof.Safety Sys2Proof.Laws

/-! ### What an issue leaves -/

section Issue

variable {s₀ s : State}

theorem kept_modCtx {n : Nat} {f : Ctx → Ctx} (h : Kept s₀ s) : Kept s₀ (s.modCtx n f) := h

theorem kept_touchPa {cn pa : Nat} (h : Kept s₀ s) : Kept s₀ (s.touchPa cn pa) := ite_keeps (kept_modCtx (kept_modCtx h)) (kept_modCtx h)

theorem kept_dropPeer {pa : Nat} (h : Kept s₀ s) : Kept s₀ (s.dropPeer pa) := h

/-- Every group computes with the same after an operation has issued, and beside those in flight there is the one that has issued, under
the next number. -/
theorem issue_kept (s : State) (a : AccEnv) (m : Met) (o : MOp) :
    (s.issue a m o).1.ops.mops.map MOp.bare = s.ops.mops.map MOp.bare ++ [{ o with id := s.ops.nextId }.bare] ∧
      (s.issue a m o).1.exec.groups.map Group.kept = s.exec.groups.map Group.kept := by
  unfold State.issue
  extract_lets id ps marked touched stored op ops listed failed
  have hmarked : Kept s marked := kept_foldl (fun _ _ h => kept_markLeaf h) (kept_refl s)
  have htouched : Kept s touched := by
    refine kept_foldl (fun _ _ h => ?_) hmarked
    split
    exacts [ite_keeps h (kept_touchPa h), h]
  have hstored : Kept s stored := by
    refine ite_keeps (kept_foldl (fun _ _ h => ?_) htouched) htouched
    extract_lets self
    split
    · refine ite_keeps h ?_
      extract_lets updated
      have hupdated : Kept s updated := by
        unfold updated
        split <;> exact h
      exact ite_keeps (kept_dropPeer hupdated) hupdated
    · exact h
  have hsent : Kept listed (failed.sendPieces a id) := kept_sendPieces (kept_foldl (fun _ _ h => kept_opFault h) (kept_refl listed))
  obtain ⟨hmops, hgroups⟩ := hsent
  refine ⟨hmops.trans ?_, hgroups.trans hstored.2⟩
  rw [← hstored.1]
  exact List.map_append

/-- A group computes with what it did. -/
theorem group_of_kept {t : State} {n : Nat} {g : Group} (h : t.exec.groups.map Group.kept = s.exec.groups.map Group.kept)
    (hg : s.exec.groups[n]? = some g) : ∃ g', t.exec.groups[n]? = some g' ∧ g'.kept = g.kept := by
  have hn := congrArg (·[n]?) h
  simp only [List.getElem?_map, hg, Option.map_some] at hn
  exact Option.map_eq_some_iff.mp hn

end Issue

/-- R158: a lane instruction has issued, and the clause of its split is past it. -/
theorem laneDone_clausePast {s : State} {e : Env} {g : Group} (hg : s.exec.groups[e.r.g]? = some g) (hsp : g.splits[e.r.sp]? = some e.sp)
    (hc : e.sp.clause = some e.c) :
    (s.laneDone e.r).ops = s.ops ∧
      ∃ g', (s.laneDone e.r).exec.groups[e.r.g]? = some g' ∧ ClausePast g' e ∧ FlagsOnly (pastGroup e g) g' := by
  obtain ⟨g', hdone, hflags⟩ := laneDone_eq hg hsp hc
  rw [hdone]
  refine ⟨rfl, g', setGroup_getElem? hg g', ⟨{ e.sp with clause := nextClause e.c }, ?_, rfl⟩, hflags⟩
  rw [hflags.splits]
  exact List.getElem?_set_self (List.getElem?_eq_some_iff.mp hsp).1

/-! ### LD, ST and the atomics -/

theorem modGroup_group {s : State} {n : Nat} {g : Group} (hg : s.exec.groups[n]? = some g) (f : Group → Group) :
    (s.modGroup n f).exec.groups[n]? = some (f g) := by
  rw [group_modGroup, if_pos rfl, hg]
  rfl

/-- A last use leaves the splits of its group. -/
theorem lastUse_group {s : State} {n : Nat} {g : Group} (hg : s.exec.groups[n]? = some g) (regs : List Nat) :
    ∃ g', (s.lastUse n regs).exec.groups[n]? = some g' ∧ g'.splits = g.splits := by
  obtain ⟨ops, hlast⟩ := lastUse_eq hg regs
  rw [hlast]
  exact ⟨_, regrouped_group hg .., rfl⟩

theorem lastUse_nextId (s : State) (n : Nat) (regs : List Nat) : (s.lastUse n regs).ops.nextId = s.ops.nextId := by
  unfold State.lastUse
  split <;> rfl

theorem accEnv_eq {s : State} {g sp : Nat} {a : AccEnv} (h : s.accEnv g sp = some a) : a.g = g ∧ a.sp = sp := by
  unfold State.accEnv at h
  split at h
  · cases h
  · split at h
    · cases h
    · obtain ⟨c, -, rfl⟩ := Option.map_eq_some_iff.mp h
      exact ⟨rfl, rfl⟩

theorem laneAt_asReleased {s : State} {e : Env} (h : LaneAt s e) (g ord : Nat) : LaneAt (asReleased s g ord) e :=
  ite_keeps (P := (LaneAt · e)) ⟨h.cur, h.group, h.split, h.clause, h.team, h.ctx⟩ h

theorem nextId_asReleased (s : State) (g ord : Nat) : (asReleased s g ord).ops.nextId = s.ops.nextId :=
  ite_keeps (P := fun t : State => t.ops.nextId = s.ops.nextId) rfl rfl

section Access

variable {s : State} {e : Env} {a : AccEnv} {f : LaneWord} {q : MemAsk} {m : Met} {ws : List Want}

/-- An operation has issued under the next number for a split that is at a lane instruction, and the clause goes on. -/
theorem issued_laneDone {o : MOp} {g : Group} (hg : s.exec.groups[e.r.g]? = some g) (hsp : g.splits[e.r.sp]? = some e.sp)
    (hc : e.sp.clause = some e.c) {t : State}
    (ht : t = ((s.issue a m o).1.modGroup e.r.g (fun g => { g with
      splits := modAt g.splits e.r.sp (fun sp => { sp with fails := [] }) })).laneDone e.r) :
    ∃ g' o', t.exec.groups[e.r.g]? = some g' ∧ ClausePast g' e ∧ o' ∈ t.ops.mops ∧ o'.bare = { o with id := s.ops.nextId }.bare := by
  obtain ⟨hmops, hgroups⟩ := issue_kept s a m o
  obtain ⟨g₁, hg₁, hkept₁⟩ := group_of_kept hgroups hg
  have hg₂ := modGroup_group hg₁ (fun g => { g with splits := modAt g.splits e.r.sp (fun sp => { sp with fails := [] }) })
  have hsplits : g₁.splits = g.splits := (congrArg (·.2.2.2) hkept₁ :)
  have hsp₁ : (modAt g₁.splits e.r.sp (fun sp => { sp with fails := [] }))[e.r.sp]? = some { e.sp with fails := [] } := by
    rw [getElem?_modAt, if_pos rfl, hsplits, hsp]
    rfl
  obtain ⟨hops, g', hg', hpast, -⟩ := laneDone_clausePast (e := { e with sp := { e.sp with fails := [] } }) hg₂ hsp₁ hc
  have hmem : { o with id := s.ops.nextId }.bare ∈ (s.issue a m o).1.ops.mops.map MOp.bare :=
    hmops ▸ List.mem_append_right _ (List.mem_singleton_self _)
  obtain ⟨o', ho', hbare⟩ := List.mem_map.mp hmem
  subst ht
  exact ⟨g', o', hg', hpast, hops ▸ ho', hbare⟩

/-- The operation of an access that issues is in flight, and the clause goes on. -/
theorem laneIssue_asks {i : Instr} {u : State} (h : LaneAt u e) (hid : u.ops.nextId = s.ops.nextId) (ha : a.g = e.r.g ∧ a.sp = e.r.sp)
    (hexec : exec i s = .next (u.laneIssue e f q a m ws)) : Asks s e f i q.kind q.n q.dst := by
  obtain ⟨t, ht⟩ : ∃ t, t = u.laneIssue e f q a m ws := ⟨_, rfl⟩
  rw [← ht] at hexec
  unfold State.laneIssue at ht
  extract_lets dead lanes primed cleansed signed silent whole pieces blank o issued at ht
  obtain ⟨g, hg, hsplits⟩ := lastUse_group h.group (lastUses q.srcs)
  have hprimed := modGroup_group hg (fun g => { (g.aim e.gw e.c.hdr.set0 q.regs q.rmask) with
    poison := g.poison || dead || e.g.maskUnpub f.msk.toNat })
  have hgroups : signed.exec.groups = primed.exec.groups := ite_keeps (P := fun v : State => v.exec.groups = _) rfl rfl
  have hops : signed.ops = primed.ops := ite_keeps (P := fun v : State => v.ops = _) rfl rfl
  have hnext : signed.ops.nextId = s.ops.nextId := (congrArg Ops.nextId hops).trans ((lastUse_nextId u _ _).trans hid)
  obtain ⟨g', o', hg', hpast, hmem, hbare⟩ := issued_laneDone (hgroups ▸ hprimed) (hsplits ▸ h.split) h.clause ht
  exact ⟨t, g', o', hexec, hg', hpast, hmem, (congrArg MOp.id hbare :).trans hnext, (congrArg MOp.kind hbare :),
    (congrArg MOp.esize hbare :), (congrArg MOp.dst hbare :), (congrArg MOp.lanes hbare :), (congrArg MOp.g hbare :).trans ha.1,
    (congrArg MOp.sp hbare :).trans ha.2, (congrArg MOp.clause hbare :)⟩

/-- R404: what meets no obstacle issues. -/
theorem laneMet_of_good (hgood : m.faults = [] ∧ m.absent = [] ∧ m.follow = [] ∧ m.lost = none) (hd : a.ctx.lr.dual = false)
    (hdrain : q.kind.stores = true → s.drainLoads a (some e.c.id) e.c.since m.pieces = some s) :
    s.laneMet e f q a m ws = s.laneIssue e f q a m ws := by
  obtain ⟨hfaults, habsent, hfollow, hlost⟩ := hgood
  have hfirst : m.first = none := by rw [Met.first, hfaults]; rfl
  simp only [State.laneMet, hfirst, hlost, habsent, hfollow, hd]
  by_cases hstores : q.kind.stores = true
  · simp [hstores, hdrain]
  · simp [hstores]

/-- R404: an access that nothing stops, delays or redirects issues. -/
theorem laneMem_of_memClear {want : Nat → Want} (h : MemClear s e a f q want m) :
    s.laneMem e f q want = (asReleased s e.r.g q.ord).laneIssue e f q a m ((e.lanes (e.mask f)).map want) := by
  obtain ⟨hfaults, habsent, hfollow, hlost, -, -⟩ := h.good
  have hrel : ¬ ((q.ord = 2 ∨ q.ord = 3) ∧ s.released e.r.g q.scope = false) := fun ⟨ho, hr⟩ => by
    simp [(h.rel ho).1] at hr
  have hpend : ¬ ((q.ord = 2 ∨ q.ord = 3) ∧ q.scope = 4 ∧ e.g.rfault.pend = true) := fun ⟨ho, _, hp⟩ => by
    simp [(h.rel ho).2] at hp
  have hclean := h.clean
  have hmet := h.met
  rw [asReleased] at hclean hmet
  simp only [State.laneMem, if_neg h.some_, h.acc, h.single, h.free.1, h.free.2, h.budget, if_neg hrel, if_neg hpend, ← hmet, hclean, h.here,
    Bool.false_and, Bool.false_or, Bool.false_eq_true, if_false]
  exact laneMet_of_good ⟨hfaults, habsent, hfollow, hlost⟩ h.single h.first_

theorem asks_of_memClear {want : Nat → Want} {i : Instr} (h : MemClear s e a f q want m)
    (hexec : exec i s = .next (s.laneMem e f q want)) : Asks s e f i q.kind q.n q.dst :=
  laneIssue_asks (laneAt_asReleased h.toLaneAt e.r.g q.ord) (nextId_asReleased ..) (accEnv_eq h.acc)
    (hexec.trans (congrArg _ (laneMem_of_memClear h)))

end Access

/-! ### PREF -/

section Pref

variable {s₀ s : State}

theorem kept_charge {e : Nat} {p : Payer} {pa n : Nat} (h : Kept s₀ s) : Kept s₀ (s.charge e p pa n) := ite_keeps (kept_pay h) h

theorem kept_l1Local {core : Nat × Nat} {e g pa : Nat} (h : Kept s₀ s) : Kept s₀ (s.l1Local core e g pa) := ite_keeps h (kept_l1Fill h)

theorem kept_prefetch {a : AccEnv} {l1 str : Bool} {va : W64} (h : Kept s₀ s) : Kept s₀ (s.prefetch a l1 str va) := by
  unfold State.prefetch
  split
  · refine ite_keeps h ?_
    extract_lets marked line charged touched
    have hmarked : Kept s₀ marked := by
      unfold marked
      split
      exacts [kept_markLeaf h, h]
    have hcharged : Kept s₀ charged := kept_charge (kept_touchPa hmarked)
    have htouched : Kept s₀ touched := ite_keeps (kept_allocLine hcharged) hcharged
    exact ite_keeps (kept_l1Local htouched) htouched
  · exact h

/-- R403: PREF brings lines near, if any, and its clause goes on. -/
theorem exec_pref_kept {e : Env} {f : LaneWord} (h : LaneAt s e) (hl : lastUses [addrSrc f] = []) :
    ∃ u, exec (.pref f) s = .next (u.laneDone e.r) ∧ Kept s u := by
  refine ⟨_, withEnv_of_laneAt h _, ?_⟩
  have hlast : s.lastUse e.r.g (lastUses [addrSrc f]) = s := if_pos hl
  have hpoison (b : Group → Bool) : Kept s (s.modGroup e.r.g (fun g => { g with poison := b g })) := kept_modGroup (fun _ => rfl) (kept_refl s)
  rw [hlast]
  split
  exacts [hpoison _, kept_foldl (fun _ _ h => kept_prefetch h) (hpoison _)]

/-- R403: PREF completes, and without a last use no register changes. -/
theorem exec_pref {e : Env} {f : LaneWord} (h : LaneAt s e) (hl : lastUses [addrSrc f] = []) :
    ∃ t g', exec (.pref f) s = .next t ∧ t.exec.groups[e.r.g]? = some g' ∧ ClausePast g' e ∧ g'.vregs = e.g.vregs ∧
      g'.sregs = e.g.sregs ∧ g'.masks = e.g.masks := by
  obtain ⟨u, hexec, -, hgroups⟩ := exec_pref_kept h hl
  obtain ⟨g, hg, hkept⟩ := group_of_kept hgroups h.group
  obtain ⟨hvregs, hsregs, hmasks, hsplits⟩ : g.vregs = e.g.vregs ∧ g.sregs = e.g.sregs ∧ g.masks = e.g.masks ∧ g.splits = e.g.splits := by
    simpa only [Group.kept, Prod.mk.injEq] using hkept
  obtain ⟨-, g', hg', hpast, hflags⟩ := laneDone_clausePast hg (hsplits ▸ h.split) h.clause
  exact ⟨_, g', hexec, hg', hpast, hflags.vregs.trans hvregs, hflags.sregs.trans hsregs, hflags.masks.trans hmasks⟩

end Pref

/-- Settles O29: an access that nothing stops issues its operation, whose pieces alone may change as it issues; PREF leaves what its group
computes with. -/
theorem laneMemoryInstructionsIssue : Obligations.LaneMemoryInstructionsIssue := by
  refine ⟨fun s e a f m => ⟨fun h => ?_, fun h => ?_, fun h => ?_, fun h => ?_, fun h => ?_⟩, fun s e f h hl => exec_pref h hl⟩
  all_goals exact asks_of_memClear h (withEnv_of_laneAt h.toLaneAt _)

end Sys2Proof.Proofs

/-!
PROOF. BWAIT and BDROP (R435, R437, R439): what each leaves of a berth of the group that its name names, and without one (O36).
-/

namespace Sys2Proof.Proofs

open Sys2Proof.Machine Sys2Proof.Safety Sys2Proof.Laws

/-! ### What issues a berth instruction -/

/-- Who accesses for a group: its team and its context, at the core of the team. -/
theorem inGrid_of_accEnv {s : State} {n k : Nat} {g : Group} {e : AccEnv} (ha : s.accEnv n k = some e) (hg : s.exec.groups[n]? = some g) :
    InGrid s g e.tm e.cn e.ctx ∧ e.core = (e.tm.die, e.tm.site) := by
  simp only [State.accEnv, State.group?, hg] at ha
  cases ht : s.team? g.team with
  | none => simp [ht] at ha
  | some tm =>
    simp only [ht] at ha
    obtain ⟨c, hc, rfl⟩ := Option.map_eq_some_iff.mp ha
    exact ⟨⟨ht, hc, rfl⟩, rfl⟩

/-- R435: with its feature, in a launch that is not dual-run, a berth or stage instruction has its own meaning. -/
theorem berthRun_of_clear {s : State} {r : SplitRef} {g : Group} {sp : Split} {rs : List SReg} {e : AccEnv} {feat : Nat}
    (h : Runs s r g sp rs) (hc : BerthClear s r e feat) (code : Nat) (f : SplitRef → Group → Split → AccEnv → State) :
    berthRun s feat code rs f = .next (f r g sp e) := by
  rw [berthRun, scalarRun_of_runs h]
  simp only [hc.acc, hc.feat, hc.single, Bool.true_eq_false, Bool.false_eq_true, if_false]

/-! ### The use of an owned berth -/

@[simp] theorem store_touchOwned (s : State) (cn : Nat) (o : Owned) : (s.touchOwned cn o).store = s.store := by
  unfold State.touchOwned
  split <;> rfl

@[simp] theorem ownedPoison_touchOwned (s : State) (cn : Nat) (o p : Owned) : (s.touchOwned cn o).ownedPoison p = s.ownedPoison p := by
  rw [State.ownedPoison, store_touchOwned, State.ownedPoison]

@[simp] theorem replays_touch (s : State) (cn bit k : Nat) : (s.touch cn bit).replays k = s.replays k := by
  rw [State.replays, State.ctx?, ctx_touch, State.replays, State.ctx?]
  cases s.exec.ctxs[k]? <;> split_ifs <;> rfl

@[simp] theorem replays_touchOwned (s : State) (cn k : Nat) (o : Owned) : (s.touchOwned cn o).replays k = s.replays k := by
  unfold State.touchOwned
  split
  · exact replays_touch ..
  · rfl

/-- R143: a berth at its home touches its base die. -/
theorem touchOwned_of_home {o : Owned} {h : Nat × Nat} (hh : o.home = some h) (s : State) (cn : Nat) :
    s.touchOwned cn o = s.touch cn (8 + h.1) := by
  rw [State.touchOwned, hh]

/-- A berth at its home is freed there. -/
theorem endOwned_of_home {o : Owned} {h : Nat × Nat} (hh : o.home = some h) (s : State) (n : W64) :
    s.endOwned n o = s.modBerth h.1 h.2 Berth.freed := by
  rw [State.endOwned, hh]

/-- A berth at its home knows its waiter there. -/
theorem waitOwned_of_home {o : Owned} {h : Nat × Nat} (hh : o.home = some h) (s : State) (n : W64) (k : Nat) :
    s.waitOwned n o k = s.modBerth h.1 h.2 (fun b => { b with waiter := some k }) := by
  rw [State.waitOwned, hh]

/-- A split that issues does so still when a berth changes, whose base die is touched. -/
theorem issues_modBerth_touch {s : State} {r : SplitRef} {g : Group} {sp : Split} (h : Issues s r g sp) (cn bd slot : Nat)
    (f : Berth → Berth) : Issues ((s.touch cn (8 + bd)).modBerth bd slot f) r g sp := ⟨h.cur, h.group, h.split⟩

/-- R279: a context without a journal waits for none. -/
theorem jrnlHeld_of_no_journal {jrnl : Bool} (hj : jrnl = false) (s : State) (e : Nat) : s.jrnlHeld e jrnl = false := by
  rw [State.jrnlHeld, hj, Bool.false_and, Bool.false_and]

/-! ### The acquire of BWAIT (R252) -/

section Acquire

variable {s : State} {n : Nat} {g : Group} {tm : Team} {cn : Nat} {c : Ctx}
variable (hg : s.exec.groups[n]? = some g) (hin : InGrid s g tm cn c)
include hg hin

/-- R220: an acquire of a group discards the lines of its team's core. -/
theorem acquire_of_inGrid : s.acquire n = s.flushL1 tm.die tm.site := by
  simp only [State.acquire, State.coreOf, State.group?, hg, State.team?, hin.team]

/-- R252: without a journal, a status of 0 is an acquire alone. -/
theorem bwaitDone_zero_of_no_journal (hj : c.lr.jrnl = false) (k : Nat) : s.bwaitDone n k 0 = s.flushL1 tm.die tm.site := by
  have hsys := sysAcquire_of_no_journal (s := s.flushL1 tm.die tm.site) (r := ⟨n, k⟩) hg ⟨hin.team, hin.ctx, hin.of⟩ hj k
  rw [State.bwaitDone, if_pos rfl, acquire_of_inGrid hg hin]
  exact hsys

end Acquire

theorem bwaitDone_of_nonzero {x : Byte} (hx : x ≠ 0) (s : State) (n k : Nat) : s.bwaitDone n k x = s := if_neg hx

/-- The context of a group after its berth has been freed: with its base die touched, and otherwise as before. -/
theorem inGrid_freed {s : State} {g : Group} {tm : Team} {cn : Nat} {c : Ctx} (hin : InGrid s g tm cn c) (bd slot : Nat) :
    ∃ c', InGrid ((s.touch cn (8 + bd)).modBerth bd slot Berth.freed) g tm cn c' ∧ c'.lr = c.lr :=
  ⟨_, ⟨hin.team, (ctx_touch s cn (8 + bd) cn).trans ((if_pos rfl).trans (congrArg (Option.map _) hin.ctx)), hin.of⟩, rfl⟩

/-- R252, for a split that goes on with a status of 0 in SD. -/
theorem bwaitDone_wrote_zero {s : State} {r : SplitRef} {g : Group} {sp : Split} {tm : Team} {cn : Nat} {c : Ctx} (h : Issues s r g sp)
    (hin : InGrid s g tm cn c) (hj : c.lr.jrnl = false) (pc : W64) (d : SReg) (v : W64) :
    (wrote s r g sp pc d v).bwaitDone r.g r.sp 0 = (wrote s r g sp pc d v).flushL1 tm.die tm.site :=
  bwaitDone_zero_of_no_journal (g := wroteGroup r g sp pc d v) (setGroup_getElem? h.group _) ⟨hin.team, hin.ctx, hin.of⟩ hj r.sp

/-! ### BWAIT -/

section Bwait

variable {s : State} {r : SplitRef} {g : Group} {sp : Split} {d a : SReg} {e : AccEnv} {o : Owned}
variable (h : Runs s r g sp [d, a]) (hc : BerthClear s r e Config.featBerth)
include h hc

/-- R437: a name of no berth of the group gives status 2. -/
theorem exec_bwait_of_none (ho : s.ownedBerth r.g (g.sreg a) = none) : exec (.bwait d a) s = .next (wrote s r g sp (sp.pc + 4) d 2) := by
  change execBwait d a s = _
  rw [execBwait, berthRun_of_clear h hc]
  simp only [ho, finish_eq _ _ _ _ h.toIssues]

variable (ho : s.ownedBerth r.g (g.sreg a) = some o)
include ho

/-- R279: a resolution that cannot be recorded yet is not taken. -/
theorem exec_bwait_of_held (hheld : s.jrnlHeld e.ctx.pent e.ctx.lr.jrnl = true) (hl : o.live = false) : exec (.bwait d a) s = .next s := by
  change execBwait d a s = _
  rw [execBwait, berthRun_of_clear h hc]
  simp only [ho, hheld, hl, Bool.not_false, Bool.and_self, if_true]

/-- R264, R266: a poisoned entry traps (log entry 116). -/
theorem exec_bwait_of_poison (hheld : s.jrnlHeld e.ctx.pent e.ctx.lr.jrnl = false) (hp : s.ownedPoison o = true) :
    exec (.bwait d a) s = .next ((s.touchOwned e.cn o).scalarTrap r sp 13 0 0 0x29) := by
  change execBwait d a s = _
  rw [execBwait, berthRun_of_clear h hc]
  simp only [ho, hheld, Bool.and_false, Bool.false_eq_true, if_false, ownedPoison_touchOwned, hp, if_true]

variable (hrep : s.replays e.cn = false) (hp : s.ownedPoison o = false) (hw : o.waiter = none)
include hrep hp hw

/-- R437, R279: a resolution is taken, after it has been recorded where JRNL is set. -/
theorem exec_bwait_of_resolved (hheld : s.jrnlHeld e.ctx.pent e.ctx.lr.jrnl = false) (hl : o.live = false) {u : State}
    (hu : (s.touchOwned e.cn o).endOwned (g.sreg a) o = u) :
    exec (.bwait d a) s = .next (((if e.ctx.lr.jrnl then u.takeRecorded r.g r.sp e.cn o.k o.bytes o.resolved else u).finish r sp 4 d
      (o.status.zeroExtend 64)).bwaitDone r.g r.sp o.status) := by
  change execBwait d a s = _
  rw [execBwait, berthRun_of_clear h hc]
  simp only [ho, hheld, Bool.and_false, Bool.false_eq_true, if_false, ownedPoison_touchOwned, hp, hw, Option.isSome_none,
    replays_touchOwned, hrep, hl, Bool.not_false, if_true, hu]

/-- R437: of a LIVE berth the split waits. -/
theorem exec_bwait_of_live (hl : o.live = true) : exec (.bwait d a) s =
    .next (((s.touchOwned e.cn o).waitOwned (g.sreg a) o r.sp).putSplit r { sp with status := .bwait, wval := g.sreg a, wreg := d }) := by
  change execBwait d a s = _
  rw [execBwait, berthRun_of_clear h hc]
  simp only [ho, hl, Bool.not_true, Bool.false_and, Bool.false_eq_true, if_false, ownedPoison_touchOwned, hp, hw, Option.isSome_none,
    replays_touchOwned, hrep]

end Bwait

/-! ### BDROP -/

section Bdrop

variable {s : State} {r : SplitRef} {g : Group} {sp : Split} {a : SReg} {e : AccEnv} {o : Owned}
variable (h : Runs s r g sp [a]) (hc : BerthClear s r e Config.featBerth)
include h hc

/-- R439: a name of no berth of the group is passed over. -/
theorem exec_bdrop_of_none (ho : s.ownedBerth r.g (g.sreg a) = none) : exec (.bdrop a) s = .next (moved s r g sp (sp.pc + 4)) := by
  change execBdrop a s = _
  rw [execBdrop, berthRun_of_clear h hc]
  simp only [ho, finish0_eq _ _ h.toIssues]

variable (ho : s.ownedBerth r.g (g.sreg a) = some o)
include ho

/-- R279: a drop that cannot be recorded yet waits. -/
theorem exec_bdrop_of_held (hheld : s.jrnlHeld e.ctx.pent e.ctx.lr.jrnl = true) : exec (.bdrop a) s = .next s := by
  change execBdrop a s = _
  rw [execBdrop, berthRun_of_clear h hc]
  simp only [ho, hheld, if_true]

variable (hheld : s.jrnlHeld e.ctx.pent e.ctx.lr.jrnl = false)
include hheld

/-- R264, R266: a poisoned entry traps (log entry 116). -/
theorem exec_bdrop_of_poison (hp : s.ownedPoison o = true) :
    exec (.bdrop a) s = .next ((s.touchOwned e.cn o).scalarTrap r sp 13 0 0 0x2B) := by
  change execBdrop a s = _
  rw [execBdrop, berthRun_of_clear h hc]
  simp only [ho, hheld, Bool.false_eq_true, if_false, ownedPoison_touchOwned, hp, if_true]

/-- R439, R279: the berth is freed, after its resolution, or a status of 2, has been recorded where JRNL is set. -/
theorem exec_bdrop_of_clean (hrep : s.replays e.cn = false) (hp : s.ownedPoison o = false) (hw : o.waiter = none) {t : State}
    (ht : s.touchOwned e.cn o = t) :
    exec (.bdrop a) s = .next (((if e.ctx.lr.jrnl then t.takeRecorded r.g r.sp e.cn o.k o.bytes
      (if o.live then { status := 2, data := [], stage := false } else o.resolved) else t).endOwned (g.sreg a) o).finish0 r sp 4) := by
  change execBdrop a s = _
  rw [execBdrop, berthRun_of_clear h hc]
  simp only [ho, hheld, Bool.false_eq_true, if_false, ownedPoison_touchOwned, hp, hw, replays_touchOwned, hrep, Bool.false_and]
  subst ht
  cases e.ctx.lr.jrnl <;> rfl

end Bdrop

/-- Settles O36: a name of no berth, a journal that holds, a poisoned entry, a resolution that is taken, and a wait. -/
theorem bwaitAndBdropActOnTheGroupsBerths : Obligations.BwaitAndBdropActOnTheGroupsBerths := by
  intro s r g sp d a e hc hrep n trap freed held
  refine ⟨fun h => ⟨exec_bwait_of_none h hc, fun o ho => exec_bwait_of_held h hc ho, fun o ho => exec_bwait_of_poison h hc ho,
      fun o b ho hb hp hw => ?bwait⟩,
    fun h => ⟨exec_bdrop_of_none h hc, fun o ho => exec_bdrop_of_held h hc ho, fun o ho => exec_bdrop_of_poison h hc ho,
      fun o b ho hb hp hw hj hheld => ?recorded, fun o b ho hb hp hw hj => ?dropped⟩⟩
  case bwait =>
    have hfreed : Issues (freed b) r g sp := issues_modBerth_touch h.toIssues e.cn b.1 b.2 Berth.freed
    have hended : (s.touchOwned e.cn o).endOwned n o = freed b := by rw [touchOwned_of_home hb, endOwned_of_home hb]
    have hplain (hj : e.ctx.lr.jrnl = false) (hl : o.live = false) : exec (.bwait d a) s =
        .next ((wrote (freed b) r g sp (sp.pc + 4) d (o.status.zeroExtend 64)).bwaitDone r.g r.sp o.status) := by
      rw [exec_bwait_of_resolved h hc ho hrep hp hw (jrnlHeld_of_no_journal hj ..) hl hended, if_neg (ne_true_of_eq_false hj),
        finish_eq _ _ _ _ hfreed]
    refine ⟨fun hl hj hheld => ?_, fun hl hj hx => ?_, fun hl hj hx => ?_, fun hl hs => ?_⟩
    · rw [exec_bwait_of_resolved h hc ho hrep hp hw hheld hl hended, if_pos hj]
    · rw [hplain hj hl, bwaitDone_of_nonzero hx]
    · obtain ⟨hin, hcore⟩ := inGrid_of_accEnv hc.acc h.group
      obtain ⟨c', hin', hlr⟩ := inGrid_freed hin b.1 b.2
      rw [hplain hj hl, hx, bwaitDone_wrote_zero hfreed hin' (hlr ▸ hj), hcore]
      rfl
    · rw [exec_bwait_of_live h hc ho hrep hp hw hl, touchOwned_of_home hb, waitOwned_of_home hb,
        putSplit_of_steady (issues_modBerth_touch h.toIssues ..) hs (by simp)]
  case recorded =>
    rw [exec_bdrop_of_clean h hc ho hheld hrep hp hw (touchOwned_of_home hb ..), if_pos hj, endOwned_of_home hb]
  case dropped =>
    rw [exec_bdrop_of_clean h hc ho (jrnlHeld_of_no_journal hj ..) hrep hp hw (touchOwned_of_home hb ..), if_neg (ne_true_of_eq_false hj),
      endOwned_of_home hb, finish0_eq _ _ (issues_modBerth_touch h.toIssues ..)]

end Sys2Proof.Proofs

/-!
PROOF. The fields of a word (R310, R313, R316, R425): a word is the one put together from some parts exactly when its fields read them.
-/

namespace Sys2Proof.Proofs

/-! ### Parts of bit vectors -/

/-- What is put side by side can be told apart. The width of the lower part is explicit, since unification does not find it in the
width of a word. -/
theorem append_inj (k : Nat) {v : Nat} {x x' : BitVec v} {y y' : BitVec k} : x ++ y = x' ++ y' ↔ x = x' ∧ y = y' := by
  refine ⟨fun h => ⟨?_, ?_⟩, fun ⟨hx, hy⟩ => hx ▸ hy ▸ rfl⟩
  · simpa only [BitVec.extractLsb'_append_eq_left] using congrArg (BitVec.extractLsb' k v) h
  · simpa only [BitVec.extractLsb'_append_eq_right] using congrArg (BitVec.extractLsb' 0 k) h

/-- A part is a higher and a lower one side by side. -/
theorem extract_eq_append {n : Nat} (w : BitVec n) (lo k : Nat) {v : Nat} {x : BitVec v} {y : BitVec k} :
    w.extractLsb' lo (v + k) = x ++ y ↔ w.extractLsb' (lo + k) v = x ∧ w.extractLsb' lo k = y := by
  rw [← append_inj k, BitVec.extractLsb'_append_extractLsb'_eq_extractLsb' rfl]

theorem bit1_inj : ∀ {b c : Bool}, bit1 b = bit1 c ↔ b = c := by decide

/-- A field of one bit, as a flag. -/
theorem eq_bit1_iff : ∀ {x : BitVec 1} {b : Bool}, x = bit1 b ↔ decide (x = (1 : BitVec 1)) = b := by decide

theorem eq_ofNat_of_toNat {n k : Nat} {x : BitVec n} (h : x.toNat = k) : x = BitVec.ofNat n k := by
  rw [← h, BitVec.ofNat_toNat, BitVec.setWidth_eq]

/-! ### The formats of scalar words (R310) -/

section Formats

variable {w : W32} {op : BitVec 6} {d a b : SReg} {fn : Byte} {i : BitVec 14}

theorem eq_iff_fieldOf {v : W32} : w = v ↔ fieldOf w 0 32 = v := by rw [fieldOf, BitVec.extractLsb'_eq_self]

/-- S.R. -/
theorem eq_encR_iff : w = encR op d a b fn ↔ sop w = op ∧ fSD w = d ∧ fSA w = a ∧ fSB w = b ∧ fSFN w = fn := by
  rw [eq_iff_fieldOf, encR, fieldOf, extract_eq_append w 0 8, extract_eq_append w 8 6, extract_eq_append w 14 6, extract_eq_append w 20 6]
  simp only [and_assoc]
  rfl

/-- S.I. -/
theorem eq_encI_iff : w = encI op d a i ↔ sop w = op ∧ fSD w = d ∧ fSA w = a ∧ fSIMM w = i := by
  rw [eq_iff_fieldOf, encI, fieldOf, extract_eq_append w 0 14, extract_eq_append w 14 6, extract_eq_append w 20 6]
  simp only [and_assoc]
  rfl

/-- S.J. -/
theorem eq_encJ_iff {o : BitVec 26} : w = encJ op o ↔ sop w = op ∧ fieldOf w 0 26 = o := by
  rw [eq_iff_fieldOf, encJ, fieldOf, extract_eq_append w 0 26]
  rfl

/-- BRC's word (R347). -/
theorem eq_brcWord_iff {c : BitVec 3} {o : BitVec 11} :
    w = op ++ d ++ a ++ c ++ o ↔ sop w = op ∧ fSD w = d ∧ fSA w = a ∧ fieldOf w 11 3 = c ∧ fieldOf w 0 11 = o := by
  rw [eq_iff_fieldOf, fieldOf, extract_eq_append w 0 11, extract_eq_append w 11 3, extract_eq_append w 14 6, extract_eq_append w 20 6]
  simp only [and_assoc]
  rfl

/-- BSPL's first word (R350). -/
theorem eq_bsplWord_iff {m : BitVec 3} {inv : Bool} {z : BitVec 22} : w = op ++ m ++ bit1 inv ++ z ↔
    sop w = op ∧ fieldOf w 23 3 = m ∧ decide ((fieldOf w 22 1 : BitVec 1) = 1) = inv ∧ fieldOf w 0 22 = z := by
  rw [← eq_bit1_iff, eq_iff_fieldOf, fieldOf, extract_eq_append w 0 22, extract_eq_append w 22 1, extract_eq_append w 23 3]
  simp only [and_assoc]
  rfl

/-- BSPL's second word (R350). -/
theorem eq_targets_iff {tgt jn : W16} : w = tgt ++ jn ↔ fieldOf w 16 16 = tgt ∧ fieldOf w 0 16 = jn := by
  rw [eq_iff_fieldOf, fieldOf, extract_eq_append w 0 16]
  rfl

/-- WAITF's word (R353). -/
theorem eq_waitfWord_iff {any : Bool} {z : BitVec 13} {m : BitVec 12} : w = op ++ bit1 any ++ z ++ m ↔
    sop w = op ∧ decide ((fieldOf w 25 1 : BitVec 1) = 1) = any ∧ fieldOf w 12 13 = z ∧ fieldOf w 0 12 = m := by
  rw [← eq_bit1_iff, eq_iff_fieldOf, fieldOf, extract_eq_append w 0 12, extract_eq_append w 12 13, extract_eq_append w 25 1]
  simp only [and_assoc]
  rfl

/-- SEG's word (R355). -/
theorem eq_segWord_iff {z : BitVec 23} {c : BitVec 3} : w = op ++ z ++ c ↔ sop w = op ∧ fieldOf w 3 23 = z ∧ fieldOf w 0 3 = c := by
  rw [eq_iff_fieldOf, fieldOf, extract_eq_append w 0 3, extract_eq_append w 3 23]
  simp only [and_assoc]
  rfl

/-- SFN as a barrier's number and an operation (R356, R359). -/
theorem fSFN_eq_append4_iff {n k : BitVec 4} : fSFN w = n ++ k ↔ fieldOf w 4 4 = n ∧ fieldOf w 0 4 = k :=
  extract_eq_append w 0 4

/-- SFN as a code of two bits and a register or a tile (R361, R425, R434, R435). -/
theorem fSFN_eq_append6_iff {l : BitVec 2} {h : BitVec 6} : fSFN w = l ++ h ↔ fieldOf w 6 2 = l ∧ fieldOf w 0 6 = h :=
  extract_eq_append w 0 6

/-- SFN as BPUT's size below zero bits (R435). -/
theorem fSFN_eq_append2_iff {z : BitVec 6} {s : BitVec 2} : fSFN w = z ++ s ↔ fieldOf w 2 6 = z ∧ fieldOf w 0 2 = s :=
  extract_eq_append w 0 2

/-- SFN as FENCE's kind and scope below zero bits (R222). -/
theorem fSFN_eq_fence_iff {z : BitVec 3} {k : BitVec 2} {s : BitVec 3} :
    fSFN w = z ++ k ++ s ↔ fieldOf w 5 3 = z ∧ fieldOf w 3 2 = k ∧ fieldOf w 0 3 = s := by
  rw [fSFN, fieldOf, extract_eq_append w 0 3, extract_eq_append w 3 2, and_assoc]
  rfl

/-- SIMM14 as a shift count below zero bits (R343). -/
theorem fSIMM_eq_append_iff {z : BitVec 8} {n : BitVec 6} : fSIMM w = z ++ n ↔ fieldOf w 6 8 = z ∧ fieldOf w 0 6 = n :=
  extract_eq_append w 0 6

end Formats

/-! ### DRAY's second word (R425) -/

theorem eq_encDrayWord_iff {w : W32} {x : DrayWord} : w = encDrayWord x ↔ (fieldOf w 16 4 : BitVec 4) = 0 ∧ drayWord w = x := by
  obtain ⟨bar, cnt, flag, fv, cls, rowoff⟩ := x
  rw [eq_iff_fieldOf, encDrayWord, fieldOf, extract_eq_append w 0 16, extract_eq_append w 16 4, extract_eq_append w 20 2,
    extract_eq_append w 22 1, extract_eq_append w 23 4, extract_eq_append w 27 1, eq_bit1_iff, eq_bit1_iff]
  simp only [drayWord, DrayWord.mk.injEq, and_assoc, fieldOf]
  tauto

/-! ### The word of a lane instruction (R316) -/

theorem extract_eq_bit1_iff {n : Nat} {w : BitVec n} {j : Nat} {b : Bool} : w.extractLsb' j 1 = bit1 b ↔ w.getLsbD j = b := by
  rw [eq_bit1_iff, BitVec.getLsbD_eq_extractLsb']
  rfl

theorem eq_encLane_iff {w : W96} {lop : Byte} {f : LaneWord} : w = encLane lop f ↔ w.extractLsb' 88 8 = lop ∧ laneFields w = f := by
  obtain ⟨dst, sa, sb, sc, ka, kb, kc, la, kpa, lb, kpb, lc, kpc, msk, mnot, ty, rm, fs, cw, cnd, mod, imm⟩ := f
  have hw : ∀ v : W96, w = v ↔ w.extractLsb' 0 96 = v := fun v => by rw [BitVec.extractLsb'_eq_self]
  rw [hw, encLane, extract_eq_append w 0 16, extract_eq_append w 16 9, extract_eq_append w 25 4, extract_eq_append w 29 1,
    extract_eq_append w 30 3, extract_eq_append w 33 3, extract_eq_append w 36 4, extract_eq_append w 40 1, extract_eq_append w 41 3,
    extract_eq_append w 44 1, extract_eq_append w 45 1, extract_eq_append w 46 1, extract_eq_append w 47 1, extract_eq_append w 48 1,
    extract_eq_append w 49 1, extract_eq_append w 50 2, extract_eq_append w 52 2, extract_eq_append w 54 2, extract_eq_append w 56 8,
    extract_eq_append w 64 8, extract_eq_append w 72 8, extract_eq_append w 80 8]
  simp only [extract_eq_bit1_iff, laneFields, LaneWord.mk.injEq, and_assoc]

end Sys2Proof.Proofs

/-!
PROOF. O59: what the decoder reads an instruction from are its words (R312 to R316, R329, R330). A row tells what the fields of the word
hold, and they make up the word that the encoding gives.
-/

namespace Sys2Proof.Proofs

/-- An instruction is well formed, and its words are w, or w and x. -/
def Encodes (i : Instr) (w x : W32) : Prop := i.wf = true ∧ (encode i = some (.one w) ∨ encode i = some (.two w x))

/-- The code of two bits that a decoder's last row stands for. -/
theorem eq_three_of_ne : ∀ {x : BitVec 2}, (x.toNat = 0 → False) → (x.toNat = 1 → False) → (x.toNat = 2 → False) → x = 3 := by decide

section Scalar

variable {w x : W32} {i : Instr}

theorem Encodes.one {v : W32} (hv : w = v) (he : encode i = some (.one v)) (hwf : i.wf = true) : Encodes i w x :=
  ⟨hwf, .inl (hv ▸ he)⟩

theorem Encodes.two {v y : W32} (hv : w = v) (hy : x = y) (he : encode i = some (.two v y)) (hwf : i.wf = true) : Encodes i w x :=
  ⟨hwf, .inr (hv ▸ hy ▸ he)⟩

/-! ### The groups of scalar words (R314, R340, R356, R359, R222, R425) -/

theorem encodes_of_decodeSys (hop : sop w = 0x00) (h : decodeSys w = some i) : Encodes i w x := by
  unfold decodeSys at h
  split at h
  case h_12 => cases h
  case h_7 hfn | h_9 hfn | h_10 hfn =>
    obtain ⟨⟨hd, hb⟩, rfl⟩ := Option.ite_some_none_eq_some.mp h
    exact .one (eq_encR_iff.mpr ⟨hop, hd, rfl, hb, eq_ofNat_of_toNat hfn⟩) rfl rfl
  case h_8 hfn =>
    obtain ⟨⟨ha, hb⟩, rfl⟩ := Option.ite_some_none_eq_some.mp h
    exact .one (eq_encR_iff.mpr ⟨hop, rfl, ha, hb, eq_ofNat_of_toNat hfn⟩) rfl rfl
  all_goals
    next hfn =>
    obtain ⟨⟨hd, ha, hb⟩, rfl⟩ := Option.ite_some_none_eq_some.mp h
    exact .one (eq_encR_iff.mpr ⟨hop, hd, ha, hb, eq_ofNat_of_toNat hfn⟩) rfl rfl

theorem encodes_of_decodeAlu (hop : sop w = 0x01) (h : decodeAlu w = some i) : Encodes i w x := by
  unfold decodeAlu at h
  split at h
  case h_27 => cases h
  case h_25 hfn | h_26 hfn =>
    obtain ⟨hb, rfl⟩ := Option.ite_some_none_eq_some.mp h
    exact .one (eq_encR_iff.mpr ⟨hop, rfl, rfl, hb, eq_ofNat_of_toNat hfn⟩) rfl rfl
  all_goals
    next hfn =>
    cases h
    exact .one (eq_encR_iff.mpr ⟨hop, rfl, rfl, rfl, eq_ofNat_of_toNat hfn⟩) rfl rfl

/-- A shift immediate (R343). -/
theorem eq_of_shiftImm {op : BitVec 6} {mk : SReg → SReg → BitVec 6 → Instr} (hop : sop w = op) (h : shiftImm w mk = some i) :
    ∃ d a n, i = mk d a n ∧ w = encI op d a ((0 : BitVec 8) ++ n) := by
  rw [shiftImm, Option.ite_none_right_eq_some, Option.some.injEq] at h
  obtain ⟨hz, rfl⟩ := h
  exact ⟨_, _, _, rfl, eq_encI_iff.mpr ⟨hop, rfl, rfl, fSIMM_eq_append_iff.mpr ⟨hz, rfl⟩⟩⟩

theorem encodes_of_decodeTbar (hop : sop w = 0x18) (h : decodeTbar w = some i) : Encodes i w x := by
  unfold decodeTbar at h
  split at h
  case h_4 hk =>
    cases h
    exact .one (eq_encR_iff.mpr ⟨hop, rfl, rfl, rfl, fSFN_eq_append4_iff.mpr ⟨rfl, eq_ofNat_of_toNat hk⟩⟩) rfl rfl
  case h_5 hk =>
    obtain ⟨ha, rfl⟩ := Option.ite_some_none_eq_some.mp h
    exact .one (eq_encR_iff.mpr ⟨hop, rfl, ha, rfl, fSFN_eq_append4_iff.mpr ⟨rfl, eq_ofNat_of_toNat hk⟩⟩) rfl rfl
  case h_7 => cases h
  all_goals
    next hk =>
    obtain ⟨⟨ha, hb⟩, rfl⟩ := Option.ite_some_none_eq_some.mp h
    exact .one (eq_encR_iff.mpr ⟨hop, rfl, ha, hb, fSFN_eq_append4_iff.mpr ⟨rfl, eq_ofNat_of_toNat hk⟩⟩) rfl rfl

theorem encodes_of_decodeCbar (hop : sop w = 0x19) (h : decodeCbar w = some i) : Encodes i w x := by
  simp only [decodeCbar, Option.ite_none_right_eq_some] at h
  obtain ⟨⟨ha, hb, hz⟩, h⟩ := h
  split at h
  case h_4 => cases h
  all_goals
    next hk =>
    cases h
    exact .one (eq_encR_iff.mpr ⟨hop, rfl, ha, hb, fSFN_eq_append4_iff.mpr ⟨hz, eq_ofNat_of_toNat hk⟩⟩) rfl rfl

theorem encodes_of_decodeFence (hop : sop w = 0x1A) (h : decodeFence w = some i) : Encodes i w x := by
  simp only [decodeFence, Option.ite_none_right_eq_some] at h
  obtain ⟨⟨hd, ha, hb, hz, hs⟩, h⟩ := h
  have hword : ∀ k : BitVec 2, (fieldOf w 3 2 : BitVec 2) = k →
      w = encR 0x1A 0 0 0 ((0 : BitVec 3) ++ k ++ (fieldOf w 0 3 : BitVec 3)) := fun k hk =>
    eq_encR_iff.mpr ⟨hop, hd, ha, hb, fSFN_eq_fence_iff.mpr ⟨hz, hk, rfl⟩⟩
  split at h
  case h_4 h0 h1 h2 =>
    cases h
    exact .one (hword 3 (eq_three_of_ne h0 h1 h2)) rfl (decide_eq_true hs)
  all_goals
    next hk =>
    cases h
    exact .one (hword _ (eq_ofNat_of_toNat hk)) rfl (decide_eq_true hs)

theorem encodes_of_decodeDray (hop : sop w = 0x24) (h : decodeDray w x = some i) : Encodes i w x := by
  simp only [decodeDray, Option.ite_none_right_eq_some] at h
  obtain ⟨⟨hd, hz, hwf⟩, h⟩ := h
  have hx : x = encDrayWord (drayWord x) := eq_encDrayWord_iff.mpr ⟨hz, rfl⟩
  split at h
  case h_1 hk | h_2 hk =>
    cases h
    exact .two (eq_encR_iff.mpr ⟨hop, hd, rfl, rfl, fSFN_eq_append6_iff.mpr ⟨eq_ofNat_of_toNat hk, rfl⟩⟩) hx rfl hwf
  case h_3 hk =>
    obtain ⟨hb, rfl⟩ := Option.ite_some_none_eq_some.mp h
    exact .two (eq_encR_iff.mpr ⟨hop, hd, rfl, hb, fSFN_eq_append6_iff.mpr ⟨eq_ofNat_of_toNat hk, rfl⟩⟩) hx rfl hwf
  case h_4 h0 h1 h2 =>
    obtain ⟨⟨htile, hoff⟩, rfl⟩ := Option.ite_some_none_eq_some.mp h
    exact .two (eq_encR_iff.mpr ⟨hop, hd, rfl, rfl, fSFN_eq_append6_iff.mpr ⟨eq_three_of_ne h0 h1 h2, htile⟩⟩) hx rfl
      (Bool.and_eq_true_iff.mpr ⟨hwf, beq_iff_eq.mpr hoff⟩)

/-! ### The scalar decoder (R310 to R315) -/

theorem encodes_of_decodeScalar (h : decodeScalar w x = some i) : Encodes i w x := by
  unfold decodeScalar at h
  -- the cases are numbered as the rows of `decodeScalar` stand
  split at h
  -- the groups: SYS, ALU, TBAR, CBAR, FENCE and DRAY
  case h_1 hop => exact encodes_of_decodeSys (eq_ofNat_of_toNat hop) h
  case h_2 hop => exact encodes_of_decodeAlu (eq_ofNat_of_toNat hop) h
  case h_25 hop => exact encodes_of_decodeTbar (eq_ofNat_of_toNat hop) h
  case h_26 hop => exact encodes_of_decodeCbar (eq_ofNat_of_toNat hop) h
  case h_27 hop => exact encodes_of_decodeFence (eq_ofNat_of_toNat hop) h
  case h_33 hop => exact encodes_of_decodeDray (eq_ofNat_of_toNat hop) h
  -- the shifts
  case h_7 hop | h_8 hop | h_9 hop =>
    obtain ⟨d, a, n, rfl, hw⟩ := eq_of_shiftImm (eq_ofNat_of_toNat hop) h
    exact .one hw rfl rfl
  -- LIW
  case h_12 hop =>
    simp only [Option.ite_none_right_eq_some] at h
    obtain ⟨⟨ha, hb⟩, h⟩ := h
    split at h
    case h_4 => cases h
    all_goals
      next hfn =>
      cases h
      exact .two (eq_encR_iff.mpr ⟨eq_ofNat_of_toNat hop, rfl, ha, hb, eq_ofNat_of_toNat hfn⟩) rfl rfl rfl
  -- BRC
  case h_17 hop =>
    obtain ⟨hc, rfl⟩ := Option.ite_some_none_eq_some.mp h
    exact .one (eq_brcWord_iff.mpr ⟨eq_ofNat_of_toNat hop, rfl, rfl, rfl, rfl⟩) rfl (decide_eq_true hc)
  -- JMP, CALL and RUN
  case h_18 hop | h_19 hop | h_21 hop =>
    cases h
    exact .one (eq_encJ_iff.mpr ⟨eq_ofNat_of_toNat hop, rfl⟩) rfl rfl
  -- BSPL
  case h_20 hop =>
    obtain ⟨hz, rfl⟩ := Option.ite_some_none_eq_some.mp h
    exact .two (eq_bsplWord_iff.mpr ⟨eq_ofNat_of_toNat hop, rfl, rfl, hz⟩) (eq_targets_iff.mpr ⟨rfl, rfl⟩) rfl rfl
  -- WAITF
  case h_22 hop =>
    obtain ⟨hz, rfl⟩ := Option.ite_some_none_eq_some.mp h
    exact .one (eq_waitfWord_iff.mpr ⟨eq_ofNat_of_toNat hop, rfl, hz, rfl⟩) rfl rfl
  -- SEG
  case h_23 hop =>
    obtain ⟨⟨hz, hc⟩, rfl⟩ := Option.ite_some_none_eq_some.mp h
    exact .one (eq_segWord_iff.mpr ⟨eq_ofNat_of_toNat hop, hz, rfl⟩) rfl
      (Bool.and_eq_true_iff.mpr (hc.imp decide_eq_true decide_eq_true))
  -- TRAP and SMW
  case h_24 hop | h_29 hop =>
    obtain ⟨hd, rfl⟩ := Option.ite_some_none_eq_some.mp h
    exact .one (eq_encI_iff.mpr ⟨eq_ofNat_of_toNat hop, hd, rfl, rfl⟩) rfl rfl
  -- SMR
  case h_28 hop =>
    obtain ⟨ha, rfl⟩ := Option.ite_some_none_eq_some.mp h
    exact .one (eq_encI_iff.mpr ⟨eq_ofNat_of_toNat hop, rfl, ha, rfl⟩) rfl rfl
  -- TALLOC
  case h_30 hop =>
    cases h
    exact .one (eq_encR_iff.mpr ⟨eq_ofNat_of_toNat hop, rfl, rfl, rfl, fSFN_eq_append6_iff.mpr ⟨rfl, rfl⟩⟩) rfl rfl
  -- TFREE and TINFO
  case h_31 hop | h_32 hop =>
    obtain ⟨⟨ha, hb⟩, rfl⟩ := Option.ite_some_none_eq_some.mp h
    exact .one (eq_encR_iff.mpr ⟨eq_ofNat_of_toNat hop, rfl, ha, hb, fSFN_eq_append6_iff.mpr ⟨rfl, rfl⟩⟩) rfl rfl
  -- DPROBE
  case h_34 hop =>
    obtain ⟨hz, rfl⟩ := Option.ite_some_none_eq_some.mp h
    exact .one (eq_encR_iff.mpr ⟨eq_ofNat_of_toNat hop, rfl, rfl, rfl, fSFN_eq_append6_iff.mpr ⟨hz, rfl⟩⟩) rfl rfl
  -- BMINT
  case h_35 hop =>
    obtain ⟨⟨hb, hwf⟩, rfl⟩ := Option.ite_some_none_eq_some.mp h
    exact .one (eq_encR_iff.mpr ⟨eq_ofNat_of_toNat hop, rfl, rfl, hb, fSFN_eq_append6_iff.mpr ⟨rfl, rfl⟩⟩) rfl hwf
  -- BWAIT
  case h_36 hop =>
    obtain ⟨⟨hb, hfn⟩, rfl⟩ := Option.ite_some_none_eq_some.mp h
    exact .one (eq_encR_iff.mpr ⟨eq_ofNat_of_toNat hop, rfl, rfl, hb, hfn⟩) rfl rfl
  -- BPUT
  case h_37 hop =>
    obtain ⟨⟨hd, hz, hwf⟩, rfl⟩ := Option.ite_some_none_eq_some.mp h
    exact .one (eq_encR_iff.mpr ⟨eq_ofNat_of_toNat hop, hd, rfl, rfl, fSFN_eq_append2_iff.mpr ⟨hz, rfl⟩⟩) rfl hwf
  -- BDROP
  case h_38 hop =>
    obtain ⟨⟨hd, hb, hfn⟩, rfl⟩ := Option.ite_some_none_eq_some.mp h
    exact .one (eq_encR_iff.mpr ⟨eq_ofNat_of_toNat hop, hd, rfl, hb, hfn⟩) rfl rfl
  -- STAGE
  case h_39 hop =>
    obtain ⟨hfn, rfl⟩ := Option.ite_some_none_eq_some.mp h
    exact .one (eq_encR_iff.mpr ⟨eq_ofNat_of_toNat hop, rfl, rfl, rfl, hfn⟩) rfl rfl
  -- no row
  case h_40 => cases h
  -- the other immediate forms
  all_goals
    next hop =>
    cases h
    exact .one (eq_encI_iff.mpr ⟨eq_ofNat_of_toNat hop, rfl, rfl, rfl⟩) rfl rfl

end Scalar

/-! ### The lane decoder (R316, R329, R330) -/

/-- Whatever instruction is read from a lane word is well formed, and the word is its word. -/
theorem encode_of_laneOf (lop : Byte) (f : LaneWord) :
    (laneOf lop.toNat f).elim True (fun i => i.wf = true ∧ encode i = some (.lane (encLane lop f))) := by
  have hword {k : Nat} (h : lop.toNat = k) : some (Words.lane (encLane (BitVec.ofNat 8 k) f)) = some (.lane (encLane lop f)) :=
    congrArg (fun l => some (Words.lane (encLane l f))) (eq_ofNat_of_toNat h).symm
  unfold laneOf
  split
  -- CVTS, whose row MOD selects
  case h_49 hlop =>
    split
    case isTrue hmod => exact ⟨hmod, hword hlop⟩
    case isFalse hmod => exact ⟨(Bool.not_eq_true' _).mpr ((Bool.not_eq_true _).mp hmod), hword hlop⟩
  -- MCOPY, likewise
  case h_58 hlop =>
    split
    case h_4 h0 h1 h2 => exact ⟨beq_iff_eq.mpr (eq_three_of_ne h0 h1 h2), hword hlop⟩
    all_goals
      next hmod => exact ⟨beq_iff_eq.mpr (eq_ofNat_of_toNat hmod), hword hlop⟩
  case h_77 => trivial
  all_goals
    next hlop => exact ⟨rfl, hword hlop⟩

/-! ### Both decoders -/

theorem decode_ok_iff {w x : W32} {i : Instr} : decode w x = .ok i ↔ decodeScalar w x = some i := by
  unfold decode
  split <;> simp_all

theorem decodeLane_ok_iff {w : W96} {i : Instr} : decodeLane w = .ok i ↔
    (w.extractLsb' 88 8 : Byte) ≠ 0xFC ∧ laneOf (w.extractLsb' 88 8).toNat (laneFields w) = some i := by
  simp only [decodeLane]
  generalize w.extractLsb' 88 8 = lop
  by_cases hlop : lop = 0xFC
  · simp [hlop]
  · rw [if_neg hlop, and_iff_right hlop]
    cases laneOf lop.toNat (laneFields w) <;> simp

/-- Settles O59: each row of the decoder fixes the fields that its encoding puts into the word, and a word is its fields. -/
theorem encodingTheDecodedGivesTheWords : Obligations.EncodingTheDecodedGivesTheWords := by
  refine ⟨fun w x i h => encodes_of_decodeScalar (decode_ok_iff.mp h), fun w i h => ?_⟩
  obtain ⟨-, hi⟩ := decodeLane_ok_iff.mp h
  obtain ⟨hwf, he⟩ : i.wf = true ∧ _ := hi ▸ encode_of_laneOf (w.extractLsb' 88 8) (laneFields w)
  have hw : w = encLane (w.extractLsb' 88 8) (laneFields w) := eq_encLane_iff.mpr ⟨rfl, rfl⟩
  exact ⟨hwf, he.trans (congrArg (fun w => some (Words.lane w)) hw.symm)⟩

end Sys2Proof.Proofs

/-!
PROOF. O58: from the words of a well-formed instruction the decoder reads that instruction (R312 to R316, R329, R330). The fields of its
words are those that its encoding names, and they select its row; and O60, words written out.
-/

namespace Sys2Proof.Proofs

/-- The decoders read an instruction from words. -/
def ReadFrom (i : Instr) : Words → Prop
  | .one w => ∀ x, decodeScalar w x = some i
  | .two w x => decodeScalar w x = some i
  | .lane w => decodeLane w = .ok i

/-! ### Scalar words by their fields (R310) -/

section Fields

variable {op : BitVec 6} {d a b : SReg} {fn : Byte} {imm : BitVec 14} {x : W32} {i : Instr}

/-- The decoder reads an instruction from an S.R word when it reads it from every word with those fields. -/
theorem decodeScalar_encR
    (h : ∀ w, sop w = op → fSD w = d → fSA w = a → fSB w = b → fSFN w = fn → decodeScalar w x = some i) :
    decodeScalar (encR op d a b fn) x = some i := by
  obtain ⟨hop, hd, ha, hb, hfn⟩ := eq_encR_iff.mp (Eq.refl (encR op d a b fn))
  exact h _ hop hd ha hb hfn

/-- The same for an S.I word. -/
theorem decodeScalar_encI (h : ∀ w, sop w = op → fSD w = d → fSA w = a → fSIMM w = imm → decodeScalar w x = some i) :
    decodeScalar (encI op d a imm) x = some i := by
  obtain ⟨hop, hd, ha, hi⟩ := eq_encI_iff.mp (Eq.refl (encI op d a imm))
  exact h _ hop hd ha hi

/-- The same for an S.J word. -/
theorem decodeScalar_encJ {o : BitVec 26} (h : ∀ w, sop w = op → fieldOf w 0 26 = o → decodeScalar w x = some i) :
    decodeScalar (encJ op o) x = some i := by
  obtain ⟨hop, ho⟩ := eq_encJ_iff.mp (Eq.refl (encJ op o))
  exact h _ hop ho

end Fields

/-! ### The groups of scalar words (R314) -/

section Groups

variable {w x : W32}

theorem decodeScalar_of_sys (hop : sop w = 0x00) : decodeScalar w x = decodeSys w := by
  rw [decodeScalar, hop]
  rfl

theorem decodeScalar_of_alu (hop : sop w = 0x01) : decodeScalar w x = decodeAlu w := by
  rw [decodeScalar, hop]
  rfl

theorem decodeScalar_of_tbar (hop : sop w = 0x18) : decodeScalar w x = decodeTbar w := by
  rw [decodeScalar, hop]
  rfl

theorem decodeScalar_of_cbar (hop : sop w = 0x19) : decodeScalar w x = decodeCbar w := by
  rw [decodeScalar, hop]
  rfl

theorem decodeScalar_of_fence (hop : sop w = 0x1A) : decodeScalar w x = decodeFence w := by
  rw [decodeScalar, hop]
  rfl

theorem decodeScalar_of_dray (hop : sop w = 0x24) : decodeScalar w x = decodeDray w x := by
  rw [decodeScalar, hop]
  rfl

end Groups

/-! ### Lane words (R316, R329, R330) -/

theorem decodeLane_encLane {lop : Byte} {f : LaneWord} {i : Instr} (hlop : lop ≠ 0xFC) (hi : laneOf lop.toNat f = some i) :
    decodeLane (encLane lop f) = .ok i := by
  obtain ⟨hl, hf⟩ := eq_encLane_iff.mp (Eq.refl (encLane lop f))
  rw [decodeLane_ok_iff, hl, hf]
  exact ⟨hlop, hi⟩

/-! ### Every instruction -/

/-- A well-formed instruction is read from its words, if it has any: the events have none. -/
theorem readFrom_of_encode (i : Instr) (hwf : i.wf = true) : (encode i).elim True (ReadFrom i) := by
  cases i with
  | nop | exit | join | yield | brk | ret | rett =>
    intro x
    refine decodeScalar_encR fun w hop hd ha hb hfn => (decodeScalar_of_sys hop).trans ?_
    rw [decodeSys, hfn]
    exact if_pos ⟨hd, ha, hb⟩
  | jmpr a | sleept a | pagereq a =>
    intro x
    refine decodeScalar_encR ?_
    rintro w hop hd rfl hb hfn
    rw [decodeScalar_of_sys hop, decodeSys, hfn]
    exact if_pos ⟨hd, hb⟩
  | time d =>
    intro x
    refine decodeScalar_encR ?_
    rintro w hop rfl ha hb hfn
    rw [decodeScalar_of_sys hop, decodeSys, hfn]
    exact if_pos ⟨ha, hb⟩
  | add d a b | sub d a b | mul d a b | mulhn d a b | mulhi d a b | divn d a b | divi d a b | remn d a b | remi d a b | and d a b
  | or d a b | xor d a b | andn d a b | shl d a b | shr d a b | sra d a b | minn d a b | mini d a b | maxn d a b | maxi d a b | seq d a b
  | sne d a b | sltn d a b | slti d a b =>
    intro x
    refine decodeScalar_encR ?_
    rintro w hop rfl rfl rfl hfn
    rw [decodeScalar_of_alu hop, decodeAlu, hfn]
    rfl
  | clz d a | popc d a =>
    intro x
    refine decodeScalar_encR ?_
    rintro w hop rfl rfl hb hfn
    rw [decodeScalar_of_alu hop, decodeAlu, hfn]
    exact if_pos hb
  | addi d a i | andi d a i | ori d a i | xori d a i | sltin d a i | sltii d a i | slw d a i | sld d a i | ssw d a i | ssd d a i =>
    intro x
    refine decodeScalar_encI ?_
    rintro w hop rfl rfl rfl
    rw [decodeScalar, hop]
    rfl
  | trap a i | smw a i =>
    intro x
    refine decodeScalar_encI ?_
    rintro w hop hd rfl rfl
    rw [decodeScalar, hop]
    exact if_pos hd
  | smr d i =>
    intro x
    refine decodeScalar_encI ?_
    rintro w hop rfl ha rfl
    rw [decodeScalar, hop]
    exact if_pos ha
  | shli d a n | shri d a n | srai d a n =>
    intro x
    refine decodeScalar_encI ?_
    rintro w hop rfl rfl hi
    obtain ⟨hz, rfl⟩ := fSIMM_eq_append_iff.mp hi
    rw [decodeScalar, hop]
    exact if_pos hz
  | jmp o | call o | run o =>
    intro x
    refine decodeScalar_encJ ?_
    rintro w hop rfl
    rw [decodeScalar, hop]
    rfl
  | brc a b c o =>
    intro x
    obtain ⟨hop, ha, hb, hc, ho⟩ := eq_brcWord_iff.mp (Eq.refl ((0x10 : BitVec 6) ++ a ++ b ++ c ++ o))
    rw [decodeScalar, hop, ha, hb, hc, ho]
    exact if_pos (of_decide_eq_true hwf)
  | waitf any m =>
    intro x
    obtain ⟨hop, hany, hz, hm⟩ := eq_waitfWord_iff.mp (Eq.refl ((0x15 : BitVec 6) ++ bit1 any ++ (0 : BitVec 13) ++ m))
    rw [decodeScalar, hop, hany, hm]
    exact if_pos hz
  | seg c =>
    intro x
    obtain ⟨hlow, hhigh⟩ := Bool.and_eq_true_iff.mp hwf
    obtain ⟨hop, hz, hc⟩ := eq_segWord_iff.mp (Eq.refl ((0x16 : BitVec 6) ++ (0 : BitVec 23) ++ c))
    rw [decodeScalar, hop, hc]
    exact if_pos ⟨hz, of_decide_eq_true hlow, of_decide_eq_true hhigh⟩
  | tbarArrive d n | tbarWait d n | tbarSync d n | tbarTest d n =>
    intro x
    refine decodeScalar_encR ?_
    rintro w hop rfl ha hb hfn
    obtain ⟨rfl, hk⟩ := fSFN_eq_append4_iff.mp hfn
    rw [decodeScalar_of_tbar hop, decodeTbar, hk]
    exact if_pos ⟨ha, hb⟩
  | tbarExpect d a b n =>
    intro x
    refine decodeScalar_encR ?_
    rintro w hop rfl rfl rfl hfn
    obtain ⟨rfl, hk⟩ := fSFN_eq_append4_iff.mp hfn
    rw [decodeScalar_of_tbar hop, decodeTbar, hk]
    rfl
  | tbarAddb d b n =>
    intro x
    refine decodeScalar_encR ?_
    rintro w hop rfl ha rfl hfn
    obtain ⟨rfl, hk⟩ := fSFN_eq_append4_iff.mp hfn
    rw [decodeScalar_of_tbar hop, decodeTbar, hk]
    exact if_pos ha
  | cbarArrive d | cbarWait d | cbarSync d =>
    intro x
    refine decodeScalar_encR ?_
    rintro w hop rfl ha hb hfn
    obtain ⟨hz, hk⟩ := fSFN_eq_append4_iff.mp (hfn.trans (BitVec.extractLsb'_append_extractLsb' (w := 4) (len := 4)).symm)
    rw [decodeScalar_of_cbar hop, decodeCbar, hk]
    exact if_pos ⟨ha, hb, hz⟩
  | fenceAcq s | fenceRel s | fenceAr s | fenceSc s =>
    intro x
    refine decodeScalar_encR fun w hop hd ha hb hfn => ?_
    obtain ⟨hz, hk, rfl⟩ := fSFN_eq_fence_iff.mp hfn
    rw [decodeScalar_of_fence hop, decodeFence, hk]
    exact if_pos ⟨hd, ha, hb, hz, of_decide_eq_true hwf⟩
  | talloc d a b l h =>
    intro x
    refine decodeScalar_encR ?_
    rintro w hop rfl rfl rfl hfn
    obtain ⟨rfl, rfl⟩ := fSFN_eq_append6_iff.mp hfn
    rw [decodeScalar, hop]
    rfl
  | tfree d l h | tinfo d l h =>
    intro x
    refine decodeScalar_encR ?_
    rintro w hop rfl ha hb hfn
    obtain ⟨rfl, rfl⟩ := fSFN_eq_append6_iff.mp hfn
    rw [decodeScalar, hop]
    exact if_pos ⟨ha, hb⟩
  | dprobe d a b t =>
    intro x
    refine decodeScalar_encR ?_
    rintro w hop rfl rfl rfl hfn
    obtain ⟨hz, rfl⟩ := fSFN_eq_append6_iff.mp hfn
    rw [decodeScalar, hop]
    exact if_pos hz
  | bmint d a s k =>
    intro x
    refine decodeScalar_encR ?_
    rintro w hop rfl rfl hb hfn
    obtain ⟨rfl, rfl⟩ := fSFN_eq_append6_iff.mp hfn
    rw [decodeScalar, hop]
    exact if_pos ⟨hb, hwf⟩
  | bput a b s =>
    intro x
    refine decodeScalar_encR ?_
    rintro w hop hd rfl rfl hfn
    obtain ⟨hz, rfl⟩ := fSFN_eq_append2_iff.mp hfn
    rw [decodeScalar, hop]
    exact if_pos ⟨hd, hz, hwf⟩
  | bwait d a =>
    intro x
    refine decodeScalar_encR ?_
    rintro w hop rfl rfl hb hfn
    rw [decodeScalar, hop]
    exact if_pos ⟨hb, hfn⟩
  | bdrop a =>
    intro x
    refine decodeScalar_encR ?_
    rintro w hop hd rfl hb hfn
    rw [decodeScalar, hop]
    exact if_pos ⟨hd, hb, hfn⟩
  | stage d a b =>
    intro x
    refine decodeScalar_encR ?_
    rintro w hop rfl rfl rfl hfn
    rw [decodeScalar, hop]
    exact if_pos hfn
  | liwSx d v | liwZx d v | liwHi d v =>
    refine decodeScalar_encR (x := v) ?_
    rintro w hop rfl ha hb hfn
    rw [decodeScalar, hop, hfn]
    exact if_pos ⟨ha, hb⟩
  | bspl m inv tgt jn =>
    obtain ⟨hop, hm, hinv, hz⟩ := eq_bsplWord_iff.mp (Eq.refl ((0x13 : BitVec 6) ++ m ++ bit1 inv ++ (0 : BitVec 22)))
    obtain ⟨htgt, hjn⟩ := eq_targets_iff.mp (Eq.refl (tgt ++ jn))
    change decodeScalar _ _ = _
    rw [decodeScalar, hop, hm, hinv, htgt, hjn]
    exact if_pos hz
  | drayM2t a b tile y | drayT2m a b tile y =>
    obtain ⟨hz, hy⟩ := eq_encDrayWord_iff.mp (Eq.refl (encDrayWord y))
    refine decodeScalar_encR (x := encDrayWord y) ?_
    rintro w hop hd rfl rfl hfn
    obtain ⟨hk, rfl⟩ := fSFN_eq_append6_iff.mp hfn
    rw [decodeScalar_of_dray hop, decodeDray, hk, hy]
    exact if_pos ⟨hd, hz, hwf⟩
  | drayT2t a tile y =>
    obtain ⟨hz, hy⟩ := eq_encDrayWord_iff.mp (Eq.refl (encDrayWord y))
    refine decodeScalar_encR (x := encDrayWord y) ?_
    rintro w hop hd rfl hb hfn
    obtain ⟨hk, rfl⟩ := fSFN_eq_append6_iff.mp hfn
    rw [decodeScalar_of_dray hop, decodeDray, hk, hy]
    exact (if_pos ⟨hd, hz, hwf⟩).trans (if_pos hb)
  | drayRed a b y =>
    obtain ⟨hlegal, hoff⟩ := Bool.and_eq_true_iff.mp hwf
    obtain ⟨hz, hy⟩ := eq_encDrayWord_iff.mp (Eq.refl (encDrayWord y))
    refine decodeScalar_encR (x := encDrayWord y) ?_
    rintro w hop hd rfl rfl hfn
    obtain ⟨hk, htile⟩ := fSFN_eq_append6_iff.mp hfn
    rw [decodeScalar_of_dray hop, decodeDray, hk, hy]
    exact (if_pos ⟨hd, hz, hlegal⟩).trans (if_pos ⟨htile, beq_iff_eq.mp hoff⟩)
  | iadd f | isub f | iadc f | isbc f | imul f | imulh f | imad f | idiv f | irem f | imin f | imax f | iabs f | isad f | blut f
  | laneShl f | laneShr f | laneSra f | fshl f | fshr f | bfx f | bfi f | lanePopc f | laneClz f | brev f | prmt f | iset f | sel f
  | mov f | fadd f | fsub f | fmul f | ffma f | fmin f | fmax f | fdiv f | fsqrt f | frcp f | frsq f | fex2 f | flg2 f | fsinp f
  | fcosp f | fset f | fclass f | frnd f | fscale f | fgete f | cvt f | pack f | unpk f | lxch f | lpoll f | lred f | lscan f
  | lpeer f | mop f | ccget f | ccput f | ld f | st f | atom f | atomn f | cas f | pref f | tld f | tst f | tatom f | mma f | mmac f
  | aclr f | acvt f | mclose f | ald f | fmma f =>
    exact decodeLane_encLane (by decide) rfl
  | cvtsEnc f => exact decodeLane_encLane (by decide) (if_neg ((Bool.not_eq_true _).mpr ((Bool.not_eq_true' _).mp hwf)))
  | cvtsDec f => exact decodeLane_encLane (by decide) (if_pos hwf)
  | mcopyV2m f | mcopyM2v f | mcopyS2m f | mcopyM2s f =>
    have hmod := beq_iff_eq.mp hwf
    refine decodeLane_encLane (by decide) ?_
    unfold laneOf
    rw [hmod]
    rfl
  | _ => trivial

/-- Settles O58: the fields of an instruction's words read what its encoding puts there, and so select its row. -/
theorem decodingTheEncodingGivesTheInstruction : Obligations.DecodingTheEncodingGivesTheInstruction := by
  intro i hwf
  have hread := readFrom_of_encode i hwf
  refine ⟨fun w h x => decode_ok_iff.mpr ?_, fun w x h => decode_ok_iff.mpr ?_, fun w h => ?_⟩
  · rw [h] at hread
    exact hread x
  · rw [h] at hread
    exact hread
  · rw [h] at hread
    exact hread

/-- Settles O60: the words of well-formed instructions decode to them, and the other words have no row or a field that is not zero. -/
theorem sampleWordsDecode : Obligations.SampleWordsDecode := by
  have hone : ∀ {i : Instr} {w : W32}, i.wf = true → encode i = some (.one w) → decode w 0 = .ok i :=
    fun {i w} hwf h => (decodingTheEncodingGivesTheInstruction i hwf).1 w h 0
  exact ⟨hone rfl rfl, hone rfl rfl, (decodingTheEncodingGivesTheInstruction _ rfl).2.1 _ _ rfl, hone rfl rfl, hone rfl rfl,
    (decodingTheEncodingGivesTheInstruction _ rfl).2.2 _ rfl, rfl, rfl, rfl⟩

end Sys2Proof.Proofs

/-!
PROOF. O22: the integer arithmetic of the lanes (R319, R370 to R372): what each instruction computes in a lane, in the words of its rule.
-/

namespace Sys2Proof.Proofs

open Sys2Proof.Machine Sys2Proof.Safety Sys2Proof.Laws

/-! ### Ranges and codes -/

theorem signedOver_eq_not_within (w : Nat) (x : Int) :
    signedOver w x = !decide (-(2 ^ (w - 1) : Nat) ≤ x ∧ x < (2 ^ (w - 1) : Nat)) := by
  rw [signedOver, ← Bool.decide_or, ← decide_not]
  congr 1
  rw [not_and_or, not_le, not_lt]

theorem outsideTy_eq_not_within (ty : BitVec 4) (x : Int) : outsideTy ty x = !decide (tyLo ty ≤ x ∧ x ≤ tyHi ty) := by
  rw [outsideTy, ← Bool.decide_or, ← decide_not]
  congr 1
  rw [not_and_or, not_le, not_le]

section Codes

variable (f : LaneWord)

/-- R371: the carry and the signed overflow of a sum. -/
theorem addOut_eq (a b cin : Nat) : addOut f a b cin =
    intOut f (readTy f.ty a + readTy f.ty b + cin) (decide (2 ^ tyWidth f.ty ≤ a + b + cin))
    (!decide (-(2 ^ (tyWidth f.ty - 1) : Nat) ≤ signedOf (tyWidth f.ty) a + signedOf (tyWidth f.ty) b + cin ∧
      signedOf (tyWidth f.ty) a + signedOf (tyWidth f.ty) b + cin < (2 ^ (tyWidth f.ty - 1) : Nat))) := by
  rw [← signedOver_eq_not_within]
  rfl

/-- R371: no borrow, and the signed overflow of a difference. -/
theorem subOut_eq (a b bin : Nat) : subOut f a b bin = intOut f (readTy f.ty a - readTy f.ty b - bin) (decide (b + bin ≤ a))
    (!decide (-(2 ^ (tyWidth f.ty - 1) : Nat) ≤ signedOf (tyWidth f.ty) a - signedOf (tyWidth f.ty) b - bin ∧
      signedOf (tyWidth f.ty) a - signedOf (tyWidth f.ty) b - bin < (2 ^ (tyWidth f.ty - 1) : Nat))) := by
  rw [← signedOver_eq_not_within]
  rfl

/-- R371: a product or a sum of magnitudes that the type does not hold. -/
theorem rangeOut_eq (x : Int) : rangeOut f x = intOut f x false (!decide (tyLo f.ty ≤ x ∧ x ≤ tyHi f.ty)) := by
  rw [← outsideTy_eq_not_within]
  rfl

end Codes

/-- An instruction that computes one vector result in each lane gives it, in the words in which a statement has it. -/
theorem laneGives_of_laneOp {s : State} {e : Env} {f : LaneWord} {i : Instr} {srcs : List (Src × Nat)} {res : Env → Nat → LaneOut}
    {out : Nat → LaneOut} (h : LaneFree s e f srcs (tyHeld f.ty)) (hx : exec i s = laneOp s f srcs (tyHeld f.ty) res)
    (hres : ∀ l, res e l = out l) : LaneGives s e f (tyHeld f.ty) i out := by
  obtain rfl : res e = out := funext hres
  exact laneGives_of_laneWrite h (tyHeld_registers _) (hx.trans (withEnv_of_laneAt h.toLaneAt _))

/-- Settles O22: each instruction computes an exact result and its codes; those of R371 are the model's tests of ranges. -/
theorem laneIntegerArithmetic : Obligations.LaneIntegerArithmetic := by
  intro s e f w a b c ua ub sa sb cy fits fitsN bits out
  refine ⟨fun h => ⟨?_, ?_, ?_, ?_, ?_, ?_, ?_, ?_, ?_, ?_⟩, fun h => ?_, fun h => ⟨?_, ?_⟩⟩
  · refine laneGives_of_laneOp h rfl fun l => (addOut_eq ..).trans ?_
    simp only [Nat.cast_zero, add_zero]
    rfl
  · refine laneGives_of_laneOp h rfl fun l => (subOut_eq ..).trans ?_
    simp only [Nat.cast_zero, add_zero, sub_zero]
    rfl
  · exact laneGives_of_laneOp h rfl fun l => addOut_eq ..
  · exact laneGives_of_laneOp h rfl fun l => subOut_eq ..
  · exact laneGives_of_laneOp h rfl fun l => rangeOut_eq ..
  · exact laneGives_of_laneOp h rfl fun l => rfl
  · exact laneGives_of_laneOp h rfl fun l => rfl
  · exact laneGives_of_laneOp h rfl fun l => rfl
  · exact laneGives_of_laneOp h rfl fun l => rfl
  · exact laneGives_of_laneOp h rfl fun l => rfl
  · refine laneGives_of_laneOp h rfl fun l => (rangeOut_eq ..).trans ?_
    rw [Int.natCast_natAbs]
    rfl
  · exact laneGives_of_laneOp h rfl fun l => rangeOut_eq ..
  · refine laneGives_of_laneOp h rfl fun l => (rangeOut_eq ..).trans ?_
    rw [Int.natCast_natAbs]
    rfl

end Sys2Proof.Proofs

/-!
PROOF. The values of the scalar stream (R339 to R344) and where its branches and jumps go on (R310, R347 to R349): an ALU instruction, an
immediate or LIW is `scalarOp` with its row of the table, and CLZ and POPC count bits as the library does.
-/

namespace Sys2Proof.Proofs

open Sys2Proof.Machine Sys2Proof.Safety Sys2Proof.Laws

/-! ### CLZ and POPC -/

/-- The bit that `clz` looks at. -/
theorem div_two_pow_mod_two_eq_one_iff {w : Nat} (x : BitVec w) (n : Nat) : x.toNat / 2 ^ n % 2 = 1 ↔ x.getLsbD n = true := by
  rw [← BitVec.testBit_toNat, Nat.testBit_eq_decide_div_mod_eq, decide_eq_true_iff]

/-- The library's scan from bit n down is the model's `clz` of the low n + 1 bits, with the bits above n counted as well. -/
theorem clzAuxRec_eq_clz {w : Nat} (x : BitVec w) {n : Nat} (hn : n < w) :
    x.clzAuxRec n = BitVec.ofNat w (w - 1 - n + clz (n + 1) x.toNat) := by
  induction n with
  | zero =>
    simp only [BitVec.clzAuxRec_zero, clz, div_two_pow_mod_two_eq_one_iff]
    split
    · rfl
    · rw [Nat.sub_zero, Nat.add_zero, Nat.sub_add_cancel hn]
  | succ n ih =>
    rw [BitVec.clzAuxRec_succ, clz]
    simp only [div_two_pow_mod_two_eq_one_iff]
    split
    · rfl
    · rw [ih (by omega)]
      congr 1
      omega

theorem clzVal_eq (x : W64) : clzVal x = x.clz := by
  rw [clzVal, BitVec.clz, clzAuxRec_eq_clz x (by omega), Nat.sub_self, Nat.zero_add]

theorem popc_eq_countP (n v : Nat) : popc n v = (List.range n).countP (v.testBit ·) := by
  induction n generalizing v with
  | zero => rfl
  | succ n ih =>
    have hlow : v % 2 = if v.testBit 0 = true then 1 else 0 := by
      rw [Nat.testBit_zero]
      obtain h | h := Nat.mod_two_eq_zero_or_one v <;> simp [h]
    have hshift : (v.testBit ·) ∘ Nat.succ = ((v / 2).testBit ·) := funext fun i => Nat.testBit_succ v i
    rw [popc, ih, List.range_succ_eq_map, List.countP_cons, List.countP_map, hshift, ← hlow, Nat.add_comm]

theorem popcVal_eq (x : W64) : popcVal x = BitVec.ofNat 64 ((List.range 64).countP (x.getLsbD ·)) := by
  rw [popcVal, popc_eq_countP]
  rfl

/-! ### The ALU, immediates and LIW -/

/-- An instruction that is `scalarOp` writes its value to SD and goes on. -/
theorem exec_of_scalarOp {s : State} {r : SplitRef} {g : Group} {sp : Split} {rs : List SReg} {i : Instr} {n : W64} {d : SReg}
    {val : Group → W64} {v : W64} (h : Runs s r g sp rs) (hx : exec i s = scalarOp s rs n d val) (hv : val g = v) :
    exec i s = .next (wrote s r g sp (sp.pc + n) d v) := by
  rw [hx, scalarOp_of_runs n d val h, hv]

/-- R342, R343: a 6-bit shift count is within 0 to 63 as it stands. -/
theorem shiftCount_mod (n : BitVec 6) : (n.zeroExtend 64).toNat % 64 = n.toNat := by
  rw [BitVec.zeroExtend, BitVec.toNat_setWidth]
  omega

/-- Settles O1: each ALU instruction is `scalarOp` with the value that its row of the table names; CLZ and POPC count bits. -/
theorem aluWritesTheTableValue : Obligations.AluWritesTheTableValue := by
  refine ⟨fun s r g sp d a h => ⟨exec_of_scalarOp h rfl (clzVal_eq _), exec_of_scalarOp h rfl (popcVal_eq _)⟩, ?table⟩
  case table =>
    intro s r g sp d a b h x y out
    and_intros <;> exact exec_of_scalarOp h rfl rfl

/-- Settles O2: each immediate instruction and each form of LIW is `scalarOp`; the shifts reduce a count that is below 64 already. -/
theorem immediatesAndLiwWriteSd : Obligations.ImmediatesAndLiwWriteSd := by
  refine ⟨fun s r g sp d a i n h => ⟨?addi, ?andi, ?ori, ?xori, ?shli, ?shri, ?srai, ?sltin, ?sltii⟩, fun s r g sp d imm h => ?liw⟩
  case shli => exact exec_of_scalarOp h rfl (congrArg (g.sreg a <<< ·) (shiftCount_mod n))
  case shri => exact exec_of_scalarOp h rfl (congrArg (g.sreg a >>> ·) (shiftCount_mod n))
  case srai => exact exec_of_scalarOp h rfl (congrArg (g.sreg a).sshiftRight (shiftCount_mod n))
  case liw => exact ⟨exec_of_scalarOp h rfl rfl, exec_of_scalarOp h rfl rfl, exec_of_scalarOp h rfl rfl⟩
  case addi | andi | ori | xori | sltin | sltii => exact exec_of_scalarOp h rfl rfl

/-! ### Branches and jumps -/

section Jumps

variable {s : State} {r : SplitRef} {g : Group} {sp : Split}

/-- A write to SD and a jump leave SD written and the split at its target, and nothing else changed. -/
theorem goTo_setSreg_eq (d : SReg) (v pc : W64) (q : Split) (h : Issues s r g sp) :
    (s.modGroup r.g (fun g => g.setSreg d v)).goTo r q pc = wrote s r g q pc d v := by
  rw [goTo_eq _ _ (issues_modGroup h _ (by simp only [setSreg_eq])), moved, modGroup_eq _ h.group, setGroup_setGroup, setSreg_eq]
  rfl

/-- R311: a jump to a 4-byte aligned address goes there. -/
theorem goToAligned_of_aligned {pc : W64} (h : Issues s r g sp) (ha : pc.toNat % 4 = 0) : s.goToAligned r sp pc = moved s r g sp pc :=
  (if_pos ((lowBits_eq_zero_iff pc).mpr ha)).trans (goTo_eq pc sp h)

/-- R347: BRC goes to its target when its condition holds, and to the next word when it does not. -/
theorem exec_brc {a b : SReg} {c : BitVec 3} {p : Prop} [Decidable p] (o : BitVec 11) (h : Runs s r g sp [a, b])
    (hc : condHolds c (g.sreg a) (g.sreg b) = some (decide p)) :
    (p → exec (.brc a b c o) s = .next (moved s r g sp (sp.pc + wordOff o))) ∧
    (¬ p → exec (.brc a b c o) s = .next (moved s r g sp (sp.pc + 4))) := by
  have hrun : exec (.brc a b c o) s = .next (if p then s.goTo r sp (sp.pc + wordOff o) else s.goTo r sp (sp.pc + 4)) := by
    change execBrc a b c o s = _
    rw [execBrc, scalarRun_of_runs h, hc]
    by_cases hp : p <;> simp [hp]
  rw [hrun]
  exact ⟨fun hp => by rw [if_pos hp, goTo_eq _ _ h.toIssues], fun hp => by rw [if_neg hp, goTo_eq _ _ h.toIssues]⟩

end Jumps

/-- Settles O5: BRC by its condition, the others by where their meaning goes on. -/
theorem branchesAndJumpsGoOn : Obligations.BranchesAndJumpsGoOn := by
  intro s r g sp
  refine ⟨fun a b c o hc h => ?brc, fun o h => ⟨?jmp, ?call, ?nop⟩, fun h ha => ?ret, fun a h ha => ?jmpr⟩
  case brc =>
    intro x y holds
    obtain rfl | rfl | rfl | rfl | rfl | rfl : c = 0 ∨ c = 1 ∨ c = 2 ∨ c = 3 ∨ c = 4 ∨ c = 5 := by bv_omega
    · exact exec_brc (p := x = y) o h rfl
    · exact exec_brc (p := x ≠ y) o h (congrArg some (decide_not (p := x = y)).symm)
    · exact exec_brc (p := x.toNat < y.toNat) o h rfl
    · exact exec_brc (p := y.toNat ≤ x.toNat) o h rfl
    · exact exec_brc (p := x.toInt < y.toInt) o h rfl
    · exact exec_brc (p := y.toInt ≤ x.toInt) o h rfl
  case jmp =>
    change execJmp o s = _
    rw [execJmp, scalarRun_of_runs h, goTo_eq _ _ h.toIssues, wordOff]
  case call =>
    change execCall o s = _
    rw [execCall, scalarRun_of_runs h, goTo_setSreg_eq _ _ _ _ h.toIssues, wordOff, lk]
  case nop =>
    change execNop s = _
    rw [execNop, scalarRun_of_runs h, finish0_eq _ _ h.toIssues]
  case ret =>
    change execRet s = _
    rw [execRet, lk, scalarRun_of_runs h, goToAligned_of_aligned h.toIssues ha]
  case jmpr =>
    change execJmpr a s = _
    rw [execJmpr, scalarRun_of_runs h, goToAligned_of_aligned h.toIssues ha]

end Sys2Proof.Proofs

/-!
PROOF. O23 to O25: the bit operations and moves of the lanes (R373, R374, R376, R388), their floating-point arithmetic (R377 to R380, R384),
and comparisons, classes and conversions (R375, R382 to R387).
-/

namespace Sys2Proof.Proofs

open Sys2Proof.Machine Sys2Proof.Safety Sys2Proof.Laws

/-- An instruction that computes a result of 32 bits in each lane, whatever its type, gives it. -/
theorem laneGives_of_laneOp32 {s : State} {e : Env} {f : LaneWord} {i : Instr} {srcs : List (Src × Nat)} {res : Env → Nat → LaneOut}
    {out : Nat → LaneOut} (h : LaneFree s e f srcs 32) (hx : exec i s = laneOp s f srcs 32 res) (hres : ∀ l, res e l = out l) :
    LaneGives s e f 32 i out := by
  obtain rfl : res e = out := funext hres
  exact laneGives_of_laneWrite h rfl (hx.trans (withEnv_of_laneAt h.toLaneAt _))

/-! ### The last bit shifted out (R373) -/

theorem lastOut_zero (w a : Nat) (i : Int) (out : Bool) : lastOut w a 0 i out = false := if_pos rfl

/-- A left shift puts out bit w − n, and nothing when it is longer than the string. -/
theorem lastOut_left (w a n : Nat) : lastOut w a n ((w : Int) - n) false = (decide (0 < n ∧ n ≤ w) && a.testBit (w - n)) := by
  obtain rfl | hn := Nat.eq_zero_or_pos n
  · exact lastOut_zero ..
  rw [lastOut, if_neg hn.ne']
  by_cases hw : n ≤ w
  · rw [if_pos (by omega), Int.toNat_sub, decide_eq_true ⟨hn, hw⟩, Bool.true_and]
  · rw [if_neg (by omega), decide_eq_false (by omega), Bool.false_and]

/-- A right shift puts out bit n − 1, and when it is longer than the string what stands for the bits above it. -/
theorem lastOut_right (w a : Nat) {n : Nat} (hn : 0 < n) (out : Bool) :
    lastOut w a n ((n : Int) - 1) out = if n ≤ w then a.testBit (n - 1) else out := by
  rw [lastOut, if_neg hn.ne']
  exact if_congr (by omega) (congrArg a.testBit (Int.toNat_sub n 1)) rfl

/-- A logical shift has zeros above its string. -/
theorem lastOut_logical (w a n : Nat) : lastOut w a n ((n : Int) - 1) false = (decide (0 < n ∧ n ≤ w) && a.testBit (n - 1)) := by
  obtain rfl | hn := Nat.eq_zero_or_pos n
  · exact lastOut_zero ..
  rw [lastOut_right w a hn]
  by_cases hw : n ≤ w <;> simp [hw, hn]

/-- An arithmetic shift has the sign above its string. -/
theorem lastOut_arithmetic (w a n : Nat) : lastOut w a n ((n : Int) - 1) (a.testBit (w - 1)) =
    (decide (0 < n) && a.testBit (min (n - 1) (w - 1))) := by
  obtain rfl | hn := Nat.eq_zero_or_pos n
  · exact lastOut_zero ..
  rw [lastOut_right w a hn, decide_eq_true hn, Bool.true_and]
  split
  · rw [min_eq_left (by omega)]
  · rw [min_eq_right (by omega)]

/-- Settles O23: each instruction computes the bits of its row; a shift's carry is the last bit shifted out, and POPC counts as the library
does. -/
theorem laneBitOperationsAndMoves : Obligations.LaneBitOperationsAndMoves := by
  intro s e f w h a b c n out move
  have hcarry (d : Nat) {cy cy' : Bool} (hcy : cy = cy') : bitOut f d cy = out d cy' := congrArg (out d) hcy
  refine ⟨fun hf => ⟨?shl, ?shr, ?sra⟩, fun hf => ⟨?blut, ?fshl, ?fshr, ?prmt⟩, fun hf => ⟨?popc, ?clz, ?brev, ?mov⟩, fun hf => ?bfx,
    fun hf => ⟨?bfi, ?sel⟩, fun k hk => ⟨fun hf => ?pack, fun hf => ?unpk⟩⟩
  case shl => exact laneGives_of_laneOp hf rfl fun _ => hcarry _ (lastOut_left ..)
  case shr => exact laneGives_of_laneOp hf rfl fun _ => hcarry _ (lastOut_logical ..)
  case sra => exact laneGives_of_laneOp hf rfl fun _ => hcarry _ (lastOut_arithmetic ..)
  case popc => exact laneGives_of_laneOp hf rfl fun _ => congrArg (bitOut f) (popc_eq_countP ..)
  case sel => exact laneGives_of_laneOp hf rfl fun _ => congrArg move (apply_ite (e.opnd f · f.ty _) ..)
  case pack | unpk =>
    subst hk
    exact laneGives_of_laneOp32 hf rfl fun _ => rfl
  case blut | fshl | fshr | prmt | clz | brev | mov | bfx | bfi => exact laneGives_of_laneOp hf rfl fun _ => rfl

/-- Settles O24: each instruction computes in a lane the number of its row, and rounds it by `roundOut` or, for a function, by `funcOut`. -/
theorem laneFloatArithmetic : Obligations.LaneFloatArithmetic := by
  intro s e f h rm a b c
  refine ⟨fun hf => ⟨?fadd, ?fsub, ?fmul, ?fmin, ?fmax, ?fdiv⟩, fun hf => ?ffma,
    fun hf => ⟨?fsqrt, ?frcp, ?frsq, ?frnd, ?fex2, ?flg2, ?fsinp, ?fcosp⟩, fun hf => ?fscale⟩
  all_goals exact laneGives_of_laneOp hf rfl fun _ => rfl

/-! ### Comparisons and conversions -/

/-- R382: an unordered comparison holds for CNE and CUNO, and raises NV for the ordering predicates and for a signalling NaN. -/
theorem fsetOut_of_unordered {f : LaneWord} {a b : Machine.Num} (h : (a.isNan || b.isNan) = true) : fsetOut f a b =
    { d := setBits f (modLow f 3 == 1 || modLow f 3 == 6), cc := ccOf false false true true,
      fl := flagIf ((2 ≤ modLow f 3 && modLow f 3 ≤ 5) || a.isSig || b.isSig) fNV } :=
  if_pos h

/-- R382: the codes of an ordered comparison tell its order. -/
theorem fsetOut_of_ordered {f : LaneWord} {a b : Machine.Num} (h : (a.isNan || b.isNan) = false) : fsetOut f a b =
    { d := setBits f (if modLow f 3 = 6 then false else if modLow f 3 = 7 then true else predHolds (modLow f 3) (cmpNum a b)),
      cc := ccOf (cmpNum a b == .lt) (cmpNum a b == .eq) (cmpNum a b != .lt) false } := by
  simp only [fsetOut, h, Bool.false_eq_true, if_false]
  cases cmpNum a b <;> rfl

/-- R387: CVTS, whose scales hold no poisoned data, converts in each lane. -/
theorem laneGives_of_cvtsOp {s : State} {e : Env} {f : LaneWord} {i : Instr} (enc : Bool) (h : LaneFree s e f [(srcA f, 32)] 32)
    (hq : ∀ q ∈ cvtsRegs f e, s.store.poison.contains (.vreg e.r.g q.1 q.2) = false) (hx : exec i s = cvtsOp s f enc) :
    LaneGives s e f 32 i (fun l => cvtsOut f enc (e.cfg.slot f.fs) (e.bits f (srcA f) 32 l) (cvtsScale f e l)) := by
  have hnone : (cvtsRegs f e).find? (fun q => s.store.poison.contains (.vreg e.r.g q.1 q.2)) = none :=
    List.find?_eq_none.mpr fun q hmem => ne_true_of_eq_false (hq q hmem)
  rw [cvtsOp, withEnv_of_laneAt h.toLaneAt, hnone] at hx
  exact laneGives_of_laneWrite h rfl hx

/-- Settles O25: each instruction computes what its rule says, FSET by whether its sources are ordered. -/
theorem laneComparesAndConversions : Obligations.LaneComparesAndConversions := by
  intro s e f h ua ub a b set p holds
  refine ⟨fun hf => ⟨?iset, ?fset⟩, fun hf => ⟨?fclass, ?fgete⟩, fun hf => ?cvt, fun hf hq => ⟨?enc, ?dec⟩⟩
  case iset | fclass | fgete => exact laneGives_of_laneOp32 hf rfl fun _ => rfl
  case fset =>
    refine laneGives_of_laneOp32 hf rfl fun l => ?_
    cases hn : (a l).isNan || (b l).isNan with
    | true => exact fsetOut_of_unordered hn
    | false => exact fsetOut_of_ordered hn
  case cvt => exact laneGives_of_laneOp hf rfl fun _ => rfl
  case enc => exact laneGives_of_cvtsOp true hf hq rfl
  case dec => exact laneGives_of_cvtsOp false hf hq rfl

end Sys2Proof.Proofs

/-!
PROOF. O16 and O17: SMR and SMW (R449, R450).
-/

namespace Sys2Proof.Proofs

open Sys2Proof.Machine Sys2Proof.Safety Sys2Proof.Laws

/-! ### SMR -/

section Smr

variable {s : State} {r : SplitRef} {g : Group} {sp : Split} {tm : Team} {cn : Nat} {c : Ctx} {d : SReg}
variable (hin : InGrid s g tm cn c) (h : Runs s r g sp [d])
include hin h

/-- R450: SMR writes the value of a special register. -/
theorem exec_smr_of_special {n : BitVec 14} {v : W64} (hv : s.special g sp tm c n.toNat = some v)
    (hw : (waitsForClauses n && !sp.clausesIssued) = false) : exec (.smr d n) s = .next (wrote s r g sp (sp.pc + 4) d v) := by
  change execSmr d n s = _
  rw [execSmr, scalarRun_of_runs h]
  simp only [State.team?, hin.team, ctxOf?_of_inGrid h.group hin, hv, hw, Bool.false_eq_true, if_false, finish_eq _ _ _ _ h.toIssues]

/-- R449: FXF and POISON are read once the split's earlier clauses have issued. -/
theorem exec_smr_of_unissued {n : BitVec 14} {v : W64} (hv : s.special g sp tm c n.toNat = some v)
    (hw : (waitsForClauses n && !sp.clausesIssued) = true) : exec (.smr d n) s = .next s := by
  change execSmr d n s = _
  rw [execSmr, scalarRun_of_runs h]
  simp only [State.team?, hin.team, ctxOf?_of_inGrid h.group hin, hv, hw, if_true]

/-- R450: a number that the map does not list is illegal. -/
theorem exec_smr_of_unlisted {n : BitVec 14} (hv : s.special g sp tm c n.toNat = none) :
    exec (.smr d n) s = .next (s.illegal r sp 0x1B) := by
  change execSmr d n s = _
  rw [execSmr, scalarRun_of_runs h]
  simp only [State.team?, hin.team, ctxOf?_of_inGrid h.group hin, hv]

end Smr

/-- R450: the map lists no other number. -/
theorem special_eq_none (s : State) (g : Group) (sp : Split) (tm : Team) (c : Ctx) {n : Nat} (h : n ∉ [0x001, 0x002, 0x003, 0x004, 0x010,
    0x011, 0x012, 0x020, 0x021, 0x022, 0x040, 0x041, 0x042, 0x043, 0x044, 0x100, 0x101, 0x102, 0x103]) :
    s.special g sp tm c n = none := by
  unfold State.special
  split
  case h_20 => rfl
  all_goals exact absurd (by decide) h

/-- Settles O16: the value of each number of the map, the wait of R449, and the other numbers. -/
theorem smrReadsEverySpecialRegister : Obligations.SmrReadsEverySpecialRegister := by
  intro s r g sp tm cn c d hin h reads
  have reads_of_special {n : BitVec 14} {v : W64} (hv : s.special g sp tm c n.toNat = some v) (hw : waitsForClauses n = false) : reads n v :=
    exec_smr_of_special hin h hv (by rw [hw, Bool.false_and])
  refine ⟨?_, ?_, ?_, ?_, fun hi => ?issued, fun hi => ?unissued, ?_, fun hrope => ?rope, fun hrope => ?noRope, ?_, ?_, ?_, ?_, ?_, ?_, ?_, ?_, ?_,
    fun n hn => exec_smr_of_unlisted hin h (special_eq_none s g sp tm c hn)⟩
  case issued =>
    have hw (x : Bool) : (x && !sp.clausesIssued) = false := by rw [hi, Bool.not_true, Bool.and_false]
    exact ⟨exec_smr_of_special hin h rfl (hw _), exec_smr_of_special hin h rfl (hw _)⟩
  case unissued =>
    have hw : (true && !sp.clausesIssued) = true := by rw [hi, Bool.not_false, Bool.and_true]
    exact ⟨exec_smr_of_unissued hin h rfl hw, exec_smr_of_unissued hin h rfl hw⟩
  case rope =>
    exact ⟨reads_of_special (congrArg some (if_pos hrope)) rfl, reads_of_special (congrArg some (if_pos hrope)) rfl,
      reads_of_special (congrArg some (if_pos hrope)) rfl⟩
  case noRope =>
    have hno := ne_true_of_eq_false hrope
    exact ⟨reads_of_special (congrArg some (if_neg hno)) rfl, reads_of_special (congrArg some (if_neg hno)) rfl,
      reads_of_special (congrArg some (if_neg hno)) rfl⟩
  all_goals exact reads_of_special rfl rfl

/-! ### SMW -/

section Smw

variable {s : State} {r : SplitRef} {g : Group} {sp : Split} {a : SReg} (h : Runs s r g sp [a])
include h

/-- R450: SMW goes on with what it writes to its group, but for the splits, and to its split. -/
theorem exec_smw_of_smwVal {n : BitVec 14} {g' : Group} {sp' : Split} (hv : smwVal g sp n.toNat (g.sreg a) = some (g', sp'))
    (hg : g'.splits = g.splits) (hw : (waitsForClauses n && !sp.clausesIssued) = false) :
    exec (.smw a n) s = .next (moved s r g' sp' (sp'.pc + 4)) := by
  change execSmw a n s = _
  rw [execSmw, scalarRun_of_runs h]
  simp only [hv, hw, Bool.false_eq_true, if_false]
  rw [finish0_eq _ _ (issues_modGroup h.toIssues (fun _ => g') hg), moved, modGroup_eq _ h.group, setGroup_setGroup]
  rfl

/-- R450: what may not be written is illegal. -/
theorem exec_smw_of_unwritable {n : BitVec 14} (hv : smwVal g sp n.toNat (g.sreg a) = none) :
    exec (.smw a n) s = .next (s.illegal r sp 0x1C) := by
  change execSmw a n s = _
  rw [execSmw, scalarRun_of_runs h]
  simp only [hv]

end Smw

/-- R450: outside a handler the trap registers are not written. -/
theorem smwVal_of_trap_register {sp : Split} (hh : sp.handler = none) (g : Group) (v : W64) {n : Nat}
    (h : n ∈ [0x040, 0x041, 0x042, 0x043]) : smwVal g sp n v = none := by
  simp only [List.mem_cons, List.not_mem_nil, or_false] at h
  obtain rfl | rfl | rfl | rfl := h <;> simp only [smwVal, hh, Option.isSome_none, Bool.false_eq_true, if_false]

/-- R450: no other register is written. -/
theorem smwVal_of_unlisted (g : Group) (sp : Split) (v : W64) {n : Nat} (h : n ∉ [0x010, 0x011, 0x012, 0x040, 0x041, 0x042, 0x043]) :
    smwVal g sp n v = none := by
  unfold smwVal
  split
  case h_8 => rfl
  all_goals exact absurd (by decide) h

/-- Settles O17: what each number writes, the trap registers outside a handler, and the other numbers. -/
theorem smwWritesWhatTheMapAllows : Obligations.SmwWritesWhatTheMapAllows := by
  intro s r g sp a h v trap
  refine ⟨fun hi => ?issued, exec_smw_of_smwVal h rfl rfl rfl, fun hh => ⟨?_, ?_, ?_, ?_⟩,
    fun hh n hn => exec_smw_of_unwritable h (smwVal_of_trap_register hh g v hn),
    fun n hn => exec_smw_of_unwritable h (smwVal_of_unlisted g sp v hn)⟩
  case issued =>
    have hw (x : Bool) : (x && !sp.clausesIssued) = false := by rw [hi, Bool.not_true, Bool.and_false]
    exact ⟨exec_smw_of_smwVal h rfl rfl (hw _), exec_smw_of_smwVal h rfl rfl (hw _)⟩
  all_goals exact exec_smw_of_smwVal h (if_pos hh) rfl rfl

end Sys2Proof.Proofs

/-!
PROOF. O30: tile accesses (R405 to R407): one whose lanes all lie in its tile issues its operation, and one of which the first lane lies outside
takes PROTECTION.
-/

namespace Sys2Proof.Proofs

open Sys2Proof.Machine Sys2Proof.Safety Sys2Proof.Laws

/-! ### Elements of a tile -/

/-- R405: a coordinate word names an element exactly where its row and its column lie in the tile. -/
theorem isSome_elem? (x : Tile) (word : Nat) : (x.elem? word).isSome = true ↔ word / 65536 < x.rows ∧ word % 65536 < x.cols := by
  simp [Tile.elem?]

/-- Data that holds no poison spoils no lane. -/
theorem spoiledLane_of_unpoisoned {s : State} (h : s.store.poison = []) (n : Nat) (regs lanes : List Nat) :
    s.spoiledLane n regs lanes = none := by
  simp [State.spoiledLane, h]

theorem tilePoison_of_unpoisoned {s : State} (h : s.store.poison = []) (n k : Nat) (x : Tile) (off : Nat) : s.tilePoison n k x off = false := by
  simp [State.tilePoison, Store.marked, h]

/-! ### The instructions -/

/-- Of what a lane instruction reads, the use of memory changes what its context has touched (R143). -/
def AsTouched (s u : State) (e : Env) : Prop :=
  (∃ k, LaneAt u { e with ctx := { e.ctx with touched := k } }) ∧ u.ops.nextId = s.ops.nextId

theorem asTouched_refl {s : State} {e : Env} (h : LaneAt s e) : AsTouched s s e := ⟨⟨e.ctx.touched, h⟩, rfl⟩

theorem asTouched_touch {s : State} {e : Env} (h : LaneAt s e) (cn bit : Nat) : AsTouched s (s.touch cn bit) e := by
  have hctx := ctx_touch s cn bit e.tm.ctx
  rw [h.ctx] at hctx
  by_cases hcn : e.tm.ctx = cn
  · rw [if_pos hcn] at hctx
    exact ⟨⟨e.ctx.touched ||| BitVec.ofNat 12 (2 ^ bit), h.cur, h.group, h.split, h.clause, h.team, hctx⟩, rfl⟩
  · rw [if_neg hcn] at hctx
    exact ⟨⟨e.ctx.touched, h.cur, h.group, h.split, h.clause, h.team, hctx⟩, rfl⟩

theorem AsTouched.withStore {s u : State} {e : Env} (h : AsTouched s u e) (store : Store) : AsTouched s { u with store } e := by
  obtain ⟨⟨k, hk⟩, hid⟩ := h
  exact ⟨⟨k, hk.cur, hk.group, hk.split, hk.clause, hk.team, hk.ctx⟩, hid⟩

/-- The operation of an access that issues is in flight. -/
theorem AsTouched.asks {s u : State} {e : Env} {a : AccEnv} {f : LaneWord} {q : MemAsk} {m : Met} {ws : List Want} {i : Instr}
    (h : AsTouched s u e) (ha : s.accEnv e.r.g e.r.sp = some a) (hexec : exec i s = .next (u.laneIssue e f q a m ws)) :
    Asks s e f i q.kind q.n q.dst := by
  obtain ⟨⟨k, hk⟩, hid⟩ := h
  exact laneIssue_asks (e := { e with ctx := { e.ctx with touched := k } }) hk hid (accEnv_eq ha) hexec

section Tile

variable {s : State} {e : Env} {a : AccEnv} {f : LaneWord} {x : Tile} (q : MemAsk) (data : Nat → List Byte)
variable (ha : s.accEnv e.r.g e.r.sp = some a) (hx : e.tm.tiles[f.sa.toNat]? = some (some x))
include ha hx

/-- R405: the lowest lane traps that names no element. -/
theorem laneTile_of_outside {l : Nat} {rest : List Nat} (hlanes : e.lanes (e.mask f) = l :: rest)
    (hout : ¬ (e.bits f (srcB f) 32 l / 65536 < x.rows ∧ e.bits f (srcB f) 32 l % 65536 < x.cols)) :
    s.laneTile e f q data = s.laneTrap e.r e.sp e.c 5 5 0 (q.info l e.c.lop) := by
  have hnone (atom : Bool) : (if tileTyOk atom f.ty x.esize = true then x.elem? (e.bits f (srcB f) 32 l) else none).isNone = true := by
    split
    · simpa using mt (isSome_elem? x (e.bits f (srcB f) 32 l)).mp hout
    · rfl
  simp only [State.laneTile, hlanes, reduceCtorEq, if_false, ha, hx, Option.join_some, Option.bind_some, List.find?_cons_of_pos,
    hnone]

/-- R405, R412: an access whose lanes all name elements has its operation in flight, where no data is poisoned, no register busy and the tile
no operand of a batch. -/
theorem laneTile_asks {i : Instr} (hexec : exec i s = .next (s.laneTile e f q data)) (h : LaneAt s e) (hl : e.lanes (e.mask f) ≠ [])
    (hd : a.ctx.lr.dual = false) (hp : s.store.poison = []) (hr : s.regsBusy e.r.g q.regs = false)
    (ht : s.tileLocked e.g.team f.sa.toNat = false) (hty : tileTyOk (q.kind == .atomic || q.kind == .atomicN) f.ty x.esize = true)
    (hin : ∀ l ∈ e.lanes (e.mask f), e.bits f (srcB f) 32 l / 65536 < x.rows ∧ e.bits f (srcB f) 32 l % 65536 < x.cols) :
    Asks s e f i q.kind x.esize q.dst := by
  have hfind : (e.lanes (e.mask f)).find? (fun l => (x.elem? (e.bits f (srcB f) 32 l)).isNone) = none :=
    List.find?_eq_none.mpr fun l hmem => by
      simpa using Option.isSome_iff_ne_none.mp ((isSome_elem? ..).mpr (hin l hmem))
  have hmarked (p : PoisonLoc) : s.store.marked p = false := by simp [Store.marked, hp]
  simp only [State.laneTile, hl, if_false, ha, hx, Option.join_some, Option.bind_some, hty, if_true, hfind, hmarked, Bool.false_or,
    tilePoison_of_unpoisoned hp, spoiledLane_of_unpoisoned hp, hd, Bool.false_and, hr, ht, Bool.and_false, Option.isSome_none, Bool.or_false,
    Bool.false_eq_true] at hexec
  have hused : AsTouched s (if x.level = 2 then s.touch a.cn (8 + baseBelow e.tm.die) else s) e :=
    ite_keeps (P := (AsTouched s · e)) (asTouched_touch h ..) (asTouched_refl h)
  split at hexec
  next hbad =>
    have hpoisoned := List.find?_some hbad
    split at hpoisoned <;> simp at hpoisoned
  next => exact AsTouched.asks (q := { q with n := x.esize }) (ite_keeps (P := (AsTouched s · e)) (hused.withStore _) hused) ha hexec

end Tile

/-- No register that an access of one value for each lane writes is busy when none of its destination is. -/
theorem regsBusy_of_dstRegs {s : State} {n : Nat} {f : LaneWord} {q : MemAsk} (hn : q.n = tyWidth f.ty / 8) (hdst : q.dst = f.dst.toNat)
    (hr : s.regsBusy n (dstRegs f (tyHeld f.ty)) = false) : s.regsBusy n q.regs = false := by
  have hcount : max 1 (tyWidth f.ty / 8 / 4) = tyHeld f.ty / 32 := by
    unfold tyHeld tyWidth
    split <;> decide
  have h255 : f.dst.toNat = 255 ↔ f.dst = 255 := BitVec.toNat_inj (y := 255)
  simpa only [MemAsk.regs, dstRegs, hn, hdst, hcount, h255] using hr

/-- Settles O30: each of them is `laneTile`, which issues or takes the trap of the first lane. -/
theorem tileInstructionsIssueOrTrap : Obligations.TileInstructionsIssueOrTrap := by
  intro s e a f x h hl ha hd hx hp hr ht inside
  have htld : exec (.tld f) s = _ := (withEnv_of_laneAt h _ : execTld f s = _)
  have htst : exec (.tst f) s = _ := (withEnv_of_laneAt h _ : execTst f s = _)
  have htatom : exec (.tatom f) s = _ := (withEnv_of_laneAt h _ : execTatom f s = _)
  refine ⟨fun hin => ⟨fun hty => ⟨?tld, ?tst⟩, fun hty hdst => ?atomic, fun hty hdst => ?atomicN⟩, fun l rest hlanes hout => ⟨?_, ?_⟩⟩
  case tld => exact laneTile_asks _ _ ha hx htld h hl hd hp (regsBusy_of_dstRegs rfl rfl hr) ht hty hin
  case tst => exact laneTile_asks _ _ ha hx htst h hl hd hp rfl ht hty hin
  case atomic =>
    rw [if_neg hdst] at htatom
    exact laneTile_asks _ _ ha hx htatom h hl hd hp (regsBusy_of_dstRegs rfl rfl hr) ht hty hin
  case atomicN =>
    rw [if_pos hdst] at htatom
    have hasks := laneTile_asks _ _ ha hx htatom h hl hd hp (regsBusy_of_dstRegs rfl rfl hr) ht hty hin
    rwa [hdst] at hasks
  · exact htld.trans (congrArg _ (laneTile_of_outside _ _ ha hx hlanes hout))
  · exact htst.trans (congrArg _ (laneTile_of_outside _ _ ha hx hlanes hout))

end Sys2Proof.Proofs

/-!
PROOF. O31: matrix instructions (R408, R409, R414, R424): the traps of a matrix instruction, the batch that it enters, and the batch that
MCLOSE closes.
-/

namespace Sys2Proof.Proofs

open Sys2Proof.Machine Sys2Proof.Safety Sys2Proof.Laws

/-! ### Batches (R409) -/

theorem FlagsOnly.batches {g g' : Group} (h : FlagsOnly g g') : g'.batches = g.batches := (congrArg Group.batches h :)
theorem FlagsOnly.acc {g g' : Group} (h : FlagsOnly g g') : g'.acc = g.acc := (congrArg Group.acc h :)

/-- An instruction that is added changes the queue of batches alone, of which the last one is open and ends with it. -/
theorem addBatch_eq (g : Group) (i : Instr) (pc : W64) : ∃ l b, g.addBatch i pc = { g with batches := l } ∧ l.getLast? = some b ∧
    b.closed = false ∧ b.code.getLast? = some i := by
  unfold Group.addBatch
  split
  · split
    · exact ⟨_, _, rfl, List.getLast?_concat .., rfl, rfl⟩
    · exact ⟨_, _, rfl, List.getLast?_concat .., rfl, List.getLast?_concat ..⟩
  · exact ⟨_, _, rfl, rfl, rfl, rfl⟩

/-- R409: an instruction that gives a type to an accumulator tile leaves what the tile holds. -/
theorem typed_eq (g : Group) (i : Instr) : ∃ acc, g.typed i = { g with acc } ∧
    ∀ k : Nat, (acc[k]?).join.map AccTile.data = (g.acc[k]?).join.map AccTile.data := by
  unfold Group.typed
  split
  next n t _ =>
    refine ⟨_, rfl, fun k => ?_⟩
    rw [getElem?_modAt]
    split
    · cases g.acc[k]? with
      | none => rfl
      | some a => cases a <;> rfl
    · rfl
  next => exact ⟨_, rfl, fun _ => rfl⟩

/-- An open batch that is closed with an instruction. -/
theorem closeBatch_of_open {g : Group} {b : Batch} (hb : g.batches.getLast? = some b) (ho : b.closed = false) (i : Instr) (flag : Option Nat) :
    g.closeBatch i flag = { g with batches := g.batches.dropLast ++ [⟨b.code ++ [i], true, flag, b.pcs⟩] } := by
  simp only [Group.closeBatch, hb, ho, Bool.false_eq_true, if_false]

/-- R424: where no batch is empty none commits at once. -/
theorem commitEmpty_of_nonempty {s : State} {n : Nat} {g : Group} (hg : s.exec.groups[n]? = some g)
    (h : ∀ q ∈ g.batches, q.isEmpty = false) : s.commitEmpty n = s := by
  obtain ⟨htake, hdrop⟩ : g.batches.takeWhile Batch.isEmpty = [] ∧ g.batches.dropWhile Batch.isEmpty = g.batches := by
    cases hl : g.batches with
    | nil => exact ⟨rfl, rfl⟩
    | cons q l =>
      have hq : q.isEmpty = false := h q (hl ▸ List.mem_cons_self)
      exact ⟨by simp [hq], by simp [hq]⟩
  rw [State.commitEmpty, modGroup_eq _ hg]
  simp only [htake, hdrop, List.foldl_nil]
  exact setGroup_self hg

/-! ### Issue -/

section Issue

variable {s : State} {e : Env} {f : LaneWord} {i : Instr}

/-- What each of them is, where EMUL can run, if it is needed (R456). -/
theorem exec_of_matrix (h : LaneAt s e) (hi : i ∈ [Instr.mma f, .mmac f, .fmma f, .aclr f, .ald f, .acvt f])
    (hx : s.feat Config.featX0 = true ∨ (s.mgmt.fw.getD 3 Firmware.reset).ok = true) : exec i s = .next (s.matIssue e f i) := by
  have hemul : s.emulDead = false := by
    obtain h0 | hok := hx
    · rw [State.emulDead, h0]; rfl
    · rw [State.emulDead, hok, Bool.not_true, Bool.and_false]
  simp only [List.mem_cons, List.not_mem_nil, or_false] at hi
  obtain rfl | rfl | rfl | rfl | rfl | rfl := hi
  case inr.inr.inl =>
    refine (withEnv_of_laneAt h _ : execFmma f s = _).trans ?_
    rw [hemul]
    rfl
  all_goals exact withEnv_of_laneAt h _

/-- R408, R409: an instruction that nothing stops enters the open batch. -/
theorem matIssue_enters (h : LaneAt s e) (hc : e.converged f = true) (hok : matOk e.g e.tm i = true) (hs : s.matSpoiled e.r.g e.g i = false)
    (hfull : e.g.batchFull = false) : ∃ g' b, (s.matIssue e f i).exec.groups[e.r.g]? = some g' ∧ ClausePast g' e ∧
      g'.batches.getLast? = some b ∧ b.closed = false ∧ b.code.getLast? = some i ∧
      ∀ k : Nat, (g'.acc[k]?).join.map AccTile.data = (e.g.acc[k]?).join.map AccTile.data := by
  obtain ⟨l, b, hadd, hlast, hopen, hcode⟩ := addBatch_eq e.g i e.c.at_
  obtain ⟨acc, htyped, hacc⟩ := typed_eq { e.g with batches := l } i
  unfold State.matIssue
  rw [if_neg (by simp [hc]), if_neg (by simp [hok]), if_neg (by simp [hs]), if_neg (by simp [hfull])]
  extract_lets u v
  have hu : u.exec.groups = s.exec.groups := by
    unfold u
    split <;> rfl
  have hv : v.exec.groups[e.r.g]? = some e.g := by
    have hgroups : v.exec.groups = u.exec.groups := ite_keeps (P := fun t : State => t.exec.groups = _) rfl rfl
    rw [hgroups, hu, h.group]
  have hg := modGroup_group hv (fun g => ((if g.batchFull then g.closeBatch noFlagClose none else g).addBatch i e.c.at_).typed i)
  simp only [hfull, Bool.false_eq_true, if_false, hadd, htyped] at hg
  obtain ⟨-, g', hg', hpast, hflags⟩ := laneDone_clausePast hg h.split h.clause
  refine ⟨g', b, hg', hpast, hflags.batches ▸ hlast, hopen, hcode, fun k => ?_⟩
  rw [hflags.acc]
  exact hacc k

end Issue

/-! ### MCLOSE (R424) -/

theorem getLsbD_ofNat_two_pow_of_ne {w m n : Nat} (h : m ≠ n) : (BitVec.ofNat w (2 ^ m)).getLsbD n = false := by
  rw [BitVec.getLsbD_ofNat, Nat.testBit_two_pow_of_ne h, Bool.and_false]

/-- A group whose flag n stands as in another group. -/
def SameFlag (n : Nat) (g g' : Group) : Prop := g'.flags.getLsbD n = g.flags.getLsbD n ∧ g'.pend.getLsbD n = g.pend.getLsbD n

theorem sameFlag_setFlag {n k : Nat} {g g' : Group} (hk : k ≠ n) (h : SameFlag n g g') : SameFlag n g (g'.setFlag k) :=
  ⟨by simpa only [Group.setFlag, BitVec.getLsbD_or, getLsbD_ofNat_two_pow_of_ne hk, Bool.or_false] using h.1, by
    rw [← h.2, Group.setFlag, BitVec.getLsbD_and, BitVec.getLsbD_not, getLsbD_ofNat_two_pow_of_ne hk, Bool.not_false, Bool.and_true]
    by_cases hn : n < 12
    · rw [decide_eq_true hn, Bool.and_true]
    · rw [BitVec.getLsbD_of_ge _ _ (by omega), Bool.false_and]⟩

/-- R162: clauses that are over set flags that they name, and no other. -/
theorem sameFlag_settleClauses {s : State} {m n : Nat} {g g₀ : Group} (hg : s.exec.groups[m]? = some g₀)
    (hn : ∀ q ∈ g₀.clauses, q.set0 ≠ some n ∧ q.set1 ≠ some n) (h : SameFlag n g g₀) :
    ∃ g', (s.settleClauses m).exec.groups[m]? = some g' ∧ SameFlag n g g' := by
  refine ⟨_, modGroup_group hg _, ?_⟩
  refine List.foldlRecOn _ _ (show SameFlag n g { g₀ with clauses := [] } from h) fun g₁ h₁ t ht => ?_
  obtain ⟨h0, h1⟩ := hn t ht
  extract_lets d0 d1 u v t'
  have hu : SameFlag n g u := by
    unfold u
    split
    next k hk => exact ite_keeps (P := SameFlag n g) (sameFlag_setFlag (fun e => h0 (e ▸ hk)) h₁) h₁
    next => exact h₁
  have hv : SameFlag n g v := by
    unfold v
    split
    next k hk => exact ite_keeps (P := SameFlag n g) (sameFlag_setFlag (fun e => h1 (e ▸ hk)) hu) hu
    next => exact hu
  exact ite_keeps (P := SameFlag n g) hv hv

/-- When a lane instruction has issued, flags that no clause of its group names stand as before. -/
theorem sameFlag_laneDone {s : State} {e : Env} {n : Nat} {g : Group} (hg : s.exec.groups[e.r.g]? = some g)
    (hsp : g.splits[e.r.sp]? = some e.sp) (hc : e.sp.clause = some e.c) (hn : ∀ q ∈ g.clauses, q.set0 ≠ some n ∧ q.set1 ≠ some n) :
    ∃ g', (s.laneDone e.r).exec.groups[e.r.g]? = some g' ∧ SameFlag n g g' := by
  have hsplit : g.split e.r.sp = e.sp := getD_of_getElem? hsp
  simp only [State.laneDone, State.group?, hg, hsplit, hc]
  split
  · split
    · exact sameFlag_settleClauses (modGroup_group hg _) hn ⟨rfl, rfl⟩
    · exact ⟨_, modGroup_group hg _, rfl, rfl⟩
  · refine sameFlag_settleClauses (modGroup_group hg _) (fun q hq => ?_) ⟨rfl, rfl⟩
    obtain ⟨q₀, hq₀, rfl⟩ := List.mem_map.mp hq
    exact ite_keeps (P := fun q : ClauseTrack => q.set0 ≠ some n ∧ q.set1 ≠ some n) (hn q₀ hq₀) (hn q₀ hq₀)

/-- A flag that a producer starts is clear and pending (R162). -/
theorem startFlag_same (g : Group) {n : Nat} (hn : n < 12) : (g.startFlag n).flags.getLsbD n = false ∧ (g.startFlag n).pend.getLsbD n = true := by
  have hbit : (BitVec.ofNat 12 (2 ^ n)).getLsbD n = true := by
    rw [BitVec.getLsbD_ofNat, Nat.testBit_two_pow_self, decide_eq_true hn, Bool.and_true]
  constructor
  · rw [Group.startFlag, BitVec.getLsbD_and, BitVec.getLsbD_not, hbit, Bool.not_true, Bool.and_false, Bool.and_false]
  · rw [Group.startFlag, BitVec.getLsbD_or, hbit, Bool.or_true]

section Mclose

variable {s : State} {e : Env} {f : LaneWord} (h : LaneAt s e) (hc : e.converged f = true) (hf : f.imm.getLsbD 4 = false)
variable {n : Nat} (hn : (f.imm.extractLsb' 0 4).toNat = n)
include h hc hf hn

/-- R424: MCLOSE waits while four batches are closed or its flag is pending. -/
theorem exec_mclose_of_busy (hw : 4 ≤ e.g.closedCount ∨ e.g.pend.getLsbD n = true) : exec (.mclose f) s = .next s := by
  refine (withEnv_of_laneAt h _ : execMclose f s = _).trans ?_
  simp only [hf, hc, hn, Bool.false_eq_true, if_false, Bool.not_true, hw, if_true]

/-- R424: else it closes the open batch, with its flag started. -/
theorem exec_mclose_of_open (h4 : e.g.closedCount < 4) (hp : e.g.pend.getLsbD n = false) {b : Batch} (hb : e.g.batches.getLast? = some b)
    (ho : b.closed = false) (hcode : b.code ≠ []) (hne : ∀ q ∈ e.g.batches, q.isEmpty = false) :
    exec (.mclose f) s = .next ((setGroup s e.r.g { e.g.startFlag n with
      batches := e.g.batches.dropLast ++ [⟨b.code ++ [.mclose f], true, some n, b.pcs⟩] }).laneDone e.r) := by
  have hwait : ¬ (4 ≤ e.g.closedCount ∨ e.g.pend.getLsbD n = true) := by simp [hp, h4]
  refine (withEnv_of_laneAt h _ : execMclose f s = _).trans ?_
  simp only [hf, hc, hn, Bool.false_eq_true, if_false, Bool.not_true, hwait, modGroup_eq _ h.group,
    closeBatch_of_open (g := e.g.startFlag n) hb ho]
  rw [commitEmpty_of_nonempty (setGroup_getElem? h.group _)]
  · rfl
  · intro q hq
    obtain hq | rfl : q ∈ e.g.batches.dropLast ∨ q = _ := by simpa [Group.startFlag] using hq
    · exact hne q (List.mem_of_mem_dropLast hq)
    · simpa [Batch.isEmpty, List.length_pos_iff] using hcode

end Mclose

/-- Settles O31: a matrix instruction takes the trap of R408 or R414 or enters the batch; MCLOSE waits or closes it. -/
theorem matrixInstructionsEnterTheBatch : Obligations.MatrixInstructionsEnterTheBatch := by
  refine ⟨fun s e f i h hi hx => ?matrix, fun s e f h hc hf => ?mclose⟩
  case matrix =>
    have hexec := exec_of_matrix h hi hx
    refine ⟨fun hc => ?_, fun hc hok => ?_, fun hc hok hs hfull => ?_⟩
    · exact hexec.trans (congrArg _ (if_pos (by rw [hc]; rfl)))
    · exact hexec.trans (congrArg _ ((if_neg (by simp [hc])).trans (if_pos (by rw [hok]; rfl))))
    · obtain ⟨g', b, hgroup, hpast, hb⟩ := matIssue_enters h hc hok hs hfull
      exact ⟨_, g', b, hexec, hgroup, hpast, hb⟩
  case mclose =>
    intro n
    refine ⟨exec_mclose_of_busy h hc hf rfl, fun h4 hp hn b hb ho hcode hne hset => ?_⟩
    have hg := setGroup_getElem? h.group { e.g.startFlag n with
      batches := e.g.batches.dropLast ++ [⟨b.code ++ [.mclose f], true, some n, b.pcs⟩] }
    obtain ⟨-, g', hg', hpast, hflags⟩ := laneDone_clausePast hg h.split h.clause
    obtain ⟨g₁, hg₁, hsame⟩ := sameFlag_laneDone hg h.split h.clause hset
    obtain rfl : g₁ = g' := Option.some.inj (hg₁.symm.trans hg')
    obtain ⟨hclear, hpend⟩ := startFlag_same e.g hn
    refine ⟨_, g₁, exec_mclose_of_open h hc hf rfl h4 hp hb ho hcode hne, hg', hpast, ?_, hsame.2.trans hpend, hsame.1.trans hclear⟩
    rw [hflags.batches]
    exact List.getLast?_concat ..

end Sys2Proof.Proofs

/-!
PROOF. O35 and O37: BMINT (R436, R247, R248), BPUT (R438) and STAGE (R441).
-/

namespace Sys2Proof.Proofs

open Sys2Proof.Machine Sys2Proof.Safety Sys2Proof.Laws

/-- R435: without its feature a berth or stage word is illegal. -/
theorem berthRun_of_no_feature {s : State} {r : SplitRef} {g : Group} {sp : Split} {rs : List SReg} {e : AccEnv} {feat : Nat}
    (h : Runs s r g sp rs) (ha : s.accEnv r.g r.sp = some e) (hf : s.feat feat = false) (code : Nat)
    (f : SplitRef → Group → Split → AccEnv → State) : berthRun s feat code rs f = .next (s.illegal r sp code) := by
  rw [berthRun, scalarRun_of_runs h]
  simp only [ha, hf, if_true]

/-! ### The bound registers (R436) -/

/-- A group whose n registers from k on hold a name and zeros. -/
def boundGroup (g : Group) (k : Nat) (name : W64) (n : Nat) : Group :=
  (List.range n).foldl (fun g i => g.setSreg (BitVec.ofNat 6 (k + i)) (if i = 0 then name else 0)) g

theorem boundGroup_succ (g : Group) (k : Nat) (name : W64) (n : Nat) :
    boundGroup g k name (n + 1) = (boundGroup g k name n).setSreg (BitVec.ofNat 6 (k + n)) (if n = 0 then name else 0) := by
  rw [boundGroup, List.range_succ, List.foldl_append]
  rfl

@[simp] theorem splits_setSreg (g : Group) (d : SReg) (v : W64) : (g.setSreg d v).splits = g.splits := by rw [setSreg_eq]

@[simp] theorem length_sregs_setSreg (g : Group) (d : SReg) (v : W64) : (g.setSreg d v).sregs.length = g.sregs.length := by
  rw [setSreg_eq, sregsWith]
  split
  · rfl
  · exact List.length_set

@[simp] theorem splits_boundGroup (g : Group) (k : Nat) (name : W64) (n : Nat) : (boundGroup g k name n).splits = g.splits := by
  induction n with
  | zero => rfl
  | succ n ih => rw [boundGroup_succ, splits_setSreg, ih]

@[simp] theorem length_sregs_boundGroup (g : Group) (k : Nat) (name : W64) (n : Nat) :
    (boundGroup g k name n).sregs.length = g.sregs.length := by
  induction n with
  | zero => rfl
  | succ n ih => rw [boundGroup_succ, length_sregs_setSreg, ih]

/-- R436: the first of them holds the name, the others zero, and every other register what it held. -/
theorem sreg_boundGroup {g : Group} (hlen : g.sregs.length = 64) {k : Nat} (name : W64) {n : Nat} (hk : k + n ≤ 63) (j : SReg) :
    (boundGroup g k name n).sreg j = if k ≤ j.toNat ∧ j.toNat < k + n then (if j.toNat = k then name else 0) else g.sreg j := by
  induction n with
  | zero => exact (if_neg (by omega)).symm
  | succ n ih =>
    have hj : (j = BitVec.ofNat 6 (k + n) ∧ j ≠ 63) ↔ j.toNat = k + n := by
      have h63 : (63 : SReg).toNat = 63 := rfl
      rw [ne_eq, ← BitVec.toNat_inj, ← BitVec.toNat_inj, BitVec.toNat_ofNat, Nat.mod_eq_of_lt (by omega : k + n < 2 ^ 6), h63]
      omega
    rw [boundGroup_succ, sreg_setSreg (by simpa using hlen), if_congr hj rfl rfl, ih (by omega)]
    by_cases hlast : j.toNat = k + n
    · rw [if_pos hlast]
      exact (if_congr (by omega) rfl rfl).trans (if_pos (by omega)).symm
    · rw [if_neg hlast]
      exact if_congr (by omega) rfl rfl

/-! ### BMINT -/

/-- What BMINT allows: a size code other than 3, no bound register beyond s62, and SD none of them (R436). -/
def BmintLegal (d k : SReg) (z : BitVec 2) : Prop :=
  z ≠ 3 ∧ k.toNat + 2 ^ z.toNat ≤ 63 ∧ (d.toNat < k.toNat ∨ k.toNat + 2 ^ z.toNat ≤ d.toNat)

theorem not_bmintLegal_iff (d k : SReg) (z : BitVec 2) : ¬ BmintLegal d k z ↔
    z = 3 ∨ 62 < k.toNat + sizeRegs z - 1 ∨ (k.toNat ≤ d.toNat ∧ d.toNat < k.toNat + sizeRegs z) := by
  have hpos : 0 < 2 ^ z.toNat := Nat.two_pow_pos _
  unfold BmintLegal sizeRegs
  by_cases hz : z = 3
  · simp [hz]
  · simp only [hz, ne_eq, not_false_eq_true, true_and, false_or]
    omega

/-- R247, R248: a mint in a free slot leaves there a LIVE berth of the group, and names it. -/
theorem bmint_of_free {s : State} {e : AccEnv} {life : W64} {i : Nat} (r : SplitRef) (k n : Nat)
    (hlife : ¬ (life.toNat < 1 ∨ 1000000 < life.toNat)) (hfree : s.freeSlot (baseBelow e.core.1) 4096 0 = some i) :
    ∃ u b, s.bmint r e k n life = (u, u.berthName b, 0) ∧ (u.cur = s.cur ∧ u.exec.groups = s.exec.groups) ∧ b ∈ u.berths.slots ∧
      b.bd = baseBelow e.core.1 ∧ b.slot = i ∧ b.state = .live ∧ b.g = some r.g ∧ b.k = k ∧ b.bytes = 8 * n ∧
      b.expiry = s.now + 1000 * life.toNat := by
  rw [State.bmint, if_neg hlife, hfree]
  exact ⟨_, _, rfl, ⟨rfl, rfl⟩, List.mem_cons_self, rfl, rfl, rfl, rfl, rfl, rfl, rfl⟩

section Bmint

variable {s : State} {r : SplitRef} {g : Group} {sp : Split} {d a k : SReg} {z : BitVec 2} {e : AccEnv}
variable (h : Runs s r g sp (d :: a :: regRange k.toNat (2 ^ z.toNat)))
include h

/-- R436: registers that it may not bind, or write, make it illegal. -/
theorem exec_bmint_of_illegal (ha : s.accEnv r.g r.sp = some e)
    (hi : s.feat Config.featBerth = false ∨ (e.ctx.lr.dual = false ∧ ¬ BmintLegal d k z)) :
    exec (.bmint d a z k) s = .next (s.illegal r sp 0x28) := by
  change execBmint d a z k s = _
  by_cases hf : s.feat Config.featBerth = false
  · exact berthRun_of_no_feature h ha hf ..
  · obtain ⟨hd, hl⟩ := hi.resolve_left hf
    refine (berthRun_of_clear h ⟨ha, by simpa using hf, hd⟩ ..).trans ?_
    rw [if_pos ((not_bmintLegal_iff d k z).mp hl)]

/-- R436: else it leaves what the mint gives, with the bound registers and SD written. -/
theorem exec_bmint_of_legal (hc : BerthClear s r e Config.featBerth) (hl : BmintLegal d k z) {u : State} {name : W64} {st : Nat}
    (hb : s.bmint r e k.toNat (2 ^ z.toNat) (g.sreg a) = (u, name, st)) (hu : Issues u r g sp) :
    exec (.bmint d a z k) s =
      .next (wrote u r (boundGroup g k.toNat name (2 ^ z.toNat)) sp (sp.pc + 4) d (BitVec.ofNat 64 st)) := by
  change execBmint d a z k s = _
  refine (berthRun_of_clear h hc ..).trans ?_
  rw [if_neg (fun hi => (not_bmintLegal_iff d k z).mpr hi hl)]
  simp only [sizeRegs, hb]
  have hissues := issues_modGroup hu (boundGroup · k.toNat name (2 ^ z.toNat)) (splits_boundGroup ..)
  refine congrArg Host.Outcome.next ((finish_eq 4 d _ sp hissues).trans ?_)
  rw [modGroup_eq _ hu.group, wrote, wrote, setGroup_setGroup]

end Bmint

/-- What a split reads of the registers that a mint has written (R436). -/
theorem wrote_boundGroup {s : State} {r : SplitRef} {g₀ g : Group} {sp : Split} (hg : s.exec.groups[r.g]? = some g₀)
    (hlen : g.sregs.length = 64) {d k : SReg} {z : BitVec 2} (hl : BmintLegal d k z) (name : W64) (pc st : W64) :
    ∃ g', (wrote s r (boundGroup g k.toNat name (2 ^ z.toNat)) sp pc d st).exec.groups[r.g]? = some g' ∧
      (d ≠ 63 → g'.sreg d = st) ∧ g'.sreg k = name ∧
      (∀ i, 0 < i → i < 2 ^ z.toNat → g'.sreg (BitVec.ofNat 6 (k.toNat + i)) = 0) ∧
      (∀ j : SReg, j ≠ d → (j.toNat < k.toNat ∨ k.toNat + 2 ^ z.toNat ≤ j.toNat) → g'.sreg j = g.sreg j) ∧
      g'.splits = g.splits.set r.sp (goesOn sp pc) := by
  obtain ⟨-, hk, hd⟩ := hl
  have hpos : 0 < 2 ^ z.toNat := Nat.two_pow_pos _
  have hwrote (j : SReg) : (wroteGroup r (boundGroup g k.toNat name (2 ^ z.toNat)) sp pc d st).sreg j =
      if j = d ∧ j ≠ 63 then st else (boundGroup g k.toNat name (2 ^ z.toNat)).sreg j := by
    rw [← sreg_setSreg (by simpa using hlen), setSreg_eq]
    rfl
  have hbound (j : SReg) (hj : j ≠ d) := (hwrote j).trans ((if_neg (not_and_of_not_left _ hj)).trans (sreg_boundGroup hlen name hk j))
  have hne {j : SReg} (hlo : k.toNat ≤ j.toNat) (hhi : j.toNat < k.toNat + 2 ^ z.toNat) : j ≠ d := by
    rintro rfl
    omega
  refine ⟨_, setGroup_getElem? hg _, fun h63 => ?_, ?_, fun i h0 hi => ?_, fun j hj hout => ?_, ?_⟩
  · exact (hwrote d).trans (if_pos ⟨rfl, h63⟩)
  · exact (hbound k (hne le_rfl (by omega))).trans ((if_pos (by omega)).trans (if_pos rfl))
  · have hi6 : (BitVec.ofNat 6 (k.toNat + i)).toNat = k.toNat + i := by
      rw [BitVec.toNat_ofNat, Nat.mod_eq_of_lt (by omega)]
    exact (hbound _ (hne (by omega) (by omega))).trans ((if_pos (by omega)).trans (if_neg (by omega)))
  · exact (hbound j hj).trans (if_neg (by omega))
  · rw [splits_boundGroup]

/-- Settles O35: the illegal words, the two refusals, and the mint. -/
theorem bmintMintsABerth : Obligations.BmintMintsABerth := by
  intro s r g sp d a k z e ha h hlen n life bd legal gives
  refine ⟨exec_bmint_of_illegal h ha, fun hc hl => ?_⟩
  have hgives {u : State} {name : W64} {st : Nat} (hb : s.bmint r e k.toNat n (g.sreg a) = (u, name, st)) (hu : Issues u r g sp) :
      gives (wrote u r (boundGroup g k.toNat name n) sp (sp.pc + 4) d (BitVec.ofNat 64 st)) (BitVec.ofNat 64 st) name :=
    ⟨exec_bmint_of_legal h hc hl hb hu, wrote_boundGroup hu.group hlen hl name ..⟩
  refine ⟨fun hlife => ?_, fun h1 hm hfree => ?_, fun i h1 hm hfree => ?_⟩
  · exact ⟨_, hgives (if_pos hlife) h.toIssues⟩
  · have hb : s.bmint r e k.toNat n (g.sreg a) = (s, 0, 1) := by
      rw [State.bmint, if_neg (by omega), hfree]
    exact ⟨_, hgives hb h.toIssues⟩
  · obtain ⟨u, b, hb, ⟨hcur, hgroups⟩, hmem⟩ := bmint_of_free r k.toNat n (by omega : ¬ (life < 1 ∨ 1000000 < life)) hfree
    exact ⟨_, b, hgives hb ⟨hcur ▸ h.cur, hgroups ▸ h.group, h.split⟩, hmem⟩

/-! ### BPUT and STAGE -/

/-- A split that issues does so still when its context has used a capability. -/
theorem issues_useFeat {s : State} {r : SplitRef} {g : Group} {sp : Split} (h : Issues s r g sp) (cn bit : Nat) :
    Issues (s.useFeat cn bit) r g sp := ⟨h.cur, h.group, h.split⟩

/-- R438: BPUT goes on, and delivers the bytes of its registers. -/
theorem exec_bput_of_legal {s : State} {r : SplitRef} {g : Group} {sp : Split} {a b : SReg} {z : BitVec 2} {e : AccEnv}
    (hs : e.switched = false) (h : Runs s r g sp (a :: regRange b.toNat (2 ^ z.toNat))) (hc : BerthClear s r e Config.featBerth) (hz : z ≠ 3)
    (hb : b.toNat + 2 ^ z.toNat ≤ 64) : exec (.bput a b z) s =
      .next ((moved s r g sp (sp.pc + 4)).bput e sp.pc (g.sreg a) (g.bputData b.toNat (2 ^ z.toNat))) := by
  change execBput a b z s = _
  refine (berthRun_of_clear h hc ..).trans ?_
  have hlegal : ¬ (z = 3 ∨ 64 < b.toNat + sizeRegs z) := not_or.mpr ⟨hz, hb.not_gt⟩
  simp only [hlegal, hs, if_false, Bool.false_and, Bool.false_eq_true, finish0_eq _ _ h.toIssues]
  rfl

section Stage

variable {s : State} {r : SplitRef} {g : Group} {sp : Split} {d a b : SReg} {e : AccEnv}
variable (h : Runs s r g sp [d, a, b]) (hc : BerthClear s r e Config.featStage)
include h hc

/-- R441: outside a rope launch STAGE is illegal. -/
theorem exec_stage_of_no_rope (hr : e.ctx.lr.rope = false) : exec (.stage d a b) s = .next (s.illegal r sp 0x2C) := by
  change execStage d a b s = _
  refine (berthRun_of_clear h hc ..).trans ?_
  rw [hr]
  rfl

variable (hs : e.switched = false) (hr : e.ctx.lr.rope = true)
include hs hr

/-- R441: a descriptor that is not aligned is a chain that ends at once with MISALIGN. -/
theorem exec_stage_of_misaligned (hb : (g.sreg b).toNat % 64 ≠ 0) : exec (.stage d a b) s =
    .next ((moved (s.useFeat e.cn Config.featStage) r g { sp with fails := [] } (sp.pc + 4)).stageBad e.ctx.pent e.ctx.ropeId (g.sreg d)
      (g.sreg b) 7) := by
  have hsplit : g.split r.sp = sp := getD_of_getElem? h.split
  change execStage d a b s = _
  refine (berthRun_of_clear h hc ..).trans ?_
  simp only [hr, hs, Bool.not_true, Bool.false_eq_true, if_false, hb, not_false_eq_true, if_true, ne_eq, State.group?, h.group, hsplit,
    finish0_eq _ _ (issues_useFeat h.toIssues ..)]

/-- R441: a descriptor that is read starts a chain with its bytes. -/
theorem exec_stage_of_read (hb : (g.sreg b).toNat % 64 = 0) {u : State} {x : List Byte} {used : List (BitVec 7 × Nat)}
    (hread : s.readRec e sp.fails (g.sreg b) 64 = .ok u x used) (hu : Issues (u.useLines used) r g sp) : exec (.stage d a b) s =
      .next ((moved ((u.useLines used).useFeat e.cn Config.featStage) r g { sp with fails := [] } (sp.pc + 4)).startChain e.ctx.pent
        e.ctx.ropeId (g.sreg a) (g.sreg d) (g.sreg b) x (some e.cn) r.g) := by
  have hsplit : g.split r.sp = sp := getD_of_getElem? h.split
  change execStage d a b s = _
  refine (berthRun_of_clear h hc ..).trans ?_
  simp only [hr, hs, Bool.not_true, Bool.false_eq_true, if_false, hb, not_true_eq_false, ne_eq, hread, State.group?, hu.group, hsplit,
    finish0_eq _ _ (issues_useFeat hu ..)]

end Stage

/-- Settles O37: BPUT's delivery, and the three outcomes of STAGE. -/
theorem bputAndStageSend : Obligations.BputAndStageSend := by
  intro s r g sp d a b z e hs
  exact ⟨fun hc hz hb h => exec_bput_of_legal hs h hc hz hb, fun hc h => ⟨exec_stage_of_no_rope h hc, exec_stage_of_misaligned h hc hs,
    fun u x used hr hb hread hu => exec_stage_of_read h hc hs hr hb hread hu⟩⟩

end Sys2Proof.Proofs
